-- ==== Sys2Proof/Word.lean ====
section
/-! DEFINITION. The word types of the machine. Registers and instruction words are bit vectors of a fixed width;
helper arithmetic on them stands in Sys2Proof/Machine/Bits.lean. -/

namespace Sys2Proof

/-- One byte of memory. -/
abbrev Byte := BitVec 8

/-- A brick register or token payload (R50). -/
abbrev W32 := BitVec 32

/-- A sequencer register, an instruction word or a control register (R26, R88). -/
abbrev W64 := BitVec 64

end Sys2Proof
end

