-- ==== Sys2Proof/Config.lean ====
section
/-! DEFINITION. What the KZ7 fixes (File 01), and the free values: constants with no body, of which no proof can see a
value (log 2, 4, 8). -/

namespace Sys2Proof.Config

/-- Ridges of the package (R11). -/
def ridges : Nat := 192

/-- Massifs of the package (R11). -/
def massifs : Nat := 4

/-- Rows of bricks of a massif (R324). -/
def massifRows : Nat := 96

/-- Columns of bricks of a massif (R324). -/
def massifCols : Nat := 128

/-- Threads of a sequencer (R87). -/
def threadsPerRidge : Nat := 16

/-- Context entries of a brick (R10). -/
def contextsPerBrick : Nat := 8

/-- Pending-launch pool entries (R19). -/
def launchPool : Nat := 4096

/-- Resident command queues (R19). -/
def residentQueues : Nat := 64

/-- Presence deferrals of a massif (R19). -/
def deferrals : Nat := 4096

/-- Deferral entries of one bank (R246). -/
def bankDeferrals : Nat := 8

/-- Pages one job may pin (R224). -/
def pinLimit : Nat := 4096

/-- Tokens of a route that the edge hold takes in one round (R400). -/
def edgeHold : Nat := 32

/-- Tokens an engine data port buffers in each direction (R285). -/
def dataPort : Nat := 64

/-- Held writes a context takes in one round (R397). -/
def heldWrites : Nat := 512

/-- Flits of one segment of a mortar route (R354). -/
def mortarSegment : Nat := 4

/-- Bits of one segment of a grout path (R354). -/
def groutSegment : Nat := 8

/-- Words a stream port buffers: room for the widest beat (the depth is not the spec's; R2). -/
def streamPort : Nat := 256

/-- Cycles of one microsecond of the fabric clock (R7: 2.25 GHz; R361). -/
def cyclesPerUs : Nat := 2250

/-- What the device puts into bits [30:0] of the `n`-th handle, before the rule of R319 that none is issued again. -/
opaque freeHandle : Nat → BitVec 31

/-- What the device takes as the handle of a new pin set, before it moves on past 0 and the live ones (R224). -/
opaque freePin : Nat → BitVec 64

/-- The policy of a farm entry that no builder wrote: the entry has no field for it (R308, R342), so it is a free value
of the address space and address of the entry (log 15). -/
opaque farmPolicy : Nat → Nat → BitVec 2

/-- Data lines an implementation stores in a stow record beyond its first 64 bytes (R411). -/
opaque stowByte : Nat → BitVec 8

/-- The 64-byte SHAKE256 digest of a list of bytes (R427). -/
opaque shake256 : List Byte → BitVec 512

/-- The Falcon-1024 verification of a signature over a digest against the vendor key (R427). -/
opaque falconVerify : BitVec 512 → List Byte → Bool

/-- The Falcon-1024 signature of an attestation report with the device's key, over its measurement, security version, fused
minimum, nonce, debug-unlock flag and count of resets (R429). -/
opaque falconSign : Option (BitVec 512) → BitVec 32 → BitVec 32 → BitVec 256 → Bool → Nat → List Byte

/-- The check of a signed JTAG unlock by Delxia (R395). -/
opaque unlockVerify : List Byte → Bool

/-- The col link that joins two massifs, as a link-failure record numbers it (R393, R401). -/
opaque colLink : Nat → Nat → BitVec 8

/-- The massif that a channel between two massifs that are not neighbours crosses is the one after the first of them (R16,
R393, log 138). -/
opaque viaNext : Nat → Nat → Bool

/-- System software has assigned page `n` of the notify aperture to a virtual function (R395, log 126). -/
opaque vfPage : BitVec 6 → Nat → Bool

/-- The saddle link to a package, as a link-failure record numbers it (R393, R401). -/
opaque saddleLink : BitVec 5 → BitVec 8

/-- The virtual channel that the device assigns to an edge port of an instance (R393). -/
opaque linkChannel : BitVec 32 → BitVec 8 → BitVec 8

end Sys2Proof.Config
end

