-- ==== Sys2Proof/Syntax.lean ====
section
/-! DEFINITION. The steps of the machine as data: guards (R35, R38), operands (R33), modifiers (R31, R45 and the
instruction tables), and `Instr`, with one constructor per row of the operation table. -/

namespace Sys2Proof

/-- The brick guard, the high word of a B-form instruction (R35). -/
structure BGuard where
  pm : BitVec 8
  pv : BitVec 8
  iae : Bool
  ia : BitVec 3
  ibe : Bool
  ib : BitVec 3
  oe : Bool
  oq : BitVec 3
  tg : BitVec 2
  te : Bool
  ck : Bool
  deriving DecidableEq, Repr

/-- The sequencer guard and extension, the high word of an S-form instruction (R38). -/
structure SGuard where
  ge : Bool
  gs : Bool
  gf : BitVec 3
  x : BitVec 27
  deriving DecidableEq, Repr

/-- The two forms of an instruction word (R26). -/
inductive Form where
  | brick
  | seq
  deriving DecidableEq, Repr

/-- The guard of an instruction that is legal in either form; it fixes the form. -/
inductive Guard where
  | b (g : BGuard)
  | s (g : SGuard)
  deriving DecidableEq, Repr

/-- The form a guard belongs to. -/
def Guard.form : Guard → Form
  | .b _ => .brick
  | .s _ => .seq

/-- What a 6-bit operand field names (R33), in either form. -/
inductive Opnd where
  | d (n : BitVec 4)
  | i (n : BitVec 3)
  | iDeq (n : BitVec 3)
  | q (n : BitVec 3)
  | o (n : BitVec 3)
  | sa | sb | sw | z | tg | bk | rw | cl | hdr | scl | rnd | cyc
  | g (n : BitVec 5)
  | f (n : BitVec 3)
  | e (n : BitVec 3)
  | pc | rid | dom
  deriving DecidableEq, Repr

/-- Scalar floating-point formats of F[5:4] (R31). -/
inductive FFmt where
  | f32 | bf16 | f16
  deriving DecidableEq, Repr

/-- Lane formats of the stream class: the three scalar formats and eight-bit integers (R31, R45). -/
inductive VFmt where
  | f32 | bf16 | f16 | i8
  deriving DecidableEq, Repr

/-- Rounding modes (R31); `dyn` takes the mode from the status register (R125). -/
inductive Rm where
  | rne | rtz | rdn | rup | rsn | dyn
  deriving DecidableEq, Repr

/-- Conditions of the floating-point compares (R45, R158, R170). -/
inductive FCond where
  | eq | lt | le | un
  deriving DecidableEq, Repr

/-- Conditions of the integer compares and of `bc` (R45, R98). -/
inductive Cond where
  | eq | ne | lt | ltu | le | leu
  deriving DecidableEq, Repr

/-- The formats of `cvt` (R174). -/
inductive CFmt where
  | f32 | bf16 | f16 | e4m3 | e5m2 | i32 | i16 | i8
  deriving DecidableEq, Repr

/-- Block-scaled formats (R174). -/
inductive KFmt where
  | k8 | k4 | k16
  deriving DecidableEq, Repr

/-- Operand-slot formats of `ofill` (R196). -/
inductive SFmt where
  | k8 | k4 | k16h | k16l
  deriving DecidableEq, Repr

/-- Emission modes of `isect` and `union` (R210). -/
inductive MMode where
  | cv | cvb | vv
  deriving DecidableEq, Repr

/-- Access sizes (R32). -/
inductive Size where
  | w | h | b
  deriving DecidableEq, Repr

/-- Memory orders an atomic accepts (R31, R259). -/
inductive AOrd where
  | rlx | acq | rel | ar | sc
  deriving DecidableEq, Repr

/-- Memory orders a `fence` or `fencex` accepts (R261, R276). -/
inductive FOrd where
  | acq | rel | ar | sc
  deriving DecidableEq, Repr

/-- Memory orders `fencee` accepts (R301). -/
inductive EOrd where
  | rel | ar | sc
  deriving DecidableEq, Repr

/-- Scopes (R31, R233). -/
inductive Scope where
  | brick | ridge | massif | package | system
  deriving DecidableEq, Repr

/-- Stream ports (R163). -/
inductive Port where
  | sa | sb | sw
  deriving DecidableEq, Repr

/-- Fields `hdrget` reads (R179). -/
inductive HdrField where
  | user | scale | len | fmt | last | high
  deriving DecidableEq, Repr

/-- Tile-table entries (R181): slots `m0` to `m3`, accumulators `x0` to `x2`. -/
inductive TileIdx where
  | m0 | m1 | m2 | m3 | x0 | x1 | x2
  deriving DecidableEq, Repr

/-- The queue `qstat` names (R70): any `i` or `o`, and `k` or `j` 0 to 3. -/
inductive QSel where
  | i (n : BitVec 3)
  | o (n : BitVec 3)
  | k (n : BitVec 2)
  | j (n : BitVec 2)
  deriving DecidableEq, Repr

/-- Distribution policies of `cfarm` (R342). -/
inductive FarmPol where
  | rr | tag | key
  deriving DecidableEq, Repr

/-- A spur or composite handle (R319). -/
abbrev Handle := BitVec 32

/-- A brick of a spur, by its row and column within the spur. -/
structure BrickAt where
  h : Handle
  row : BitVec 8
  col : BitVec 8
  deriving DecidableEq, Repr

/-- A context entry of a brick of a spur. -/
structure CtxAt where
  h : Handle
  row : BitVec 8
  col : BitVec 8
  ctx : BitVec 3
  deriving DecidableEq, Repr

/-- The brick of a context. -/
def CtxAt.brick (c : CtxAt) : BrickAt := ⟨c.h, c.row, c.col⟩

/-- The agents of the fabric that execute instructions (R233). -/
inductive AgentId where
  | ctx (c : CtxAt)
  | thread (h : Handle)
  deriving DecidableEq, Repr

/-- A flow of flits into a spur: those of one of its routes bound for one channel, those arriving at one of its
edge ports, or those of one grout path. -/
inductive FlowId where
  | route (tag : BitVec 6) (row col : BitVec 8) (vc : BitVec 5)
  | port (p : BitVec 8)
  | grout (c : CtxAt) (j : BitVec 2) (n : BitVec 2)
  deriving DecidableEq, Repr

/-- The holders of translation caches (R271): bedrock units, ISEs and lintel fetchers of a massif. -/
inductive CacheUnit where
  | bedrock (m : BitVec 2)
  | ise (m : BitVec 2) (n : BitVec 4)
  | lintel (m : BitVec 2)
  deriving DecidableEq, Repr

/-- Engine command ports (R285). -/
inductive EnginePort where
  | hod (m : BitVec 2) (n : BitVec 3)
  | ise (m : BitVec 2) (n : BitVec 4)
  | coll
  deriving DecidableEq, Repr

/-- Where the masons put one rectangle: on free bricks of a massif, or as a guest on a placed host, or as a guest on
rectangle `r` of the same claim (R328). -/
inductive Place where
  | free (massif : BitVec 2) (row col : Nat)
  | guest (host : Handle) (row col : Nat)
  | guestOf (r : Nat) (row col : Nat)
  deriving DecidableEq, Repr

/-- Who writes a device control register; the host does so through the physical function (0) or a virtual one (R395), and
`system` is a thread whose store was one of system mode (R407). -/
inductive Writer where
  | summit | keystone | management
  | host (fn : BitVec 6)
  | thread (h : Handle)
  | system (h : Handle)
  | fabric
  deriving DecidableEq, Repr

/-- What another package contributes to a collective (R296, R297): its job's shape and its elements; or that it is
unreachable. -/
structure CollPart where
  pkg : BitVec 5
  reachable : Bool
  kind : BitVec 4
  op : BitVec 4
  fmt : BitVec 4
  count : Nat
  data : List (BitVec 32)
  deriving DecidableEq, Repr

/-- What the span packets of the packages of a mask bring together (R393): the packages that refuse, and the packages and
local ports of the entries that name this one. -/
structure SpanAnswers where
  refused : BitVec 32
  named : List (BitVec 5 × BitVec 8)
  deriving DecidableEq, Repr

/-- Where an uncorrectable error is met (R409): a read of a round at a bank, vault, virtual or physical address, by a
firing of a slot, by a pattern or a fill of a context (no slot) or by a thread's word; the state of a spur (with a good or
bad copy), a held write, or a read of an engine job. -/
inductive ErrSite where
  | read (who : AgentId) (slot : Option (BitVec 4)) (space : BitVec 8) (addr : BitVec 64)
  | spurState (h : Handle) (copyGood : Bool)
  | heldWrite (h : Handle)
  | engineRead (j : Nat) (addr : BitVec 64)
  deriving DecidableEq, Repr

/-- A word that a scrub pass finds uncorrectable (R409): one of memory, or one of a brick's SRAM, with the number of the brick
in the package and the offset in its bank. -/
inductive BadWord where
  | mem (pa : Nat)
  | sram (brick off : Nat)
  deriving DecidableEq, Repr

/-- A remote party as a package here knows it (R394): the other end of a saddle channel, by its package and the port that the
channel names there, and the port of the spur or composite at which the channel ends here. -/
structure Remote where
  pkg : BitVec 5
  port : BitVec 8
  h : Handle
  p : BitVec 8
  deriving DecidableEq, Repr

/-- The steps of the machine, one constructor per row of the operation table: first the 243 instructions, each with
its guard (which fixes its form, R26) and the fields of its operation word; then the 79 events, each with the data
that its occurrence chooses (a channel, a claim, a place, a measured figure). -/
inductive Instr where
  | nop (g : Guard)
  | pset (g : Guard) (a b : Opnd)
  | pand (g : Guard) (d a b : Opnd)
  | por (g : Guard) (d a b : Opnd)
  | pxor (g : Guard) (d a b : Opnd)
  | pandn (g : Guard) (d a b : Opnd)
  | pnot (g : Guard) (d a : Opnd)
  | pmov (g : Guard) (d a : Opnd)
  | sel (g : BGuard) (n : BitVec 3) (d a b : Opnd)
  | steer (g : BGuard) (d a : Opnd)
  | merge (g : BGuard) (d a : Opnd)
  | mergeAny (g : BGuard) (d a : Opnd)
  | gate (g : BGuard) (d a : Opnd)
  | done (g : BGuard)
  | brk (g : Guard) (n : BitVec 6)
  | trap (g : Guard) (n : BitVec 6) (a : Opnd)
  | mark (g : Guard) (n : BitVec 6) (a : Opnd)
  | sett (g : BGuard) (n : BitVec 3) (a : Opnd)
  | seamO (g : BGuard) (n : BitVec 3)
  | seamJ (g : BGuard) (n : BitVec 2)
  | seamAll (g : BGuard)
  | deq (g : BGuard) (a b : Opnd)
  | kput (g : BGuard) (n : BitVec 2) (a : Opnd)
  | kget (g : BGuard) (d : Opnd)
  | add (g : Guard) (d a b : Opnd)
  | sub (g : Guard) (d a b : Opnd)
  | addi (g : Guard) (d a : Opnd) (imm : BitVec 12)
  | mul (g : Guard) (d a b : Opnd)
  | mulh (g : Guard) (d a b : Opnd)
  | mulhu (g : Guard) (d a b : Opnd)
  | div (g : Guard) (d a b : Opnd)
  | divu (g : Guard) (d a b : Opnd)
  | rem (g : Guard) (d a b : Opnd)
  | remu (g : Guard) (d a b : Opnd)
  | and (g : Guard) (d a b : Opnd)
  | andi (g : Guard) (d a : Opnd) (imm : BitVec 12)
  | or (g : Guard) (d a b : Opnd)
  | ori (g : Guard) (d a : Opnd) (imm : BitVec 12)
  | xor (g : Guard) (d a b : Opnd)
  | xori (g : Guard) (d a : Opnd) (imm : BitVec 12)
  | shl (g : Guard) (d a b : Opnd)
  | shli (g : Guard) (d a : Opnd) (imm : BitVec 12)
  | shr (g : Guard) (d a b : Opnd)
  | shri (g : Guard) (d a : Opnd) (imm : BitVec 12)
  | sra (g : Guard) (d a b : Opnd)
  | srai (g : Guard) (d a : Opnd) (imm : BitVec 12)
  | rotl (g : Guard) (d a b : Opnd)
  | clz (g : Guard) (d a : Opnd)
  | ctz (g : Guard) (d a : Opnd)
  | popc (g : Guard) (d a : Opnd)
  | min (g : Guard) (d a b : Opnd)
  | max (g : Guard) (d a b : Opnd)
  | minu (g : Guard) (d a b : Opnd)
  | maxu (g : Guard) (d a b : Opnd)
  | abs (g : Guard) (d a : Opnd)
  | neg (g : Guard) (d a : Opnd)
  | cmpeq (g : Guard) (d a b : Opnd)
  | cmpne (g : Guard) (d a b : Opnd)
  | cmplt (g : Guard) (d a b : Opnd)
  | cmpltu (g : Guard) (d a b : Opnd)
  | cmple (g : Guard) (d a b : Opnd)
  | cmpleu (g : Guard) (d a b : Opnd)
  | cmpeqi (g : Guard) (d a : Opnd) (imm : BitVec 9)
  | cmpnei (g : Guard) (d a : Opnd) (imm : BitVec 9)
  | cmplti (g : Guard) (d a : Opnd) (imm : BitVec 9)
  | cmpltui (g : Guard) (d a : Opnd) (imm : BitVec 9)
  | cmplei (g : Guard) (d a : Opnd) (imm : BitVec 9)
  | cmpleui (g : Guard) (d a : Opnd) (imm : BitVec 9)
  | movi (g : Guard) (d : Opnd) (imm : BitVec 18)
  | movhi (g : Guard) (d : Opnd) (imm : BitVec 18)
  | bfx (g : Guard) (d a b : Opnd)
  | bfxS (g : Guard) (d a b : Opnd)
  | bfi (g : Guard) (d a b : Opnd)
  | adds (g : Guard) (d a b : Opnd)
  | subs (g : Guard) (d a b : Opnd)
  | madd (g : Guard) (d a b : Opnd)
  | lea (g : Guard) (sh : BitVec 2) (d a b : Opnd)
  | fadd (g : Guard) (fmt : FFmt) (rm : Rm) (d a b : Opnd)
  | fsub (g : Guard) (fmt : FFmt) (rm : Rm) (d a b : Opnd)
  | fmul (g : Guard) (fmt : FFmt) (rm : Rm) (d a b : Opnd)
  | ffma (g : Guard) (fmt : FFmt) (rm : Rm) (d a b : Opnd)
  | ffms (g : Guard) (fmt : FFmt) (rm : Rm) (d a b : Opnd)
  | fdiv (g : Guard) (fmt : FFmt) (rm : Rm) (d a b : Opnd)
  | fsqrt (g : Guard) (fmt : FFmt) (rm : Rm) (d a : Opnd)
  | frsq (g : Guard) (fmt : FFmt) (rm : Rm) (d a : Opnd)
  | fexp2 (g : Guard) (fmt : FFmt) (rm : Rm) (d a : Opnd)
  | flog2 (g : Guard) (fmt : FFmt) (rm : Rm) (d a : Opnd)
  | fmin (g : Guard) (fmt : FFmt) (num : Bool) (d a b : Opnd)
  | fmax (g : Guard) (fmt : FFmt) (num : Bool) (d a b : Opnd)
  | fabs (g : Guard) (fmt : FFmt) (d a : Opnd)
  | fneg (g : Guard) (fmt : FFmt) (d a : Opnd)
  | fcmpeq (g : Guard) (fmt : FFmt) (d a b : Opnd)
  | fcmplt (g : Guard) (fmt : FFmt) (d a b : Opnd)
  | fcmple (g : Guard) (fmt : FFmt) (d a b : Opnd)
  | fcmpun (g : Guard) (fmt : FFmt) (d a b : Opnd)
  | fclass (g : Guard) (fmt : FFmt) (d a : Opnd)
  | fround (g : Guard) (fmt : FFmt) (rm : Rm) (d a : Opnd)
  | fcvti (g : Guard) (fmt : FFmt) (rm : Rm) (u : Bool) (d a : Opnd)
  | icvtf (g : Guard) (fmt : FFmt) (rm : Rm) (u : Bool) (d a : Opnd)
  | fscale (g : Guard) (fmt : FFmt) (rm : Rm) (d a b : Opnd)
  | sopen (g : BGuard) (port : Port) (n : BitVec 2) (a b : Opnd)
  | sopenRe (g : BGuard) (port : Port) (n : BitVec 2)
  | sclose (g : BGuard) (port : Port) (d : Opnd)
  | vadd (g : BGuard) (fmt : VFmt) (rm : Rm) (a b : Opnd)
  | vsub (g : BGuard) (fmt : VFmt) (rm : Rm) (a b : Opnd)
  | vmul (g : BGuard) (fmt : FFmt) (rm : Rm) (a b : Opnd)
  | vfma (g : BGuard) (fmt : FFmt) (rm : Rm) (a : Opnd)
  | vaxpy (g : BGuard) (fmt : FFmt) (rm : Rm) (a : Opnd)
  | vmin (g : BGuard) (fmt : VFmt) (num : Bool) (a b : Opnd)
  | vmax (g : BGuard) (fmt : VFmt) (num : Bool) (a b : Opnd)
  | vabs (g : BGuard) (fmt : VFmt) (a : Opnd)
  | vneg (g : BGuard) (fmt : VFmt) (a : Opnd)
  | vsel (g : BGuard) (fmt : VFmt) (a b : Opnd)
  | vcmp (g : BGuard) (fmt : VFmt) (cond : FCond) (d a b : Opnd)
  | vredsum (g : BGuard) (fmt : VFmt) (rm : Rm) (d a : Opnd)
  | vredmax (g : BGuard) (fmt : VFmt) (num : Bool) (d a : Opnd)
  | vamax (g : BGuard) (fmt : FFmt) (d a : Opnd)
  | vscan (g : BGuard) (fmt : FFmt) (rm : Rm) (a b : Opnd)
  | vexp2 (g : BGuard) (fmt : FFmt) (rm : Rm) (a : Opnd)
  | vrsq (g : BGuard) (fmt : FFmt) (rm : Rm) (a : Opnd)
  | vcvt (g : BGuard) (rm : Rm) (a : Opnd)
  | vqnt (g : BGuard) (a b : Opnd)
  | vdqnt (g : BGuard) (rm : Rm) (a b : Opnd)
  | cvt (g : Guard) (rm : Rm) (d a : Opnd) (cf ct : CFmt)
  | qnt (g : Guard) (k : KFmt) (d a b : Opnd)
  | dqnt (g : Guard) (k : KFmt) (rm : Rm) (d a b : Opnd)
  | scalex (g : Guard) (k : KFmt) (d a : Opnd)
  | limb (g : Guard) (d a : Opnd)
  | unlimb (g : Guard) (d a : Opnd)
  | packH (g : Guard) (d a b : Opnd)
  | packB (g : Guard) (d a b : Opnd)
  | packN (g : Guard) (d a b : Opnd)
  | unpackH (g : Guard) (u : Bool) (d a b : Opnd)
  | unpackB (g : Guard) (u : Bool) (d a b : Opnd)
  | unpackN (g : Guard) (u : Bool) (d a b : Opnd)
  | hdr (g : Guard) (d a b : Opnd)
  | hdrget (g : Guard) (fld : HdrField) (d a : Opnd)
  | oclaim (g : BGuard) (ms : BitVec 4) (xs : BitVec 3)
  | orelease (g : BGuard) (ms : BitVec 4) (xs : BitVec 3)
  | ofillBank (g : BGuard) (fmt : SFmt) (n : BitVec 2) (a b : Opnd)
  | ofillBus (g : BGuard) (fmt : SFmt) (n : BitVec 2)
  | ostat (g : BGuard) (e : TileIdx) (d : Opnd)
  | mbind (g : BGuard) (n : BitVec 2) (a : Opnd)
  | mzero (g : BGuard) (n : BitVec 2)
  | mmacK8 (g : BGuard) (last : Bool) (n p q : BitVec 2)
  | mmacK4 (g : BGuard) (last : Bool) (n p q : BitVec 2)
  | mmacK16 (g : BGuard) (last : Bool) (p q : BitVec 2)
  | mreconI64 (g : BGuard) (k16 : Bool) (n : BitVec 2) (a : Opnd)
  | mreconF32 (g : BGuard) (k16 : Bool) (n : BitVec 2) (a : Opnd)
  | mreconF32Add (g : BGuard) (k16 : Bool) (n : BitVec 2) (a : Opnd)
  | mdrain (g : BGuard) (n : BitVec 2) (a : Opnd)
  | mdrainZ (g : BGuard) (n : BitVec 2) (a : Opnd)
  | trienc (g : BGuard) (d a : Opnd)
  | tridec (g : BGuard) (d a : Opnd)
  | triadd (g : BGuard) (d a b : Opnd)
  | trimul (g : BGuard) (d a b : Opnd)
  | scanb (g : BGuard) (op : Bool) (k : BitVec 4) (d a b : Opnd)
  | scant (g : BGuard) (op : Bool) (k : BitVec 4) (d a b : Opnd)
  | isect (g : BGuard) (mode : MMode) (d a b : Opnd)
  | union (g : BGuard) (mode : MMode) (d a b : Opnd)
  | stopt (g : BGuard) (d a : Opnd)
  | stoptImm (g : BGuard) (l : BitVec 4) (d : Opnd)
  | stopqLower (g : BGuard) (d a : Opnd)
  | stopqRaise (g : BGuard) (d a : Opnd)
  | spaccFadd (g : BGuard) (rm : Rm) (k : BitVec 4) (a b : Opnd)
  | spaccAdd (g : BGuard) (k : BitVec 4) (a b : Opnd)
  | spaccFmax (g : BGuard) (k : BitVec 4) (a b : Opnd)
  | spdrain (g : BGuard) (k : BitVec 4) (d : Opnd)
  | spdrainV (g : BGuard) (k : BitVec 4) (d : Opnd)
  | part (g : BGuard) (b : BitVec 5) (d a : Opnd)
  | isq (g : Guard) (w : BitVec 2) (d a : Opnd)
  | probe (g : Guard) (w : BitVec 2) (d a : Opnd)
  | unpin (g : Guard) (w : BitVec 2) (d a : Opnd)
  | hod (g : Guard) (w : BitVec 2) (d a : Opnd)
  | coll (g : Guard) (w : BitVec 2) (d a : Opnd)
  | jobwait (g : Guard) (w : BitVec 2) (d a : Opnd)
  | ldb (g : BGuard) (sz : Size) (d a b : Opnd)
  | stb (g : BGuard) (sz : Size) (v a b : Opnd)
  | ldv (g : Guard) (sz : Size) (d a b : Opnd)
  | stv (g : Guard) (sz : Size) (v a b : Opnd)
  | ldg (g : Guard) (sz : Size) (w : BitVec 2) (d a b : Opnd)
  | stg (g : Guard) (sz : Size) (w : BitVec 2) (v a b : Opnd)
  | ldp (g : Guard) (w : BitVec 2) (d a b : Opnd)
  | stp (g : Guard) (w : BitVec 2) (v a b : Opnd)
  | clrp (g : Guard) (w : BitVec 2) (v a b : Opnd)
  | pref (g : Guard) (w : BitVec 2) (a b : Opnd)
  | amoadd (g : Guard) (ord : AOrd) (sc : Scope) (w : BitVec 2) (d a b : BitVec 4)
  | amoand (g : Guard) (ord : AOrd) (sc : Scope) (w : BitVec 2) (d a b : BitVec 4)
  | amoor (g : Guard) (ord : AOrd) (sc : Scope) (w : BitVec 2) (d a b : BitVec 4)
  | amoxor (g : Guard) (ord : AOrd) (sc : Scope) (w : BitVec 2) (d a b : BitVec 4)
  | amomin (g : Guard) (ord : AOrd) (sc : Scope) (w : BitVec 2) (d a b : BitVec 4)
  | amomax (g : Guard) (ord : AOrd) (sc : Scope) (w : BitVec 2) (d a b : BitVec 4)
  | amominu (g : Guard) (ord : AOrd) (sc : Scope) (w : BitVec 2) (d a b : BitVec 4)
  | amomaxu (g : Guard) (ord : AOrd) (sc : Scope) (w : BitVec 2) (d a b : BitVec 4)
  | amoswap (g : Guard) (ord : AOrd) (sc : Scope) (w : BitVec 2) (d a b : BitVec 4)
  | amofadd (g : Guard) (ord : AOrd) (sc : Scope) (w : BitVec 2) (d a b : BitVec 4)
  | cas (g : Guard) (ord : AOrd) (sc : Scope) (w : BitVec 2) (d a b : BitVec 4)
  | fence (g : Guard) (ord : FOrd) (sc : Scope)
  | fencex (g : Guard) (ord : FOrd) (sc : Scope)
  | fencee (g : Guard) (ord : EOrd) (sc : Scope)
  | peekt (g : BGuard) (d a : Opnd)
  | routeaStep (g : BGuard) (d : Opnd)
  | routeaSet (g : Guard) (a b : Opnd)
  | vcbind (g : Guard) (a b : Opnd)
  | qstat (g : BGuard) (q : QSel) (d : Opnd)
  | call (g : Guard) (p : Option (BitVec 3)) (d a b : Opnd)
  | ret (g : Guard) (a : Opnd)
  | yield (g : Guard) (a : Opnd)
  | resume (g : Guard) (d a b : Opnd)
  | apply (g : Guard) (p : Option (BitVec 3)) (d a b : Opnd)
  | cseq (g : Guard) (d a b : Opnd)
  | cpar (g : Guard) (d a b : Opnd)
  | cpipe (g : Guard) (d a b : Opnd)
  | cfarm (g : Guard) (pol : FarmPol) (d a b : Opnd)
  | cloop (g : Guard) (d a b : Opnd)
  | cfree (g : Guard) (d a : Opnd)
  | waitc (g : Guard) (p : Option (BitVec 3)) (d a : Opnd)
  | waitcS (g : Guard) (d a : Opnd)
  | fold (g : Guard) (d a : Opnd)
  | stow (g : Guard) (d a : Opnd)
  | cquery (g : Guard) (d a : Opnd)
  | br (g : SGuard)
  | bc (g : SGuard) (cond : Cond) (a b : Opnd)
  | jal (g : SGuard) (d : Opnd)
  | jr (g : SGuard) (d a : Opnd)
  | loop (g : SGuard) (d : Opnd)
  | scmd (g : SGuard) (a b : Opnd)
  | sbar (g : SGuard) (p : BitVec 4)
  | cstep (g : SGuard) (n : BitVec 3) (a : Opnd)
  | cload (g : SGuard) (n : BitVec 3) (a b : Opnd)
  | arm (g : SGuard) (n : BitVec 3) (a : Opnd)
  | waitd (g : SGuard) (n : BitVec 3)
  | waitdT (g : SGuard) (n : BitVec 3)
  | notify (g : SGuard) (a b : Opnd)
  | tlbinv (g : SGuard) (allas : Bool) (sz : BitVec 3) (a b : Opnd)
  | tlbinvSpace (g : SGuard) (allas : Bool) (a b : Opnd)
  | tlbsync (g : SGuard) (d : Opnd)
  | migr (g : SGuard) (v a b : Opnd)
  | svc (g : SGuard) (n : BitVec 6)
  | eret (g : SGuard)
  | crd (g : Guard) (d a : Opnd) (c : BitVec 12)
  | cwr (g : SGuard) (c : BitVec 12) (a b : Opnd)
  | rddig (g : Guard) (d a b : Opnd)
  /-- R55: a token flit arrives on its channel. -/
  | tokenDelivery (h : Handle) (f : FlowId)
  /-- R55: a burst header arrives and is latched. -/
  | headerDelivery (h : Handle) (f : FlowId)
  /-- R67: a seam marker arrives. -/
  | seamMarkerDelivery (h : Handle) (f : FlowId)
  /-- R60: a step word at the head of output `o` is forwarded and the route advances. -/
  | stepWordForward (c : CtxAt) (o : BitVec 3)
  /-- R61: the head of `j` leaves for all its destinations (`arrive = none`), or the oldest bit on the path to
  destination entry `n` arrives (`arrive = some n`). -/
  | controlTokenDelivery (c : CtxAt) (j : BitVec 2) (arrive : Option (BitVec 2))
  /-- R57: the head of a loopback output reaches the context's own queue. -/
  | loopbackDelivery (c : CtxAt) (o : BitVec 3)
  /-- R59: an output queue injects its head flit. -/
  | outputInjection (c : CtxAt) (o : BitVec 3)
  /-- R68: the device seams every output that carries no seam yet. -/
  | seamAutoAppend (c : CtxAt)
  /-- R105: a reconfiguration token reaches its context. -/
  | reconfigurationTokenArrival (c : CtxAt)
  /-- R94: the round mark of a spur. -/
  | roundMark (h : Handle)
  /-- R100: a pattern moves one word between memory and its port. -/
  | streamPatternDelivery (c : CtxAt) (p : Port)
  /-- R102: the active pattern of a port completes. -/
  | streamPatternComplete (c : CtxAt) (p : Port)
  /-- R183: a bank fill of slot `m` finishes. -/
  | slotFillComplete (b : BrickAt) (m : BitVec 2)
  /-- R189: one transfer on a bus of a spur (`col` selects the column buses, `n` the row or column). -/
  | busTransfer (h : Handle) (col : Bool) (n : BitVec 8) (did : BitVec 8)
  /-- R191: the array pass of a brick completes. -/
  | arrayPassComplete (b : BrickAt)
  /-- R184: the read of accumulator `x` completes. -/
  | tileReadComplete (b : BrickAt) (x : BitVec 2)
  /-- R235: a waiting atomic is performed. -/
  | atomicPerform (a : AgentId)
  /-- R246: a deferred presence read completes. -/
  | ldpDeferredComplete (a : AgentId)
  /-- R274: the pager serves its oldest fault token. -/
  | pagerService
  /-- R274: the pager's oldest acknowledgement arrives. -/
  | pagerAcknowledge
  /-- R279: posted invalidation number `n` takes effect in one translation cache. -/
  | invalidationEffect (n : Nat) (u : CacheUnit)
  /-- R280: posted migration number `n` is performed. -/
  | migrationPerform (n : Nat)
  /-- R279: a waiting `tlbsync` completes. -/
  | tlbsyncComplete (h : Handle)
  /-- R288: the engine behind a command port accepts its oldest command. -/
  | jobAccept (e : EnginePort)
  /-- R290: the footprint scheduler lets job `j` run. -/
  | jobStart (j : Nat)
  /-- R295: hod job `j` moves one row. -/
  | hodRow (j : Nat)
  /-- R224: the probe pass of ISE job `j`. -/
  | iseProbePass (j : Nat)
  /-- R223: ISE job `j` moves one element. -/
  | iseElementMove (j : Nat)
  /-- R297: job `j` and the matching jobs of the other packages form a collective. -/
  | collectiveForm (j : Nat) (others : List CollPart)
  /-- R292: job `j` completes. -/
  | jobComplete (j : Nat)
  /-- R300: a bank-ownership token reaches the thread of a spur. -/
  | bankTokenReceipt (h : Handle)
  /-- R387: a write of the notify register of queue `q`. -/
  | notifyWrite (q : Nat) (tail : BitVec 32)
  /-- R387: the lintel fetches the next packet of queue `q`. -/
  | packetFetch (q : Nat)
  /-- R22: the lintel presents the next packet of queue `q`. -/
  | packetPresent (q : Nat)
  /-- R361: the firmware replaces resident queue `leaving` by `entering`. -/
  | residentQueueChange (leaving entering : Nat)
  /-- R391: a write of `ptd`. -/
  | pasidTeardown (v : BitVec 64)
  /-- R391: the teardown in progress completes. -/
  | teardownComplete
  /-- R327: claim `c` reaches the masons. -/
  | claimArrival (c : Nat)
  /-- R328: the masons grant claim `c` at the places named, stowing the victims named. -/
  | claimGrant (c : Nat) (pl : List Place) (victims : List Handle)
  /-- R329: claim `c` becomes reserving, at the places named. -/
  | claimReservation (c : Nat) (pl : List Place)
  /-- R21: the start barrier of a granted launch opens. -/
  | startBarrierOpen (c : Nat)
  /-- R422: the next wave of a wide launch opens. -/
  | launchWaveOpen (h : Handle)
  /-- R362: claim `c` pre-empts a spur of another domain. -/
  | preEmption (c : Nat) (victim : Handle)
  /-- R410: a stowed spur is restored at a granted place. -/
  | resumption (c : Nat) (pl : List Place)
  /-- R346: a spur whose final round is over ends. -/
  | spurEnd (h : Handle)
  /-- R335: the second member of a sequence is placed. -/
  | sequenceSecondPlace (i : Handle)
  /-- R335: a loop body restarts. -/
  | loopBodyRestart (i : Handle)
  /-- R337: a farm distributor (`out = false`) or collector passes one token of port `p` to or from replica `r`. -/
  | farmDistribution (i : Handle) (out : Bool) (p : BitVec 8) (r : Nat)
  /-- R382: the oldest held record of a domain queue is written. -/
  | domainQueueRecordWrite (d q : Nat)
  /-- R365: a spur has been idle for a whole window. -/
  | inactivityWindowExpiry (h : Handle)
  /-- R367: the detector declares the quiescent set. -/
  | deadlockDeclaration
  /-- R408: `fax` action 1. -/
  | faultActionResume (w : Writer) (h : Handle)
  /-- R408: `fax` action 2. -/
  | faultActionSkip (w : Writer) (h : Handle)
  /-- R408: `fax` action 3. -/
  | faultActionRetire (w : Writer) (h : Handle)
  /-- R408: `fax` action 4. -/
  | faultActionBreaksOff (w : Writer) (h : Handle)
  /-- R408: `fax` action 5. -/
  | faultActionNodeOff (w : Writer) (h : Handle)
  /-- R409: an uncorrectable error is met. -/
  | uncorrectableError (e : ErrSite)
  /-- R409: a corrected error. -/
  | correctedError
  /-- R409: a scrub pass finds the words named uncorrectable. -/
  | scrub (bad : List BadWord)
  /-- R394: a col or saddle link fails. -/
  | linkFailure (link : BitVec 8)
  /-- R394: Morol carries another package's inactivity report of a remote party. -/
  | inactivityReport (r : Remote) (idle : Bool)
  /-- R393: the span packets of all packages with one tag and mask have come together. -/
  | spanFormation (c : Nat) (ans : SpanAnswers)
  /-- R417: the keystone reloads the lintel. -/
  | lintelReload
  /-- R418: the device stops. -/
  | fatalStop (cause : BitVec 16)
  /-- R418: the keystone watchdog expires. -/
  | keystoneWatchdogExpiry
  /-- R425: a thermal emergency. -/
  | thermalEmergency
  /-- R418: a warm reset through the management port. -/
  | warmReset
  /-- R421: the next ridge powers on. -/
  | ridgePowerOn
  /-- R423: the power controller adjusts the throttle level from the figures measured. -/
  | throttleAdjust (pwr : BitVec 12) (tj : BitVec 8)
  /-- R426: the ageing register of a ridge is updated from its monitors. -/
  | ageingUpdate (ridge : Nat) (life : BitVec 32) (slow : BitVec 16) (mrg : BitVec 8)
  /-- R427: Delxia verifies the flash image and the package boots. -/
  | secureBoot
  /-- R428: the ROM loader is given a replacement image. -/
  | romLoaderRecovery (img : List (BitVec 8))
  /-- R429: an attestation report is requested with a nonce. -/
  | attestationRequest (nonce : BitVec 256)
  /-- R395: a signed JTAG unlock is offered. -/
  | debugUnlock (sig : List (BitVec 8))
  /-- R395: a host ATS invalidation of the range `[base, base + len)` of host addresses. -/
  | atsInvalidation (base len : Nat)
  /-- R376: a write of a device control register. -/
  | registerWrite (w : Writer) (addr : Nat) (v : BitVec 64)
  /-- R392: a gating sequence reaches its last step. -/
  | gatingSequence
  /-- R234: the value of an outstanding load returns. -/
  | loadValueReturn (a : AgentId)
  /-- R428: package power is lost. -/
  | powerLoss
  deriving DecidableEq, Repr

/-- The rows of the table that are events: they have no instruction word. -/
def Instr.isEvent : Instr → Bool
  | .tokenDelivery .. => true
  | .headerDelivery .. => true
  | .seamMarkerDelivery .. => true
  | .stepWordForward .. => true
  | .controlTokenDelivery .. => true
  | .loopbackDelivery .. => true
  | .outputInjection .. => true
  | .seamAutoAppend .. => true
  | .reconfigurationTokenArrival .. => true
  | .roundMark .. => true
  | .streamPatternDelivery .. => true
  | .streamPatternComplete .. => true
  | .slotFillComplete .. => true
  | .busTransfer .. => true
  | .arrayPassComplete .. => true
  | .tileReadComplete .. => true
  | .atomicPerform .. => true
  | .ldpDeferredComplete .. => true
  | .pagerService => true
  | .pagerAcknowledge => true
  | .invalidationEffect .. => true
  | .migrationPerform .. => true
  | .tlbsyncComplete .. => true
  | .jobAccept .. => true
  | .jobStart .. => true
  | .hodRow .. => true
  | .iseProbePass .. => true
  | .iseElementMove .. => true
  | .collectiveForm .. => true
  | .jobComplete .. => true
  | .bankTokenReceipt .. => true
  | .notifyWrite .. => true
  | .packetFetch .. => true
  | .packetPresent .. => true
  | .residentQueueChange .. => true
  | .pasidTeardown .. => true
  | .teardownComplete => true
  | .claimArrival .. => true
  | .claimGrant .. => true
  | .claimReservation .. => true
  | .startBarrierOpen .. => true
  | .launchWaveOpen .. => true
  | .preEmption .. => true
  | .resumption .. => true
  | .spurEnd .. => true
  | .sequenceSecondPlace .. => true
  | .loopBodyRestart .. => true
  | .farmDistribution .. => true
  | .domainQueueRecordWrite .. => true
  | .inactivityWindowExpiry .. => true
  | .deadlockDeclaration => true
  | .faultActionResume .. => true
  | .faultActionSkip .. => true
  | .faultActionRetire .. => true
  | .faultActionBreaksOff .. => true
  | .faultActionNodeOff .. => true
  | .uncorrectableError .. => true
  | .correctedError => true
  | .scrub .. => true
  | .linkFailure .. => true
  | .inactivityReport .. => true
  | .spanFormation .. => true
  | .lintelReload => true
  | .fatalStop .. => true
  | .keystoneWatchdogExpiry => true
  | .thermalEmergency => true
  | .warmReset => true
  | .ridgePowerOn => true
  | .throttleAdjust .. => true
  | .ageingUpdate .. => true
  | .secureBoot => true
  | .romLoaderRecovery .. => true
  | .attestationRequest .. => true
  | .debugUnlock .. => true
  | .atsInvalidation .. => true
  | .registerWrite .. => true
  | .gatingSequence => true
  | .loadValueReturn .. => true
  | .powerLoss => true
  | .nop .. => false
  | .pset .. => false
  | .pand .. => false
  | .por .. => false
  | .pxor .. => false
  | .pandn .. => false
  | .pnot .. => false
  | .pmov .. => false
  | .sel .. => false
  | .steer .. => false
  | .merge .. => false
  | .mergeAny .. => false
  | .gate .. => false
  | .done .. => false
  | .brk .. => false
  | .trap .. => false
  | .mark .. => false
  | .sett .. => false
  | .seamO .. => false
  | .seamJ .. => false
  | .seamAll .. => false
  | .deq .. => false
  | .kput .. => false
  | .kget .. => false
  | .add .. => false
  | .sub .. => false
  | .addi .. => false
  | .mul .. => false
  | .mulh .. => false
  | .mulhu .. => false
  | .div .. => false
  | .divu .. => false
  | .rem .. => false
  | .remu .. => false
  | .and .. => false
  | .andi .. => false
  | .or .. => false
  | .ori .. => false
  | .xor .. => false
  | .xori .. => false
  | .shl .. => false
  | .shli .. => false
  | .shr .. => false
  | .shri .. => false
  | .sra .. => false
  | .srai .. => false
  | .rotl .. => false
  | .clz .. => false
  | .ctz .. => false
  | .popc .. => false
  | .min .. => false
  | .max .. => false
  | .minu .. => false
  | .maxu .. => false
  | .abs .. => false
  | .neg .. => false
  | .cmpeq .. => false
  | .cmpne .. => false
  | .cmplt .. => false
  | .cmpltu .. => false
  | .cmple .. => false
  | .cmpleu .. => false
  | .cmpeqi .. => false
  | .cmpnei .. => false
  | .cmplti .. => false
  | .cmpltui .. => false
  | .cmplei .. => false
  | .cmpleui .. => false
  | .movi .. => false
  | .movhi .. => false
  | .bfx .. => false
  | .bfxS .. => false
  | .bfi .. => false
  | .adds .. => false
  | .subs .. => false
  | .madd .. => false
  | .lea .. => false
  | .fadd .. => false
  | .fsub .. => false
  | .fmul .. => false
  | .ffma .. => false
  | .ffms .. => false
  | .fdiv .. => false
  | .fsqrt .. => false
  | .frsq .. => false
  | .fexp2 .. => false
  | .flog2 .. => false
  | .fmin .. => false
  | .fmax .. => false
  | .fabs .. => false
  | .fneg .. => false
  | .fcmpeq .. => false
  | .fcmplt .. => false
  | .fcmple .. => false
  | .fcmpun .. => false
  | .fclass .. => false
  | .fround .. => false
  | .fcvti .. => false
  | .icvtf .. => false
  | .fscale .. => false
  | .sopen .. => false
  | .sopenRe .. => false
  | .sclose .. => false
  | .vadd .. => false
  | .vsub .. => false
  | .vmul .. => false
  | .vfma .. => false
  | .vaxpy .. => false
  | .vmin .. => false
  | .vmax .. => false
  | .vabs .. => false
  | .vneg .. => false
  | .vsel .. => false
  | .vcmp .. => false
  | .vredsum .. => false
  | .vredmax .. => false
  | .vamax .. => false
  | .vscan .. => false
  | .vexp2 .. => false
  | .vrsq .. => false
  | .vcvt .. => false
  | .vqnt .. => false
  | .vdqnt .. => false
  | .cvt .. => false
  | .qnt .. => false
  | .dqnt .. => false
  | .scalex .. => false
  | .limb .. => false
  | .unlimb .. => false
  | .packH .. => false
  | .packB .. => false
  | .packN .. => false
  | .unpackH .. => false
  | .unpackB .. => false
  | .unpackN .. => false
  | .hdr .. => false
  | .hdrget .. => false
  | .oclaim .. => false
  | .orelease .. => false
  | .ofillBank .. => false
  | .ofillBus .. => false
  | .ostat .. => false
  | .mbind .. => false
  | .mzero .. => false
  | .mmacK8 .. => false
  | .mmacK4 .. => false
  | .mmacK16 .. => false
  | .mreconI64 .. => false
  | .mreconF32 .. => false
  | .mreconF32Add .. => false
  | .mdrain .. => false
  | .mdrainZ .. => false
  | .trienc .. => false
  | .tridec .. => false
  | .triadd .. => false
  | .trimul .. => false
  | .scanb .. => false
  | .scant .. => false
  | .isect .. => false
  | .union .. => false
  | .stopt .. => false
  | .stoptImm .. => false
  | .stopqLower .. => false
  | .stopqRaise .. => false
  | .spaccFadd .. => false
  | .spaccAdd .. => false
  | .spaccFmax .. => false
  | .spdrain .. => false
  | .spdrainV .. => false
  | .part .. => false
  | .isq .. => false
  | .probe .. => false
  | .unpin .. => false
  | .hod .. => false
  | .coll .. => false
  | .jobwait .. => false
  | .ldb .. => false
  | .stb .. => false
  | .ldv .. => false
  | .stv .. => false
  | .ldg .. => false
  | .stg .. => false
  | .ldp .. => false
  | .stp .. => false
  | .clrp .. => false
  | .pref .. => false
  | .amoadd .. => false
  | .amoand .. => false
  | .amoor .. => false
  | .amoxor .. => false
  | .amomin .. => false
  | .amomax .. => false
  | .amominu .. => false
  | .amomaxu .. => false
  | .amoswap .. => false
  | .amofadd .. => false
  | .cas .. => false
  | .fence .. => false
  | .fencex .. => false
  | .fencee .. => false
  | .peekt .. => false
  | .routeaStep .. => false
  | .routeaSet .. => false
  | .vcbind .. => false
  | .qstat .. => false
  | .call .. => false
  | .ret .. => false
  | .yield .. => false
  | .resume .. => false
  | .apply .. => false
  | .cseq .. => false
  | .cpar .. => false
  | .cpipe .. => false
  | .cfarm .. => false
  | .cloop .. => false
  | .cfree .. => false
  | .waitc .. => false
  | .waitcS .. => false
  | .fold .. => false
  | .stow .. => false
  | .cquery .. => false
  | .br .. => false
  | .bc .. => false
  | .jal .. => false
  | .jr .. => false
  | .loop .. => false
  | .scmd .. => false
  | .sbar .. => false
  | .cstep .. => false
  | .cload .. => false
  | .arm .. => false
  | .waitd .. => false
  | .waitdT .. => false
  | .notify .. => false
  | .tlbinv .. => false
  | .tlbinvSpace .. => false
  | .tlbsync .. => false
  | .migr .. => false
  | .svc .. => false
  | .eret .. => false
  | .crd .. => false
  | .cwr .. => false
  | .rddig .. => false

end Sys2Proof
end

