-- ==== Sys2Proof/Machine/State.lean ====
section
/-! DEFINITION. The state of one KZ7 package: memory and control registers, translation, the fabric with its spurs,
engines, lintels and masons, and the turns that timing and the outside world have chosen next. -/

namespace Sys2Proof.Machine

open Sys2Proof

/-! ## Tokens, flits and queues -/

/-- A token (R40). -/
structure Tok where
  stop : Bool
  tag : BitVec 2
  pay : W32
  deriving DecidableEq, Repr

/-- The classes of engine commands (R286). -/
inductive JobCls where
  | hod | coll | isq | probe | unpin
  deriving DecidableEq, Repr

/-- An engine command on its way to its engine: its class, its card, who issued it and from which output queue or engine
port (R286, R441), and its number: while its round holds it the step that issued it, then its place in the order in which
commands leave their rounds (R290). -/
structure Cmd where
  no : Nat
  from_ : BitVec 3
  cls : JobCls
  card : W64
  who : AgentId
  node : W32
  dom : Nat
  asid : Nat
  sys : Bool
  massif : Nat
  deriving DecidableEq, Repr

/-- The kinds of flit on a mortar channel (R55), and the command flit of R286. -/
inductive Flit where
  | tok (t : Tok)
  | hdr (h : W64)
  | seam
  | step
  | cmd (c : Cmd)
  deriving DecidableEq, Repr

/-- Which arms of a split output a flit takes (R74, R221). -/
inductive Arm where
  | a0 | a1 | both
  deriving DecidableEq, Repr

/-- One entry of an output queue. -/
structure OutEnt where
  flit : Flit
  arm : Arm
  deriving DecidableEq, Repr

/-- One entry of an input queue: a token with the header in force and its arrival cycle, or a seam marker (R55, R67,
R75). -/
inductive InEnt where
  | tok (t : Tok) (hdr : W64) (at_ : Nat)
  | seam
  deriving DecidableEq, Repr

/-- An input queue: one list per arm (R50, R56), with the header each arm has latched, one for each arm of a paired queue
(DEDUCED, log 144). -/
structure InQ where
  arm0 : List InEnt
  arm1 : List InEnt
  hdr0 : W64
  hdr1 : W64
  deriving DecidableEq, Repr

/-- One entry of a control queue or control output (R61, R67). -/
inductive KEnt where
  | bit (b : Bool)
  | seam
  deriving DecidableEq, Repr

/-! ## Contexts -/

/-- A stream descriptor (R160); `count = 0` marks it unopened. -/
structure Desc where
  base : BitVec 16
  stride : BitVec 16
  fmt : BitVec 4
  count : Nat
  pos : Nat
  deriving DecidableEq, Repr

/-- A sequencer pattern in a port scoreboard (R100, R102): its record, the row and element it has reached, the words
delivered ahead of the firing (or waiting to be stored), how many words it has moved, and the spur whose thread
entered it. -/
structure Pattern where
  by_ : Handle
  base : W64
  space : BitVec 2
  write : Bool
  fmt : BitVec 5
  c0 : Nat
  c1 : Nat
  c2 : Nat
  s1 : Int
  s2 : Int
  phase : BitVec 4
  row : Nat
  el : Nat
  moved : Nat
  buf : List W32
  deriving DecidableEq, Repr

/-- The scoreboard of a port: the active pattern and one pending (R102), and before them the read patterns whose last
word has been delivered and not all consumed. -/
structure Board where
  old : List Pattern
  active : Option Pattern
  pend : List Pattern
  deriving DecidableEq, Repr

/-- A node-table entry of a slot or of a run of sequencer words (R404): `key` is the slot index or the word index. -/
structure NodeEnt where
  key : Nat
  node : W32
  loops : List (BitVec 8)
  deriving DecidableEq, Repr

/-- The configuration of a context: what an image or a `cload` gives it (R53, R313). -/
structure CtxCfg where
  sv : BitVec 16
  slots : List W64
  regs : List W32
  preds : List (BitVec 8)
  win : List W64
  obind : List W32
  grout : List W32
  rm : BitVec 3
  me : Bool
  be : Bool
  nodes : List NodeEnt
  vc : List (Option W32)
  deriving DecidableEq, Repr

/-- A configuration on its way to a context (R68, R105). -/
structure Recon where
  arrived : Bool
  cfg : CtxCfg
  section_ : BitVec 3
  deriving DecidableEq, Repr

/-- A range of memory that a load reads: its virtual and physical address and its bytes. -/
structure Reach where
  va : Nat
  pa : Nat
  n : Nat
  deriving DecidableEq, Repr

/-- A load whose value is still to return (R234): its slot and bank, the value and its destination, and the range of memory
that was translated for it (R279). -/
structure PendLoad where
  slot : BitVec 4
  bank : BitVec 2
  val : W64
  dst : Opnd
  range : Option Reach
  deriving DecidableEq, Repr

/-- A presence read that is deferred (R246): the word it waits for, in a bank of the spur or in memory, and the load that it
becomes when the word is filled. -/
structure Deferred where
  bank : Option (BitVec 8 × BitVec 8)
  pa : Nat
  load : PendLoad
  deriving DecidableEq, Repr

/-- One context entry of a brick of a spur (R50); `kept` and `barred` are the slots that the release condition has kept back
in this round and in the last (R241), and `atomAt` the slots of its recorded results (R235). Lists have the fixed lengths that R50 gives. -/
structure Ctx where
  row : BitVec 8
  col : BitVec 8
  idx : BitVec 3
  conf : Bool
  sv : BitVec 16
  off : BitVec 16
  slots : List W64
  nodes : List NodeEnt
  regs : List W32
  preds : List (BitVec 8)
  iq : List InQ
  kq : List (List KEnt)
  oq : List (List OutEnt)
  jq : List (List KEnt)
  obind : List W32
  grout : List W32
  scl : List (BitVec 8)
  ovr : List (Option (BitVec 2))
  pass : List Nat
  passWas : List Nat
  cst : W32
  bfc : W32
  bsq : W32
  mdc : W32
  win : List W64
  sd : List Desc
  att : List (Option (BitVec 2))
  board : List Board
  lm : List W64
  rsn : List W32
  tcount : W32
  seamed : BitVec 12
  recon : Option Recon
  wait : Option (BitVec 4)
  load : Option PendLoad
  defer : Option Deferred
  kept : BitVec 16
  barred : BitVec 16
  stored : Bool
  atomAt : List W64
  stagedCst : List (BitVec 12 × W64)
  deriving DecidableEq, Repr

/-! ## Bricks -/

/-- States of a tile-table entry (R181). -/
inductive TileSt where
  | empty | filling | ready | draining
  deriving DecidableEq, Repr

/-- An operand slot (R181); `bus` tells a slot that waits for a transfer from one that fills from the bank, and
`send` a slot offered on its bus from one that a pass reads. -/
structure Slot where
  owner : Option (BitVec 3)
  st : TileSt
  bus : Bool
  send : Bool
  fmt : Option SFmt
  lines : List (List Int)
  scales : List (BitVec 8)
  bind : W32
  bindNode : W32
  deriving DecidableEq, Repr

/-- An accumulator (R181): 1,024 TRI31 words and the latched scale codes; `before` is the state a read returns to. -/
structure Acc where
  owner : Option (BitVec 3)
  st : TileSt
  before : TileSt
  words : List W32
  latch : Option (List (BitVec 8) × List (BitVec 8))
  deriving DecidableEq, Repr

/-- One brick of a spur (R50). -/
structure Brick where
  row : BitVec 8
  col : BitVec 8
  active : BitVec 3
  bank : List Host.Cell
  full : List Nat
  vc : List W32
  staged : List (Nat × W32)
  dig : List W64
  slots : List Slot
  accs : List Acc
  passSlots : List Nat
  passAccs : List Nat
  deriving DecidableEq, Repr

/-! ## Threads, routes and held effects -/

/-- A context step requested by `cstep` (R104). -/
structure StepReq where
  section_ : BitVec 3
  ctx : BitVec 3
  deriving DecidableEq, Repr

/-- A sequencer thread (R88, R91); `mdc` counts its dropped trace records (R79), and `atomAt` holds the words of its recorded
results (R235). -/
structure Thread where
  hasSeq : Bool
  g : List W64
  f : BitVec 8
  pc : W64
  sst : W64
  epc : W64
  ecause : W64
  evec : W64
  rlen : Nat
  rsn : W32
  steps : List StepReq
  synced : Nat
  load : Option PendLoad
  defer : Option Deferred
  stored : Bool
  atomAt : List W64
  retd : Bool
  mdc : W32
  deriving DecidableEq, Repr

/-- A flit in flight on a route: the brick that sent it, and the entry it travels by. -/
structure Fly where
  row : BitVec 8
  col : BitVec 8
  ent : W32
  flit : Flit
  deriving DecidableEq, Repr

/-- A route of a spur (R58, R59): its entries, the phase in force with the entry that serves it, whether that phase was
entered with an entry of V = 0 (R60), and the flits in flight. -/
structure Route where
  ents : List W32
  cur : Nat
  ent : W32
  hollow : Bool
  fly : List Fly
  deriving DecidableEq, Repr

/-- The control tokens in flight on the path of grout entry `n` of control output `j` of a context, with the entry they
travel by (R61). -/
structure GPath where
  row : BitVec 8
  col : BitVec 8
  ctx : BitVec 3
  j : BitVec 2
  n : BitVec 2
  ent : W32
  bits : List KEnt
  deriving DecidableEq, Repr

/-- Kinds of held write (R234). -/
inductive WKind where
  | store | stp | clrp
  deriving DecidableEq, Repr

/-- A write held in its round (R95, R234): who made it, the translation it used, the bytes, and whether it is system
software's (R407). With `bank` it is a write to the bank of that brick of the spur at offset `pa`, made in place (R397). -/
structure Held where
  who : AgentId
  kind : WKind
  asid : Nat
  va : Nat
  bank : Option (BitVec 8 × BitVec 8)
  pa : Nat
  bytes : List Byte
  sys : Bool
  deriving DecidableEq, Repr

/-- An invalidation or migration held in its round (R277). -/
inductive HeldInv where
  | inv (all : Bool) (asid : Nat) (lo hi : Nat)
  | migr (asid : Nat) (va : Nat) (frame : Nat) (size : Nat)
  deriving DecidableEq, Repr

/-- A record on its way to a domain queue (R382). -/
structure QRec where
  dom : Nat
  q : Nat
  bytes : List Byte
  deriving DecidableEq, Repr

/-- A flit in the edge hold, with the route that sent it and its port (R400). -/
structure EdgeFlit where
  tag : BitVec 6
  port : BitVec 8
  flit : Flit
  deriving DecidableEq, Repr

/-- Where a completion goes (R320, R322, R338). -/
inductive Target where
  | none
  | queue (dom q : Nat)
  | notice (dom cq : Nat)
  | barrier (h : Handle) (n : Nat)
  | member (i : Handle) (n : Nat)
  deriving DecidableEq, Repr

/-- A request that leaves at the commit of the round that holds it (R344): a launch, the resumption of a coroutine, a
fold or stow of the spur, a callable table entry written or freed, a route or binding write (R85, R86), a write to a
context of another spur (R92; a pattern is in force already and kept here for a void to undo, R95), and the start of a configuration phase (R112). -/
inductive Request where
  | launch (h : Handle)
  | resume (h : Handle) (arg : W64)
  | fold (host : Option Handle)
  | stow (wait : Option Nat)
  | table (va : Nat)
  | cfree (va : Nat) (members : List Nat)
  | route (h : Handle) (tag phase : Nat) (v : W32)
  | vcbind (h : Handle) (row col : BitVec 8) (vc : Nat) (v : W32)
  | scmd (c : CtxAt) (port : Nat) (p : Pattern)
  | cwr (c : CtxAt) (r : BitVec 12) (v : W64)
  | phase (n : Nat) (ctx : BitVec 3) (begun : Nat)
  deriving DecidableEq, Repr

/-- What the pager is told of a not-present fault (R274): the access, and the level and address of the faulting entry. -/
structure PageAsk where
  asid : Nat
  va : Nat
  acc : BitVec 8
  level : Nat
  addr : Nat
  deriving DecidableEq, Repr

/-- The classes and contents of a fault (R401): class, detail, node, context, slot, loop indices and body; `page` is what the
pager is told of it, where it may serve it. -/
structure Cause where
  cls : Nat
  detail : W64
  node : W32
  ctx : BitVec 8
  slot : BitVec 8
  loops : List W32
  body : List Byte
  row : BitVec 8
  col : BitVec 8
  page : Option PageAsk
  deriving DecidableEq, Repr

/-- Everything of a spur that voiding a round restores (R399). -/
structure Body where
  bricks : List Brick
  ctxs : List Ctx
  th : Thread
  routes : List Route
  paths : List GPath
  edge : List EdgeFlit
  portDig : List (BitVec 8 × W64)
  held : List Held
  invs : List HeldInv
  cmds : List (BitVec 3 × Cmd)
  recs : List QRec
  trace : List (CtxAt × List Byte)
  reqs : List Request
  rets : List (AgentId × W64)
  yld : Option W64
  deriving DecidableEq, Repr

/-! ## Spurs -/

/-- States of a spur (R334). -/
inductive Life where
  | requested | loading | running | yielded | stowed | stopped | ended
  deriving DecidableEq, Repr

/-- A completion barrier (R321). -/
inductive BarSt where
  | free | armed | complete
  deriving DecidableEq, Repr

/-- A completion barrier with its handle, status and result. -/
structure Barrier where
  st : BarSt
  h : Handle
  status : BitVec 8
  result : W64
  deriving DecidableEq, Repr

/-- The resource header of an image (R310). -/
structure Header where
  sys : Bool
  co : Bool
  wd : Nat
  ht : Nat
  ctx : Nat
  slt : Nat
  bnk : Nat
  vcs : Nat
  bar : Nat
  lch : Nat
  vlt : Nat
  stw : Nat
  deriving DecidableEq, Repr

/-- A section (R97). -/
structure Section where
  n : Nat
  row : Nat
  col : Nat
  w : Nat
  h : Nat
  deriving DecidableEq, Repr

/-- A declared data port (R318). -/
structure PortDecl where
  p : BitVec 8
  isIn : Bool
  row : BitVec 8
  col : BitVec 8
  vc : BitVec 5
  deriving DecidableEq, Repr

/-- A footprint line (R251). -/
structure Foot where
  node : W32
  kind : Nat
  space : Nat
  off : Nat
  len : Nat
  deriving DecidableEq, Repr

/-- Node attributes (R355). -/
structure Attr where
  node : W32
  hold : Nat
  lead : Nat
  deriving DecidableEq, Repr

/-- A brick record of an image (R313). -/
structure BrickRec where
  row : Nat
  col : Nat
  vc : List W32
  deriving DecidableEq, Repr

/-- A context record of an image (R313). -/
structure CtxRec where
  row : Nat
  col : Nat
  ctx : Nat
  cfg : CtxCfg
  deriving DecidableEq, Repr

/-- A node-table entry of an image (R404), with the place it names. -/
structure NodeRec where
  isSeq : Bool
  row : Nat
  col : Nat
  ctx : Nat
  ent : NodeEnt
  deriving DecidableEq, Repr

/-- An image as its bytes give it (R310 to R313). -/
structure Image where
  addr : W64
  hd : Header
  len : Nat
  bricks : List BrickRec
  ctxs : List CtxRec
  routes : List (List W32)
  nodes : List NodeRec
  attrs : List Attr
  foots : List Foot
  sections : List Section
  ports : List PortDecl
  seqOff : Nat
  seq : List W64
  rlen : Nat
  trm : BitVec 3
  bg : Bool
  tbe : Bool
  tme : Bool
  deriving DecidableEq, Repr

/-- Where a spur stands (R12, R324): massif, first row and column of bricks in it. -/
structure Site where
  massif : Nat
  row : Nat
  col : Nat
  deriving DecidableEq, Repr

/-- What the device recorded of a performed atomic or call of the round (R235, R344): its agent, its slot or word, and how many
the agent had recorded there before in the round. -/
structure AtomRec where
  who : AgentId
  at_ : W64
  n : Nat
  val : W64
  req : Option Request
  deriving DecidableEq, Repr

/-- Intervals of a configuration phase of a section (R112). -/
structure Phase where
  section_ : Nat
  ctx : BitVec 3
  begun : Nat
  loaded : Option Nat
  filled : Option Nat
  done : Option Nat
  drained : Option Nat
  rounds : Nat
  deriving DecidableEq, Repr

/-- The waves of a launch's start barrier (R422): its ridges in ascending order, none where it opens at once, the cycle in
which the first wave opened, and the waves opened. -/
structure Waves where
  ridges : List Nat
  since : Nat
  opened : Nat
  deriving DecidableEq, Repr

/-- A spur (R334): `sFault` is the fault that stopped it, or of a stowed one that stops it once it is restored. -/
structure Spur where
  handle : Handle
  dom : Nat
  asid : Nat
  seed : W64
  qnt : Nat
  hq : Option (Nat × Nat)
  img : Image
  arg : W64
  target : Target
  parent : Option Handle
  entry : Nat
  life : Life
  site : Site
  host : Option Handle
  area : Option (Handle × Nat)
  claim : Option Nat
  live : Body
  start : Body
  causes : List Cause
  stale : Bool
  retry : Bool
  badNow : List Nat
  retried : List Nat
  tries : Nat
  rnd : W64
  roundAt : Nat
  rlenNow : Nat
  openedAt : Nat
  awayFrom : Nat
  lastBusy : Nat
  inactive : Bool
  dead : Option Cause
  atoms : List AtomRec
  delivered : List (BitVec 8 × Flit)
  collected : List (Nat × Barrier)
  bars : List Barrier
  launches : List Handle
  gates : List (Nat × Nat)
  kept : Option (AgentId × W64)
  final : Bool
  result : W64
  sStop : Bool
  sFault : Option Cause
  paging : Bool
  sysMade : Bool
  move : Option Request
  stowAt : Option (Nat × Nat)
  stowWait : Option Nat
  foldAt : Option (Nat × Nat)
  wasYielded : Bool
  placedAt : Nat
  spared : Option Nat
  waves : Waves
  phases : List Phase
  linkDown : Option (BitVec 8 × BitVec 8)
  deferred : Bool
  deriving DecidableEq, Repr

/-! ## Launches, claims and composites -/

/-- One rectangle of a claim (R324): its size, contexts and vault bytes per brick, and whether it keeps to one block of
2 × 2 ridges (R190). -/
structure Rect where
  wd : Nat
  ht : Nat
  ctx : Nat
  vlt : Nat
  block : Bool
  deriving DecidableEq, Repr

/-- A rectangle where it stands: on free bricks, or as a guest on a host's; `away` while its spur is stowed (R328,
R331). -/
structure Area where
  site : Site
  host : Option Handle
  rect : Rect
  away : Bool
  deriving DecidableEq, Repr

/-- The sharers of a host's bricks in the order of their rotation, and whose turn it is (R330). -/
structure Group where
  members : List Handle
  turn : Nat
  deriving DecidableEq, Repr

/-- A callable table entry that a builder has taken, or one that a `cfree` has `freed`, in a round that has not committed
(R344): the spur, the address space and address of the entry, its words, and the policy of a farm. -/
structure TabEnt where
  owner : Handle
  asid : Nat
  va : Nat
  words : List W64
  pol : BitVec 2
  freed : Bool
  deriving DecidableEq, Repr

/-- A nest of callables as the callable table gives it (R338). -/
inductive Nest where
  | leaf (id : Nat) (addr : W64) (co : Bool)
  | seq (id : Nat) (hq : Option Nat) (a b : Nest)
  | par (id : Nat) (hq : Option Nat) (a b : Nest)
  | pipe (id : Nat) (hq : Option Nat) (a b : Nest)
  | farm (id : Nat) (hq : Option Nat) (pol : BitVec 2) (kb : Nat) (r : Nat) (a : Nest)
  | loop (id : Nat) (hq : Option Nat) (c : Nat) (a : Nest)
  deriving DecidableEq, Repr

/-- What a claim is for. -/
inductive ClaimKind where
  | launch
  | resume (h : Handle)
  deriving DecidableEq, Repr

/-- How far a claim has come; a span's claim is `formed` once every partner has confirmed, or `refused` on this package
until its partners have been told (R393). -/
inductive ClaimSt where
  | held | sent | pending | granted | formed | refused
  deriving DecidableEq, Repr

/-- A claim (R326 to R329): `no` numbers arrivals, `bad` is the entry at fault where the nest could not be read (R338),
and `imgs` are the images of the leaves in their order. -/
structure Claim where
  id : Nat
  kind : ClaimKind
  st : ClaimSt
  dom : Nat
  entry : Nat
  arg : W64
  target : Target
  ports : List (BitVec 8 × BitVec 8)
  parent : Option Handle
  sysMade : Bool
  handle : Handle
  fromPool : Bool
  queue : Option Nat
  span : Option (BitVec 32 × BitVec 32 × List (BitVec 32))
  nest : Option Nest
  bad : Nat
  imgs : List Image
  rects : List Rect
  no : Nat
  prio : Nat
  passed : Nat
  reserve : Option (List Place)
  since : Nat
  deriving DecidableEq, Repr

/-- What a member of a composite has reported. -/
structure Member where
  h : Handle
  ended : Bool
  status : BitVec 8
  result : W64
  deriving DecidableEq, Repr

/-- An end of a wire between edge ports (R338). -/
inductive End where
  | spur (h : Handle) (p : BitVec 8)
  | farm (i : Handle) (p : BitVec 8)
  | job (h : Handle) (p : BitVec 8)
  | gate (h : Handle)
  | saddle (pkg : BitVec 5) (p : BitVec 8)
  deriving DecidableEq, Repr

/-- An edge port of an instance, with its direction and where it leads (R335). -/
structure PortEnd where
  p : BitVec 8
  isIn : Bool
  end_ : End
  deriving DecidableEq, Repr

/-- A placed composite (R335): its members, the images of its leaves, and the area that a sequence or loop holds: its own
`areas`, or those of an enclosing one from a place on. `inFrom` and `outFrom` are the positions of a farm's distributor
and collector by port (R337): the replica whose turn it is, and the replicas that have had, or sent, the flit in hand. -/
structure Comp where
  handle : Handle
  dom : Nat
  entry : Nat
  nest : Nest
  imgs : List Image
  hq : Option Nat
  target : Target
  members : List Member
  second : Bool
  arg : W64
  base : Nat
  parent : Option Handle
  sysMade : Bool
  inFrom : List (BitVec 8 × Nat × List Nat)
  outFrom : List (BitVec 8 × Nat × List Nat)
  areas : List Area
  area : Option (Handle × Nat)
  claim : Option Nat
  waves : Option Waves
  deriving DecidableEq, Repr

/-- A wire with the flits on it. -/
structure Wire where
  src : End
  dst : End
  buf : List Flit
  deriving DecidableEq, Repr

/-! ## Engines -/

/-- One region of a footprint list (R288). -/
structure Region where
  w : Bool
  r : Bool
  base : Nat
  len : Nat
  deriving DecidableEq, Repr

/-- How far a job has come. -/
inductive JobSt where
  | accepted | running | finished
  deriving DecidableEq, Repr

/-- An engine job (R288 to R293): `errN` is the element that a failure or the probe pass has reached, `toks` the tokens taken
for the row or element in hand, and `out` those of it still to be sent (R285). -/
structure Job where
  id : Nat
  engine : EnginePort
  cmd : Cmd
  card : List W64
  foot : List Region
  st : JobSt
  passed : Bool
  n : Nat
  code : Nat
  errN : Nat
  value : W64
  flags : BitVec 8
  toks : List W32
  out : List Flit
  idx : List W64
  formed : Bool
  drop : Bool
  deriving DecidableEq, Repr

/-! ## Translation -/

/-- Why a walk ends without a translation: the kinds of translation fault (R269, R403), or an entry that lies in a word which
stays bad (R409). -/
inductive TKind where
  | notPresent | unmapped | permission | table | lost
  deriving DecidableEq, Repr

/-- A translation fault: its kind, the level reached and the entry read there (R269), and where that entry lies. -/
structure TFault where
  kind : TKind
  level : Nat
  ent : W64
  addr : Nat
  deriving DecidableEq, Repr

/-- A cached table entry (R271): a valid leaf or pointer, the level and virtual tag it stands for, and where in
memory it lies. -/
structure CacheEnt where
  unit_ : CacheUnit
  asid : Nat
  level : Nat
  tag : Nat
  ent : W64
  addr : Nat
  deriving DecidableEq, Repr

/-- A posted `tlbinv` or `migr` (R278, R280); a `migr` has the leaf that the posting read, and where that lies. -/
inductive PostedKind where
  | inv (all : Bool) (asid : Nat) (lo hi : Nat)
  | migr (asid : Nat) (va : Nat) (frame : Nat) (size : Nat) (ent : W64) (addr : Nat)
  deriving DecidableEq, Repr

/-- A posted operation: its thread, the caches whose translations of its range still serve (an invalidation has still to
take effect in them, or a migration does not hold translations yet), and whether it is over. -/
structure Posted where
  id : Nat
  by_ : Handle
  kind : PostedKind
  left : List CacheUnit
  isOver : Bool
  gone : Bool
  deriving DecidableEq, Repr

/-- A pin set (R224): pages by ASID, virtual base, size and frame, and the spur that holds it; `gone` says that an `unpin`
released it while a job still uses its pages (R225). -/
structure PinSet where
  h : Nat
  job : Option Nat
  who : Handle
  gone : Bool
  pages : List (Nat × Nat × Nat × Nat)
  deriving DecidableEq, Repr

/-- Who waits for the pager (R274); `device` is an access of the device's own, made for a domain. -/
inductive Faulter where
  | spur (h : Handle)
  | job (j : Nat)
  | lintel (q : Nat)
  | device (dom : Nat)
  deriving DecidableEq, Repr

/-- A pager fault token (R274). -/
structure FaultTok where
  who : Faulter
  ask : PageAsk
  massif : Nat
  cause : Option Cause
  deriving DecidableEq, Repr

/-! ## Lintels -/

/-- A fetched command packet (R387, R388). -/
structure Packet where
  q : Nat
  words : List W64
  deriving DecidableEq, Repr

/-- A resident command queue (R360, R361). -/
structure Resident where
  q : Nat
  since : Nat
  deriving DecidableEq, Repr

/-- The teardown in progress (R391): its PASID, and the queues it has made defunct whose fetch was outstanding, each with
the number of its packets that will not be presented. -/
structure Teardown where
  pasid : Nat
  gone : List (Nat × Nat)
  deriving DecidableEq, Repr

/-- What the package tells the outside: an interrupt of a domain queue (R382), a dump (R418), or a host invalidation that
is complete (R395). -/
inductive Signal where
  | summit (vec : Nat)
  | msix (fn vec : Nat)
  | dump (cause : Nat)
  | ats (base len : Nat)
  deriving DecidableEq, Repr

/-- An attestation report (R429). -/
structure Report where
  measurement : Option (BitVec 512)
  svn : W32
  fuse : W32
  nonce : BitVec 256
  unlocked : Bool
  resets : Nat
  sig : List Byte
  deriving DecidableEq, Repr

/-! ## Device control registers -/

/-- A notify register and its wake flag (R385, R392). -/
structure NotifyReg where
  q : Nat
  tail : W32
  wake : Bool
  deriving DecidableEq, Repr

/-- A free ring (R275). -/
structure FreeRing where
  frb : W64
  frn : W64
  frh : W64
  frt : W64
  deriving DecidableEq, Repr

/-- A trace ring (R412). -/
structure TraceRing where
  trb : W64
  trn : W64
  trh : W64
  trt : W64
  deriving DecidableEq, Repr

/-- The sequencer's own registers of a ridge (R91). -/
structure SeqRegs where
  phb : W64
  phi : W64
  qwin : W64
  deriving DecidableEq, Repr

/-- Device control space (R440). -/
structure Ctl where
  notify : List NotifyReg
  ptd : W64
  atb : W64
  ddb : W64
  ptb : W64
  cqb : W64
  fax : W64
  faa : W64
  fdb : W64
  fdl : W64
  fds : W64
  rings : List FreeRing
  traces : List TraceRing
  pwl : W64
  pws : W64
  agm : List W64
  deriving DecidableEq, Repr

/-- How far the package has booted (R427, R428). -/
inductive Boot where
  | off | booted | loader
  deriving DecidableEq, Repr

/-! ## Turns -/

/-- The agent whose instruction is executing. -/
inductive Agent where
  | none
  | firing (c : CtxAt) (slot : BitVec 4)
  | thread (h : Handle)
  deriving DecidableEq, Repr

/-- What moves next: timing's and the outside world's choice. A turn of a brick lets its trigger stage choose, with the
number of firings squashed (R64); a turn of a thread lets it issue; `late` says that a load's value returns in a later
event (R234); `dt` fabric cycles pass first; `saddle` brings a flit of a span from another package, and `saddleOut` lets the saddle link
take one to it (R393). -/
inductive Turn where
  | idle (dt : Nat)
  | brick (b : BrickAt) (dt : Nat) (squashed : Nat) (late : Bool)
  | thread (h : Handle) (dt : Nat) (late : Bool)
  | event (i : Instr) (dt : Nat)
  | outside (pa : Nat) (bytes : List Byte)
  | saddle (pkg : BitVec 5) (p : BitVec 8) (dst : End) (f : Flit)
  | saddleOut (src : End) (pkg : BitVec 5) (p : BitVec 8)
  | evict (n : Nat)
  deriving DecidableEq, Repr, Inhabited

/-- What moves at the `n`-th step for which nothing is on the agenda: timing and the outside world decide, and no proof
can see how (log 2). -/
opaque schedule : Nat → Turn

/-! ## The machine -/

/-- Why the machine stops. -/
inductive Fault where
  /-- Raised by every meaning when no agent of the instruction's form is executing: no fabric agent holds the word. No
  step reaches it, since a step sets the agent before it executes an instruction. Safe. -/
  | noAgent
  deriving DecidableEq, Repr

/-- Why an instruction is refused. -/
inductive Refusal where
  /-- Raised by a dispatch arm whose instruction has no meaning yet. Safe. -/
  | notModelled (mnemonic : String)
  deriving DecidableEq, Repr

/-- The state of the package; `farIdle` are the remote parties that their packages report inactive (R394), and `heldUp` says
that a device access of the step under way meets a page whose translations a migration holds (R280). -/
structure State where
  agenda : List Turn
  tick : Nat
  now : Nat
  agent : Agent
  late : Bool
  pkg : BitVec 5
  mem : List Host.Cell
  full : List Nat
  ctl : Ctl
  caches : List CacheEnt
  posted : List Posted
  pins : List PinSet
  nextPin : Nat
  pagerQ : List FaultTok
  pagerAck : List FaultTok
  pagerFwd : List (FaultTok × TFault × Bool)
  owners : List (Nat × Nat)
  lastOwner : List (Nat × Nat)
  banks : List (Nat × List Host.Cell)
  tiles : List (Nat × List Slot × List Acc)
  powered : Nat
  badWords : List Nat
  klog : List (List Byte)
  corrected : Nat
  seqs : List SeqRegs
  spurs : List Spur
  comps : List Comp
  groups : List Group
  taken : List TabEnt
  pols : List (Nat × Nat × BitVec 2)
  claims : List Claim
  nextClaim : Nat
  issued : List Handle
  wires : List Wire
  cmdq : List (EnginePort × Cmd)
  jobs : List Job
  nextJob : Nat
  fetched : List Packet
  resident : List Resident
  leftAt : List (Nat × Nat)
  served : List (Nat × Nat)
  presented : List (Nat × Nat)
  teardown : Option Teardown
  gated : Bool
  recq : List QRec
  signals : List Signal
  links : List (BitVec 8)
  farIdle : List Remote
  stopped : Bool
  boot : Boot
  flash : List Byte
  measurement : Option (BitVec 512)
  svn : W32
  fuse : W32
  resets : Nat
  unlocked : Bool
  reports : List Report
  heldUp : Bool
  deriving DecidableEq, Repr

/-- Device control space after reset (R264, R376, R391, R407, R419, R424, R426); the ring registers, for which the spec
gives no reset value, are zero (log 5, DESIGN CHOICE). -/
def Ctl.reset : Ctl where
  notify := []
  ptd := 0
  atb := 0
  ddb := 0
  ptb := 0
  cqb := 0
  fax := 0
  faa := 0
  fdb := 0
  fdl := 0
  fds := 0
  rings := List.replicate 8 ⟨0, 0, 0, 0⟩
  traces := List.replicate 192 ⟨0, 0, 0, 0⟩
  pwl := 2600
  pws := 0
  agm := List.replicate 192 0xFFFFFFFF00000000

/-- The machine right after reset: nothing placed, no memory written, every register at the value the spec states
(log 5 names the others). -/
def State.reset : State where
  agenda := []
  tick := 0
  now := 0
  agent := .none
  late := false
  pkg := 0
  mem := []
  full := []
  ctl := Ctl.reset
  caches := []
  posted := []
  pins := []
  nextPin := 1
  pagerQ := []
  pagerAck := []
  pagerFwd := []
  owners := []
  lastOwner := []
  banks := []
  tiles := []
  powered := 0
  badWords := []
  klog := []
  corrected := 0
  seqs := List.replicate 192 ⟨0, 0, 4096⟩
  spurs := []
  comps := []
  groups := []
  taken := []
  pols := []
  claims := []
  nextClaim := 0
  issued := []
  wires := []
  cmdq := []
  jobs := []
  nextJob := 0
  fetched := []
  resident := []
  leftAt := []
  served := []
  presented := []
  teardown := none
  gated := false
  recq := []
  signals := []
  links := []
  farIdle := []
  stopped := false
  boot := .off
  flash := []
  measurement := none
  svn := 0
  fuse := 0
  resets := 0
  unlocked := false
  reports := []
  heldUp := false

/-- What one step answers. -/
abbrev Out := Host.Outcome State Fault Refusal

end Sys2Proof.Machine
end

