-- ==== Sys2Proof/Machine/Bits.lean ====
section
/-! DEFINITION. Bit fields, byte order, sign extension and the digest register: the helpers that meanings share. -/

namespace Sys2Proof.Machine

open Sys2Proof

/-- Bits `lo` to `lo + n - 1` of a number. -/
def bitsOf (v lo n : Nat) : Nat := v / 2 ^ lo % 2 ^ n

/-- The signed value of the low `w` bits of a number. -/
def signed (w v : Nat) : Int := (BitVec.ofNat w v).toInt

/-- A signed number as the bits of a `w`-bit word (R2). -/
def wrapNat (w : Nat) (v : Int) : Nat := (BitVec.ofInt w v).toNat

/-- The `n` bytes of a number, lowest first (R5). -/
def toBytes : Nat → Nat → List Byte
  | 0, _ => []
  | n + 1, v => BitVec.ofNat 8 v :: toBytes n (v / 256)

/-- The number that bytes stand for, lowest first (R5). -/
def ofBytes : List Byte → Nat
  | [] => 0
  | b :: r => b.toNat + 256 * ofBytes r

/-- `n` zero bytes. -/
def zeros (n : Nat) : List Byte := List.replicate n 0

/-- Bytes filled with zeros up to a length. -/
def padTo (n : Nat) (l : List Byte) : List Byte := (l ++ zeros (n - l.length)).take n

/-- The S-form extension as a signed 64-bit value (R29, R39). -/
def sextX (x : BitVec 27) : W64 := x.signExtend 64

/-- The length of a list of words cut from bytes, 8 at a time. -/
def wordsOf : Nat → List Byte → List W64
  | 0, _ => []
  | n + 1, l => BitVec.ofNat 64 (ofBytes (l.take 8)) :: wordsOf n (l.drop 8)

/-- The bytes of a list of 64-bit words. -/
def bytesOf (l : List W64) : List Byte := l.flatMap fun w => toBytes 8 w.toNat

/-- One bit into the CRC-64/ECMA-182 register (R415). -/
def crcBit (c : W64) (b : Bool) : W64 :=
  let t := c <<< 1
  if c.getLsbD 63 != b then t ^^^ 0x42F0E1EBA9EA3693 else t

/-- One byte into the register, most significant bit first (R415). -/
def crcByte (c : W64) (b : Byte) : W64 :=
  crcBit (crcBit (crcBit (crcBit (crcBit (crcBit (crcBit (crcBit c (b.getLsbD 7)) (b.getLsbD 6)) (b.getLsbD 5))
    (b.getLsbD 4)) (b.getLsbD 3)) (b.getLsbD 2)) (b.getLsbD 1)) (b.getLsbD 0)

/-- Bytes into the register (R415). -/
def crcBytes (c : W64) (l : List Byte) : W64 := l.foldl crcByte c

/-- The digest item of a flit (R414). -/
def digItem : Flit → List Byte
  | .tok t =>
    BitVec.ofNat 8 (1 + 2 * t.tag.toNat + (if t.stop then 8 else 0)) :: toBytes 4 t.pay.toNat
  | .hdr h => 0x02 :: toBytes 8 h.toNat
  | .seam => [0x04]
  | .step | .cmd _ => []

/-- A digest after one more flit (R414). -/
def digest (c : W64) (f : Flit) : W64 := crcBytes c (digItem f)

/-- Read element `n` of a list, with a value for a place outside it. -/
def nth (l : List α) (n : Nat) (d : α) : α := l.getD n d

/-- Change element `n` of a list. -/
def upd (l : List α) (n : Nat) (f : α → α) : List α :=
  match l[n]? with
  | some x => l.set n (f x)
  | none => l

/-- Change every element that satisfies a test. -/
def updIf (p : α → Bool) (f : α → α) (l : List α) : List α := l.map fun x => if p x then f x else x

/-- Change the first element that satisfies a test. -/
def updFirst (p : α → Bool) (f : α → α) : List α → List α
  | [] => []
  | x :: r => if p x then f x :: r else x :: updFirst p f r

/-- The numbers 0 to `n - 1`. -/
def upTo (n : Nat) : List Nat := List.range n

/-- Put a value in order into a list sorted by a key, replacing an equal key. -/
def insertKey (key : α → Nat) (x : α) : List α → List α
  | [] => [x]
  | y :: r => if key x < key y then x :: y :: r else if key x = key y then x :: r else y :: insertKey key x r

/-- A list without repeats of the same elements, in the order they first stand in. -/
def dedup [BEq α] : List α → List α
  | [] => []
  | x :: r => x :: (dedup r).filter (fun y => !(y == x))

/-- Lists compared in order. -/
def lexLt : List Nat → List Nat → Bool
  | a :: r, b :: t => decide (a < b) || (a == b && lexLt r t)
  | _, _ => false

/-- The first of a list by a key. -/
def leastBy (key : α → List Nat) : List α → Option α
  | [] => none
  | x :: r =>
    match leastBy key r with
    | none => some x
    | some y => if lexLt (key y) (key x) then some y else some x

/-- Insert into a list sorted by a key. -/
def insertBy (key : α → List Nat) (x : α) : List α → List α
  | [] => [x]
  | y :: r => if lexLt (key y) (key x) then y :: insertBy key x r else x :: y :: r

/-- Sort by a key, keeping the order of equals. -/
def sortBy (key : α → List Nat) (l : List α) : List α := l.foldr (insertBy key) []

end Sys2Proof.Machine
end

