-- ==== Sys2Proof/Machine/Memory.lean ====
section
/-! DEFINITION. Bytes by address: memory and banks in their one canonical form (strictly rising addresses, no byte
listed that an unlisted address reads as), and the presence bits. An unlisted byte reads zero (log 1). -/

namespace Sys2Proof.Machine

open Sys2Proof

/-- What an unlisted address reads as (log 1, DESIGN CHOICE). -/
def unlisted : Byte := 0

/-- Every listed address lies at or above `lo`, addresses rise strictly, and no listed byte is the unlisted one. -/
def wfFrom : Nat → List Host.Cell → Bool
  | _, [] => true
  | lo, (a, b) :: r => decide (lo ≤ a) && b != unlisted && wfFrom (a + 1) r

/-- The canonical form. -/
def Memory.wf (m : List Host.Cell) : Bool := wfFrom 0 m

/-- Read one byte. -/
def readByte : List Host.Cell → Nat → Byte
  | [], _ => unlisted
  | (a, b) :: r, k => if k < a then unlisted else if a = k then b else readByte r k

/-- Write one byte, keeping the canonical form. -/
def writeByte : List Host.Cell → Nat → Byte → List Host.Cell
  | [], k, v => if v = unlisted then [] else [(k, v)]
  | (a, b) :: r, k, v =>
    if k < a then (if v = unlisted then (a, b) :: r else (k, v) :: (a, b) :: r)
    else if a = k then (if v = unlisted then r else (k, v) :: r)
    else (a, b) :: writeByte r k v

/-- Read `n` bytes from an address. -/
def readBytes (m : List Host.Cell) : Nat → Nat → List Byte
  | _, 0 => []
  | a, n + 1 => readByte m a :: readBytes m (a + 1) n

/-- Write bytes from an address. -/
def writeBytes (m : List Host.Cell) : Nat → List Byte → List Host.Cell
  | _, [] => m
  | a, b :: r => writeBytes (writeByte m a b) (a + 1) r

/-- Read a number of `n` bytes, lowest first (R5). -/
def readNat (m : List Host.Cell) (a n : Nat) : Nat := ofBytes (readBytes m a n)

/-- Write a number of `n` bytes, lowest first (R5). -/
def writeNat (m : List Host.Cell) (a n v : Nat) : List Host.Cell := writeBytes m a (toBytes n v)

/-- Make a presence word full: `full` lists full words in rising order (R245). -/
def setFull (l : List Nat) (a : Nat) : List Nat := insertKey id a l

/-- Empty a presence word (R245). -/
def setEmpty (l : List Nat) (a : Nat) : List Nat := l.filter (· != a)

/-- Whether the ranges of `n` bytes at `a` and `m` bytes at `b` share a byte. -/
def overlap (a n b m : Nat) : Bool := decide (a < b + m) && decide (b < a + n)

/-- The populated ranges of R15: tier 1, device control space, tier 2, other packages and host memory. -/
def populated (pa : Nat) : Bool :=
  decide (pa < 0x018000000000) || (decide (0x0F0000000000 ≤ pa) && decide (pa < 0x200000000000)) ||
    (decide (0x4000000000000 ≤ pa) && decide (pa < 0x10000000000000))

/-- Tier 1 or tier 2 (R14, R15). -/
def tierMem (pa : Nat) : Bool :=
  decide (pa < 0x018000000000) || (decide (0x100000000000 ≤ pa) && decide (pa < 0x200000000000))

/-- Device control space (R15). -/
def isCtlSpace (pa : Nat) : Bool := decide (0x0F0000000000 ≤ pa) && decide (pa < 0x100000000000)

end Sys2Proof.Machine
end

