-- ==== Sys2Proof/Machine/Ops.lean ====
section
/-! DEFINITION. Finding and changing the parts of the state: spurs, bricks, contexts, where they stand, and handles. -/

namespace Sys2Proof.Machine

open Sys2Proof

/-! ## Where things stand (R12) -/

/-- The ridge of a brick of a massif (R12). -/
def ridgeOf (massif row col : Nat) : Nat := 48 * massif + 8 * (row / 16) + col / 16

/-- The index of a brick within its ridge (R12). -/
def brickIdx (row col : Nat) : Nat := 16 * (row % 16) + col % 16

/-- The number of a brick in the package: ridge and index. -/
def brickNo (massif row col : Nat) : Nat := 256 * ridgeOf massif row col + brickIdx row col

/-- The package number of the brick at a row and column of a spur. -/
def Spur.brickNo (sp : Spur) (row col : Nat) : Nat :=
  Machine.brickNo sp.site.massif (sp.site.row + row) (sp.site.col + col)

/-- The ridge of the brick at a row and column of a spur. -/
def Spur.ridge (sp : Spur) (row col : Nat) : Nat := ridgeOf sp.site.massif (sp.site.row + row) (sp.site.col + col)

/-- The home ridge of a spur (R87). -/
def Spur.home (sp : Spur) : Nat := sp.ridge 0 0

/-- The rows and columns of a rectangle. -/
def cells (ht wd : Nat) : List (Nat × Nat) := (upTo ht).flatMap fun r => (upTo wd).map fun c => (r, c)

/-- The package numbers of the bricks of a spur. -/
def Spur.brickNos (sp : Spur) : List Nat := (cells sp.img.hd.ht sp.img.hd.wd).map fun rc => sp.brickNo rc.1 rc.2

/-- The ridges a spur stands on. -/
def Spur.ridges (sp : Spur) : List Nat := dedup (sp.brickNos.map (· / 256))

/-- The spur occupies bricks, contexts and a thread. -/
def Spur.placed (sp : Spur) : Bool :=
  match sp.life with
  | .loading | .running | .yielded | .stopped => true
  | .requested | .stowed | .ended => false

/-- A user agent is an agent of no system image, and for a thread of none in system mode (R270). -/
def Spur.ctxSys (sp : Spur) : Bool := sp.img.hd.sys

/-- The thread runs in system mode (R90). -/
def Thread.sysMode (t : Thread) : Bool := t.sst.getLsbD 16

/-! ## Spurs, bricks and contexts -/

/-- The spur of a handle. -/
def State.spur? (s : State) (h : Handle) : Option Spur := s.spurs.find? fun x => x.handle == h

/-- Put a spur back. -/
def State.setSpur (s : State) (sp : Spur) : State :=
  { s with spurs := updFirst (fun x => x.handle == sp.handle) (fun _ => sp) s.spurs }

/-- Change the spur of a handle, if there is one. -/
def State.modSpur (s : State) (h : Handle) (f : Spur → Spur) : State :=
  { s with spurs := updFirst (fun x => x.handle == h) f s.spurs }

/-- The brick at a row and column of a spur. -/
def Body.brick? (b : Body) (r c : BitVec 8) : Option Brick := b.bricks.find? fun x => x.row == r && x.col == c

/-- Put a brick back. -/
def Body.setBrick (b : Body) (k : Brick) : Body :=
  { b with bricks := updFirst (fun x => x.row == k.row && x.col == k.col) (fun _ => k) b.bricks }

/-- The context entry of a brick of a spur. -/
def Body.ctx? (b : Body) (r c : BitVec 8) (i : BitVec 3) : Option Ctx :=
  b.ctxs.find? fun x => x.row == r && x.col == c && x.idx == i

/-- Put a context back. -/
def Body.setCtx (b : Body) (k : Ctx) : Body :=
  { b with ctxs := updFirst (fun x => x.row == k.row && x.col == k.col && x.idx == k.idx) (fun _ => k) b.ctxs }

/-- Change a context of a body. -/
def Body.modCtx (b : Body) (c : CtxAt) (f : Ctx → Ctx) : Body :=
  match b.ctx? c.row c.col c.ctx with
  | some k => b.setCtx (f k)
  | none => b

/-- Change the live body of a spur. -/
def Spur.modLive (sp : Spur) (f : Body → Body) : Spur := { sp with live := f sp.live }

/-- The context named by an address. -/
def State.ctx? (s : State) (c : CtxAt) : Option Ctx := (s.spur? c.h).bind fun sp => sp.live.ctx? c.row c.col c.ctx

/-- The thread of a spur. -/
def State.thread? (s : State) (h : Handle) : Option Thread := (s.spur? h).map fun sp => sp.live.th

/-- The massif whose bedrock die serves an agent of a spur (R11). -/
def Spur.massif (sp : Spur) : Nat := sp.site.massif

/-! ## Causes (R398) -/

/-- Add a cause to the spur's round (R398). -/
def Spur.addCause (sp : Spur) (c : Cause) : Spur :=
  { sp with causes := if sp.causes.contains c then sp.causes else sp.causes ++ [c] }

/-- Bytes of memory have been written: the words they touch are good again (R409). -/
def State.rewritten (s : State) (pa n : Nat) : State :=
  { s with badWords := s.badWords.filter fun b => !overlap b 8 pa n }

/-- Some physical piece of a read holds a word that stays bad (R409). -/
def State.spoilt (s : State) (l : List (Nat × Nat)) : Bool :=
  l.any fun p => s.badWords.any fun b => overlap b 8 p.1 p.2

/-- The place of an error in a spur's lists: its space and its address (R403). -/
def errKey (space : BitVec 8) (addr : W64) : Nat := space.toNat * 2 ^ 64 + addr.toNat

/-- Another error of a round's read is data lost: its address erred before one of the round number's retries, or four retries
have been (R409). -/
def Spur.lostAt (sp : Spur) (key : Nat) : Bool := sp.retried.contains key || decide (4 ≤ sp.tries)

/-- A read of a round meets uncorrectable data (R409): its round is a retry, or data is lost with cause `c`; further errors of
one address in one execution count once. -/
def Spur.badRead (sp : Spur) (space : BitVec 8) (addr : W64) (c : Cause) : Spur :=
  let key := errKey space addr
  if sp.badNow.contains key then sp
  else
    let sp := { sp with badNow := sp.badNow ++ [key] }
    if sp.lostAt key then sp.addCause c else { sp with retry := true }

/-! ## Contexts (R50) -/

/-- Register `n` of bank `b` (R50). -/
def Ctx.reg (k : Ctx) (b : BitVec 2) (n : BitVec 4) : W32 := nth k.regs (16 * b.toNat + n.toNat) 0

/-- Write register `n` of bank `b`. -/
def Ctx.setReg (k : Ctx) (b : BitVec 2) (n : BitVec 4) (v : W32) : Ctx :=
  { k with regs := k.regs.set (16 * b.toNat + n.toNat) v }

/-- The predicates of bank `b`. -/
def Ctx.predSet (k : Ctx) (b : BitVec 2) : BitVec 8 := nth k.preds b.toNat 0

/-- Put the predicates of bank `b`. -/
def Ctx.setPreds (k : Ctx) (b : BitVec 2) (v : BitVec 8) : Ctx := { k with preds := k.preds.set b.toNat v }

/-- One bit of a byte changed. -/
def putBit8 (v : BitVec 8) (n : BitVec 3) (x : Bool) : BitVec 8 :=
  if x then v ||| (1#8 <<< n.toNat) else v &&& ~~~(1#8 <<< n.toNat)

/-- Slot `n` is valid: given by the configuration and not switched off (R63, R408). -/
def Ctx.valid (k : Ctx) (n : Nat) : Bool := k.conf && k.sv.getLsbD n && !k.off.getLsbD n

/-- The done flag (R52). -/
def Ctx.dn (k : Ctx) : Bool := k.cst.getLsbD 15

/-- The rounding field of a status word (R52, R90). -/
def rmField (v : Nat) : Nat := bitsOf v 8 3

/-- The node-table entry of a slot (R404). -/
def Ctx.nodeEnt (k : Ctx) (slot : Nat) : Option NodeEnt := k.nodes.find? fun e => e.key == slot

/-- The node of a slot; one without an entry has node 0xFFFF_FFFF (R404). -/
def Ctx.nodeOf (k : Ctx) (slot : Nat) : W32 :=
  match k.nodeEnt slot with
  | some e => e.node
  | none => 0xFFFFFFFF

/-- The entry that covers sequencer word `w`: the last one that begins at or before it (R404). -/
def seqNodeEnt (l : List NodeRec) (w : Nat) : Option NodeEnt :=
  (l.filter fun e => e.isSeq && decide (e.ent.key ≤ w)).foldl (fun a e =>
    match a with
    | some x => if x.key ≤ e.ent.key then some e.ent else a
    | none => some e.ent) none

/-! ## Bindings (R56, R57, R58, R61) -/

/-- A channel binding is valid. -/
def bindV (b : W32) : Bool := b.getLsbD 31
/-- The context of a binding. -/
def bindCtx (b : W32) : BitVec 3 := b.extractLsb' 28 3
/-- The arm of a binding. -/
def bindAr (b : W32) : Bool := b.getLsbD 27
/-- A binding of a paired queue. -/
def bindPr (b : W32) : Bool := b.getLsbD 26
/-- The queue of a binding. -/
def bindQ (b : W32) : BitVec 3 := b.extractLsb' 23 3
/-- The format of a binding. -/
def bindFmt (b : W32) : Nat := (b.extractLsb' 19 4).toNat
/-- The scale register of a binding. -/
def bindSc (b : W32) : Nat := (b.extractLsb' 17 2).toNat

/-- An output binding, route entry or grout entry is valid. -/
def entV (b : W32) : Bool := b.getLsbD 31
/-- The kind of an output binding: 0 route, 1 split, 2 loopback (R57); of a route entry: 0 brick, 1 edge port (R58). -/
def entKd (b : W32) : Nat := (b.extractLsb' 29 2).toNat
/-- The first route tag of an output binding. -/
def outT0 (b : W32) : BitVec 6 := b.extractLsb' 23 6
/-- The second route tag of a split. -/
def outT1 (b : W32) : BitVec 6 := b.extractLsb' 17 6
/-- The queue of a loopback. -/
def outLq (b : W32) : BitVec 3 := b.extractLsb' 14 3
/-- The destination row of a route entry. -/
def rtRow (b : W32) : BitVec 8 := b.extractLsb' 21 8
/-- The destination column, or the edge port, of a route entry. -/
def rtCol (b : W32) : BitVec 8 := b.extractLsb' 13 8
/-- The destination channel of a route entry. -/
def rtVc (b : W32) : BitVec 5 := b.extractLsb' 0 5
/-- The destination row of a grout entry. -/
def grRow (b : W32) : BitVec 8 := b.extractLsb' 23 8
/-- The destination column of a grout entry. -/
def grCol (b : W32) : BitVec 8 := b.extractLsb' 15 8
/-- The destination context of a grout entry. -/
def grCtx (b : W32) : BitVec 3 := b.extractLsb' 12 3
/-- The destination queue of a grout entry. -/
def grK (b : W32) : BitVec 2 := b.extractLsb' 10 2

/-- Output `n` of a context is bound: `n` 0 to 7 are `o0` to `o7`, 8 to 11 are `j0` to `j3` (R57, R61). -/
def Ctx.boundOut (k : Ctx) (n : Nat) : Bool :=
  if n < 8 then entV (nth k.obind n 0) else (upTo 4).any fun m => entV (nth k.grout (4 * (n - 8) + m) 0)

/-- The bindings of a brick that deliver to queue `q` of context `c`. -/
def Brick.bindsOf (b : Brick) (c q : BitVec 3) : List W32 :=
  b.vc.filter fun v => bindV v && bindCtx v == c && bindQ v == q

/-- Input queue `q` of a context is paired: two bindings name it with PR = 1, one for each arm (R56). -/
def paired (b : Brick) (c q : BitVec 3) : Bool :=
  let l := (b.bindsOf c q).filter bindPr
  l.any bindAr && l.any fun v => !bindAr v

/-- Input queue `q` is bound (R56). -/
def Ctx.boundIn (k : Ctx) (b : Brick) (q : BitVec 3) : Bool :=
  !(b.bindsOf k.idx q).isEmpty || (k.obind.take 8).any fun o => entV o && entKd o == 2 && outLq o == q

/-- Some grout entry of the spur delivers to control queue `j` of a context. -/
def Body.groutInto (b : Body) (k : Ctx) (j : BitVec 2) : Bool :=
  b.ctxs.any fun x => x.grout.any fun g =>
    entV g && grRow g == k.row && grCol g == k.col && grCtx g == k.idx && grK g == j

/-- A route advances to its next phase (R59, R60). -/
def Route.advance (r : Route) : Route :=
  let n := if r.cur + 1 < r.ents.length then r.cur + 1 else 0
  let e := nth r.ents n 0
  { r with cur := n, ent := e, hollow := !entV e }

/-! ## Queues -/

/-- The tokens an arm shows to guards: those ahead of its first seam marker (R67). -/
def frontToks : List InEnt → List InEnt
  | [] => []
  | .seam :: _ => []
  | x :: r => x :: frontToks r

/-- The tokens of an arm, seam markers not counted. -/
def tokCount (l : List InEnt) : Nat := (l.filter fun e => match e with | .tok .. => true | .seam => false).length

/-- The control bits a queue shows to guards (R67). -/
def frontBits : List KEnt → List Bool
  | [] => []
  | .seam :: _ => []
  | .bit b :: r => b :: frontBits r

/-- The control tokens of a list, seam markers not counted. -/
def bitCount (l : List KEnt) : Nat := (l.filter fun e => match e with | .bit _ => true | .seam => false).length

/-- The entries an output queue holds; a seam marker occupies none (R50, R81, R85, R179, R286). -/
def outCount (l : List OutEnt) : Nat :=
  (l.filter fun e => match e.flit with | .tok _ | .step | .cmd _ | .hdr _ => true | .seam => false).length

/-- Room of an output queue of 2 tokens (R50). -/
def outRoom (l : List OutEnt) : Nat := 2 - outCount l

/-- Whether a seam marker stands at the head. -/
def seamHead : List InEnt → Bool
  | .seam :: _ => true
  | _ => false

/-- Whether a seam marker stands at the head of a control queue. -/
def seamHeadK : List KEnt → Bool
  | .seam :: _ => true
  | _ => false

/-- The head entry as a token, its header and its arrival cycle. -/
def headTok : List InEnt → Option (Tok × W64 × Nat)
  | .tok t h a :: _ => some (t, h, a)
  | _ => none

/-- An empty input queue (R53). -/
def InQ.empty : InQ := ⟨[], [], 0, 0⟩

/-! ## Handles -/

/-- A handle from the free bits of R319. -/
def handleOf (b : BitVec 31) : Handle := 0b1#1 ++ b

/-- Handles that name something live. -/
def State.liveHandles (s : State) : List Handle :=
  s.spurs.map (·.handle) ++ s.comps.map (·.handle) ++ s.claims.map (·.handle)

/-- The first handle from `b` on that is not in the list; `fuel` bounds the search by the list's length. -/
def probeHandle (l : List Handle) : Nat → BitVec 31 → Handle
  | 0, b => handleOf b
  | n + 1, b => if l.contains (handleOf b) then probeHandle l n (b + 1) else handleOf b

/-- Take a new handle: a free value, moved on past every handle that is live or was issued lately (R319, log 4). -/
def State.newHandle (s : State) : State × Handle :=
  let taken := s.liveHandles ++ s.issued
  let h := probeHandle taken taken.length (Config.freeHandle s.tick)
  ({ s with issued := (h :: s.issued).take (2 ^ 24), tick := s.tick + 1 }, h)

/-- The spur was busy in this cycle (R365). -/
def Spur.busy (sp : Spur) (now : Nat) : Spur := { sp with lastBusy := now, inactive := false }

/-! ## Sharers (R330) -/

/-- The sharers of a spur's bricks. -/
def State.group? (s : State) (h : Handle) : Option Group := s.groups.find? fun g => g.members.contains h

/-- It is the turn of a spur among the sharers of its bricks. -/
def State.runsNow (s : State) (sp : Spur) : Bool :=
  match s.group? sp.handle with
  | none => true
  | some g => nth g.members g.turn sp.handle == sp.handle

/-- The end of a spur's counted cycles (R365): a paused sharer counts none since it gave up the bricks (R330). -/
def State.countedTo (s : State) (sp : Spur) : Nat := if s.runsNow sp then s.now else sp.awayFrom

/-- A spur was busy up to the last of its counted cycles (R365). -/
def State.busied (s : State) (sp : Spur) : Spur := sp.busy (s.countedTo sp)

/-- Something of a spur is outstanding from now on, or was until now (R365). -/
def State.stir (s : State) (h : Handle) : State := s.modSpur h s.busied

/-- A sharer takes part in the rotation: it runs, and its final round is not over. -/
def State.sharing (s : State) (h : Handle) : Bool :=
  match s.spur? h with
  | some sp => sp.life == .running && !sp.final
  | none => false

/-- The place of the first sharer from place `i` on that takes part in the rotation. -/
def State.sharerFrom (s : State) (g : Group) (i : Nat) : Option Nat :=
  ((upTo g.members.length).map fun j => (i + j) % g.members.length).find? fun j => s.sharing (nth g.members j 0)

/-- Give a place of a group the bricks: that sharer's round counts from now (R93), and the cycles it was paused for are
none of its idle ones (R365). -/
def State.giveTurn (s : State) (g : Group) (t : Nat) : State :=
  let s := s.modSpur (nth g.members g.turn 0) fun x => { x with awayFrom := s.now }
  { s with groups := updFirst (· == g) (fun x => { x with turn := t }) s.groups }.modSpur (nth g.members t 0)
    fun x => { x with roundAt := s.now, lastBusy := x.lastBusy + (s.now - max x.awayFrom x.lastBusy) }

/-- The next sharer after a spur takes the bricks, where it was that spur's turn. -/
def rotate (s : State) (h : Handle) : State :=
  match s.group? h with
  | none => s
  | some g =>
    if nth g.members g.turn 0 != h then s
    else
      match s.sharerFrom g (g.turn + 1) with
      | some t => s.giveTurn g t
      | none => s

/-- A spur that has just entered running takes the bricks where no sharer has them. -/
def claimTurn (s : State) (h : Handle) : State :=
  match s.group? h with
  | none => s
  | some g =>
    if s.sharing (nth g.members g.turn 0) then s
    else
      match s.sharerFrom g g.turn with
      | some t => s.giveTurn g t
      | none => s

/-- A spur leaves the group of its bricks; the turn stays with the sharer that has it. -/
def leaveGroup (s : State) (h : Handle) : State :=
  let s := rotate s h
  let cut (g : Group) : Group :=
    let has := nth g.members g.turn 0
    let l := g.members.erase h
    ⟨l, if has == h then 0 else l.idxOf has⟩
  { s with groups := (s.groups.map fun g => if g.members.contains h then cut g else g).filter fun g =>
      decide (1 < g.members.length) }

/-! ## Wires (R318, R335) -/

/-- The handle that an end of a wire belongs to, where it is one of this package. -/
def End.handle : End → Option Handle
  | .spur h _ | .farm h _ | .job h _ | .gate h => some h
  | .saddle .. => none

/-- An end whose spur or composite is there. -/
def State.liveEnd (s : State) (e : End) : Bool :=
  match e.handle with
  | some h => (s.spurs.any fun x => x.handle == h) || s.comps.any fun x => x.handle == h
  | none => true

/-- A wire between edge ports, not one to an engine's buffer. -/
def Wire.far (w : Wire) : Bool := match w.dst with | .job .. => false | _ => true

/-- The wire that a flit of an end takes: the one that a call or composite wired, where its other end is there, else one
that leads nowhere any more, else the buffer of an engine's data port (R285, R318). -/
def State.wireFrom (s : State) (e : End) : Option Wire :=
  ((s.wires.find? fun w => w.src == e && w.far && s.liveEnd w.dst).or (s.wires.find? fun w => w.src == e && w.far)).or
    (s.wires.find? fun w => w.src == e)

/-- A wire to another package. -/
def Wire.toSaddle (w : Wire) : Bool := match w.dst with | .saddle .. => true | .spur .. | .farm .. | .job .. | .gate _ => false

/-- The wires that a flit of an end takes: one, or every saddle channel that a span's entries give its port (R393). -/
def State.wiresFrom (s : State) (e : End) : List Wire :=
  match s.wireFrom e with
  | none => []
  | some w => if w.toSaddle then s.wires.filter fun x => x.src == e && x.toSaddle else [w]

/-- Change the buffer of a wire. -/
def State.modWire (s : State) (w : Wire) (f : List Flit → List Flit) : State :=
  { s with wires := updFirst (fun x => x.src == w.src && x.dst == w.dst) (fun x => { x with buf := f x.buf }) s.wires }

/-- A flit goes onto wires; one that leads nowhere any more discards it (R318). -/
def State.putWires (s : State) (l : List Wire) (f : Flit) : State :=
  l.foldl (fun s w => if s.liveEnd w.dst then s.modWire w (· ++ [f]) else s) s

/-- The target of the instance of a handle (R335). -/
def State.targetFor (s : State) (h : Handle) : Target :=
  match s.spur? h with
  | some sp => sp.target
  | none => (match s.comps.find? fun c => c.handle == h with | some c => c.target | none => .none)

/-- The instances that a handle's bank gates may be wired at: itself, and the composites it is a member of; `first` keeps
to those whose first member, or a sequence's running one, leads to it (R320, R335). -/
def gateNames (s : State) (first : Bool) : Nat → Handle → List Handle
  | 0, h => [h]
  | n + 1, h =>
    match s.targetFor h with
    | .member i k =>
      let up := match s.comps.find? fun c => c.handle == i with
        | some c => !first || k == 0 || (c.second && k == 1)
        | none => false
      if up then h :: gateNames s first n i else [h]
    | .none | .queue .. | .notice .. | .barrier .. => [h]

/-! ## Links between dies and packages (R393) -/

/-- The massif of an end of a wire: that of its spur, or of the first spur placed under its composite. -/
def State.endMassif (s : State) (e : End) : Option Nat :=
  match e.handle with
  | none => none
  | some h =>
    match s.spur? h with
    | some sp => some sp.massif
    | none => (s.spurs.find? fun x => (gateNames s false 16 x.handle).contains h).map Spur.massif

/-- The channel that the device assigns to an end (R393). -/
def End.channel : End → BitVec 8
  | .spur h p | .farm h p | .job h p => Config.linkChannel h p
  | .gate h => Config.linkChannel h 0
  | .saddle _ p => Config.linkChannel 0 p

/-- The col link between two massifs that are neighbours. -/
def colLink (m n : Nat) : BitVec 8 := Config.colLink (min m n) (max m n)

/-- The col links that a channel between two massifs takes: that of neighbours, 0 and 1, 1 and 2, 2 and 3 or 3 and 0, or the
two by way of one massif between them (R16). -/
def colLinks (m n : Nat) : List (BitVec 8) :=
  if m = n then []
  else if (m + 1) % 4 = n || (n + 1) % 4 = m then [colLink m n]
  else
    let via := if Config.viaNext (min m n) (max m n) then (min m n + 1) % 4 else (max m n + 1) % 4
    [colLink m via, colLink via n]

/-- The links that carry a wire, with its virtual channel: the saddle link to another package, or col links between two
massifs (R16, R393). -/
def State.linksOf (s : State) (w : Wire) : List (BitVec 8 × BitVec 8) :=
  match w.src, w.dst with
  | .saddle p _, e | e, .saddle p _ => [(Config.saddleLink p, e.channel)]
  | a, b =>
    match s.endMassif a, s.endMassif b with
    | some m, some n => (colLinks m n).map fun l => (l, a.channel)
    | _, _ => []

/-- A link that carries a wire has failed. -/
def State.severed (s : State) (w : Wire) : Bool := (s.linksOf w).any fun l => s.links.contains l.1

end Sys2Proof.Machine
end

