-- ==== Sys2Proof/Machine/Domains.lean ====
section
/-! DEFINITION. Domains: the directory, the control blocks, effective fields and budgets (R377 to R381), and the domain
queue table, command queue table and PASID table (R382, R385, R386). -/

namespace Sys2Proof.Machine

open Sys2Proof

/-- The effective fields of a domain (R378, R379). -/
structure Dom where
  parent : Nat
  rp : Bool
  pri : Nat
  asid : Nat
  qnt : Nat
  seed : W64
  hq : Option Nat
  ctxb : Nat
  brkb : Nat
  vltb : Nat
  iseb : Nat
  hodb : Nat
  lchb : Nat
  ctb : Nat
  stb : Nat
  stl : Nat
  dqb : Nat
  dqn : Nat
  fn : Nat
  sve : Nat
  /-- The domain whose budget limits it: itself, or the ancestor it inherits from (R380). -/
  budgetOf : Nat
  /-- The domain whose stow region it uses (R332). -/
  stowOf : Nat
  deriving DecidableEq, Repr

/-- Word `i` of a control block at `a`. -/
def dcbWord (m : List Host.Cell) (a i : Nat) : Nat := readNat m (a + 8 * i) 8

/-- A control block holds no reserved value and no nonzero reserved bit (R378, R379). -/
def dcbOk (m : List Host.Cell) (a : Nat) : Bool :=
  let w := dcbWord m a
  decide (w 0 < 2 ^ 16) && decide (w 1 < 2 ^ 12) && decide (w 2 < 2 ^ 5) && decide (w 3 < 2 ^ 16) &&
    decide (w 4 < 2 ^ 16) && decide (w 6 < 2 ^ 13) && decide (w 9 < 2 ^ 48) &&
    decide (w 10 < 2 ^ 57) && w 10 % 4096 == 0 && decide (w 11 < 2 ^ 57) && w 11 % 4096 == 0 &&
    decide (w 13 < 2 ^ 57) && w 13 % 32 == 0 && decide (1 ≤ w 14) && decide (w 14 ≤ 4096) &&
    decide (w 15 < 2 ^ 6) && decide (w 16 < 2 ^ 57) && w 16 % 8 == 0 &&
    (upTo 15).all fun i => w (17 + i) == 0

/-- A block's own fields (R378). -/
def dcbOwn (m : List Host.Cell) (a d : Nat) : Dom :=
  let w := dcbWord m a
  { parent := w 0, rp := bitsOf (w 2) 4 1 == 1, pri := bitsOf (w 2) 0 4, asid := w 3, qnt := w 4,
    seed := BitVec.ofNat 64 (w 5), hq := if bitsOf (w 6) 12 1 == 1 then some (bitsOf (w 6) 0 12) else none,
    ctxb := bitsOf (w 7) 32 32, brkb := bitsOf (w 7) 0 32, vltb := w 8, iseb := bitsOf (w 9) 32 16,
    hodb := bitsOf (w 9) 16 16, lchb := bitsOf (w 9) 0 16, ctb := w 10, stb := w 11, stl := w 12, dqb := w 13,
    dqn := w 14, fn := w 15, sve := w 16, budgetOf := d, stowOf := d }

/-- The effective fields: own where the override bit is set, else the parent's (R379). -/
def dcbMerge (ovr : Nat) (p o : Dom) : Dom :=
  let own (b : Nat) : Bool := bitsOf ovr b 1 == 1
  { parent := o.parent, pri := if own 0 then o.pri else p.pri, rp := if own 1 then o.rp else p.rp,
    asid := if own 2 then o.asid else p.asid, qnt := if own 3 then o.qnt else p.qnt,
    seed := if own 4 then o.seed else p.seed, hq := if own 5 then o.hq else p.hq,
    ctxb := if own 6 then o.ctxb else p.ctxb, brkb := if own 6 then o.brkb else p.brkb,
    vltb := if own 6 then o.vltb else p.vltb, iseb := if own 6 then o.iseb else p.iseb,
    hodb := if own 6 then o.hodb else p.hodb, lchb := if own 6 then o.lchb else p.lchb,
    ctb := if own 7 then o.ctb else p.ctb, stb := if own 8 then o.stb else p.stb,
    stl := if own 8 then o.stl else p.stl, dqb := if own 9 then o.dqb else p.dqb,
    dqn := if own 9 then o.dqn else p.dqn, fn := if own 10 then o.fn else p.fn, sve := if own 11 then o.sve else p.sve,
    budgetOf := if own 6 then o.budgetOf else p.budgetOf, stowOf := if own 8 then o.stowOf else p.stowOf }

/-- The control block of a domain, where its directory entry is present and well formed (R377) and can be read (R409, log
139). -/
def State.dcbAddr (s : State) (d : Nat) : Option Nat :=
  let at_ := (s.ctl.ddb.toNat / 2 ^ 19) * 2 ^ 19 % 2 ^ 52 + 8 * d
  let e := readNat s.mem at_ 8
  if s.spoilt [(at_, 8)] then none
  else if bitsOf e 0 1 == 1 && bitsOf e 1 7 == 0 && bitsOf e 52 12 == 0 then some (bitsOf e 8 44 * 256) else none

/-- The effective fields of a domain; `fuel` bounds the chain of parents (R377, R379). -/
def domFrom (s : State) : Nat → Nat → Option Dom
  | 0, _ => none
  | n + 1, d =>
    match s.dcbAddr d with
    | none => none
    | some a =>
      if s.spoilt [(a, 256)] || !dcbOk s.mem a then none
      else
        let o := dcbOwn s.mem a d
        if d = 0 then (if o.parent = 0 then some o else none)
        else if o.parent = d then none
        else
          match domFrom s n o.parent with
          | none => none
          | some p => some (dcbMerge (dcbWord s.mem a 1) p o)

/-- The effective fields of a domain; none where it is invalid (R379) or cannot be read (R409, log 139). Domain 0 lies within 16 steps. -/
def State.dom? (s : State) (d : Nat) : Option Dom := domFrom s 17 d

/-- The chain of domains from `d` up to domain 0. -/
def ancestors (s : State) : Nat → Nat → List Nat
  | 0, _ => []
  | n + 1, d =>
    if d = 0 then [0]
    else
      match s.dcbAddr d with
      | none => [d]
      | some a => d :: ancestors s n (dcbWord s.mem a 0 % 2 ^ 16)

/-- Domain `d` and its ancestors (R380). -/
def State.chain (s : State) (d : Nat) : List Nat := ancestors s 17 d

/-- Domain `d` is `top` or a descendant of it (R92). -/
def State.under (s : State) (top d : Nat) : Bool := (s.chain d).contains top

/-! ## What counts against a budget (R380) -/

/-- Pending launches of a domain and its descendants: pool entries taken and not freed (R340, R380). -/
def State.launchesUsed (s : State) (b : Nat) : Nat :=
  (s.claims.filter fun c => c.fromPool && s.under b c.dom).length

/-- Jobs of a domain and its descendants that have not completed; `ise` picks ISE jobs (R286). -/
def State.jobsUsed (s : State) (b : Nat) (ise : Bool) : Nat :=
  (s.jobs.filter fun j => j.st != .finished && s.under b j.cmd.dom &&
    (match j.engine with | .ise .. => ise | .hod .. | .coll => !ise)).length

/-! ## Tables of software -/

/-- A command queue descriptor (R385). -/
structure QDesc where
  v : Bool
  sys : Bool
  df : Bool
  lgs : Nat
  pasid : Nat
  dom : Nat
  ring : Nat
  head : Nat
  tv : Bool
  tq : Nat
  ok : Bool
  deriving DecidableEq, Repr

/-- Where descriptor `q` lies. -/
def State.qAddr (s : State) (q : Nat) : Nat := s.ctl.cqb.toNat / 2 ^ 18 * 2 ^ 18 % 2 ^ 52 + 64 * q

/-- Read a command queue descriptor (R385); one that cannot be read describes no queue (R409, log 139). -/
def State.qDesc (s : State) (q : Nat) : QDesc :=
  let w (i : Nat) := readNat s.mem (s.qAddr q + 8 * i) 8
  let lgs := bitsOf (w 0) 48 8
  { v := bitsOf (w 0) 63 1 == 1 && !s.spoilt [(s.qAddr q, 64)], sys := bitsOf (w 0) 62 1 == 1, df := bitsOf (w 0) 61 1 == 1, lgs := lgs,
    pasid := bitsOf (w 0) 16 20, dom := bitsOf (w 0) 0 16, ring := bitsOf (w 1) 0 57, head := bitsOf (w 2) 32 32,
    tv := bitsOf (w 3) 12 1 == 1, tq := bitsOf (w 3) 0 12,
    ok := bitsOf (w 0) 56 5 == 0 && bitsOf (w 0) 36 12 == 0 && decide (w 1 < 2 ^ 57) && w 1 % 64 == 0 &&
      bitsOf (w 2) 0 32 == 0 && decide (w 3 < 2 ^ 13) && decide (1 ≤ lgs) && decide (lgs ≤ 16) &&
      (upTo 4).all fun i => w (4 + i) == 0 }

/-- Write the DF bit of a descriptor (R385). -/
def State.setDefunct (s : State) (q : Nat) : State :=
  let a := s.qAddr q
  let w := readNat s.mem a 8
  if bitsOf w 61 1 = 1 then s else { s with mem := writeNat s.mem a 8 (w + 2 ^ 61) }

/-- Write the HEAD field of a descriptor (R387). -/
def State.setHead (s : State) (q head : Nat) : State :=
  { s with mem := writeNat s.mem (s.qAddr q + 20) 4 (head % 2 ^ 32) }

/-- The ASID a PASID is bound to (R386); an entry that cannot be read binds none (R409, log 139). -/
def State.pasid (s : State) (p : Nat) : Option Nat :=
  let at_ := s.ctl.ptb.toNat / 2 ^ 23 * 2 ^ 23 % 2 ^ 52 + 8 * p
  let e := readNat s.mem at_ 8
  if bitsOf e 16 1 == 1 && !s.spoilt [(at_, 8)] then some (bitsOf e 0 16) else none

end Sys2Proof.Machine
end

