-- ==== Sys2Proof/Machine/Jobs.lean ====
section
/-! DEFINITION. The fields of job cards (R222, R294), the data ports that jobs name (R285), and the commands of a round. -/

namespace Sys2Proof.Machine

open Sys2Proof

/-! ## Cards -/

/-- Word `i` of a job's card. -/
def Job.w (j : Job) (i : Nat) : Nat := (nth j.card i 0).toNat

/-- Fields of an ISE card (R222). -/
def Job.count (j : Job) : Nat := bitsOf (j.w 0) 32 32
/-- Element bytes. -/
def Job.esz (j : Job) : Nat := 2 ^ bitsOf (j.w 0) 12 4
/-- Two levels. -/
def Job.two (j : Job) : Bool := bitsOf (j.w 0) 10 2 == 1
/-- Bytes of an index. -/
def Job.iw (j : Job) : Nat := 2 * 2 ^ bitsOf (j.w 0) 8 2
/-- The kind of a card. -/
def Job.kind (j : Job) : Nat := bitsOf (j.w 0) 0 4
/-- The edge port of an ISE card. -/
def Job.port (j : Job) : Nat := bitsOf (j.w 3) 32 16
/-- The bound of an ISE card's indices. -/
def Job.bound (j : Job) : Nat := bitsOf (j.w 3) 0 32

/-- Fields of a hod card (R294): elements of a row, middle and outer counts. -/
def Job.counts (j : Job) : Nat × Nat × Nat := (bitsOf (j.w 0) 48 16, bitsOf (j.w 0) 32 16, bitsOf (j.w 0) 16 16)
/-- The source format. -/
def Job.sfmt (j : Job) : Nat := bitsOf (j.w 0) 12 4
/-- The destination format. -/
def Job.dfmt (j : Job) : Nat := bitsOf (j.w 0) 8 4
/-- The source is a data port. -/
def Job.sp (j : Job) : Bool := bitsOf (j.w 1) 63 1 == 1
/-- There is no source but a pattern. -/
def Job.fl (j : Job) : Bool := bitsOf (j.w 1) 62 1 == 1
/-- The destination is a data port. -/
def Job.dp (j : Job) : Bool := bitsOf (j.w 2) 63 1 == 1
/-- The source field. -/
def Job.src (j : Job) : Nat := bitsOf (j.w 1) 0 57
/-- The destination field. -/
def Job.dst (j : Job) : Nat := bitsOf (j.w 2) 0 57
/-- The outbound data port that a job takes tokens from: a hod's source, a scatter's data, or indices that arrive as tokens
(R222, R223, R294). -/
def Job.takesAt (j : Job) : Option Nat :=
  match j.cmd.cls with
  | .hod => if j.sp then some j.src else none
  | .isq | .probe => if j.kind = 2 || j.w 1 = 0 then some j.port else none
  | .coll | .unpin => none

/-- A command or a job is a spur's. -/
def Cmd.of (c : Cmd) (h : Handle) : Bool := match c.who with | .ctx x => x.h == h | .thread x => x == h

/-- The spur has a command that is not accepted or a job that has not completed. -/
def State.jobsOf (s : State) (h : Handle) : Bool := (s.cmdq.any fun c => c.2.of h) || s.jobs.any fun j => j.cmd.of h

/-- An engine takes tokens at an outbound data port of a spur: a job that names it is there, or a command whose card is not
read yet may name it (R285, R318, log 11). -/
def State.portWanted (s : State) (h : Handle) (p : BitVec 8) : Bool :=
  (s.cmdq.any fun c => c.2.of h) || s.jobs.any fun j => j.cmd.of h && j.takesAt == some p.toNat

/-- Commands of an agent that wait in its output queue or engine port `n` for their engine (R286). -/
def State.cmdsAt (s : State) (w : AgentId) (n : BitVec 3) : Nat :=
  (s.cmdq.filter fun c => c.2.who == w && c.2.from_ == n).length

end Sys2Proof.Machine
end

