-- ==== Sys2Proof/WellFormed.lean ====
section
/-! DEFINITION. When an instruction is well formed: the checks of R46, R47, R71, R145, R197, R211 and R301 that can be
read off one instruction word, each with its check code. -/

namespace Sys2Proof

/-- Why a word is no instruction: the check that fails (R46, R47, R71, R145, R197, R211, R301). -/
inductive DecodeError where
  | unassigned | formIllegal | reservedField | reservedOperand | operandUse | unusedNonzero
  | guardPv | guardTe | guardCk | guardIndex | outputNotOq | immRange | xNonzero | guardOff | privileged
  | splitKind | controlToken | operandKind | operandRule | matrix | sparse | engine
  deriving DecidableEq, Repr

/-- The check code of a failing check. -/
def DecodeError.code : DecodeError → Nat
  | .unassigned => 1 | .formIllegal => 2 | .reservedField => 3 | .reservedOperand => 4 | .operandUse => 5
  | .unusedNonzero => 6 | .guardPv => 7 | .guardTe => 8 | .guardCk => 9 | .guardIndex => 10 | .outputNotOq => 11
  | .immRange => 12 | .xNonzero => 13 | .guardOff => 14 | .privileged => 15 | .splitKind => 19
  | .controlToken => 20 | .operandKind => 21 | .operandRule => 23 | .matrix => 24 | .sparse => 25 | .engine => 27

/-- One check: whether it fails, and its name. -/
abbrev Chk := Bool × DecodeError

/-- The failing check of least code, if any check fails (R46, R47: the lowest failing code is reported). -/
def leastFail : List Chk → Option DecodeError
  | [] => none
  | (false, _) :: l => leastFail l
  | (true, e) :: l =>
    match leastFail l with
    | none => some e
    | some e' => if e'.code < e.code then some e' else some e

/-- The guard checks of R36. -/
def BGuard.checks (g : BGuard) : List Chk :=
  [(g.pv &&& ~~~g.pm != 0, .guardPv),
   (g.te && !g.iae, .guardTe),
   (g.ck && (!g.ibe || g.ib.getLsbD 2), .guardCk),
   ((!g.iae && g.ia != 0) || (!g.ibe && g.ib != 0) || (!g.oe && g.oq != 0) || (g.iae && !g.te && g.tg != 0) ||
      (g.iae && g.ibe && !g.ck && g.ia == g.ib), .guardIndex)]

/-- The guard checks of R39: `usesX` says whether the opcode uses the extension. -/
def SGuard.checks (usesX : Bool) (g : SGuard) : List Chk :=
  [(!usesX && g.x != 0, .xNonzero), (!g.ge && (g.gs || g.gf != 0), .guardOff)]

/-- The guard checks of an instruction that is legal in either form. -/
def Guard.checks (usesX : Bool) : Guard → List Chk
  | .b g => g.checks
  | .s g => g.checks usesX

/-- Queue `n` is named by the guard as IA, or as IB with CK = 0 (R34). -/
def BGuard.namesIn (g : BGuard) (n : BitVec 3) : Bool :=
  (g.iae && g.ia == n) || (g.ibe && !g.ck && g.ib == n)

/-- Output `n` is the guard's OQ (R34). -/
def BGuard.namesOut (g : BGuard) (n : BitVec 3) : Bool := g.oe && g.oq == n

/-- The operand is a name of the form (R33). -/
def Opnd.inForm : Form → Opnd → Bool
  | .brick, .g _ | .brick, .f _ | .brick, .e _ | .brick, .pc | .brick, .rid | .brick, .dom => false
  | .brick, _ => true
  | .seq, .g _ | .seq, .f _ | .seq, .e _ | .seq, .pc | .seq, .rid | .seq, .dom | .seq, .z => true
  | .seq, _ => false

/-- The operand may be read (R33, R34). -/
def Opnd.srcOk : Guard → Opnd → Bool
  | .b gd, .i n | .b gd, .iDeq n => gd.namesIn n
  | .b gd, .tg | .b gd, .hdr | .b gd, .scl => gd.iae
  | .b _, .d _ | .b _, .q _ | .b _, .sa | .b _, .sb | .b _, .z | .b _, .bk | .b _, .rw | .b _, .cl
  | .b _, .rnd | .b _, .cyc => true
  | .s _, .g _ | .s _, .f _ | .s _, .pc | .s _, .rid | .s _, .dom | .s _, .z => true
  | _, _ => false

/-- The operand may be written, as far as its Use column says (R33). -/
def Opnd.dstUse : Guard → Opnd → Bool
  | .b _, .d _ | .b _, .q _ | .b _, .o _ | .b _, .sw | .b _, .z => true
  | .s _, .g _ | .s _, .f _ | .s _, .e _ | .s _, .z => true
  | _, _ => false

/-- A destination output queue is the guard's OQ (R34). -/
def Opnd.outOk : Guard → Opnd → Bool
  | .b gd, .o n => gd.namesOut n
  | _, _ => true

/-- The operand is a register of the form: `d0` to `d15` or `g0` to `g31` (R144). -/
def Opnd.isReg : Opnd → Bool
  | .d _ | .g _ => true
  | _ => false

/-- The operand is a predicate (R33). -/
def Opnd.isPred : Opnd → Bool
  | .q _ | .f _ => true
  | _ => false

/-- The operand names a queue head. -/
def Opnd.isHead : Opnd → Bool
  | .i _ | .iDeq _ => true
  | _ => false

/-- The operand names an engine port. -/
def Opnd.isE : Opnd → Bool
  | .e _ => true
  | _ => false

/-- The operand names an output queue. -/
def Opnd.isOut : Opnd → Bool
  | .o _ => true
  | _ => false

/-- The operand is a vector operand, `sa` or `sb` (R167). -/
def Opnd.isVec : Opnd → Bool
  | .sa | .sb => true
  | _ => false

/-- The operand is the head of the guard's IA. -/
def Opnd.isIA (g : BGuard) : Opnd → Bool
  | .i n | .iDeq n => g.iae && g.ia == n
  | _ => false

/-- The operand is the head of the guard's IA, not dequeued (R210). -/
def Opnd.isIAKeep (g : BGuard) : Opnd → Bool
  | .i n => g.iae && g.ia == n
  | _ => false

/-- The operand is the head of the guard's IB with CK = 0, not dequeued (R210). -/
def Opnd.isIBKeep (g : BGuard) : Opnd → Bool
  | .i n => g.ibe && !g.ck && g.ib == n
  | _ => false

/-- Checks of a source operand. -/
def srcC (g : Guard) (o : Opnd) : List Chk := [(!o.srcOk g, .operandUse)]

/-- Checks of a destination operand; `e0` to `e7` belong to the engine instructions (R143). -/
def dstC (g : Guard) (o : Opnd) : List Chk :=
  [(!o.dstUse g, .operandUse), (!o.outOk g, .outputNotOq), (o.isE, .operandRule)]

/-- Checks of a destination of an engine instruction, which may name `e0` to `e7` (R143). -/
def dstEC (g : Guard) (o : Opnd) : List Chk := [(!o.dstUse g, .operandUse), (!o.outOk g, .outputNotOq)]

/-- Checks of a destination that must be a register (R145). -/
def regC (g : Guard) (o : Opnd) : List Chk := dstC g o ++ [(!o.isReg, .operandRule)]

/-- Checks of a predicate operand of `plog` (R71). -/
def predC (g : Guard) (dst : Bool) (o : Opnd) : List Chk :=
  (if dst then dstC g o else srcC g o) ++ [(!o.isPred, .operandKind)]

/-- Checks of an operand that must be a queue head, or `z` where `zOk` (R71). -/
def headC (g : Guard) (zOk : Bool) (o : Opnd) : List Chk :=
  srcC g o ++ [(!(o.isHead || (zOk && o == .z)), .operandKind)]

/-- Checks of a D that must be the guard's output queue, with the code that its instruction gives. -/
def oqC (g : BGuard) (e : DecodeError) (o : Opnd) : List Chk := dstC (.b g) o ++ [(!o.isOut, e)]

/-- Checks of an engine port (R301). -/
def engC : Guard → Opnd → List Chk
  | .b g, o => dstEC (.b g) o ++ [(!o.isOut, .engine)]
  | .s g, o => dstEC (.s g) o ++ [(!o.isE, .engine)]

/-- Checks of a D that must be a `g` register or `z` (R98, R276). -/
def gzC (o : Opnd) : List Chk :=
  [(!(match o with | .g _ => true | .z => true | _ => false), .operandUse)]

/-- The addend rule of R144. -/
def addendC : Guard → Opnd → List Chk
  | .b g, o => [(!(o.isReg || (g.ibe && !g.ck)), .operandRule)]
  | .s _, o => [(!o.isReg, .operandRule)]

/-- The immediate of layout I12, as R29 reads it. -/
def imm12 : Guard → BitVec 12 → Int
  | .b _, i => i.toInt
  | .s g, i => (g.x ++ i).toInt

/-- The immediate of layout C9, as R29 reads it. -/
def imm9 : Guard → BitVec 9 → Int
  | .b _, i => i.toInt
  | .s g, i => (g.x ++ i).toInt

/-- The immediate of layout I18, as R29 reads it. -/
def imm18 : Guard → BitVec 18 → Int
  | .b _, i => i.toInt
  | .s g, i => (g.x ++ i).toInt

/-- Shift amounts lie in 0 to 31 in B-form and 0 to 63 in S-form (R29, R146). -/
def shiftC (g : Guard) (i : BitVec 12) : List Chk :=
  [(!(0 ≤ imm12 g i && imm12 g i < (match g with | .b _ => 32 | .s _ => 64)), .immRange)]

/-- The range of the immediate of `movhi` (R146). -/
def movhiC : Guard → BitVec 18 → List Chk
  | .b _, i => [(i.extractLsb' 16 2 != 0, .immRange)]
  | .s g, _ => [(g.x.extractLsb' 14 13 != 0, .immRange)]

/-- The control registers of R91; a B-form `crd` reaches only those of a context. -/
def cregOk : Form → BitVec 12 → Bool
  | .brick, c => 0x100 ≤ c.toNat && c.toNat ≤ 0x103
  | .seq, c => (c.toNat ≤ 0x00A && c.toNat != 0x007) || (0x100 ≤ c.toNat && c.toNat ≤ 0x103)

/-- Every check that one instruction must pass, other than those on bits that its fields do not hold. -/
def Instr.checks : Instr → List Chk
  | .nop g => g.checks false
  | .pset g a b => g.checks false ++ srcC g a ++ srcC g b
  | .pand g d a b => g.checks false ++ predC g true d ++ predC g false a ++ predC g false b
  | .por g d a b => g.checks false ++ predC g true d ++ predC g false a ++ predC g false b
  | .pxor g d a b => g.checks false ++ predC g true d ++ predC g false a ++ predC g false b
  | .pandn g d a b => g.checks false ++ predC g true d ++ predC g false a ++ predC g false b
  | .pnot g d a => g.checks false ++ predC g true d ++ predC g false a
  | .pmov g d a => g.checks false ++ predC g true d ++ predC g false a
  | .sel g _ d a b => g.checks ++ dstC (.b g) d ++ srcC (.b g) a ++ srcC (.b g) b
  | .steer g d a => g.checks ++ oqC g .splitKind d ++ srcC (.b g) a ++ [(!g.ck, .controlToken)]
  | .merge g d a =>
    g.checks ++ dstC (.b g) d ++ srcC (.b g) a ++ [(!a.isIA g, .operandUse)] ++ [(!g.ck, .controlToken)]
  | .mergeAny g d a =>
    g.checks ++ dstC (.b g) d ++ srcC (.b g) a ++ [(!a.isIA g, .operandUse)] ++ [(g.ibe, .controlToken)]
  | .gate g d a => g.checks ++ dstC (.b g) d ++ srcC (.b g) a ++ [(!g.ck, .controlToken)]
  | .done g => g.checks
  | .brk g _ => g.checks false
  | .trap g _ a => g.checks false ++ srcC g a
  | .mark g _ a => g.checks false ++ srcC g a
  | .sett g _ a => g.checks ++ srcC (.b g) a
  | .seamO g _ => g.checks
  | .seamJ g _ => g.checks
  | .seamAll g => g.checks
  | .deq g a b => g.checks ++ headC (.b g) true a ++ headC (.b g) true b
  | .kput g _ a => g.checks ++ srcC (.b g) a
  | .kget g d => g.checks ++ dstC (.b g) d ++ [(!g.ck, .controlToken)]
  | .add g d a b => g.checks false ++ dstC g d ++ srcC g a ++ srcC g b
  | .sub g d a b => g.checks false ++ dstC g d ++ srcC g a ++ srcC g b
  | .addi g d a _ => g.checks true ++ dstC g d ++ srcC g a
  | .mul g d a b => g.checks false ++ dstC g d ++ srcC g a ++ srcC g b
  | .mulh g d a b => g.checks false ++ dstC g d ++ srcC g a ++ srcC g b
  | .mulhu g d a b => g.checks false ++ dstC g d ++ srcC g a ++ srcC g b
  | .div g d a b => g.checks false ++ dstC g d ++ srcC g a ++ srcC g b
  | .divu g d a b => g.checks false ++ dstC g d ++ srcC g a ++ srcC g b
  | .rem g d a b => g.checks false ++ dstC g d ++ srcC g a ++ srcC g b
  | .remu g d a b => g.checks false ++ dstC g d ++ srcC g a ++ srcC g b
  | .and g d a b => g.checks false ++ dstC g d ++ srcC g a ++ srcC g b
  | .andi g d a _ => g.checks true ++ dstC g d ++ srcC g a
  | .or g d a b => g.checks false ++ dstC g d ++ srcC g a ++ srcC g b
  | .ori g d a _ => g.checks true ++ dstC g d ++ srcC g a
  | .xor g d a b => g.checks false ++ dstC g d ++ srcC g a ++ srcC g b
  | .xori g d a _ => g.checks true ++ dstC g d ++ srcC g a
  | .shl g d a b => g.checks false ++ dstC g d ++ srcC g a ++ srcC g b
  | .shli g d a imm => g.checks true ++ dstC g d ++ srcC g a ++ shiftC g imm
  | .shr g d a b => g.checks false ++ dstC g d ++ srcC g a ++ srcC g b
  | .shri g d a imm => g.checks true ++ dstC g d ++ srcC g a ++ shiftC g imm
  | .sra g d a b => g.checks false ++ dstC g d ++ srcC g a ++ srcC g b
  | .srai g d a imm => g.checks true ++ dstC g d ++ srcC g a ++ shiftC g imm
  | .rotl g d a b => g.checks false ++ dstC g d ++ srcC g a ++ srcC g b
  | .clz g d a => g.checks false ++ dstC g d ++ srcC g a
  | .ctz g d a => g.checks false ++ dstC g d ++ srcC g a
  | .popc g d a => g.checks false ++ dstC g d ++ srcC g a
  | .min g d a b => g.checks false ++ dstC g d ++ srcC g a ++ srcC g b
  | .max g d a b => g.checks false ++ dstC g d ++ srcC g a ++ srcC g b
  | .minu g d a b => g.checks false ++ dstC g d ++ srcC g a ++ srcC g b
  | .maxu g d a b => g.checks false ++ dstC g d ++ srcC g a ++ srcC g b
  | .abs g d a => g.checks false ++ dstC g d ++ srcC g a
  | .neg g d a => g.checks false ++ dstC g d ++ srcC g a
  | .cmpeq g d a b => g.checks false ++ dstC g d ++ srcC g a ++ srcC g b
  | .cmpne g d a b => g.checks false ++ dstC g d ++ srcC g a ++ srcC g b
  | .cmplt g d a b => g.checks false ++ dstC g d ++ srcC g a ++ srcC g b
  | .cmpltu g d a b => g.checks false ++ dstC g d ++ srcC g a ++ srcC g b
  | .cmple g d a b => g.checks false ++ dstC g d ++ srcC g a ++ srcC g b
  | .cmpleu g d a b => g.checks false ++ dstC g d ++ srcC g a ++ srcC g b
  | .cmpeqi g d a _ => g.checks true ++ dstC g d ++ srcC g a
  | .cmpnei g d a _ => g.checks true ++ dstC g d ++ srcC g a
  | .cmplti g d a _ => g.checks true ++ dstC g d ++ srcC g a
  | .cmpltui g d a _ => g.checks true ++ dstC g d ++ srcC g a
  | .cmplei g d a _ => g.checks true ++ dstC g d ++ srcC g a
  | .cmpleui g d a _ => g.checks true ++ dstC g d ++ srcC g a
  | .movi g d _ => g.checks true ++ dstC g d
  | .movhi g d imm => g.checks true ++ regC g d ++ movhiC g imm
  | .bfx g d a b => g.checks false ++ dstC g d ++ srcC g a ++ srcC g b
  | .bfxS g d a b => g.checks false ++ dstC g d ++ srcC g a ++ srcC g b
  | .bfi g d a b => g.checks false ++ regC g d ++ srcC g a ++ srcC g b
  | .adds g d a b => g.checks false ++ dstC g d ++ srcC g a ++ srcC g b
  | .subs g d a b => g.checks false ++ dstC g d ++ srcC g a ++ srcC g b
  | .madd g d a b => g.checks false ++ dstC g d ++ srcC g a ++ srcC g b ++ addendC g d
  | .lea g _ d a b => g.checks false ++ dstC g d ++ srcC g a ++ srcC g b
  | .fadd g _ _ d a b => g.checks false ++ dstC g d ++ srcC g a ++ srcC g b
  | .fsub g _ _ d a b => g.checks false ++ dstC g d ++ srcC g a ++ srcC g b
  | .fmul g _ _ d a b => g.checks false ++ dstC g d ++ srcC g a ++ srcC g b
  | .ffma g _ _ d a b => g.checks false ++ dstC g d ++ srcC g a ++ srcC g b ++ addendC g d
  | .ffms g _ _ d a b => g.checks false ++ dstC g d ++ srcC g a ++ srcC g b ++ addendC g d
  | .fdiv g _ _ d a b => g.checks false ++ dstC g d ++ srcC g a ++ srcC g b
  | .fsqrt g _ _ d a => g.checks false ++ dstC g d ++ srcC g a
  | .frsq g _ _ d a => g.checks false ++ dstC g d ++ srcC g a
  | .fexp2 g _ _ d a => g.checks false ++ dstC g d ++ srcC g a
  | .flog2 g _ _ d a => g.checks false ++ dstC g d ++ srcC g a
  | .fmin g _ _ d a b => g.checks false ++ dstC g d ++ srcC g a ++ srcC g b
  | .fmax g _ _ d a b => g.checks false ++ dstC g d ++ srcC g a ++ srcC g b
  | .fabs g _ d a => g.checks false ++ dstC g d ++ srcC g a
  | .fneg g _ d a => g.checks false ++ dstC g d ++ srcC g a
  | .fcmpeq g _ d a b => g.checks false ++ dstC g d ++ srcC g a ++ srcC g b
  | .fcmplt g _ d a b => g.checks false ++ dstC g d ++ srcC g a ++ srcC g b
  | .fcmple g _ d a b => g.checks false ++ dstC g d ++ srcC g a ++ srcC g b
  | .fcmpun g _ d a b => g.checks false ++ dstC g d ++ srcC g a ++ srcC g b
  | .fclass g _ d a => g.checks false ++ dstC g d ++ srcC g a
  | .fround g _ _ d a => g.checks false ++ dstC g d ++ srcC g a
  | .fcvti g _ _ _ d a => g.checks false ++ dstC g d ++ srcC g a
  | .icvtf g _ _ _ d a => g.checks false ++ dstC g d ++ srcC g a
  | .fscale g _ _ d a b => g.checks false ++ dstC g d ++ srcC g a ++ srcC g b
  | .sopen g _ _ a b => g.checks ++ srcC (.b g) a ++ srcC (.b g) b
  | .sopenRe g _ _ => g.checks
  | .sclose g _ d => g.checks ++ dstC (.b g) d
  | .vadd g fmt rm a b =>
    g.checks ++ srcC (.b g) a ++ srcC (.b g) b ++ [(!(a.isVec || b.isVec), .operandRule)] ++ [(fmt == .i8 && rm != .rne, .reservedField)]
  | .vsub g fmt rm a b =>
    g.checks ++ srcC (.b g) a ++ srcC (.b g) b ++ [(!(a.isVec || b.isVec), .operandRule)] ++ [(fmt == .i8 && rm != .rne, .reservedField)]
  | .vmul g _ _ a b => g.checks ++ srcC (.b g) a ++ srcC (.b g) b ++ [(!(a.isVec || b.isVec), .operandRule)]
  | .vfma g _ _ a => g.checks ++ srcC (.b g) a ++ [(a.isVec, .operandRule)]
  | .vaxpy g _ _ a => g.checks ++ srcC (.b g) a ++ [(a.isVec, .operandRule)]
  | .vmin g _ _ a b => g.checks ++ srcC (.b g) a ++ srcC (.b g) b ++ [(!(a.isVec || b.isVec), .operandRule)]
  | .vmax g _ _ a b => g.checks ++ srcC (.b g) a ++ srcC (.b g) b ++ [(!(a.isVec || b.isVec), .operandRule)]
  | .vabs g _ a => g.checks ++ srcC (.b g) a ++ [(!a.isVec, .operandRule)]
  | .vneg g _ a => g.checks ++ srcC (.b g) a ++ [(!a.isVec, .operandRule)]
  | .vsel g _ a b => g.checks ++ srcC (.b g) a ++ srcC (.b g) b ++ [(!(a.isVec || b.isVec), .operandRule)]
  | .vcmp g _ _ d a b =>
    g.checks ++ dstC (.b g) d ++ srcC (.b g) a ++ srcC (.b g) b ++ [(!(a.isVec || b.isVec), .operandRule)] ++ [(d == .sw, .operandRule)]
  | .vredsum g fmt rm d a =>
    g.checks ++ regC (.b g) d ++ srcC (.b g) a ++ [(!a.isVec, .operandRule)] ++ [(fmt == .i8 && rm != .rne, .reservedField)]
  | .vredmax g _ _ d a => g.checks ++ regC (.b g) d ++ srcC (.b g) a ++ [(!a.isVec, .operandRule)]
  | .vamax g _ d a => g.checks ++ regC (.b g) d ++ srcC (.b g) a ++ [(!a.isVec, .operandRule)]
  | .vscan g _ _ a b =>
    g.checks ++ srcC (.b g) a ++ srcC (.b g) b ++ [(!b.dstUse (.b g), .operandUse)] ++ [(!a.isVec, .operandRule)] ++ [(!b.isReg, .operandRule)]
  | .vexp2 g _ _ a => g.checks ++ srcC (.b g) a ++ [(!a.isVec, .operandRule)]
  | .vrsq g _ _ a => g.checks ++ srcC (.b g) a ++ [(!a.isVec, .operandRule)]
  | .vcvt g _ a => g.checks ++ srcC (.b g) a ++ [(!a.isVec, .operandRule)]
  | .vqnt g a b =>
    g.checks ++ srcC (.b g) a ++ srcC (.b g) b ++ [(!a.isVec, .operandRule)] ++ [(b.isVec, .operandRule)]
  | .vdqnt g _ a b =>
    g.checks ++ srcC (.b g) a ++ srcC (.b g) b ++ [(!a.isVec, .operandRule)] ++ [(b.isVec, .operandRule)]
  | .cvt g _ d a _ _ => g.checks false ++ dstC g d ++ srcC g a
  | .qnt g _ d a b => g.checks false ++ dstC g d ++ srcC g a ++ srcC g b
  | .dqnt g _ _ d a b => g.checks false ++ dstC g d ++ srcC g a ++ srcC g b
  | .scalex g _ d a => g.checks false ++ dstC g d ++ srcC g a
  | .limb g d a => g.checks false ++ dstC g d ++ srcC g a
  | .unlimb g d a => g.checks false ++ dstC g d ++ srcC g a
  | .packH g d a b => g.checks false ++ dstC g d ++ srcC g a ++ srcC g b
  | .packB g d a b => g.checks false ++ dstC g d ++ srcC g a ++ srcC g b ++ addendC g d
  | .packN g d a b => g.checks false ++ dstC g d ++ srcC g a ++ srcC g b ++ addendC g d
  | .unpackH g _ d a b => g.checks false ++ dstC g d ++ srcC g a ++ srcC g b
  | .unpackB g _ d a b => g.checks false ++ dstC g d ++ srcC g a ++ srcC g b
  | .unpackN g _ d a b => g.checks false ++ dstC g d ++ srcC g a ++ srcC g b
  | .hdr g d a b =>
    g.checks false ++ dstC g d ++ srcC g a ++ srcC g b ++ [(!(match g with | .b _ => d.isOut | .s _ => d.isReg), .operandRule)]
  | .hdrget g _ d a =>
    g.checks false ++ dstC g d ++ srcC g a ++ [(!(match g with | .b _ => a.isHead | .s _ => a.isReg), .operandRule)]
  | .oclaim g ms xs => g.checks ++ [(ms == 0 && xs == 0, .matrix)]
  | .orelease g ms xs => g.checks ++ [(ms == 0 && xs == 0, .matrix)]
  | .ofillBank g _ _ a b => g.checks ++ srcC (.b g) a ++ srcC (.b g) b
  | .ofillBus g _ _ => g.checks
  | .ostat g _ d => g.checks ++ dstC (.b g) d
  | .mbind g _ a => g.checks ++ srcC (.b g) a
  | .mzero g n => g.checks ++ [(n == 3, .matrix)]
  | .mmacK8 g _ n _ _ => g.checks ++ [(n == 3, .matrix)]
  | .mmacK4 g _ n _ _ => g.checks ++ [(n == 3, .matrix)]
  | .mmacK16 g _ p q => g.checks ++ [(p.getLsbD 0 || q.getLsbD 0, .matrix)]
  | .mreconI64 g k16 n a => g.checks ++ srcC (.b g) a ++ [(n == 3, .matrix)] ++ [(k16 && n != 0, .matrix)]
  | .mreconF32 g k16 n a => g.checks ++ srcC (.b g) a ++ [(n == 3, .matrix)] ++ [(k16 && n != 0, .matrix)]
  | .mreconF32Add g k16 n a => g.checks ++ srcC (.b g) a ++ [(n == 3, .matrix)] ++ [(k16 && n != 0, .matrix)]
  | .mdrain g n a => g.checks ++ srcC (.b g) a ++ [(n == 3, .matrix)]
  | .mdrainZ g n a => g.checks ++ srcC (.b g) a ++ [(n == 3, .matrix)]
  | .trienc g d a => g.checks ++ dstC (.b g) d ++ srcC (.b g) a
  | .tridec g d a => g.checks ++ dstC (.b g) d ++ srcC (.b g) a
  | .triadd g d a b => g.checks ++ dstC (.b g) d ++ srcC (.b g) a ++ srcC (.b g) b
  | .trimul g d a b => g.checks ++ dstC (.b g) d ++ srcC (.b g) a ++ srcC (.b g) b
  | .scanb g _ _ d a b =>
    g.checks ++ oqC g .sparse d ++ srcC (.b g) a ++ srcC (.b g) b ++ [(!(a.isIAKeep g && (b.isIBKeep g || (b == .z && !g.ibe))), .sparse)]
  | .scant g _ k d a b =>
    g.checks ++ oqC g .sparse d ++ srcC (.b g) a ++ srcC (.b g) b ++ [(!(a.isIAKeep g && (b.isIBKeep g || (b == .z && !g.ibe))), .sparse)] ++ [(decide (13 < k.toNat), .sparse)]
  | .isect g _ d a b =>
    g.checks ++ oqC g .sparse d ++ srcC (.b g) a ++ srcC (.b g) b ++ [(!(a.isIAKeep g && b.isIBKeep g), .sparse)]
  | .union g _ d a b =>
    g.checks ++ oqC g .sparse d ++ srcC (.b g) a ++ srcC (.b g) b ++ [(!(a.isIAKeep g && b.isIBKeep g), .sparse)]
  | .stopt g d a => g.checks ++ oqC g .operandUse d ++ srcC (.b g) a
  | .stoptImm g _ d => g.checks ++ oqC g .operandUse d
  | .stopqLower g d a => g.checks ++ oqC g .operandUse d ++ srcC (.b g) a ++ [(!a.isIA g, .sparse)]
  | .stopqRaise g d a => g.checks ++ oqC g .operandUse d ++ srcC (.b g) a ++ [(!a.isIA g, .sparse)]
  | .spaccFadd g _ _ a b => g.checks ++ srcC (.b g) a ++ srcC (.b g) b
  | .spaccAdd g _ a b => g.checks ++ srcC (.b g) a ++ srcC (.b g) b
  | .spaccFmax g _ a b => g.checks ++ srcC (.b g) a ++ srcC (.b g) b
  | .spdrain g _ d => g.checks ++ oqC g .operandUse d
  | .spdrainV g _ d => g.checks ++ oqC g .operandUse d
  | .part g _ d a => g.checks ++ oqC g .splitKind d ++ srcC (.b g) a
  | .isq g w d a => g.checks false ++ engC g d ++ srcC g a ++ [(g.form == .seq && w != 0, .unusedNonzero)]
  | .probe g w d a => g.checks false ++ engC g d ++ srcC g a ++ [(g.form == .seq && w != 0, .unusedNonzero)]
  | .unpin g w d a => g.checks false ++ engC g d ++ srcC g a ++ [(g.form == .seq && w != 0, .unusedNonzero)]
  | .hod g w d a => g.checks false ++ engC g d ++ srcC g a ++ [(g.form == .seq && w != 0, .unusedNonzero)]
  | .coll g w d a =>
    g.checks false ++ engC g d ++ srcC g a ++ [(g.form == .seq && w != 0, .unusedNonzero)] ++ [(g.form == .seq && d != .e 0, .engine)]
  | .jobwait g w d a => g.checks false ++ dstEC g d ++ srcC g a ++ [(g.form == .seq && w != 0, .unusedNonzero)]
  | .ldb g _ d a b => g.checks ++ dstC (.b g) d ++ srcC (.b g) a ++ srcC (.b g) b
  | .stb g _ v a b => g.checks ++ srcC (.b g) v ++ srcC (.b g) a ++ srcC (.b g) b
  | .ldv g _ d a b => g.checks true ++ dstC g d ++ srcC g a ++ srcC g b
  | .stv g _ v a b => g.checks true ++ srcC g v ++ srcC g a ++ srcC g b
  | .ldg g _ w d a b =>
    g.checks true ++ dstC g d ++ srcC g a ++ srcC g b ++ [(g.form == .seq && w != 0, .reservedField)]
  | .stg g _ w v a b =>
    g.checks true ++ srcC g v ++ srcC g a ++ srcC g b ++ [(g.form == .seq && w != 0, .reservedField)]
  | .ldp g w d a b =>
    g.checks true ++ dstC g d ++ srcC g a ++ srcC g b ++ [(g.form == .seq && w != 0, .reservedField)]
  | .stp g w v a b =>
    g.checks true ++ srcC g v ++ srcC g a ++ srcC g b ++ [(g.form == .seq && w != 0, .reservedField)]
  | .clrp g w v a b =>
    g.checks true ++ srcC g v ++ srcC g a ++ srcC g b ++ [(g.form == .seq && w != 0, .reservedField)]
  | .pref g w a b => g.checks true ++ srcC g a ++ srcC g b ++ [(g.form == .seq && w != 0, .reservedField)]
  | .amoadd g _ _ w _ _ _ => g.checks true ++ [(g.form == .seq && w != 0, .reservedField)]
  | .amoand g _ _ w _ _ _ => g.checks true ++ [(g.form == .seq && w != 0, .reservedField)]
  | .amoor g _ _ w _ _ _ => g.checks true ++ [(g.form == .seq && w != 0, .reservedField)]
  | .amoxor g _ _ w _ _ _ => g.checks true ++ [(g.form == .seq && w != 0, .reservedField)]
  | .amomin g _ _ w _ _ _ => g.checks true ++ [(g.form == .seq && w != 0, .reservedField)]
  | .amomax g _ _ w _ _ _ => g.checks true ++ [(g.form == .seq && w != 0, .reservedField)]
  | .amominu g _ _ w _ _ _ => g.checks true ++ [(g.form == .seq && w != 0, .reservedField)]
  | .amomaxu g _ _ w _ _ _ => g.checks true ++ [(g.form == .seq && w != 0, .reservedField)]
  | .amoswap g _ _ w _ _ _ => g.checks true ++ [(g.form == .seq && w != 0, .reservedField)]
  | .amofadd g _ _ w _ _ _ => g.checks true ++ [(g.form == .seq && w != 0, .reservedField)]
  | .cas g _ _ w _ _ _ => g.checks true ++ [(g.form == .seq && w != 0, .reservedField)]
  | .fence g _ _ => g.checks false
  | .fencex g _ _ => g.checks false
  | .fencee g _ _ => g.checks false
  | .peekt g d a => g.checks ++ dstC (.b g) d ++ headC (.b g) false a
  | .routeaStep g d => g.checks ++ oqC g .operandUse d
  | .routeaSet g a b => g.checks false ++ srcC g a ++ srcC g b
  | .vcbind g a b => g.checks false ++ srcC g a ++ srcC g b
  | .qstat g _ d => g.checks ++ dstC (.b g) d
  | .call g _ d a b => g.checks false ++ dstC g d ++ srcC g a ++ srcC g b
  | .ret g a => g.checks false ++ srcC g a
  | .yield g a => g.checks false ++ srcC g a ++ [(g.form == .brick, .operandRule)]
  | .resume g d a b => g.checks false ++ dstC g d ++ srcC g a ++ srcC g b ++ [(d.isOut || d == .sw, .operandRule)]
  | .apply g _ d a b => g.checks false ++ dstC g d ++ srcC g a ++ srcC g b
  | .cseq g d a b => g.checks false ++ dstC g d ++ srcC g a ++ srcC g b ++ [(d.isOut || d == .sw, .operandRule)]
  | .cpar g d a b => g.checks false ++ dstC g d ++ srcC g a ++ srcC g b ++ [(d.isOut || d == .sw, .operandRule)]
  | .cpipe g d a b => g.checks false ++ dstC g d ++ srcC g a ++ srcC g b ++ [(d.isOut || d == .sw, .operandRule)]
  | .cfarm g _ d a b => g.checks false ++ dstC g d ++ srcC g a ++ srcC g b ++ [(d.isOut || d == .sw, .operandRule)]
  | .cloop g d a b => g.checks false ++ dstC g d ++ srcC g a ++ srcC g b ++ [(d.isOut || d == .sw, .operandRule)]
  | .cfree g d a => g.checks false ++ dstC g d ++ srcC g a ++ [(d.isOut || d == .sw, .operandRule)]
  | .waitc g _ d a => g.checks false ++ dstC g d ++ srcC g a
  | .waitcS g d a => g.checks false ++ dstC g d ++ srcC g a
  | .fold g d a => g.checks false ++ dstC g d ++ srcC g a ++ [(d.isOut || d == .sw, .operandRule)]
  | .stow g d a => g.checks false ++ dstC g d ++ srcC g a ++ [(d.isOut || d == .sw, .operandRule)]
  | .cquery g d a => g.checks false ++ dstC g d ++ srcC g a
  | .br g => g.checks true
  | .bc g _ a b => g.checks true ++ srcC (.s g) a ++ srcC (.s g) b
  | .jal g d => g.checks true ++ gzC d
  | .jr g d a => g.checks false ++ gzC d ++ srcC (.s g) a
  | .loop g d => g.checks true ++ [(!(match d with | .g n => n != 0 | _ => false), .operandUse)]
  | .scmd g a b => g.checks false ++ srcC (.s g) a ++ srcC (.s g) b
  | .sbar g _ => g.checks false
  | .cstep g _ a => g.checks false ++ srcC (.s g) a
  | .cload g _ a b => g.checks false ++ srcC (.s g) a ++ srcC (.s g) b
  | .arm g _ a => g.checks false ++ srcC (.s g) a
  | .waitd g _ => g.checks false
  | .waitdT g _ => g.checks false
  | .notify g a b => g.checks false ++ srcC (.s g) a ++ srcC (.s g) b
  | .tlbinv g _ _ a b => g.checks false ++ srcC (.s g) a ++ srcC (.s g) b
  | .tlbinvSpace g allas a b =>
    g.checks false ++ [(a != .z, .operandUse)] ++ srcC (.s g) b ++ [(allas && b != .z, .operandUse)]
  | .tlbsync g d => g.checks false ++ gzC d
  | .migr g v a b => g.checks false ++ srcC (.s g) v ++ srcC (.s g) a ++ srcC (.s g) b
  | .svc g _ => g.checks false
  | .eret g => g.checks false
  | .crd g d a c =>
    g.checks false ++ dstC g d ++ [(!cregOk g.form c, .reservedField), (g.form == .brick && a != .d 0, .unusedNonzero)] ++ [(g.form == .seq && !a.srcOk g, .operandUse)]
  | .cwr g c a b => g.checks false ++ srcC (.s g) a ++ srcC (.s g) b ++ [(!cregOk .seq c, .reservedField)]
  | .rddig g d a b =>
    g.checks false ++ dstC g d ++ srcC g a ++ srcC g b ++ [(g.form == .brick && a != .z, .operandRule)]
  | .tokenDelivery .. => []
  | .headerDelivery .. => []
  | .seamMarkerDelivery .. => []
  | .stepWordForward .. => []
  | .controlTokenDelivery .. => []
  | .loopbackDelivery .. => []
  | .outputInjection .. => []
  | .seamAutoAppend .. => []
  | .reconfigurationTokenArrival .. => []
  | .roundMark .. => []
  | .streamPatternDelivery .. => []
  | .streamPatternComplete .. => []
  | .slotFillComplete .. => []
  | .busTransfer .. => []
  | .arrayPassComplete .. => []
  | .tileReadComplete .. => []
  | .atomicPerform .. => []
  | .ldpDeferredComplete .. => []
  | .pagerService => []
  | .pagerAcknowledge => []
  | .invalidationEffect .. => []
  | .migrationPerform .. => []
  | .tlbsyncComplete .. => []
  | .jobAccept .. => []
  | .jobStart .. => []
  | .hodRow .. => []
  | .iseProbePass .. => []
  | .iseElementMove .. => []
  | .collectiveForm .. => []
  | .jobComplete .. => []
  | .bankTokenReceipt .. => []
  | .notifyWrite .. => []
  | .packetFetch .. => []
  | .packetPresent .. => []
  | .residentQueueChange .. => []
  | .pasidTeardown .. => []
  | .teardownComplete => []
  | .claimArrival .. => []
  | .claimGrant .. => []
  | .claimReservation .. => []
  | .startBarrierOpen .. => []
  | .launchWaveOpen .. => []
  | .preEmption .. => []
  | .resumption .. => []
  | .spurEnd .. => []
  | .sequenceSecondPlace .. => []
  | .loopBodyRestart .. => []
  | .farmDistribution .. => []
  | .domainQueueRecordWrite .. => []
  | .inactivityWindowExpiry .. => []
  | .deadlockDeclaration => []
  | .faultActionResume .. => []
  | .faultActionSkip .. => []
  | .faultActionRetire .. => []
  | .faultActionBreaksOff .. => []
  | .faultActionNodeOff .. => []
  | .uncorrectableError .. => []
  | .correctedError => []
  | .scrub .. => []
  | .linkFailure .. => []
  | .inactivityReport .. => []
  | .spanFormation .. => []
  | .lintelReload => []
  | .fatalStop .. => []
  | .keystoneWatchdogExpiry => []
  | .thermalEmergency => []
  | .warmReset => []
  | .ridgePowerOn => []
  | .throttleAdjust .. => []
  | .ageingUpdate .. => []
  | .secureBoot => []
  | .romLoaderRecovery .. => []
  | .attestationRequest .. => []
  | .debugUnlock .. => []
  | .atsInvalidation .. => []
  | .registerWrite .. => []
  | .gatingSequence => []
  | .loadValueReturn .. => []
  | .powerLoss => []

/-- An instruction is well formed when it has a word and passes every check (R46, R47). -/
def Instr.wf (i : Instr) : Bool := !i.isEvent && i.checks.all (fun c => !c.1)

end Sys2Proof
end

