-- ==== Sys2Proof/Decode.lean ====
section
/-! DEFINITION. From bits to an instruction, and back (R26 to R49). Every word is either one instruction of its form
or is refused by the name of its lowest failing check. -/

namespace Sys2Proof

/-- The fields of an instruction word in layout A3 (R28), below its high word. -/
structure Fields where
  op : BitVec 8
  d : BitVec 6
  a : BitVec 6
  b : BitVec 6
  f : BitVec 6
  deriving DecidableEq, Repr

/-- Cut the operation word into its fields (R28). -/
def Fields.of (w : W64) : Fields :=
  ⟨w.extractLsb' 24 8, w.extractLsb' 18 6, w.extractLsb' 12 6, w.extractLsb' 6 6, w.extractLsb' 0 6⟩

/-- Layout I12 (R28). -/
def Fields.imm12 (f : Fields) : BitVec 12 := f.b ++ f.f

/-- Layout C9: the condition (R28). -/
def Fields.cond (f : Fields) : BitVec 3 := f.b.extractLsb' 3 3

/-- Layout C9: the immediate (R28). -/
def Fields.imm9 (f : Fields) : BitVec 9 := f.b.extractLsb' 0 3 ++ f.f

/-- Layout I18 (R28). -/
def Fields.imm18 (f : Fields) : BitVec 18 := f.a ++ f.b ++ f.f

/-- Layout AM: the low 24 bits of the word (R28). -/
def Fields.low24 (f : Fields) : BitVec 24 := f.d ++ f.a ++ f.b ++ f.f

/-- Layout AM: D. -/
def Fields.amD (f : Fields) : BitVec 4 := f.low24.extractLsb' 20 4

/-- Layout AM: A. -/
def Fields.amA (f : Fields) : BitVec 4 := f.low24.extractLsb' 16 4

/-- Layout AM: B. -/
def Fields.amB (f : Fields) : BitVec 4 := f.low24.extractLsb' 12 4

/-- Layout AM: op. -/
def Fields.amOp (f : Fields) : BitVec 4 := f.low24.extractLsb' 8 4

/-- Layout AM: W. -/
def Fields.amW (f : Fields) : BitVec 2 := f.low24.extractLsb' 6 2

/-- Layout AM: order. -/
def Fields.amOrd (f : Fields) : BitVec 3 := f.low24.extractLsb' 3 3

/-- Layout AM: scope. -/
def Fields.amScope (f : Fields) : BitVec 3 := f.low24.extractLsb' 0 3

/-- The brick guard of a high word (R35). -/
def BGuard.ofBits (h : BitVec 32) : BGuard :=
  { pm := h.extractLsb' 24 8, pv := h.extractLsb' 16 8, iae := h.getLsbD 15, ia := h.extractLsb' 12 3,
    ibe := h.getLsbD 11, ib := h.extractLsb' 8 3, oe := h.getLsbD 7, oq := h.extractLsb' 4 3,
    tg := h.extractLsb' 2 2, te := h.getLsbD 1, ck := h.getLsbD 0 }

/-- The high word of a brick guard (R35). -/
def BGuard.bits (g : BGuard) : BitVec 32 :=
  g.pm ++ g.pv ++ BitVec.ofBool g.iae ++ g.ia ++ BitVec.ofBool g.ibe ++ g.ib ++ BitVec.ofBool g.oe ++ g.oq ++ g.tg ++
    BitVec.ofBool g.te ++ BitVec.ofBool g.ck

/-- The sequencer guard and extension of a high word (R38). -/
def SGuard.ofBits (h : BitVec 32) : SGuard :=
  { ge := h.getLsbD 31, gs := h.getLsbD 30, gf := h.extractLsb' 27 3, x := h.extractLsb' 0 27 }

/-- The high word of a sequencer guard (R38). -/
def SGuard.bits (g : SGuard) : BitVec 32 := BitVec.ofBool g.ge ++ BitVec.ofBool g.gs ++ g.gf ++ g.x

/-- The high word of a guard of either form. -/
def Guard.bits : Guard → BitVec 32
  | .b g => g.bits
  | .s g => g.bits

/-- The guard a high word gives in a form. -/
def Guard.ofBits : Form → BitVec 32 → Guard
  | .brick, h => .b (BGuard.ofBits h)
  | .seq, h => .s (SGuard.ofBits h)

/-- The operand a 6-bit code names in a form (R33); `none` where the code is reserved. -/
def opndOf : Form → BitVec 6 → Option Opnd
  | .brick, c =>
    if c.toNat < 0x10 then some (.d (c.extractLsb' 0 4))
    else if c.toNat < 0x18 then some (.i (c.extractLsb' 0 3))
    else if c.toNat < 0x20 then some (.iDeq (c.extractLsb' 0 3))
    else if c.toNat < 0x28 then some (.q (c.extractLsb' 0 3))
    else if c.toNat < 0x30 then some (.o (c.extractLsb' 0 3))
    else
      match c.toNat with
      | 0x30 => some .sa
      | 0x31 => some .sb
      | 0x32 => some .sw
      | 0x33 => some .z
      | 0x34 => some .tg
      | 0x35 => some .bk
      | 0x36 => some .rw
      | 0x37 => some .cl
      | 0x38 => some .hdr
      | 0x39 => some .scl
      | 0x3A => some .rnd
      | 0x3B => some .cyc
      | _ => none
  | .seq, c =>
    if c.toNat < 0x20 then some (.g (c.extractLsb' 0 5))
    else if c.toNat < 0x28 then some (.f (c.extractLsb' 0 3))
    else if c.toNat < 0x30 then some (.e (c.extractLsb' 0 3))
    else
      match c.toNat with
      | 0x30 => some .pc
      | 0x31 => some .rid
      | 0x32 => some .dom
      | 0x33 => some .z
      | _ => none

/-- The 6-bit code of an operand (R33). -/
def Opnd.code : Opnd → BitVec 6
  | .d n => 0b00#2 ++ n
  | .i n => 0b010#3 ++ n
  | .iDeq n => 0b011#3 ++ n
  | .q n => 0b100#3 ++ n
  | .o n => 0b101#3 ++ n
  | .sa => 0x30
  | .sb => 0x31
  | .sw => 0x32
  | .z => 0x33
  | .tg => 0x34
  | .bk => 0x35
  | .rw => 0x36
  | .cl => 0x37
  | .hdr => 0x38
  | .scl => 0x39
  | .rnd => 0x3A
  | .cyc => 0x3B
  | .g n => 0b0#1 ++ n
  | .f n => 0b100#3 ++ n
  | .e n => 0b101#3 ++ n
  | .pc => 0x30
  | .rid => 0x31
  | .dom => 0x32

/-- The field bits of a value of `FFmt`. -/
def FFmt.bits : FFmt → BitVec 2
  | .f32 => 0
  | .bf16 => 1
  | .f16 => 2

/-- The value of `FFmt` that field bits give; `none` where they are reserved. -/
def FFmt.ofBits (b : BitVec 2) : Option FFmt :=
  match b.toNat with
  | 0 => some .f32
  | 1 => some .bf16
  | 2 => some .f16
  | _ => none

/-- The field bits of a value of `VFmt`. -/
def VFmt.bits : VFmt → BitVec 2
  | .f32 => 0
  | .bf16 => 1
  | .f16 => 2
  | .i8 => 3

/-- The value of `VFmt` that field bits give; `none` where they are reserved. -/
def VFmt.ofBits (b : BitVec 2) : Option VFmt :=
  match b.toNat with
  | 0 => some .f32
  | 1 => some .bf16
  | 2 => some .f16
  | 3 => some .i8
  | _ => none

/-- The field bits of a value of `Rm`. -/
def Rm.bits : Rm → BitVec 3
  | .rne => 0
  | .rtz => 1
  | .rdn => 2
  | .rup => 3
  | .rsn => 4
  | .dyn => 5

/-- The value of `Rm` that field bits give; `none` where they are reserved. -/
def Rm.ofBits (b : BitVec 3) : Option Rm :=
  match b.toNat with
  | 0 => some .rne
  | 1 => some .rtz
  | 2 => some .rdn
  | 3 => some .rup
  | 4 => some .rsn
  | 5 => some .dyn
  | _ => none

/-- The field bits of a value of `FCond`. -/
def FCond.bits : FCond → BitVec 3
  | .eq => 0
  | .lt => 1
  | .le => 2
  | .un => 3

/-- The value of `FCond` that field bits give; `none` where they are reserved. -/
def FCond.ofBits (b : BitVec 3) : Option FCond :=
  match b.toNat with
  | 0 => some .eq
  | 1 => some .lt
  | 2 => some .le
  | 3 => some .un
  | _ => none

/-- The field bits of a value of `Cond`. -/
def Cond.bits : Cond → BitVec 3
  | .eq => 0
  | .ne => 1
  | .lt => 2
  | .ltu => 3
  | .le => 4
  | .leu => 5

/-- The value of `Cond` that field bits give; `none` where they are reserved. -/
def Cond.ofBits (b : BitVec 3) : Option Cond :=
  match b.toNat with
  | 0 => some .eq
  | 1 => some .ne
  | 2 => some .lt
  | 3 => some .ltu
  | 4 => some .le
  | 5 => some .leu
  | _ => none

/-- The field bits of a value of `CFmt`. -/
def CFmt.bits : CFmt → BitVec 3
  | .f32 => 0
  | .bf16 => 1
  | .f16 => 2
  | .e4m3 => 3
  | .e5m2 => 4
  | .i32 => 5
  | .i16 => 6
  | .i8 => 7

/-- The value of `CFmt` that field bits give; `none` where they are reserved. -/
def CFmt.ofBits (b : BitVec 3) : Option CFmt :=
  match b.toNat with
  | 0 => some .f32
  | 1 => some .bf16
  | 2 => some .f16
  | 3 => some .e4m3
  | 4 => some .e5m2
  | 5 => some .i32
  | 6 => some .i16
  | 7 => some .i8
  | _ => none

/-- The field bits of a value of `KFmt`. -/
def KFmt.bits : KFmt → BitVec 2
  | .k8 => 0
  | .k4 => 1
  | .k16 => 2

/-- The value of `KFmt` that field bits give; `none` where they are reserved. -/
def KFmt.ofBits (b : BitVec 2) : Option KFmt :=
  match b.toNat with
  | 0 => some .k8
  | 1 => some .k4
  | 2 => some .k16
  | _ => none

/-- The field bits of a value of `SFmt`. -/
def SFmt.bits : SFmt → BitVec 3
  | .k8 => 0
  | .k4 => 1
  | .k16h => 2
  | .k16l => 3

/-- The value of `SFmt` that field bits give; `none` where they are reserved. -/
def SFmt.ofBits (b : BitVec 3) : Option SFmt :=
  match b.toNat with
  | 0 => some .k8
  | 1 => some .k4
  | 2 => some .k16h
  | 3 => some .k16l
  | _ => none

/-- The field bits of a value of `MMode`. -/
def MMode.bits : MMode → BitVec 2
  | .cv => 0
  | .cvb => 1
  | .vv => 2

/-- The value of `MMode` that field bits give; `none` where they are reserved. -/
def MMode.ofBits (b : BitVec 2) : Option MMode :=
  match b.toNat with
  | 0 => some .cv
  | 1 => some .cvb
  | 2 => some .vv
  | _ => none

/-- The field bits of a value of `Size`. -/
def Size.bits : Size → BitVec 2
  | .w => 0
  | .h => 1
  | .b => 2

/-- The value of `Size` that field bits give; `none` where they are reserved. -/
def Size.ofBits (b : BitVec 2) : Option Size :=
  match b.toNat with
  | 0 => some .w
  | 1 => some .h
  | 2 => some .b
  | _ => none

/-- The field bits of a value of `AOrd`. -/
def AOrd.bits : AOrd → BitVec 3
  | .rlx => 1
  | .acq => 2
  | .rel => 3
  | .ar => 4
  | .sc => 5

/-- The value of `AOrd` that field bits give; `none` where they are reserved. -/
def AOrd.ofBits (b : BitVec 3) : Option AOrd :=
  match b.toNat with
  | 1 => some .rlx
  | 2 => some .acq
  | 3 => some .rel
  | 4 => some .ar
  | 5 => some .sc
  | _ => none

/-- The field bits of a value of `FOrd`. -/
def FOrd.bits : FOrd → BitVec 3
  | .acq => 2
  | .rel => 3
  | .ar => 4
  | .sc => 5

/-- The value of `FOrd` that field bits give; `none` where they are reserved. -/
def FOrd.ofBits (b : BitVec 3) : Option FOrd :=
  match b.toNat with
  | 2 => some .acq
  | 3 => some .rel
  | 4 => some .ar
  | 5 => some .sc
  | _ => none

/-- The field bits of a value of `EOrd`. -/
def EOrd.bits : EOrd → BitVec 3
  | .rel => 3
  | .ar => 4
  | .sc => 5

/-- The value of `EOrd` that field bits give; `none` where they are reserved. -/
def EOrd.ofBits (b : BitVec 3) : Option EOrd :=
  match b.toNat with
  | 3 => some .rel
  | 4 => some .ar
  | 5 => some .sc
  | _ => none

/-- The field bits of a value of `Scope`. -/
def Scope.bits : Scope → BitVec 3
  | .brick => 0
  | .ridge => 1
  | .massif => 2
  | .package => 3
  | .system => 4

/-- The value of `Scope` that field bits give; `none` where they are reserved. -/
def Scope.ofBits (b : BitVec 3) : Option Scope :=
  match b.toNat with
  | 0 => some .brick
  | 1 => some .ridge
  | 2 => some .massif
  | 3 => some .package
  | 4 => some .system
  | _ => none

/-- The field bits of a value of `Port`. -/
def Port.bits : Port → BitVec 2
  | .sa => 0
  | .sb => 1
  | .sw => 2

/-- The value of `Port` that field bits give; `none` where they are reserved. -/
def Port.ofBits (b : BitVec 2) : Option Port :=
  match b.toNat with
  | 0 => some .sa
  | 1 => some .sb
  | 2 => some .sw
  | _ => none

/-- The field bits of a value of `HdrField`. -/
def HdrField.bits : HdrField → BitVec 3
  | .user => 0
  | .scale => 1
  | .len => 2
  | .fmt => 3
  | .last => 4
  | .high => 5

/-- The value of `HdrField` that field bits give; `none` where they are reserved. -/
def HdrField.ofBits (b : BitVec 3) : Option HdrField :=
  match b.toNat with
  | 0 => some .user
  | 1 => some .scale
  | 2 => some .len
  | 3 => some .fmt
  | 4 => some .last
  | 5 => some .high
  | _ => none

/-- The field bits of a value of `TileIdx`. -/
def TileIdx.bits : TileIdx → BitVec 3
  | .m0 => 0
  | .m1 => 1
  | .m2 => 2
  | .m3 => 3
  | .x0 => 4
  | .x1 => 5
  | .x2 => 6

/-- The value of `TileIdx` that field bits give; `none` where they are reserved. -/
def TileIdx.ofBits (b : BitVec 3) : Option TileIdx :=
  match b.toNat with
  | 0 => some .m0
  | 1 => some .m1
  | 2 => some .m2
  | 3 => some .m3
  | 4 => some .x0
  | 5 => some .x1
  | 6 => some .x2
  | _ => none

/-- The field bits of a value of `FarmPol`. -/
def FarmPol.bits : FarmPol → BitVec 2
  | .rr => 0
  | .tag => 1
  | .key => 2

/-- The value of `FarmPol` that field bits give; `none` where they are reserved. -/
def FarmPol.ofBits (b : BitVec 2) : Option FarmPol :=
  match b.toNat with
  | 0 => some .rr
  | 1 => some .tag
  | 2 => some .key
  | _ => none

/-- The queue selector of `qstat` (R70): F[5:4] the class, F[2:0] the index. -/
def QSel.bits : QSel → BitVec 6
  | .i n => 0b000#3 ++ n
  | .o n => 0b010#3 ++ n
  | .k n => 0b1000#4 ++ n
  | .j n => 0b1100#4 ++ n

/-- The queue an F field of `qstat` names; the control classes have indices 0 to 3 only (R70). -/
def QSel.ofBits (f : BitVec 6) : Option QSel :=
  match (f.extractLsb' 4 2).toNat with
  | 0 => some (.i (f.extractLsb' 0 3))
  | 1 => some (.o (f.extractLsb' 0 3))
  | 2 => if f.getLsbD 2 then none else some (.k (f.extractLsb' 0 2))
  | _ => if f.getLsbD 2 then none else some (.j (f.extractLsb' 0 2))

/-- The predicate field of `call`, `apply` and `waitc` (R342): F[3] P, F[2:0] N. -/
def optPred (f : BitVec 6) : Option (BitVec 3) := if f.getLsbD 3 then some (f.extractLsb' 0 3) else none

/-- The bits of a predicate field (R342). -/
def predBits : Option (BitVec 3) → BitVec 4
  | none => 0
  | some n => 0b1#1 ++ n

/-- An instruction as its fields give it, with the checks on the word's bits and those on the instruction. -/
abbrev Raw := List Chk × Instr

/-- Answer an instruction with its checks. -/
def finish (raw : List Chk) (i : Instr) : Except DecodeError Raw := .ok (raw ++ i.checks, i)

/-- Opcode 0x00: `nop`. -/
def dec00 (g : Guard) (f : Fields) : Except DecodeError Raw :=
  finish
        [(f.d != 0, .unusedNonzero),
         (f.a != 0, .unusedNonzero),
         (f.b != 0, .unusedNonzero),
         (f.f != 0, .unusedNonzero)]
        (.nop g)

/-- Opcode 0x01: `pset`. -/
def dec01 (g : Guard) (f : Fields) : Except DecodeError Raw :=
  finish
        [(f.d != 0, .unusedNonzero),
         ((opndOf g.form f.a).isNone, .reservedOperand),
         ((opndOf g.form f.b).isNone, .reservedOperand),
         (f.f != 0, .unusedNonzero)]
        (.pset g ((opndOf g.form f.a).getD .z) ((opndOf g.form f.b).getD .z))

/-- Opcode 0x02: `pand`, `por`, `pxor`, `pandn`, `pnot`, `pmov`. -/
def dec02 (g : Guard) (f : Fields) : Except DecodeError Raw :=
  if f.f == 0 then
    finish
        [((opndOf g.form f.d).isNone, .reservedOperand),
         ((opndOf g.form f.a).isNone, .reservedOperand),
         ((opndOf g.form f.b).isNone, .reservedOperand)]
        (.pand g ((opndOf g.form f.d).getD .z) ((opndOf g.form f.a).getD .z) ((opndOf g.form f.b).getD .z))
  else
  if f.f == 1 then
    finish
        [((opndOf g.form f.d).isNone, .reservedOperand),
         ((opndOf g.form f.a).isNone, .reservedOperand),
         ((opndOf g.form f.b).isNone, .reservedOperand)]
        (.por g ((opndOf g.form f.d).getD .z) ((opndOf g.form f.a).getD .z) ((opndOf g.form f.b).getD .z))
  else
  if f.f == 2 then
    finish
        [((opndOf g.form f.d).isNone, .reservedOperand),
         ((opndOf g.form f.a).isNone, .reservedOperand),
         ((opndOf g.form f.b).isNone, .reservedOperand)]
        (.pxor g ((opndOf g.form f.d).getD .z) ((opndOf g.form f.a).getD .z) ((opndOf g.form f.b).getD .z))
  else
  if f.f == 3 then
    finish
        [((opndOf g.form f.d).isNone, .reservedOperand),
         ((opndOf g.form f.a).isNone, .reservedOperand),
         ((opndOf g.form f.b).isNone, .reservedOperand)]
        (.pandn g ((opndOf g.form f.d).getD .z) ((opndOf g.form f.a).getD .z) ((opndOf g.form f.b).getD .z))
  else
  if f.f == 4 then
    finish
        [((opndOf g.form f.d).isNone, .reservedOperand),
         ((opndOf g.form f.a).isNone, .reservedOperand),
         (f.b != 0, .unusedNonzero)]
        (.pnot g ((opndOf g.form f.d).getD .z) ((opndOf g.form f.a).getD .z))
  else
  if f.f == 5 then
    finish
        [((opndOf g.form f.d).isNone, .reservedOperand),
         ((opndOf g.form f.a).isNone, .reservedOperand),
         (f.b != 0, .unusedNonzero)]
        (.pmov g ((opndOf g.form f.d).getD .z) ((opndOf g.form f.a).getD .z))
  else
  .error .reservedField

/-- Opcode 0x03: `sel`. -/
def dec03 (g : Guard) (f : Fields) : Except DecodeError Raw :=
  match g with
  | .s _ => .error .formIllegal
  | .b g =>
    finish
          [((opndOf .brick f.d).isNone, .reservedOperand),
           ((opndOf .brick f.a).isNone, .reservedOperand),
           ((opndOf .brick f.b).isNone, .reservedOperand),
           ((f.f.extractLsb' 3 3) != 0, .unusedNonzero)]
          (.sel g (f.f.extractLsb' 0 3) ((opndOf .brick f.d).getD .z) ((opndOf .brick f.a).getD .z) ((opndOf .brick f.b).getD .z))

/-- Opcode 0x04: `steer`. -/
def dec04 (g : Guard) (f : Fields) : Except DecodeError Raw :=
  match g with
  | .s _ => .error .formIllegal
  | .b g =>
    finish
          [((opndOf .brick f.d).isNone, .reservedOperand),
           ((opndOf .brick f.a).isNone, .reservedOperand),
           (f.b != 0, .unusedNonzero),
           (f.f != 0, .unusedNonzero)]
          (.steer g ((opndOf .brick f.d).getD .z) ((opndOf .brick f.a).getD .z))

/-- Opcode 0x05: `merge`, `merge_any`. -/
def dec05 (g : Guard) (f : Fields) : Except DecodeError Raw :=
  match g with
  | .s _ => .error .formIllegal
  | .b g =>
    if f.f == 0 then
      finish
        [((opndOf .brick f.d).isNone, .reservedOperand),
         ((opndOf .brick f.a).isNone, .reservedOperand),
         (f.b != 0, .unusedNonzero)]
        (.merge g ((opndOf .brick f.d).getD .z) ((opndOf .brick f.a).getD .z))
    else
    if f.f == 1 then
      finish
        [((opndOf .brick f.d).isNone, .reservedOperand),
         ((opndOf .brick f.a).isNone, .reservedOperand),
         (f.b != 0, .unusedNonzero)]
        (.mergeAny g ((opndOf .brick f.d).getD .z) ((opndOf .brick f.a).getD .z))
    else
    .error .reservedField

/-- Opcode 0x06: `gate`. -/
def dec06 (g : Guard) (f : Fields) : Except DecodeError Raw :=
  match g with
  | .s _ => .error .formIllegal
  | .b g =>
    finish
          [((opndOf .brick f.d).isNone, .reservedOperand),
           ((opndOf .brick f.a).isNone, .reservedOperand),
           (f.b != 0, .unusedNonzero),
           (f.f != 0, .unusedNonzero)]
          (.gate g ((opndOf .brick f.d).getD .z) ((opndOf .brick f.a).getD .z))

/-- Opcode 0x07: `done`. -/
def dec07 (g : Guard) (f : Fields) : Except DecodeError Raw :=
  match g with
  | .s _ => .error .formIllegal
  | .b g =>
    finish
          [(f.d != 0, .unusedNonzero),
           (f.a != 0, .unusedNonzero),
           (f.b != 0, .unusedNonzero),
           (f.f != 0, .unusedNonzero)]
          (.done g)

/-- Opcode 0x08: `break`. -/
def dec08 (g : Guard) (f : Fields) : Except DecodeError Raw :=
  finish
        [(f.d != 0, .unusedNonzero),
         (f.a != 0, .unusedNonzero),
         (f.b != 0, .unusedNonzero)]
        (.brk g f.f)

/-- Opcode 0x09: `trap`. -/
def dec09 (g : Guard) (f : Fields) : Except DecodeError Raw :=
  finish
        [(f.d != 0, .unusedNonzero),
         ((opndOf g.form f.a).isNone, .reservedOperand),
         (f.b != 0, .unusedNonzero)]
        (.trap g f.f ((opndOf g.form f.a).getD .z))

/-- Opcode 0x0A: `mark`. -/
def dec0A (g : Guard) (f : Fields) : Except DecodeError Raw :=
  finish
        [(f.d != 0, .unusedNonzero),
         ((opndOf g.form f.a).isNone, .reservedOperand),
         (f.b != 0, .unusedNonzero)]
        (.mark g f.f ((opndOf g.form f.a).getD .z))

/-- Opcode 0x0B: `sett`. -/
def dec0B (g : Guard) (f : Fields) : Except DecodeError Raw :=
  match g with
  | .s _ => .error .formIllegal
  | .b g =>
    finish
          [(f.d != 0, .unusedNonzero),
           ((opndOf .brick f.a).isNone, .reservedOperand),
           (f.b != 0, .unusedNonzero),
           ((f.f.extractLsb' 3 3) != 0, .unusedNonzero)]
          (.sett g (f.f.extractLsb' 0 3) ((opndOf .brick f.a).getD .z))

/-- Opcode 0x0C: `seam_o`, `seam_j`, `seam_all`. -/
def dec0C (g : Guard) (f : Fields) : Except DecodeError Raw :=
  match g with
  | .s _ => .error .formIllegal
  | .b g =>
    if (f.f.extractLsb' 3 2) == 0 then
      finish
        [(f.d != 0, .unusedNonzero),
         (f.a != 0, .unusedNonzero),
         (f.b != 0, .unusedNonzero),
         ((f.f.extractLsb' 5 1) != 0, .unusedNonzero)]
        (.seamO g (f.f.extractLsb' 0 3))
    else
    if (f.f.extractLsb' 3 2) == 1 then
      finish
        [(f.d != 0, .unusedNonzero),
         (f.a != 0, .unusedNonzero),
         (f.b != 0, .unusedNonzero),
         ((f.f.extractLsb' 5 1) != 0, .unusedNonzero),
         ((f.f.extractLsb' 2 1) != 0, .reservedField)]
        (.seamJ g (f.f.extractLsb' 0 2))
    else
    if (f.f.extractLsb' 3 2) == 2 then
      finish
        [(f.d != 0, .unusedNonzero),
         (f.a != 0, .unusedNonzero),
         (f.b != 0, .unusedNonzero),
         ((f.f.extractLsb' 5 1) != 0, .unusedNonzero),
         ((f.f.extractLsb' 0 3) != 0, .unusedNonzero)]
        (.seamAll g)
    else
    .error .reservedField

/-- Opcode 0x0D: `deq`. -/
def dec0D (g : Guard) (f : Fields) : Except DecodeError Raw :=
  match g with
  | .s _ => .error .formIllegal
  | .b g =>
    finish
          [(f.d != 0, .unusedNonzero),
           ((opndOf .brick f.a).isNone, .reservedOperand),
           ((opndOf .brick f.b).isNone, .reservedOperand),
           (f.f != 0, .unusedNonzero)]
          (.deq g ((opndOf .brick f.a).getD .z) ((opndOf .brick f.b).getD .z))

/-- Opcode 0x0E: `kput`. -/
def dec0E (g : Guard) (f : Fields) : Except DecodeError Raw :=
  match g with
  | .s _ => .error .formIllegal
  | .b g =>
    finish
          [(f.d != 0, .unusedNonzero),
           ((opndOf .brick f.a).isNone, .reservedOperand),
           (f.b != 0, .unusedNonzero),
           ((f.f.extractLsb' 2 4) != 0, .unusedNonzero)]
          (.kput g (f.f.extractLsb' 0 2) ((opndOf .brick f.a).getD .z))

/-- Opcode 0x0F: `kget`. -/
def dec0F (g : Guard) (f : Fields) : Except DecodeError Raw :=
  match g with
  | .s _ => .error .formIllegal
  | .b g =>
    finish
          [((opndOf .brick f.d).isNone, .reservedOperand),
           (f.a != 0, .unusedNonzero),
           (f.b != 0, .unusedNonzero),
           (f.f != 0, .unusedNonzero)]
          (.kget g ((opndOf .brick f.d).getD .z))

/-- Opcode 0x10: `add`. -/
def dec10 (g : Guard) (f : Fields) : Except DecodeError Raw :=
  finish
        [((opndOf g.form f.d).isNone, .reservedOperand),
         ((opndOf g.form f.a).isNone, .reservedOperand),
         ((opndOf g.form f.b).isNone, .reservedOperand),
         (f.f != 0, .unusedNonzero)]
        (.add g ((opndOf g.form f.d).getD .z) ((opndOf g.form f.a).getD .z) ((opndOf g.form f.b).getD .z))

/-- Opcode 0x12: `sub`. -/
def dec12 (g : Guard) (f : Fields) : Except DecodeError Raw :=
  finish
        [((opndOf g.form f.d).isNone, .reservedOperand),
         ((opndOf g.form f.a).isNone, .reservedOperand),
         ((opndOf g.form f.b).isNone, .reservedOperand),
         (f.f != 0, .unusedNonzero)]
        (.sub g ((opndOf g.form f.d).getD .z) ((opndOf g.form f.a).getD .z) ((opndOf g.form f.b).getD .z))

/-- Opcode 0x11: `addi`. -/
def dec11 (g : Guard) (f : Fields) : Except DecodeError Raw :=
  finish
        [((opndOf g.form f.d).isNone, .reservedOperand),
         ((opndOf g.form f.a).isNone, .reservedOperand)]
        (.addi g ((opndOf g.form f.d).getD .z) ((opndOf g.form f.a).getD .z) f.imm12)

/-- Opcode 0x13: `mul`, `mulh`, `mulhu`. -/
def dec13 (g : Guard) (f : Fields) : Except DecodeError Raw :=
  if f.f == 0 then
    finish
        [((opndOf g.form f.d).isNone, .reservedOperand),
         ((opndOf g.form f.a).isNone, .reservedOperand),
         ((opndOf g.form f.b).isNone, .reservedOperand)]
        (.mul g ((opndOf g.form f.d).getD .z) ((opndOf g.form f.a).getD .z) ((opndOf g.form f.b).getD .z))
  else
  if f.f == 1 then
    finish
        [((opndOf g.form f.d).isNone, .reservedOperand),
         ((opndOf g.form f.a).isNone, .reservedOperand),
         ((opndOf g.form f.b).isNone, .reservedOperand)]
        (.mulh g ((opndOf g.form f.d).getD .z) ((opndOf g.form f.a).getD .z) ((opndOf g.form f.b).getD .z))
  else
  if f.f == 2 then
    finish
        [((opndOf g.form f.d).isNone, .reservedOperand),
         ((opndOf g.form f.a).isNone, .reservedOperand),
         ((opndOf g.form f.b).isNone, .reservedOperand)]
        (.mulhu g ((opndOf g.form f.d).getD .z) ((opndOf g.form f.a).getD .z) ((opndOf g.form f.b).getD .z))
  else
  .error .reservedField

/-- Opcode 0x14: `div`, `divu`, `rem`, `remu`. -/
def dec14 (g : Guard) (f : Fields) : Except DecodeError Raw :=
  if f.f == 0 then
    finish
        [((opndOf g.form f.d).isNone, .reservedOperand),
         ((opndOf g.form f.a).isNone, .reservedOperand),
         ((opndOf g.form f.b).isNone, .reservedOperand)]
        (.div g ((opndOf g.form f.d).getD .z) ((opndOf g.form f.a).getD .z) ((opndOf g.form f.b).getD .z))
  else
  if f.f == 1 then
    finish
        [((opndOf g.form f.d).isNone, .reservedOperand),
         ((opndOf g.form f.a).isNone, .reservedOperand),
         ((opndOf g.form f.b).isNone, .reservedOperand)]
        (.divu g ((opndOf g.form f.d).getD .z) ((opndOf g.form f.a).getD .z) ((opndOf g.form f.b).getD .z))
  else
  if f.f == 2 then
    finish
        [((opndOf g.form f.d).isNone, .reservedOperand),
         ((opndOf g.form f.a).isNone, .reservedOperand),
         ((opndOf g.form f.b).isNone, .reservedOperand)]
        (.rem g ((opndOf g.form f.d).getD .z) ((opndOf g.form f.a).getD .z) ((opndOf g.form f.b).getD .z))
  else
  if f.f == 3 then
    finish
        [((opndOf g.form f.d).isNone, .reservedOperand),
         ((opndOf g.form f.a).isNone, .reservedOperand),
         ((opndOf g.form f.b).isNone, .reservedOperand)]
        (.remu g ((opndOf g.form f.d).getD .z) ((opndOf g.form f.a).getD .z) ((opndOf g.form f.b).getD .z))
  else
  .error .reservedField

/-- Opcode 0x15: `and`. -/
def dec15 (g : Guard) (f : Fields) : Except DecodeError Raw :=
  finish
        [((opndOf g.form f.d).isNone, .reservedOperand),
         ((opndOf g.form f.a).isNone, .reservedOperand),
         ((opndOf g.form f.b).isNone, .reservedOperand),
         (f.f != 0, .unusedNonzero)]
        (.and g ((opndOf g.form f.d).getD .z) ((opndOf g.form f.a).getD .z) ((opndOf g.form f.b).getD .z))

/-- Opcode 0x16: `andi`. -/
def dec16 (g : Guard) (f : Fields) : Except DecodeError Raw :=
  finish
        [((opndOf g.form f.d).isNone, .reservedOperand),
         ((opndOf g.form f.a).isNone, .reservedOperand)]
        (.andi g ((opndOf g.form f.d).getD .z) ((opndOf g.form f.a).getD .z) f.imm12)

/-- Opcode 0x17: `or`. -/
def dec17 (g : Guard) (f : Fields) : Except DecodeError Raw :=
  finish
        [((opndOf g.form f.d).isNone, .reservedOperand),
         ((opndOf g.form f.a).isNone, .reservedOperand),
         ((opndOf g.form f.b).isNone, .reservedOperand),
         (f.f != 0, .unusedNonzero)]
        (.or g ((opndOf g.form f.d).getD .z) ((opndOf g.form f.a).getD .z) ((opndOf g.form f.b).getD .z))

/-- Opcode 0x18: `ori`. -/
def dec18 (g : Guard) (f : Fields) : Except DecodeError Raw :=
  finish
        [((opndOf g.form f.d).isNone, .reservedOperand),
         ((opndOf g.form f.a).isNone, .reservedOperand)]
        (.ori g ((opndOf g.form f.d).getD .z) ((opndOf g.form f.a).getD .z) f.imm12)

/-- Opcode 0x19: `xor`. -/
def dec19 (g : Guard) (f : Fields) : Except DecodeError Raw :=
  finish
        [((opndOf g.form f.d).isNone, .reservedOperand),
         ((opndOf g.form f.a).isNone, .reservedOperand),
         ((opndOf g.form f.b).isNone, .reservedOperand),
         (f.f != 0, .unusedNonzero)]
        (.xor g ((opndOf g.form f.d).getD .z) ((opndOf g.form f.a).getD .z) ((opndOf g.form f.b).getD .z))

/-- Opcode 0x1A: `xori`. -/
def dec1A (g : Guard) (f : Fields) : Except DecodeError Raw :=
  finish
        [((opndOf g.form f.d).isNone, .reservedOperand),
         ((opndOf g.form f.a).isNone, .reservedOperand)]
        (.xori g ((opndOf g.form f.d).getD .z) ((opndOf g.form f.a).getD .z) f.imm12)

/-- Opcode 0x1B: `shl`. -/
def dec1B (g : Guard) (f : Fields) : Except DecodeError Raw :=
  finish
        [((opndOf g.form f.d).isNone, .reservedOperand),
         ((opndOf g.form f.a).isNone, .reservedOperand),
         ((opndOf g.form f.b).isNone, .reservedOperand),
         (f.f != 0, .unusedNonzero)]
        (.shl g ((opndOf g.form f.d).getD .z) ((opndOf g.form f.a).getD .z) ((opndOf g.form f.b).getD .z))

/-- Opcode 0x1C: `shli`. -/
def dec1C (g : Guard) (f : Fields) : Except DecodeError Raw :=
  finish
        [((opndOf g.form f.d).isNone, .reservedOperand),
         ((opndOf g.form f.a).isNone, .reservedOperand)]
        (.shli g ((opndOf g.form f.d).getD .z) ((opndOf g.form f.a).getD .z) f.imm12)

/-- Opcode 0x1D: `shr`. -/
def dec1D (g : Guard) (f : Fields) : Except DecodeError Raw :=
  finish
        [((opndOf g.form f.d).isNone, .reservedOperand),
         ((opndOf g.form f.a).isNone, .reservedOperand),
         ((opndOf g.form f.b).isNone, .reservedOperand),
         (f.f != 0, .unusedNonzero)]
        (.shr g ((opndOf g.form f.d).getD .z) ((opndOf g.form f.a).getD .z) ((opndOf g.form f.b).getD .z))

/-- Opcode 0x1E: `shri`. -/
def dec1E (g : Guard) (f : Fields) : Except DecodeError Raw :=
  finish
        [((opndOf g.form f.d).isNone, .reservedOperand),
         ((opndOf g.form f.a).isNone, .reservedOperand)]
        (.shri g ((opndOf g.form f.d).getD .z) ((opndOf g.form f.a).getD .z) f.imm12)

/-- Opcode 0x1F: `sra`. -/
def dec1F (g : Guard) (f : Fields) : Except DecodeError Raw :=
  finish
        [((opndOf g.form f.d).isNone, .reservedOperand),
         ((opndOf g.form f.a).isNone, .reservedOperand),
         ((opndOf g.form f.b).isNone, .reservedOperand),
         (f.f != 0, .unusedNonzero)]
        (.sra g ((opndOf g.form f.d).getD .z) ((opndOf g.form f.a).getD .z) ((opndOf g.form f.b).getD .z))

/-- Opcode 0x20: `srai`. -/
def dec20 (g : Guard) (f : Fields) : Except DecodeError Raw :=
  finish
        [((opndOf g.form f.d).isNone, .reservedOperand),
         ((opndOf g.form f.a).isNone, .reservedOperand)]
        (.srai g ((opndOf g.form f.d).getD .z) ((opndOf g.form f.a).getD .z) f.imm12)

/-- Opcode 0x21: `rotl`. -/
def dec21 (g : Guard) (f : Fields) : Except DecodeError Raw :=
  finish
        [((opndOf g.form f.d).isNone, .reservedOperand),
         ((opndOf g.form f.a).isNone, .reservedOperand),
         ((opndOf g.form f.b).isNone, .reservedOperand),
         (f.f != 0, .unusedNonzero)]
        (.rotl g ((opndOf g.form f.d).getD .z) ((opndOf g.form f.a).getD .z) ((opndOf g.form f.b).getD .z))

/-- Opcode 0x22: `clz`, `ctz`, `popc`. -/
def dec22 (g : Guard) (f : Fields) : Except DecodeError Raw :=
  if f.f == 0 then
    finish
        [((opndOf g.form f.d).isNone, .reservedOperand),
         ((opndOf g.form f.a).isNone, .reservedOperand),
         (f.b != 0, .unusedNonzero)]
        (.clz g ((opndOf g.form f.d).getD .z) ((opndOf g.form f.a).getD .z))
  else
  if f.f == 1 then
    finish
        [((opndOf g.form f.d).isNone, .reservedOperand),
         ((opndOf g.form f.a).isNone, .reservedOperand),
         (f.b != 0, .unusedNonzero)]
        (.ctz g ((opndOf g.form f.d).getD .z) ((opndOf g.form f.a).getD .z))
  else
  if f.f == 2 then
    finish
        [((opndOf g.form f.d).isNone, .reservedOperand),
         ((opndOf g.form f.a).isNone, .reservedOperand),
         (f.b != 0, .unusedNonzero)]
        (.popc g ((opndOf g.form f.d).getD .z) ((opndOf g.form f.a).getD .z))
  else
  .error .reservedField

/-- Opcode 0x23: `min`, `max`, `minu`, `maxu`. -/
def dec23 (g : Guard) (f : Fields) : Except DecodeError Raw :=
  if f.f == 0 then
    finish
        [((opndOf g.form f.d).isNone, .reservedOperand),
         ((opndOf g.form f.a).isNone, .reservedOperand),
         ((opndOf g.form f.b).isNone, .reservedOperand)]
        (.min g ((opndOf g.form f.d).getD .z) ((opndOf g.form f.a).getD .z) ((opndOf g.form f.b).getD .z))
  else
  if f.f == 1 then
    finish
        [((opndOf g.form f.d).isNone, .reservedOperand),
         ((opndOf g.form f.a).isNone, .reservedOperand),
         ((opndOf g.form f.b).isNone, .reservedOperand)]
        (.max g ((opndOf g.form f.d).getD .z) ((opndOf g.form f.a).getD .z) ((opndOf g.form f.b).getD .z))
  else
  if f.f == 2 then
    finish
        [((opndOf g.form f.d).isNone, .reservedOperand),
         ((opndOf g.form f.a).isNone, .reservedOperand),
         ((opndOf g.form f.b).isNone, .reservedOperand)]
        (.minu g ((opndOf g.form f.d).getD .z) ((opndOf g.form f.a).getD .z) ((opndOf g.form f.b).getD .z))
  else
  if f.f == 3 then
    finish
        [((opndOf g.form f.d).isNone, .reservedOperand),
         ((opndOf g.form f.a).isNone, .reservedOperand),
         ((opndOf g.form f.b).isNone, .reservedOperand)]
        (.maxu g ((opndOf g.form f.d).getD .z) ((opndOf g.form f.a).getD .z) ((opndOf g.form f.b).getD .z))
  else
  .error .reservedField

/-- Opcode 0x24: `abs`, `neg`. -/
def dec24 (g : Guard) (f : Fields) : Except DecodeError Raw :=
  if f.f == 0 then
    finish
        [((opndOf g.form f.d).isNone, .reservedOperand),
         ((opndOf g.form f.a).isNone, .reservedOperand),
         (f.b != 0, .unusedNonzero)]
        (.abs g ((opndOf g.form f.d).getD .z) ((opndOf g.form f.a).getD .z))
  else
  if f.f == 1 then
    finish
        [((opndOf g.form f.d).isNone, .reservedOperand),
         ((opndOf g.form f.a).isNone, .reservedOperand),
         (f.b != 0, .unusedNonzero)]
        (.neg g ((opndOf g.form f.d).getD .z) ((opndOf g.form f.a).getD .z))
  else
  .error .reservedField

/-- Opcode 0x25: `cmpeq`, `cmpne`, `cmplt`, `cmpltu`, `cmple`, `cmpleu`. -/
def dec25 (g : Guard) (f : Fields) : Except DecodeError Raw :=
  if f.f == 0 then
    finish
        [((opndOf g.form f.d).isNone, .reservedOperand),
         ((opndOf g.form f.a).isNone, .reservedOperand),
         ((opndOf g.form f.b).isNone, .reservedOperand)]
        (.cmpeq g ((opndOf g.form f.d).getD .z) ((opndOf g.form f.a).getD .z) ((opndOf g.form f.b).getD .z))
  else
  if f.f == 1 then
    finish
        [((opndOf g.form f.d).isNone, .reservedOperand),
         ((opndOf g.form f.a).isNone, .reservedOperand),
         ((opndOf g.form f.b).isNone, .reservedOperand)]
        (.cmpne g ((opndOf g.form f.d).getD .z) ((opndOf g.form f.a).getD .z) ((opndOf g.form f.b).getD .z))
  else
  if f.f == 2 then
    finish
        [((opndOf g.form f.d).isNone, .reservedOperand),
         ((opndOf g.form f.a).isNone, .reservedOperand),
         ((opndOf g.form f.b).isNone, .reservedOperand)]
        (.cmplt g ((opndOf g.form f.d).getD .z) ((opndOf g.form f.a).getD .z) ((opndOf g.form f.b).getD .z))
  else
  if f.f == 3 then
    finish
        [((opndOf g.form f.d).isNone, .reservedOperand),
         ((opndOf g.form f.a).isNone, .reservedOperand),
         ((opndOf g.form f.b).isNone, .reservedOperand)]
        (.cmpltu g ((opndOf g.form f.d).getD .z) ((opndOf g.form f.a).getD .z) ((opndOf g.form f.b).getD .z))
  else
  if f.f == 4 then
    finish
        [((opndOf g.form f.d).isNone, .reservedOperand),
         ((opndOf g.form f.a).isNone, .reservedOperand),
         ((opndOf g.form f.b).isNone, .reservedOperand)]
        (.cmple g ((opndOf g.form f.d).getD .z) ((opndOf g.form f.a).getD .z) ((opndOf g.form f.b).getD .z))
  else
  if f.f == 5 then
    finish
        [((opndOf g.form f.d).isNone, .reservedOperand),
         ((opndOf g.form f.a).isNone, .reservedOperand),
         ((opndOf g.form f.b).isNone, .reservedOperand)]
        (.cmpleu g ((opndOf g.form f.d).getD .z) ((opndOf g.form f.a).getD .z) ((opndOf g.form f.b).getD .z))
  else
  .error .reservedField

/-- Opcode 0x26: `cmpeqi`, `cmpnei`, `cmplti`, `cmpltui`, `cmplei`, `cmpleui`. -/
def dec26 (g : Guard) (f : Fields) : Except DecodeError Raw :=
  if f.cond == 0 then
    finish
        [((opndOf g.form f.d).isNone, .reservedOperand),
         ((opndOf g.form f.a).isNone, .reservedOperand)]
        (.cmpeqi g ((opndOf g.form f.d).getD .z) ((opndOf g.form f.a).getD .z) f.imm9)
  else
  if f.cond == 1 then
    finish
        [((opndOf g.form f.d).isNone, .reservedOperand),
         ((opndOf g.form f.a).isNone, .reservedOperand)]
        (.cmpnei g ((opndOf g.form f.d).getD .z) ((opndOf g.form f.a).getD .z) f.imm9)
  else
  if f.cond == 2 then
    finish
        [((opndOf g.form f.d).isNone, .reservedOperand),
         ((opndOf g.form f.a).isNone, .reservedOperand)]
        (.cmplti g ((opndOf g.form f.d).getD .z) ((opndOf g.form f.a).getD .z) f.imm9)
  else
  if f.cond == 3 then
    finish
        [((opndOf g.form f.d).isNone, .reservedOperand),
         ((opndOf g.form f.a).isNone, .reservedOperand)]
        (.cmpltui g ((opndOf g.form f.d).getD .z) ((opndOf g.form f.a).getD .z) f.imm9)
  else
  if f.cond == 4 then
    finish
        [((opndOf g.form f.d).isNone, .reservedOperand),
         ((opndOf g.form f.a).isNone, .reservedOperand)]
        (.cmplei g ((opndOf g.form f.d).getD .z) ((opndOf g.form f.a).getD .z) f.imm9)
  else
  if f.cond == 5 then
    finish
        [((opndOf g.form f.d).isNone, .reservedOperand),
         ((opndOf g.form f.a).isNone, .reservedOperand)]
        (.cmpleui g ((opndOf g.form f.d).getD .z) ((opndOf g.form f.a).getD .z) f.imm9)
  else
  .error .reservedField

/-- Opcode 0x27: `movi`. -/
def dec27 (g : Guard) (f : Fields) : Except DecodeError Raw :=
  finish
        [((opndOf g.form f.d).isNone, .reservedOperand)]
        (.movi g ((opndOf g.form f.d).getD .z) f.imm18)

/-- Opcode 0x28: `movhi`. -/
def dec28 (g : Guard) (f : Fields) : Except DecodeError Raw :=
  finish
        [((opndOf g.form f.d).isNone, .reservedOperand)]
        (.movhi g ((opndOf g.form f.d).getD .z) f.imm18)

/-- Opcode 0x29: `bfx`, `bfx_s`. -/
def dec29 (g : Guard) (f : Fields) : Except DecodeError Raw :=
  if (f.f.extractLsb' 0 1) == 0 then
    finish
        [((opndOf g.form f.d).isNone, .reservedOperand),
         ((opndOf g.form f.a).isNone, .reservedOperand),
         ((opndOf g.form f.b).isNone, .reservedOperand),
         ((f.f.extractLsb' 1 5) != 0, .unusedNonzero)]
        (.bfx g ((opndOf g.form f.d).getD .z) ((opndOf g.form f.a).getD .z) ((opndOf g.form f.b).getD .z))
  else
  if (f.f.extractLsb' 0 1) == 1 then
    finish
        [((opndOf g.form f.d).isNone, .reservedOperand),
         ((opndOf g.form f.a).isNone, .reservedOperand),
         ((opndOf g.form f.b).isNone, .reservedOperand),
         ((f.f.extractLsb' 1 5) != 0, .unusedNonzero)]
        (.bfxS g ((opndOf g.form f.d).getD .z) ((opndOf g.form f.a).getD .z) ((opndOf g.form f.b).getD .z))
  else
  .error .reservedField

/-- Opcode 0x2A: `bfi`. -/
def dec2A (g : Guard) (f : Fields) : Except DecodeError Raw :=
  finish
        [((opndOf g.form f.d).isNone, .reservedOperand),
         ((opndOf g.form f.a).isNone, .reservedOperand),
         ((opndOf g.form f.b).isNone, .reservedOperand),
         (f.f != 0, .unusedNonzero)]
        (.bfi g ((opndOf g.form f.d).getD .z) ((opndOf g.form f.a).getD .z) ((opndOf g.form f.b).getD .z))

/-- Opcode 0x2B: `adds`, `subs`. -/
def dec2B (g : Guard) (f : Fields) : Except DecodeError Raw :=
  if f.f == 0 then
    finish
        [((opndOf g.form f.d).isNone, .reservedOperand),
         ((opndOf g.form f.a).isNone, .reservedOperand),
         ((opndOf g.form f.b).isNone, .reservedOperand)]
        (.adds g ((opndOf g.form f.d).getD .z) ((opndOf g.form f.a).getD .z) ((opndOf g.form f.b).getD .z))
  else
  if f.f == 1 then
    finish
        [((opndOf g.form f.d).isNone, .reservedOperand),
         ((opndOf g.form f.a).isNone, .reservedOperand),
         ((opndOf g.form f.b).isNone, .reservedOperand)]
        (.subs g ((opndOf g.form f.d).getD .z) ((opndOf g.form f.a).getD .z) ((opndOf g.form f.b).getD .z))
  else
  .error .reservedField

/-- Opcode 0x2C: `madd`. -/
def dec2C (g : Guard) (f : Fields) : Except DecodeError Raw :=
  finish
        [((opndOf g.form f.d).isNone, .reservedOperand),
         ((opndOf g.form f.a).isNone, .reservedOperand),
         ((opndOf g.form f.b).isNone, .reservedOperand),
         (f.f != 0, .unusedNonzero)]
        (.madd g ((opndOf g.form f.d).getD .z) ((opndOf g.form f.a).getD .z) ((opndOf g.form f.b).getD .z))

/-- Opcode 0x2D: `lea`. -/
def dec2D (g : Guard) (f : Fields) : Except DecodeError Raw :=
  finish
        [((opndOf g.form f.d).isNone, .reservedOperand),
         ((opndOf g.form f.a).isNone, .reservedOperand),
         ((opndOf g.form f.b).isNone, .reservedOperand),
         ((f.f.extractLsb' 2 4) != 0, .unusedNonzero)]
        (.lea g (f.f.extractLsb' 0 2) ((opndOf g.form f.d).getD .z) ((opndOf g.form f.a).getD .z) ((opndOf g.form f.b).getD .z))

/-- Opcode 0x30: `fadd`. -/
def dec30 (g : Guard) (f : Fields) : Except DecodeError Raw :=
  finish
        [((opndOf g.form f.d).isNone, .reservedOperand),
         ((opndOf g.form f.a).isNone, .reservedOperand),
         ((opndOf g.form f.b).isNone, .reservedOperand),
         ((FFmt.ofBits (f.f.extractLsb' 4 2)).isNone, .reservedField),
         ((Rm.ofBits (f.f.extractLsb' 1 3)).isNone, .reservedField),
         ((f.f.extractLsb' 0 1) != 0, .unusedNonzero)]
        (.fadd g ((FFmt.ofBits (f.f.extractLsb' 4 2)).getD .f32) ((Rm.ofBits (f.f.extractLsb' 1 3)).getD .rne) ((opndOf g.form f.d).getD .z) ((opndOf g.form f.a).getD .z) ((opndOf g.form f.b).getD .z))

/-- Opcode 0x31: `fsub`. -/
def dec31 (g : Guard) (f : Fields) : Except DecodeError Raw :=
  finish
        [((opndOf g.form f.d).isNone, .reservedOperand),
         ((opndOf g.form f.a).isNone, .reservedOperand),
         ((opndOf g.form f.b).isNone, .reservedOperand),
         ((FFmt.ofBits (f.f.extractLsb' 4 2)).isNone, .reservedField),
         ((Rm.ofBits (f.f.extractLsb' 1 3)).isNone, .reservedField),
         ((f.f.extractLsb' 0 1) != 0, .unusedNonzero)]
        (.fsub g ((FFmt.ofBits (f.f.extractLsb' 4 2)).getD .f32) ((Rm.ofBits (f.f.extractLsb' 1 3)).getD .rne) ((opndOf g.form f.d).getD .z) ((opndOf g.form f.a).getD .z) ((opndOf g.form f.b).getD .z))

/-- Opcode 0x32: `fmul`. -/
def dec32 (g : Guard) (f : Fields) : Except DecodeError Raw :=
  finish
        [((opndOf g.form f.d).isNone, .reservedOperand),
         ((opndOf g.form f.a).isNone, .reservedOperand),
         ((opndOf g.form f.b).isNone, .reservedOperand),
         ((FFmt.ofBits (f.f.extractLsb' 4 2)).isNone, .reservedField),
         ((Rm.ofBits (f.f.extractLsb' 1 3)).isNone, .reservedField),
         ((f.f.extractLsb' 0 1) != 0, .unusedNonzero)]
        (.fmul g ((FFmt.ofBits (f.f.extractLsb' 4 2)).getD .f32) ((Rm.ofBits (f.f.extractLsb' 1 3)).getD .rne) ((opndOf g.form f.d).getD .z) ((opndOf g.form f.a).getD .z) ((opndOf g.form f.b).getD .z))

/-- Opcode 0x33: `ffma`. -/
def dec33 (g : Guard) (f : Fields) : Except DecodeError Raw :=
  finish
        [((opndOf g.form f.d).isNone, .reservedOperand),
         ((opndOf g.form f.a).isNone, .reservedOperand),
         ((opndOf g.form f.b).isNone, .reservedOperand),
         ((FFmt.ofBits (f.f.extractLsb' 4 2)).isNone, .reservedField),
         ((Rm.ofBits (f.f.extractLsb' 1 3)).isNone, .reservedField),
         ((f.f.extractLsb' 0 1) != 0, .unusedNonzero)]
        (.ffma g ((FFmt.ofBits (f.f.extractLsb' 4 2)).getD .f32) ((Rm.ofBits (f.f.extractLsb' 1 3)).getD .rne) ((opndOf g.form f.d).getD .z) ((opndOf g.form f.a).getD .z) ((opndOf g.form f.b).getD .z))

/-- Opcode 0x34: `ffms`. -/
def dec34 (g : Guard) (f : Fields) : Except DecodeError Raw :=
  finish
        [((opndOf g.form f.d).isNone, .reservedOperand),
         ((opndOf g.form f.a).isNone, .reservedOperand),
         ((opndOf g.form f.b).isNone, .reservedOperand),
         ((FFmt.ofBits (f.f.extractLsb' 4 2)).isNone, .reservedField),
         ((Rm.ofBits (f.f.extractLsb' 1 3)).isNone, .reservedField),
         ((f.f.extractLsb' 0 1) != 0, .unusedNonzero)]
        (.ffms g ((FFmt.ofBits (f.f.extractLsb' 4 2)).getD .f32) ((Rm.ofBits (f.f.extractLsb' 1 3)).getD .rne) ((opndOf g.form f.d).getD .z) ((opndOf g.form f.a).getD .z) ((opndOf g.form f.b).getD .z))

/-- Opcode 0x35: `fdiv`. -/
def dec35 (g : Guard) (f : Fields) : Except DecodeError Raw :=
  finish
        [((opndOf g.form f.d).isNone, .reservedOperand),
         ((opndOf g.form f.a).isNone, .reservedOperand),
         ((opndOf g.form f.b).isNone, .reservedOperand),
         ((FFmt.ofBits (f.f.extractLsb' 4 2)).isNone, .reservedField),
         ((Rm.ofBits (f.f.extractLsb' 1 3)).isNone, .reservedField),
         ((f.f.extractLsb' 0 1) != 0, .unusedNonzero)]
        (.fdiv g ((FFmt.ofBits (f.f.extractLsb' 4 2)).getD .f32) ((Rm.ofBits (f.f.extractLsb' 1 3)).getD .rne) ((opndOf g.form f.d).getD .z) ((opndOf g.form f.a).getD .z) ((opndOf g.form f.b).getD .z))

/-- Opcode 0x36: `fsqrt`. -/
def dec36 (g : Guard) (f : Fields) : Except DecodeError Raw :=
  finish
        [((opndOf g.form f.d).isNone, .reservedOperand),
         ((opndOf g.form f.a).isNone, .reservedOperand),
         (f.b != 0, .unusedNonzero),
         ((FFmt.ofBits (f.f.extractLsb' 4 2)).isNone, .reservedField),
         ((Rm.ofBits (f.f.extractLsb' 1 3)).isNone, .reservedField),
         ((f.f.extractLsb' 0 1) != 0, .unusedNonzero)]
        (.fsqrt g ((FFmt.ofBits (f.f.extractLsb' 4 2)).getD .f32) ((Rm.ofBits (f.f.extractLsb' 1 3)).getD .rne) ((opndOf g.form f.d).getD .z) ((opndOf g.form f.a).getD .z))

/-- Opcode 0x37: `frsq`. -/
def dec37 (g : Guard) (f : Fields) : Except DecodeError Raw :=
  finish
        [((opndOf g.form f.d).isNone, .reservedOperand),
         ((opndOf g.form f.a).isNone, .reservedOperand),
         (f.b != 0, .unusedNonzero),
         ((FFmt.ofBits (f.f.extractLsb' 4 2)).isNone, .reservedField),
         ((Rm.ofBits (f.f.extractLsb' 1 3)).isNone, .reservedField),
         ((f.f.extractLsb' 0 1) != 0, .unusedNonzero)]
        (.frsq g ((FFmt.ofBits (f.f.extractLsb' 4 2)).getD .f32) ((Rm.ofBits (f.f.extractLsb' 1 3)).getD .rne) ((opndOf g.form f.d).getD .z) ((opndOf g.form f.a).getD .z))

/-- Opcode 0x38: `fexp2`. -/
def dec38 (g : Guard) (f : Fields) : Except DecodeError Raw :=
  finish
        [((opndOf g.form f.d).isNone, .reservedOperand),
         ((opndOf g.form f.a).isNone, .reservedOperand),
         (f.b != 0, .unusedNonzero),
         ((FFmt.ofBits (f.f.extractLsb' 4 2)).isNone, .reservedField),
         ((Rm.ofBits (f.f.extractLsb' 1 3)).isNone, .reservedField),
         ((f.f.extractLsb' 0 1) != 0, .unusedNonzero)]
        (.fexp2 g ((FFmt.ofBits (f.f.extractLsb' 4 2)).getD .f32) ((Rm.ofBits (f.f.extractLsb' 1 3)).getD .rne) ((opndOf g.form f.d).getD .z) ((opndOf g.form f.a).getD .z))

/-- Opcode 0x39: `flog2`. -/
def dec39 (g : Guard) (f : Fields) : Except DecodeError Raw :=
  finish
        [((opndOf g.form f.d).isNone, .reservedOperand),
         ((opndOf g.form f.a).isNone, .reservedOperand),
         (f.b != 0, .unusedNonzero),
         ((FFmt.ofBits (f.f.extractLsb' 4 2)).isNone, .reservedField),
         ((Rm.ofBits (f.f.extractLsb' 1 3)).isNone, .reservedField),
         ((f.f.extractLsb' 0 1) != 0, .unusedNonzero)]
        (.flog2 g ((FFmt.ofBits (f.f.extractLsb' 4 2)).getD .f32) ((Rm.ofBits (f.f.extractLsb' 1 3)).getD .rne) ((opndOf g.form f.d).getD .z) ((opndOf g.form f.a).getD .z))

/-- Opcode 0x3A: `fmin`. -/
def dec3A (g : Guard) (f : Fields) : Except DecodeError Raw :=
  finish
        [((opndOf g.form f.d).isNone, .reservedOperand),
         ((opndOf g.form f.a).isNone, .reservedOperand),
         ((opndOf g.form f.b).isNone, .reservedOperand),
         ((FFmt.ofBits (f.f.extractLsb' 4 2)).isNone, .reservedField),
         ((f.f.extractLsb' 1 3) != 0, .unusedNonzero)]
        (.fmin g ((FFmt.ofBits (f.f.extractLsb' 4 2)).getD .f32) ((f.f.extractLsb' 0 1) == 1) ((opndOf g.form f.d).getD .z) ((opndOf g.form f.a).getD .z) ((opndOf g.form f.b).getD .z))

/-- Opcode 0x3B: `fmax`. -/
def dec3B (g : Guard) (f : Fields) : Except DecodeError Raw :=
  finish
        [((opndOf g.form f.d).isNone, .reservedOperand),
         ((opndOf g.form f.a).isNone, .reservedOperand),
         ((opndOf g.form f.b).isNone, .reservedOperand),
         ((FFmt.ofBits (f.f.extractLsb' 4 2)).isNone, .reservedField),
         ((f.f.extractLsb' 1 3) != 0, .unusedNonzero)]
        (.fmax g ((FFmt.ofBits (f.f.extractLsb' 4 2)).getD .f32) ((f.f.extractLsb' 0 1) == 1) ((opndOf g.form f.d).getD .z) ((opndOf g.form f.a).getD .z) ((opndOf g.form f.b).getD .z))

/-- Opcode 0x3C: `fabs`. -/
def dec3C (g : Guard) (f : Fields) : Except DecodeError Raw :=
  finish
        [((opndOf g.form f.d).isNone, .reservedOperand),
         ((opndOf g.form f.a).isNone, .reservedOperand),
         (f.b != 0, .unusedNonzero),
         ((FFmt.ofBits (f.f.extractLsb' 4 2)).isNone, .reservedField),
         ((f.f.extractLsb' 1 3) != 0, .unusedNonzero),
         ((f.f.extractLsb' 0 1) != 0, .unusedNonzero)]
        (.fabs g ((FFmt.ofBits (f.f.extractLsb' 4 2)).getD .f32) ((opndOf g.form f.d).getD .z) ((opndOf g.form f.a).getD .z))

/-- Opcode 0x3D: `fneg`. -/
def dec3D (g : Guard) (f : Fields) : Except DecodeError Raw :=
  finish
        [((opndOf g.form f.d).isNone, .reservedOperand),
         ((opndOf g.form f.a).isNone, .reservedOperand),
         (f.b != 0, .unusedNonzero),
         ((FFmt.ofBits (f.f.extractLsb' 4 2)).isNone, .reservedField),
         ((f.f.extractLsb' 1 3) != 0, .unusedNonzero),
         ((f.f.extractLsb' 0 1) != 0, .unusedNonzero)]
        (.fneg g ((FFmt.ofBits (f.f.extractLsb' 4 2)).getD .f32) ((opndOf g.form f.d).getD .z) ((opndOf g.form f.a).getD .z))

/-- Opcode 0x3E: `fcmpeq`, `fcmplt`, `fcmple`, `fcmpun`. -/
def dec3E (g : Guard) (f : Fields) : Except DecodeError Raw :=
  if (f.f.extractLsb' 1 3) == 0 then
    finish
        [((opndOf g.form f.d).isNone, .reservedOperand),
         ((opndOf g.form f.a).isNone, .reservedOperand),
         ((opndOf g.form f.b).isNone, .reservedOperand),
         ((FFmt.ofBits (f.f.extractLsb' 4 2)).isNone, .reservedField),
         ((f.f.extractLsb' 0 1) != 0, .unusedNonzero)]
        (.fcmpeq g ((FFmt.ofBits (f.f.extractLsb' 4 2)).getD .f32) ((opndOf g.form f.d).getD .z) ((opndOf g.form f.a).getD .z) ((opndOf g.form f.b).getD .z))
  else
  if (f.f.extractLsb' 1 3) == 1 then
    finish
        [((opndOf g.form f.d).isNone, .reservedOperand),
         ((opndOf g.form f.a).isNone, .reservedOperand),
         ((opndOf g.form f.b).isNone, .reservedOperand),
         ((FFmt.ofBits (f.f.extractLsb' 4 2)).isNone, .reservedField),
         ((f.f.extractLsb' 0 1) != 0, .unusedNonzero)]
        (.fcmplt g ((FFmt.ofBits (f.f.extractLsb' 4 2)).getD .f32) ((opndOf g.form f.d).getD .z) ((opndOf g.form f.a).getD .z) ((opndOf g.form f.b).getD .z))
  else
  if (f.f.extractLsb' 1 3) == 2 then
    finish
        [((opndOf g.form f.d).isNone, .reservedOperand),
         ((opndOf g.form f.a).isNone, .reservedOperand),
         ((opndOf g.form f.b).isNone, .reservedOperand),
         ((FFmt.ofBits (f.f.extractLsb' 4 2)).isNone, .reservedField),
         ((f.f.extractLsb' 0 1) != 0, .unusedNonzero)]
        (.fcmple g ((FFmt.ofBits (f.f.extractLsb' 4 2)).getD .f32) ((opndOf g.form f.d).getD .z) ((opndOf g.form f.a).getD .z) ((opndOf g.form f.b).getD .z))
  else
  if (f.f.extractLsb' 1 3) == 3 then
    finish
        [((opndOf g.form f.d).isNone, .reservedOperand),
         ((opndOf g.form f.a).isNone, .reservedOperand),
         ((opndOf g.form f.b).isNone, .reservedOperand),
         ((FFmt.ofBits (f.f.extractLsb' 4 2)).isNone, .reservedField),
         ((f.f.extractLsb' 0 1) != 0, .unusedNonzero)]
        (.fcmpun g ((FFmt.ofBits (f.f.extractLsb' 4 2)).getD .f32) ((opndOf g.form f.d).getD .z) ((opndOf g.form f.a).getD .z) ((opndOf g.form f.b).getD .z))
  else
  .error .reservedField

/-- Opcode 0x3F: `fclass`. -/
def dec3F (g : Guard) (f : Fields) : Except DecodeError Raw :=
  finish
        [((opndOf g.form f.d).isNone, .reservedOperand),
         ((opndOf g.form f.a).isNone, .reservedOperand),
         (f.b != 0, .unusedNonzero),
         ((FFmt.ofBits (f.f.extractLsb' 4 2)).isNone, .reservedField),
         ((f.f.extractLsb' 1 3) != 0, .unusedNonzero),
         ((f.f.extractLsb' 0 1) != 0, .unusedNonzero)]
        (.fclass g ((FFmt.ofBits (f.f.extractLsb' 4 2)).getD .f32) ((opndOf g.form f.d).getD .z) ((opndOf g.form f.a).getD .z))

/-- Opcode 0x40: `fround`. -/
def dec40 (g : Guard) (f : Fields) : Except DecodeError Raw :=
  finish
        [((opndOf g.form f.d).isNone, .reservedOperand),
         ((opndOf g.form f.a).isNone, .reservedOperand),
         (f.b != 0, .unusedNonzero),
         ((FFmt.ofBits (f.f.extractLsb' 4 2)).isNone, .reservedField),
         ((Rm.ofBits (f.f.extractLsb' 1 3)).isNone, .reservedField),
         ((f.f.extractLsb' 0 1) != 0, .unusedNonzero)]
        (.fround g ((FFmt.ofBits (f.f.extractLsb' 4 2)).getD .f32) ((Rm.ofBits (f.f.extractLsb' 1 3)).getD .rne) ((opndOf g.form f.d).getD .z) ((opndOf g.form f.a).getD .z))

/-- Opcode 0x41: `fcvti`. -/
def dec41 (g : Guard) (f : Fields) : Except DecodeError Raw :=
  finish
        [((opndOf g.form f.d).isNone, .reservedOperand),
         ((opndOf g.form f.a).isNone, .reservedOperand),
         (f.b != 0, .unusedNonzero),
         ((FFmt.ofBits (f.f.extractLsb' 4 2)).isNone, .reservedField),
         ((Rm.ofBits (f.f.extractLsb' 1 3)).isNone, .reservedField)]
        (.fcvti g ((FFmt.ofBits (f.f.extractLsb' 4 2)).getD .f32) ((Rm.ofBits (f.f.extractLsb' 1 3)).getD .rne) ((f.f.extractLsb' 0 1) == 1) ((opndOf g.form f.d).getD .z) ((opndOf g.form f.a).getD .z))

/-- Opcode 0x42: `icvtf`. -/
def dec42 (g : Guard) (f : Fields) : Except DecodeError Raw :=
  finish
        [((opndOf g.form f.d).isNone, .reservedOperand),
         ((opndOf g.form f.a).isNone, .reservedOperand),
         (f.b != 0, .unusedNonzero),
         ((FFmt.ofBits (f.f.extractLsb' 4 2)).isNone, .reservedField),
         ((Rm.ofBits (f.f.extractLsb' 1 3)).isNone, .reservedField)]
        (.icvtf g ((FFmt.ofBits (f.f.extractLsb' 4 2)).getD .f32) ((Rm.ofBits (f.f.extractLsb' 1 3)).getD .rne) ((f.f.extractLsb' 0 1) == 1) ((opndOf g.form f.d).getD .z) ((opndOf g.form f.a).getD .z))

/-- Opcode 0x43: `fscale`. -/
def dec43 (g : Guard) (f : Fields) : Except DecodeError Raw :=
  finish
        [((opndOf g.form f.d).isNone, .reservedOperand),
         ((opndOf g.form f.a).isNone, .reservedOperand),
         ((opndOf g.form f.b).isNone, .reservedOperand),
         ((FFmt.ofBits (f.f.extractLsb' 4 2)).isNone, .reservedField),
         ((Rm.ofBits (f.f.extractLsb' 1 3)).isNone, .reservedField),
         ((f.f.extractLsb' 0 1) != 0, .unusedNonzero)]
        (.fscale g ((FFmt.ofBits (f.f.extractLsb' 4 2)).getD .f32) ((Rm.ofBits (f.f.extractLsb' 1 3)).getD .rne) ((opndOf g.form f.d).getD .z) ((opndOf g.form f.a).getD .z) ((opndOf g.form f.b).getD .z))

/-- Opcode 0x50: `sopen`, `sopen_re`. -/
def dec50 (g : Guard) (f : Fields) : Except DecodeError Raw :=
  match g with
  | .s _ => .error .formIllegal
  | .b g =>
    if (f.f.extractLsb' 2 1) == 0 then
      finish
        [(f.d != 0, .unusedNonzero),
         ((opndOf .brick f.a).isNone, .reservedOperand),
         ((opndOf .brick f.b).isNone, .reservedOperand),
         ((Port.ofBits (f.f.extractLsb' 4 2)).isNone, .reservedField),
         ((f.f.extractLsb' 3 1) != 0, .unusedNonzero)]
        (.sopen g ((Port.ofBits (f.f.extractLsb' 4 2)).getD .sa) (f.f.extractLsb' 0 2) ((opndOf .brick f.a).getD .z) ((opndOf .brick f.b).getD .z))
    else
    if (f.f.extractLsb' 2 1) == 1 then
      finish
        [(f.d != 0, .unusedNonzero),
         (f.a != 0, .unusedNonzero),
         (f.b != 0, .unusedNonzero),
         ((Port.ofBits (f.f.extractLsb' 4 2)).isNone, .reservedField),
         ((f.f.extractLsb' 3 1) != 0, .unusedNonzero)]
        (.sopenRe g ((Port.ofBits (f.f.extractLsb' 4 2)).getD .sa) (f.f.extractLsb' 0 2))
    else
    .error .reservedField

/-- Opcode 0x51: `sclose`. -/
def dec51 (g : Guard) (f : Fields) : Except DecodeError Raw :=
  match g with
  | .s _ => .error .formIllegal
  | .b g =>
    finish
          [((opndOf .brick f.d).isNone, .reservedOperand),
           (f.a != 0, .unusedNonzero),
           (f.b != 0, .unusedNonzero),
           ((Port.ofBits (f.f.extractLsb' 4 2)).isNone, .reservedField),
           ((f.f.extractLsb' 0 4) != 0, .unusedNonzero)]
          (.sclose g ((Port.ofBits (f.f.extractLsb' 4 2)).getD .sa) ((opndOf .brick f.d).getD .z))

/-- Opcode 0x52: `vadd`. -/
def dec52 (g : Guard) (f : Fields) : Except DecodeError Raw :=
  match g with
  | .s _ => .error .formIllegal
  | .b g =>
    finish
          [((opndOf .brick f.d).isNone, .reservedOperand),
           (f.d != 0x32, .operandRule),
           (!(((opndOf .brick f.d).getD .z).dstUse (.b g)), .operandUse),
           (!(((opndOf .brick f.d).getD .z).outOk (.b g)), .outputNotOq),
           ((opndOf .brick f.a).isNone, .reservedOperand),
           ((opndOf .brick f.b).isNone, .reservedOperand),
           ((VFmt.ofBits (f.f.extractLsb' 4 2)).isNone, .reservedField),
           ((Rm.ofBits (f.f.extractLsb' 1 3)).isNone, .reservedField),
           ((f.f.extractLsb' 0 1) != 0, .unusedNonzero)]
          (.vadd g ((VFmt.ofBits (f.f.extractLsb' 4 2)).getD .f32) ((Rm.ofBits (f.f.extractLsb' 1 3)).getD .rne) ((opndOf .brick f.a).getD .z) ((opndOf .brick f.b).getD .z))

/-- Opcode 0x53: `vsub`. -/
def dec53 (g : Guard) (f : Fields) : Except DecodeError Raw :=
  match g with
  | .s _ => .error .formIllegal
  | .b g =>
    finish
          [((opndOf .brick f.d).isNone, .reservedOperand),
           (f.d != 0x32, .operandRule),
           (!(((opndOf .brick f.d).getD .z).dstUse (.b g)), .operandUse),
           (!(((opndOf .brick f.d).getD .z).outOk (.b g)), .outputNotOq),
           ((opndOf .brick f.a).isNone, .reservedOperand),
           ((opndOf .brick f.b).isNone, .reservedOperand),
           ((VFmt.ofBits (f.f.extractLsb' 4 2)).isNone, .reservedField),
           ((Rm.ofBits (f.f.extractLsb' 1 3)).isNone, .reservedField),
           ((f.f.extractLsb' 0 1) != 0, .unusedNonzero)]
          (.vsub g ((VFmt.ofBits (f.f.extractLsb' 4 2)).getD .f32) ((Rm.ofBits (f.f.extractLsb' 1 3)).getD .rne) ((opndOf .brick f.a).getD .z) ((opndOf .brick f.b).getD .z))

/-- Opcode 0x54: `vmul`. -/
def dec54 (g : Guard) (f : Fields) : Except DecodeError Raw :=
  match g with
  | .s _ => .error .formIllegal
  | .b g =>
    finish
          [((opndOf .brick f.d).isNone, .reservedOperand),
           (f.d != 0x32, .operandRule),
           (!(((opndOf .brick f.d).getD .z).dstUse (.b g)), .operandUse),
           (!(((opndOf .brick f.d).getD .z).outOk (.b g)), .outputNotOq),
           ((opndOf .brick f.a).isNone, .reservedOperand),
           ((opndOf .brick f.b).isNone, .reservedOperand),
           ((FFmt.ofBits (f.f.extractLsb' 4 2)).isNone, .reservedField),
           ((Rm.ofBits (f.f.extractLsb' 1 3)).isNone, .reservedField),
           ((f.f.extractLsb' 0 1) != 0, .unusedNonzero)]
          (.vmul g ((FFmt.ofBits (f.f.extractLsb' 4 2)).getD .f32) ((Rm.ofBits (f.f.extractLsb' 1 3)).getD .rne) ((opndOf .brick f.a).getD .z) ((opndOf .brick f.b).getD .z))

/-- Opcode 0x55: `vfma`. -/
def dec55 (g : Guard) (f : Fields) : Except DecodeError Raw :=
  match g with
  | .s _ => .error .formIllegal
  | .b g =>
    finish
          [((opndOf .brick f.d).isNone, .reservedOperand),
           (f.d != 0x32, .operandRule),
           (!(((opndOf .brick f.d).getD .z).dstUse (.b g)), .operandUse),
           (!(((opndOf .brick f.d).getD .z).outOk (.b g)), .outputNotOq),
           ((opndOf .brick f.a).isNone, .reservedOperand),
           (f.b != 0, .unusedNonzero),
           ((FFmt.ofBits (f.f.extractLsb' 4 2)).isNone, .reservedField),
           ((Rm.ofBits (f.f.extractLsb' 1 3)).isNone, .reservedField),
           ((f.f.extractLsb' 0 1) != 0, .unusedNonzero)]
          (.vfma g ((FFmt.ofBits (f.f.extractLsb' 4 2)).getD .f32) ((Rm.ofBits (f.f.extractLsb' 1 3)).getD .rne) ((opndOf .brick f.a).getD .z))

/-- Opcode 0x62: `vaxpy`. -/
def dec62 (g : Guard) (f : Fields) : Except DecodeError Raw :=
  match g with
  | .s _ => .error .formIllegal
  | .b g =>
    finish
          [((opndOf .brick f.d).isNone, .reservedOperand),
           (f.d != 0x32, .operandRule),
           (!(((opndOf .brick f.d).getD .z).dstUse (.b g)), .operandUse),
           (!(((opndOf .brick f.d).getD .z).outOk (.b g)), .outputNotOq),
           ((opndOf .brick f.a).isNone, .reservedOperand),
           (f.b != 0, .unusedNonzero),
           ((FFmt.ofBits (f.f.extractLsb' 4 2)).isNone, .reservedField),
           ((Rm.ofBits (f.f.extractLsb' 1 3)).isNone, .reservedField),
           ((f.f.extractLsb' 0 1) != 0, .unusedNonzero)]
          (.vaxpy g ((FFmt.ofBits (f.f.extractLsb' 4 2)).getD .f32) ((Rm.ofBits (f.f.extractLsb' 1 3)).getD .rne) ((opndOf .brick f.a).getD .z))

/-- Opcode 0x56: `vmin`. -/
def dec56 (g : Guard) (f : Fields) : Except DecodeError Raw :=
  match g with
  | .s _ => .error .formIllegal
  | .b g =>
    finish
          [((opndOf .brick f.d).isNone, .reservedOperand),
           (f.d != 0x32, .operandRule),
           (!(((opndOf .brick f.d).getD .z).dstUse (.b g)), .operandUse),
           (!(((opndOf .brick f.d).getD .z).outOk (.b g)), .outputNotOq),
           ((opndOf .brick f.a).isNone, .reservedOperand),
           ((opndOf .brick f.b).isNone, .reservedOperand),
           ((VFmt.ofBits (f.f.extractLsb' 4 2)).isNone, .reservedField),
           ((f.f.extractLsb' 1 3) != 0, .unusedNonzero)]
          (.vmin g ((VFmt.ofBits (f.f.extractLsb' 4 2)).getD .f32) ((f.f.extractLsb' 0 1) == 1) ((opndOf .brick f.a).getD .z) ((opndOf .brick f.b).getD .z))

/-- Opcode 0x57: `vmax`. -/
def dec57 (g : Guard) (f : Fields) : Except DecodeError Raw :=
  match g with
  | .s _ => .error .formIllegal
  | .b g =>
    finish
          [((opndOf .brick f.d).isNone, .reservedOperand),
           (f.d != 0x32, .operandRule),
           (!(((opndOf .brick f.d).getD .z).dstUse (.b g)), .operandUse),
           (!(((opndOf .brick f.d).getD .z).outOk (.b g)), .outputNotOq),
           ((opndOf .brick f.a).isNone, .reservedOperand),
           ((opndOf .brick f.b).isNone, .reservedOperand),
           ((VFmt.ofBits (f.f.extractLsb' 4 2)).isNone, .reservedField),
           ((f.f.extractLsb' 1 3) != 0, .unusedNonzero)]
          (.vmax g ((VFmt.ofBits (f.f.extractLsb' 4 2)).getD .f32) ((f.f.extractLsb' 0 1) == 1) ((opndOf .brick f.a).getD .z) ((opndOf .brick f.b).getD .z))

/-- Opcode 0x58: `vabs`. -/
def dec58 (g : Guard) (f : Fields) : Except DecodeError Raw :=
  match g with
  | .s _ => .error .formIllegal
  | .b g =>
    finish
          [((opndOf .brick f.d).isNone, .reservedOperand),
           (f.d != 0x32, .operandRule),
           (!(((opndOf .brick f.d).getD .z).dstUse (.b g)), .operandUse),
           (!(((opndOf .brick f.d).getD .z).outOk (.b g)), .outputNotOq),
           ((opndOf .brick f.a).isNone, .reservedOperand),
           (f.b != 0, .unusedNonzero),
           ((VFmt.ofBits (f.f.extractLsb' 4 2)).isNone, .reservedField),
           ((f.f.extractLsb' 1 3) != 0, .unusedNonzero),
           ((f.f.extractLsb' 0 1) != 0, .unusedNonzero)]
          (.vabs g ((VFmt.ofBits (f.f.extractLsb' 4 2)).getD .f32) ((opndOf .brick f.a).getD .z))

/-- Opcode 0x59: `vneg`. -/
def dec59 (g : Guard) (f : Fields) : Except DecodeError Raw :=
  match g with
  | .s _ => .error .formIllegal
  | .b g =>
    finish
          [((opndOf .brick f.d).isNone, .reservedOperand),
           (f.d != 0x32, .operandRule),
           (!(((opndOf .brick f.d).getD .z).dstUse (.b g)), .operandUse),
           (!(((opndOf .brick f.d).getD .z).outOk (.b g)), .outputNotOq),
           ((opndOf .brick f.a).isNone, .reservedOperand),
           (f.b != 0, .unusedNonzero),
           ((VFmt.ofBits (f.f.extractLsb' 4 2)).isNone, .reservedField),
           ((f.f.extractLsb' 1 3) != 0, .unusedNonzero),
           ((f.f.extractLsb' 0 1) != 0, .unusedNonzero)]
          (.vneg g ((VFmt.ofBits (f.f.extractLsb' 4 2)).getD .f32) ((opndOf .brick f.a).getD .z))

/-- Opcode 0x5A: `vsel`. -/
def dec5A (g : Guard) (f : Fields) : Except DecodeError Raw :=
  match g with
  | .s _ => .error .formIllegal
  | .b g =>
    finish
          [((opndOf .brick f.d).isNone, .reservedOperand),
           (f.d != 0x32, .operandRule),
           (!(((opndOf .brick f.d).getD .z).dstUse (.b g)), .operandUse),
           (!(((opndOf .brick f.d).getD .z).outOk (.b g)), .outputNotOq),
           ((opndOf .brick f.a).isNone, .reservedOperand),
           ((opndOf .brick f.b).isNone, .reservedOperand),
           ((VFmt.ofBits (f.f.extractLsb' 4 2)).isNone, .reservedField),
           ((f.f.extractLsb' 1 3) != 0, .unusedNonzero),
           ((f.f.extractLsb' 0 1) != 0, .unusedNonzero)]
          (.vsel g ((VFmt.ofBits (f.f.extractLsb' 4 2)).getD .f32) ((opndOf .brick f.a).getD .z) ((opndOf .brick f.b).getD .z))

/-- Opcode 0x5B: `vcmp`. -/
def dec5B (g : Guard) (f : Fields) : Except DecodeError Raw :=
  match g with
  | .s _ => .error .formIllegal
  | .b g =>
    finish
          [((opndOf .brick f.d).isNone, .reservedOperand),
           ((opndOf .brick f.a).isNone, .reservedOperand),
           ((opndOf .brick f.b).isNone, .reservedOperand),
           ((VFmt.ofBits (f.f.extractLsb' 4 2)).isNone, .reservedField),
           ((FCond.ofBits (f.f.extractLsb' 1 3)).isNone, .reservedField),
           ((f.f.extractLsb' 0 1) != 0, .unusedNonzero)]
          (.vcmp g ((VFmt.ofBits (f.f.extractLsb' 4 2)).getD .f32) ((FCond.ofBits (f.f.extractLsb' 1 3)).getD .eq) ((opndOf .brick f.d).getD .z) ((opndOf .brick f.a).getD .z) ((opndOf .brick f.b).getD .z))

/-- Opcode 0x5C: `vredsum`. -/
def dec5C (g : Guard) (f : Fields) : Except DecodeError Raw :=
  match g with
  | .s _ => .error .formIllegal
  | .b g =>
    finish
          [((opndOf .brick f.d).isNone, .reservedOperand),
           ((opndOf .brick f.a).isNone, .reservedOperand),
           (f.b != 0, .unusedNonzero),
           ((VFmt.ofBits (f.f.extractLsb' 4 2)).isNone, .reservedField),
           ((Rm.ofBits (f.f.extractLsb' 1 3)).isNone, .reservedField),
           ((f.f.extractLsb' 0 1) != 0, .unusedNonzero)]
          (.vredsum g ((VFmt.ofBits (f.f.extractLsb' 4 2)).getD .f32) ((Rm.ofBits (f.f.extractLsb' 1 3)).getD .rne) ((opndOf .brick f.d).getD .z) ((opndOf .brick f.a).getD .z))

/-- Opcode 0x5D: `vredmax`. -/
def dec5D (g : Guard) (f : Fields) : Except DecodeError Raw :=
  match g with
  | .s _ => .error .formIllegal
  | .b g =>
    finish
          [((opndOf .brick f.d).isNone, .reservedOperand),
           ((opndOf .brick f.a).isNone, .reservedOperand),
           (f.b != 0, .unusedNonzero),
           ((VFmt.ofBits (f.f.extractLsb' 4 2)).isNone, .reservedField),
           ((f.f.extractLsb' 1 3) != 0, .unusedNonzero)]
          (.vredmax g ((VFmt.ofBits (f.f.extractLsb' 4 2)).getD .f32) ((f.f.extractLsb' 0 1) == 1) ((opndOf .brick f.d).getD .z) ((opndOf .brick f.a).getD .z))

/-- Opcode 0x5E: `vamax`. -/
def dec5E (g : Guard) (f : Fields) : Except DecodeError Raw :=
  match g with
  | .s _ => .error .formIllegal
  | .b g =>
    finish
          [((opndOf .brick f.d).isNone, .reservedOperand),
           ((opndOf .brick f.a).isNone, .reservedOperand),
           (f.b != 0, .unusedNonzero),
           ((FFmt.ofBits (f.f.extractLsb' 4 2)).isNone, .reservedField),
           ((f.f.extractLsb' 1 3) != 0, .unusedNonzero),
           ((f.f.extractLsb' 0 1) != 0, .unusedNonzero)]
          (.vamax g ((FFmt.ofBits (f.f.extractLsb' 4 2)).getD .f32) ((opndOf .brick f.d).getD .z) ((opndOf .brick f.a).getD .z))

/-- Opcode 0x5F: `vscan`. -/
def dec5F (g : Guard) (f : Fields) : Except DecodeError Raw :=
  match g with
  | .s _ => .error .formIllegal
  | .b g =>
    finish
          [((opndOf .brick f.d).isNone, .reservedOperand),
           (f.d != 0x32, .operandRule),
           (!(((opndOf .brick f.d).getD .z).dstUse (.b g)), .operandUse),
           (!(((opndOf .brick f.d).getD .z).outOk (.b g)), .outputNotOq),
           ((opndOf .brick f.a).isNone, .reservedOperand),
           ((opndOf .brick f.b).isNone, .reservedOperand),
           ((FFmt.ofBits (f.f.extractLsb' 4 2)).isNone, .reservedField),
           ((Rm.ofBits (f.f.extractLsb' 1 3)).isNone, .reservedField),
           ((f.f.extractLsb' 0 1) != 0, .unusedNonzero)]
          (.vscan g ((FFmt.ofBits (f.f.extractLsb' 4 2)).getD .f32) ((Rm.ofBits (f.f.extractLsb' 1 3)).getD .rne) ((opndOf .brick f.a).getD .z) ((opndOf .brick f.b).getD .z))

/-- Opcode 0x60: `vexp2`. -/
def dec60 (g : Guard) (f : Fields) : Except DecodeError Raw :=
  match g with
  | .s _ => .error .formIllegal
  | .b g =>
    finish
          [((opndOf .brick f.d).isNone, .reservedOperand),
           (f.d != 0x32, .operandRule),
           (!(((opndOf .brick f.d).getD .z).dstUse (.b g)), .operandUse),
           (!(((opndOf .brick f.d).getD .z).outOk (.b g)), .outputNotOq),
           ((opndOf .brick f.a).isNone, .reservedOperand),
           (f.b != 0, .unusedNonzero),
           ((FFmt.ofBits (f.f.extractLsb' 4 2)).isNone, .reservedField),
           ((Rm.ofBits (f.f.extractLsb' 1 3)).isNone, .reservedField),
           ((f.f.extractLsb' 0 1) != 0, .unusedNonzero)]
          (.vexp2 g ((FFmt.ofBits (f.f.extractLsb' 4 2)).getD .f32) ((Rm.ofBits (f.f.extractLsb' 1 3)).getD .rne) ((opndOf .brick f.a).getD .z))

/-- Opcode 0x61: `vrsq`. -/
def dec61 (g : Guard) (f : Fields) : Except DecodeError Raw :=
  match g with
  | .s _ => .error .formIllegal
  | .b g =>
    finish
          [((opndOf .brick f.d).isNone, .reservedOperand),
           (f.d != 0x32, .operandRule),
           (!(((opndOf .brick f.d).getD .z).dstUse (.b g)), .operandUse),
           (!(((opndOf .brick f.d).getD .z).outOk (.b g)), .outputNotOq),
           ((opndOf .brick f.a).isNone, .reservedOperand),
           (f.b != 0, .unusedNonzero),
           ((FFmt.ofBits (f.f.extractLsb' 4 2)).isNone, .reservedField),
           ((Rm.ofBits (f.f.extractLsb' 1 3)).isNone, .reservedField),
           ((f.f.extractLsb' 0 1) != 0, .unusedNonzero)]
          (.vrsq g ((FFmt.ofBits (f.f.extractLsb' 4 2)).getD .f32) ((Rm.ofBits (f.f.extractLsb' 1 3)).getD .rne) ((opndOf .brick f.a).getD .z))

/-- Opcode 0x63: `vcvt`. -/
def dec63 (g : Guard) (f : Fields) : Except DecodeError Raw :=
  match g with
  | .s _ => .error .formIllegal
  | .b g =>
    finish
          [((opndOf .brick f.d).isNone, .reservedOperand),
           (f.d != 0x32, .operandRule),
           (!(((opndOf .brick f.d).getD .z).dstUse (.b g)), .operandUse),
           (!(((opndOf .brick f.d).getD .z).outOk (.b g)), .outputNotOq),
           ((opndOf .brick f.a).isNone, .reservedOperand),
           (f.b != 0, .unusedNonzero),
           ((f.f.extractLsb' 4 2) == 3, .reservedField),
           ((f.f.extractLsb' 4 2) != 0, .unusedNonzero),
           ((Rm.ofBits (f.f.extractLsb' 1 3)).isNone, .reservedField),
           ((f.f.extractLsb' 0 1) != 0, .unusedNonzero)]
          (.vcvt g ((Rm.ofBits (f.f.extractLsb' 1 3)).getD .rne) ((opndOf .brick f.a).getD .z))

/-- Opcode 0x64: `vqnt`. -/
def dec64 (g : Guard) (f : Fields) : Except DecodeError Raw :=
  match g with
  | .s _ => .error .formIllegal
  | .b g =>
    finish
          [((opndOf .brick f.d).isNone, .reservedOperand),
           (f.d != 0x32, .operandRule),
           (!(((opndOf .brick f.d).getD .z).dstUse (.b g)), .operandUse),
           (!(((opndOf .brick f.d).getD .z).outOk (.b g)), .outputNotOq),
           ((opndOf .brick f.a).isNone, .reservedOperand),
           ((opndOf .brick f.b).isNone, .reservedOperand),
           ((f.f.extractLsb' 4 2) == 3, .reservedField),
           ((f.f.extractLsb' 4 2) != 0, .unusedNonzero),
           ((f.f.extractLsb' 1 3) != 0, .unusedNonzero),
           ((f.f.extractLsb' 0 1) != 0, .unusedNonzero)]
          (.vqnt g ((opndOf .brick f.a).getD .z) ((opndOf .brick f.b).getD .z))

/-- Opcode 0x65: `vdqnt`. -/
def dec65 (g : Guard) (f : Fields) : Except DecodeError Raw :=
  match g with
  | .s _ => .error .formIllegal
  | .b g =>
    finish
          [((opndOf .brick f.d).isNone, .reservedOperand),
           (f.d != 0x32, .operandRule),
           (!(((opndOf .brick f.d).getD .z).dstUse (.b g)), .operandUse),
           (!(((opndOf .brick f.d).getD .z).outOk (.b g)), .outputNotOq),
           ((opndOf .brick f.a).isNone, .reservedOperand),
           ((opndOf .brick f.b).isNone, .reservedOperand),
           ((f.f.extractLsb' 4 2) == 3, .reservedField),
           ((f.f.extractLsb' 4 2) != 0, .unusedNonzero),
           ((Rm.ofBits (f.f.extractLsb' 1 3)).isNone, .reservedField),
           ((f.f.extractLsb' 0 1) != 0, .unusedNonzero)]
          (.vdqnt g ((Rm.ofBits (f.f.extractLsb' 1 3)).getD .rne) ((opndOf .brick f.a).getD .z) ((opndOf .brick f.b).getD .z))

/-- Opcode 0x70: `cvt`. -/
def dec70 (g : Guard) (f : Fields) : Except DecodeError Raw :=
  finish
        [((opndOf g.form f.d).isNone, .reservedOperand),
         ((opndOf g.form f.a).isNone, .reservedOperand),
         ((f.f.extractLsb' 4 2) != 0, .unusedNonzero),
         ((Rm.ofBits (f.f.extractLsb' 1 3)).isNone, .reservedField),
         ((f.f.extractLsb' 0 1) != 0, .unusedNonzero)]
        (.cvt g ((Rm.ofBits (f.f.extractLsb' 1 3)).getD .rne) ((opndOf g.form f.d).getD .z) ((opndOf g.form f.a).getD .z) ((CFmt.ofBits (f.b.extractLsb' 3 3)).getD .f32) ((CFmt.ofBits (f.b.extractLsb' 0 3)).getD .f32))

/-- Opcode 0x71: `qnt`. -/
def dec71 (g : Guard) (f : Fields) : Except DecodeError Raw :=
  finish
        [((opndOf g.form f.d).isNone, .reservedOperand),
         ((opndOf g.form f.a).isNone, .reservedOperand),
         ((opndOf g.form f.b).isNone, .reservedOperand),
         ((KFmt.ofBits (f.f.extractLsb' 4 2)).isNone, .reservedField),
         ((f.f.extractLsb' 0 4) != 0, .unusedNonzero)]
        (.qnt g ((KFmt.ofBits (f.f.extractLsb' 4 2)).getD .k8) ((opndOf g.form f.d).getD .z) ((opndOf g.form f.a).getD .z) ((opndOf g.form f.b).getD .z))

/-- Opcode 0x72: `dqnt`. -/
def dec72 (g : Guard) (f : Fields) : Except DecodeError Raw :=
  finish
        [((opndOf g.form f.d).isNone, .reservedOperand),
         ((opndOf g.form f.a).isNone, .reservedOperand),
         ((opndOf g.form f.b).isNone, .reservedOperand),
         ((KFmt.ofBits (f.f.extractLsb' 4 2)).isNone, .reservedField),
         ((Rm.ofBits (f.f.extractLsb' 1 3)).isNone, .reservedField),
         ((f.f.extractLsb' 0 1) != 0, .unusedNonzero)]
        (.dqnt g ((KFmt.ofBits (f.f.extractLsb' 4 2)).getD .k8) ((Rm.ofBits (f.f.extractLsb' 1 3)).getD .rne) ((opndOf g.form f.d).getD .z) ((opndOf g.form f.a).getD .z) ((opndOf g.form f.b).getD .z))

/-- Opcode 0x73: `scalex`. -/
def dec73 (g : Guard) (f : Fields) : Except DecodeError Raw :=
  finish
        [((opndOf g.form f.d).isNone, .reservedOperand),
         ((opndOf g.form f.a).isNone, .reservedOperand),
         (f.b != 0, .unusedNonzero),
         ((KFmt.ofBits (f.f.extractLsb' 4 2)).isNone, .reservedField),
         ((f.f.extractLsb' 0 4) != 0, .unusedNonzero)]
        (.scalex g ((KFmt.ofBits (f.f.extractLsb' 4 2)).getD .k8) ((opndOf g.form f.d).getD .z) ((opndOf g.form f.a).getD .z))

/-- Opcode 0x74: `limb`. -/
def dec74 (g : Guard) (f : Fields) : Except DecodeError Raw :=
  finish
        [((opndOf g.form f.d).isNone, .reservedOperand),
         ((opndOf g.form f.a).isNone, .reservedOperand),
         (f.b != 0, .unusedNonzero),
         (f.f != 0, .unusedNonzero)]
        (.limb g ((opndOf g.form f.d).getD .z) ((opndOf g.form f.a).getD .z))

/-- Opcode 0x75: `unlimb`. -/
def dec75 (g : Guard) (f : Fields) : Except DecodeError Raw :=
  finish
        [((opndOf g.form f.d).isNone, .reservedOperand),
         ((opndOf g.form f.a).isNone, .reservedOperand),
         (f.b != 0, .unusedNonzero),
         (f.f != 0, .unusedNonzero)]
        (.unlimb g ((opndOf g.form f.d).getD .z) ((opndOf g.form f.a).getD .z))

/-- Opcode 0x76: `pack_h`, `pack_b`, `pack_n`. -/
def dec76 (g : Guard) (f : Fields) : Except DecodeError Raw :=
  if (f.f.extractLsb' 0 2) == 0 then
    finish
        [((opndOf g.form f.d).isNone, .reservedOperand),
         ((opndOf g.form f.a).isNone, .reservedOperand),
         ((opndOf g.form f.b).isNone, .reservedOperand),
         ((f.f.extractLsb' 2 4) != 0, .unusedNonzero)]
        (.packH g ((opndOf g.form f.d).getD .z) ((opndOf g.form f.a).getD .z) ((opndOf g.form f.b).getD .z))
  else
  if (f.f.extractLsb' 0 2) == 1 then
    finish
        [((opndOf g.form f.d).isNone, .reservedOperand),
         ((opndOf g.form f.a).isNone, .reservedOperand),
         ((opndOf g.form f.b).isNone, .reservedOperand),
         ((f.f.extractLsb' 2 4) != 0, .unusedNonzero)]
        (.packB g ((opndOf g.form f.d).getD .z) ((opndOf g.form f.a).getD .z) ((opndOf g.form f.b).getD .z))
  else
  if (f.f.extractLsb' 0 2) == 2 then
    finish
        [((opndOf g.form f.d).isNone, .reservedOperand),
         ((opndOf g.form f.a).isNone, .reservedOperand),
         ((opndOf g.form f.b).isNone, .reservedOperand),
         ((f.f.extractLsb' 2 4) != 0, .unusedNonzero)]
        (.packN g ((opndOf g.form f.d).getD .z) ((opndOf g.form f.a).getD .z) ((opndOf g.form f.b).getD .z))
  else
  .error .reservedField

/-- Opcode 0x77: `unpack_h`, `unpack_b`, `unpack_n`. -/
def dec77 (g : Guard) (f : Fields) : Except DecodeError Raw :=
  if (f.f.extractLsb' 0 2) == 0 then
    finish
        [((opndOf g.form f.d).isNone, .reservedOperand),
         ((opndOf g.form f.a).isNone, .reservedOperand),
         ((opndOf g.form f.b).isNone, .reservedOperand),
         ((f.f.extractLsb' 3 3) != 0, .unusedNonzero)]
        (.unpackH g ((f.f.extractLsb' 2 1) == 1) ((opndOf g.form f.d).getD .z) ((opndOf g.form f.a).getD .z) ((opndOf g.form f.b).getD .z))
  else
  if (f.f.extractLsb' 0 2) == 1 then
    finish
        [((opndOf g.form f.d).isNone, .reservedOperand),
         ((opndOf g.form f.a).isNone, .reservedOperand),
         ((opndOf g.form f.b).isNone, .reservedOperand),
         ((f.f.extractLsb' 3 3) != 0, .unusedNonzero)]
        (.unpackB g ((f.f.extractLsb' 2 1) == 1) ((opndOf g.form f.d).getD .z) ((opndOf g.form f.a).getD .z) ((opndOf g.form f.b).getD .z))
  else
  if (f.f.extractLsb' 0 2) == 2 then
    finish
        [((opndOf g.form f.d).isNone, .reservedOperand),
         ((opndOf g.form f.a).isNone, .reservedOperand),
         ((opndOf g.form f.b).isNone, .reservedOperand),
         ((f.f.extractLsb' 3 3) != 0, .unusedNonzero)]
        (.unpackN g ((f.f.extractLsb' 2 1) == 1) ((opndOf g.form f.d).getD .z) ((opndOf g.form f.a).getD .z) ((opndOf g.form f.b).getD .z))
  else
  .error .reservedField

/-- Opcode 0x78: `hdr`. -/
def dec78 (g : Guard) (f : Fields) : Except DecodeError Raw :=
  finish
        [((opndOf g.form f.d).isNone, .reservedOperand),
         ((opndOf g.form f.a).isNone, .reservedOperand),
         ((opndOf g.form f.b).isNone, .reservedOperand),
         (f.f != 0, .unusedNonzero)]
        (.hdr g ((opndOf g.form f.d).getD .z) ((opndOf g.form f.a).getD .z) ((opndOf g.form f.b).getD .z))

/-- Opcode 0x79: `hdrget`. -/
def dec79 (g : Guard) (f : Fields) : Except DecodeError Raw :=
  finish
        [((opndOf g.form f.d).isNone, .reservedOperand),
         ((opndOf g.form f.a).isNone, .reservedOperand),
         (f.b != 0, .unusedNonzero),
         ((f.f.extractLsb' 3 3) != 0, .unusedNonzero),
         ((HdrField.ofBits (f.f.extractLsb' 0 3)).isNone, .reservedField)]
        (.hdrget g ((HdrField.ofBits (f.f.extractLsb' 0 3)).getD .user) ((opndOf g.form f.d).getD .z) ((opndOf g.form f.a).getD .z))

/-- Opcode 0x80: `oclaim`. -/
def dec80 (g : Guard) (f : Fields) : Except DecodeError Raw :=
  match g with
  | .s _ => .error .formIllegal
  | .b g =>
    finish
          [(f.d.extractLsb' 4 2 != 0, .matrix),
           (f.a.extractLsb' 3 3 != 0, .matrix),
           (f.b != 0, .unusedNonzero),
           (f.f != 0, .unusedNonzero)]
          (.oclaim g (f.d.extractLsb' 0 4) (f.a.extractLsb' 0 3))

/-- Opcode 0x81: `orelease`. -/
def dec81 (g : Guard) (f : Fields) : Except DecodeError Raw :=
  match g with
  | .s _ => .error .formIllegal
  | .b g =>
    finish
          [(f.d.extractLsb' 4 2 != 0, .matrix),
           (f.a.extractLsb' 3 3 != 0, .matrix),
           (f.b != 0, .unusedNonzero),
           (f.f != 0, .unusedNonzero)]
          (.orelease g (f.d.extractLsb' 0 4) (f.a.extractLsb' 0 3))

/-- Opcode 0x82: `ofill_bank`, `ofill_bus`. -/
def dec82 (g : Guard) (f : Fields) : Except DecodeError Raw :=
  match g with
  | .s _ => .error .formIllegal
  | .b g =>
    if (f.f.extractLsb' 2 1) == 0 then
      finish
        [(f.d.extractLsb' 2 4 != 0, .matrix),
         ((opndOf .brick f.a).isNone, .reservedOperand),
         ((opndOf .brick f.b).isNone, .reservedOperand),
         ((SFmt.ofBits (f.f.extractLsb' 3 3)).isNone, .reservedField),
         ((f.f.extractLsb' 0 2) != 0, .unusedNonzero)]
        (.ofillBank g ((SFmt.ofBits (f.f.extractLsb' 3 3)).getD .k8) (f.d.extractLsb' 0 2) ((opndOf .brick f.a).getD .z) ((opndOf .brick f.b).getD .z))
    else
    if (f.f.extractLsb' 2 1) == 1 then
      finish
        [(f.d.extractLsb' 2 4 != 0, .matrix),
         (f.a != 0, .unusedNonzero),
         (f.b != 0, .unusedNonzero),
         ((SFmt.ofBits (f.f.extractLsb' 3 3)).isNone, .reservedField),
         ((f.f.extractLsb' 0 2) != 0, .unusedNonzero)]
        (.ofillBus g ((SFmt.ofBits (f.f.extractLsb' 3 3)).getD .k8) (f.d.extractLsb' 0 2))
    else
    .error .reservedField

/-- Opcode 0x83: `ostat`. -/
def dec83 (g : Guard) (f : Fields) : Except DecodeError Raw :=
  match g with
  | .s _ => .error .formIllegal
  | .b g =>
    finish
          [((opndOf .brick f.d).isNone, .reservedOperand),
           (f.a != 0, .unusedNonzero),
           (f.b != 0, .unusedNonzero),
           ((f.f.extractLsb' 3 3) != 0, .unusedNonzero),
           ((TileIdx.ofBits (f.f.extractLsb' 0 3)).isNone, .reservedField)]
          (.ostat g ((TileIdx.ofBits (f.f.extractLsb' 0 3)).getD .m0) ((opndOf .brick f.d).getD .z))

/-- Opcode 0x84: `mbind`. -/
def dec84 (g : Guard) (f : Fields) : Except DecodeError Raw :=
  match g with
  | .s _ => .error .formIllegal
  | .b g =>
    finish
          [(f.d.extractLsb' 2 4 != 0, .matrix),
           ((opndOf .brick f.a).isNone, .reservedOperand),
           (f.b != 0, .unusedNonzero),
           (f.f != 0, .unusedNonzero)]
          (.mbind g (f.d.extractLsb' 0 2) ((opndOf .brick f.a).getD .z))

/-- Opcode 0x85: `mzero`. -/
def dec85 (g : Guard) (f : Fields) : Except DecodeError Raw :=
  match g with
  | .s _ => .error .formIllegal
  | .b g =>
    finish
          [(f.d.extractLsb' 2 4 != 0, .matrix),
           (f.a != 0, .unusedNonzero),
           (f.b != 0, .unusedNonzero),
           (f.f != 0, .unusedNonzero)]
          (.mzero g (f.d.extractLsb' 0 2))

/-- Opcode 0x86: `mmac_k8`, `mmac_k4`, `mmac_k16`. -/
def dec86 (g : Guard) (f : Fields) : Except DecodeError Raw :=
  match g with
  | .s _ => .error .formIllegal
  | .b g =>
    if (f.f.extractLsb' 4 2) == 0 then
      finish
        [(f.d.extractLsb' 2 4 != 0, .matrix),
         (f.a.extractLsb' 2 4 != 0, .matrix),
         (f.b.extractLsb' 2 4 != 0, .matrix),
         ((f.f.extractLsb' 1 3) != 0, .unusedNonzero)]
        (.mmacK8 g ((f.f.extractLsb' 0 1) == 1) (f.d.extractLsb' 0 2) (f.a.extractLsb' 0 2) (f.b.extractLsb' 0 2))
    else
    if (f.f.extractLsb' 4 2) == 1 then
      finish
        [(f.d.extractLsb' 2 4 != 0, .matrix),
         (f.a.extractLsb' 2 4 != 0, .matrix),
         (f.b.extractLsb' 2 4 != 0, .matrix),
         ((f.f.extractLsb' 1 3) != 0, .unusedNonzero)]
        (.mmacK4 g ((f.f.extractLsb' 0 1) == 1) (f.d.extractLsb' 0 2) (f.a.extractLsb' 0 2) (f.b.extractLsb' 0 2))
    else
    if (f.f.extractLsb' 4 2) == 2 then
      finish
        [(f.d != 0, .unusedNonzero),
         (f.a.extractLsb' 2 4 != 0, .matrix),
         (f.b.extractLsb' 2 4 != 0, .matrix),
         ((f.f.extractLsb' 1 3) != 0, .unusedNonzero)]
        (.mmacK16 g ((f.f.extractLsb' 0 1) == 1) (f.a.extractLsb' 0 2) (f.b.extractLsb' 0 2))
    else
    .error .reservedField

/-- Opcode 0x87: `mrecon_i64`, `mrecon_f32`, `mrecon_f32_add`. -/
def dec87 (g : Guard) (f : Fields) : Except DecodeError Raw :=
  match g with
  | .s _ => .error .formIllegal
  | .b g =>
    if (f.f.extractLsb' 0 2) == 0 then
      finish
        [(f.d.extractLsb' 2 4 != 0, .matrix),
         ((opndOf .brick f.a).isNone, .reservedOperand),
         (f.b != 0, .unusedNonzero),
         ((f.f.extractLsb' 3 3) != 0, .unusedNonzero)]
        (.mreconI64 g ((f.f.extractLsb' 2 1) == 1) (f.d.extractLsb' 0 2) ((opndOf .brick f.a).getD .z))
    else
    if (f.f.extractLsb' 0 2) == 1 then
      finish
        [(f.d.extractLsb' 2 4 != 0, .matrix),
         ((opndOf .brick f.a).isNone, .reservedOperand),
         (f.b != 0, .unusedNonzero),
         ((f.f.extractLsb' 3 3) != 0, .unusedNonzero)]
        (.mreconF32 g ((f.f.extractLsb' 2 1) == 1) (f.d.extractLsb' 0 2) ((opndOf .brick f.a).getD .z))
    else
    if (f.f.extractLsb' 0 2) == 2 then
      finish
        [(f.d.extractLsb' 2 4 != 0, .matrix),
         ((opndOf .brick f.a).isNone, .reservedOperand),
         (f.b != 0, .unusedNonzero),
         ((f.f.extractLsb' 3 3) != 0, .unusedNonzero)]
        (.mreconF32Add g ((f.f.extractLsb' 2 1) == 1) (f.d.extractLsb' 0 2) ((opndOf .brick f.a).getD .z))
    else
    .error .reservedField

/-- Opcode 0x88: `mdrain`, `mdrain_z`. -/
def dec88 (g : Guard) (f : Fields) : Except DecodeError Raw :=
  match g with
  | .s _ => .error .formIllegal
  | .b g =>
    if (f.f.extractLsb' 0 1) == 0 then
      finish
        [(f.d.extractLsb' 2 4 != 0, .matrix),
         ((opndOf .brick f.a).isNone, .reservedOperand),
         (f.b != 0, .unusedNonzero),
         ((f.f.extractLsb' 1 5) != 0, .unusedNonzero)]
        (.mdrain g (f.d.extractLsb' 0 2) ((opndOf .brick f.a).getD .z))
    else
    if (f.f.extractLsb' 0 1) == 1 then
      finish
        [(f.d.extractLsb' 2 4 != 0, .matrix),
         ((opndOf .brick f.a).isNone, .reservedOperand),
         (f.b != 0, .unusedNonzero),
         ((f.f.extractLsb' 1 5) != 0, .unusedNonzero)]
        (.mdrainZ g (f.d.extractLsb' 0 2) ((opndOf .brick f.a).getD .z))
    else
    .error .reservedField

/-- Opcode 0x89: `trienc`. -/
def dec89 (g : Guard) (f : Fields) : Except DecodeError Raw :=
  match g with
  | .s _ => .error .formIllegal
  | .b g =>
    finish
          [((opndOf .brick f.d).isNone, .reservedOperand),
           ((opndOf .brick f.a).isNone, .reservedOperand),
           (f.b != 0, .unusedNonzero),
           (f.f != 0, .unusedNonzero)]
          (.trienc g ((opndOf .brick f.d).getD .z) ((opndOf .brick f.a).getD .z))

/-- Opcode 0x8A: `tridec`. -/
def dec8A (g : Guard) (f : Fields) : Except DecodeError Raw :=
  match g with
  | .s _ => .error .formIllegal
  | .b g =>
    finish
          [((opndOf .brick f.d).isNone, .reservedOperand),
           ((opndOf .brick f.a).isNone, .reservedOperand),
           (f.b != 0, .unusedNonzero),
           (f.f != 0, .unusedNonzero)]
          (.tridec g ((opndOf .brick f.d).getD .z) ((opndOf .brick f.a).getD .z))

/-- Opcode 0x8B: `triadd`. -/
def dec8B (g : Guard) (f : Fields) : Except DecodeError Raw :=
  match g with
  | .s _ => .error .formIllegal
  | .b g =>
    finish
          [((opndOf .brick f.d).isNone, .reservedOperand),
           ((opndOf .brick f.a).isNone, .reservedOperand),
           ((opndOf .brick f.b).isNone, .reservedOperand),
           (f.f != 0, .unusedNonzero)]
          (.triadd g ((opndOf .brick f.d).getD .z) ((opndOf .brick f.a).getD .z) ((opndOf .brick f.b).getD .z))

/-- Opcode 0x8C: `trimul`. -/
def dec8C (g : Guard) (f : Fields) : Except DecodeError Raw :=
  match g with
  | .s _ => .error .formIllegal
  | .b g =>
    finish
          [((opndOf .brick f.d).isNone, .reservedOperand),
           ((opndOf .brick f.a).isNone, .reservedOperand),
           ((opndOf .brick f.b).isNone, .reservedOperand),
           (f.f != 0, .unusedNonzero)]
          (.trimul g ((opndOf .brick f.d).getD .z) ((opndOf .brick f.a).getD .z) ((opndOf .brick f.b).getD .z))

/-- Opcode 0x90: `scanb`. -/
def dec90 (g : Guard) (f : Fields) : Except DecodeError Raw :=
  match g with
  | .s _ => .error .formIllegal
  | .b g =>
    finish
          [((opndOf .brick f.d).isNone, .reservedOperand),
           ((opndOf .brick f.a).isNone, .reservedOperand),
           ((opndOf .brick f.b).isNone, .reservedOperand),
           ((f.f.extractLsb' 4 1) != 0, .unusedNonzero)]
          (.scanb g ((f.f.extractLsb' 5 1) == 1) (f.f.extractLsb' 0 4) ((opndOf .brick f.d).getD .z) ((opndOf .brick f.a).getD .z) ((opndOf .brick f.b).getD .z))

/-- Opcode 0x91: `scant`. -/
def dec91 (g : Guard) (f : Fields) : Except DecodeError Raw :=
  match g with
  | .s _ => .error .formIllegal
  | .b g =>
    finish
          [((opndOf .brick f.d).isNone, .reservedOperand),
           ((opndOf .brick f.a).isNone, .reservedOperand),
           ((opndOf .brick f.b).isNone, .reservedOperand),
           ((f.f.extractLsb' 4 1) != 0, .unusedNonzero)]
          (.scant g ((f.f.extractLsb' 5 1) == 1) (f.f.extractLsb' 0 4) ((opndOf .brick f.d).getD .z) ((opndOf .brick f.a).getD .z) ((opndOf .brick f.b).getD .z))

/-- Opcode 0x92: `isect`. -/
def dec92 (g : Guard) (f : Fields) : Except DecodeError Raw :=
  match g with
  | .s _ => .error .formIllegal
  | .b g =>
    finish
          [((opndOf .brick f.d).isNone, .reservedOperand),
           ((opndOf .brick f.a).isNone, .reservedOperand),
           ((opndOf .brick f.b).isNone, .reservedOperand),
           ((f.f.extractLsb' 2 4) != 0, .unusedNonzero),
           ((MMode.ofBits (f.f.extractLsb' 0 2)).isNone, .reservedField)]
          (.isect g ((MMode.ofBits (f.f.extractLsb' 0 2)).getD .cv) ((opndOf .brick f.d).getD .z) ((opndOf .brick f.a).getD .z) ((opndOf .brick f.b).getD .z))

/-- Opcode 0x93: `union`. -/
def dec93 (g : Guard) (f : Fields) : Except DecodeError Raw :=
  match g with
  | .s _ => .error .formIllegal
  | .b g =>
    finish
          [((opndOf .brick f.d).isNone, .reservedOperand),
           ((opndOf .brick f.a).isNone, .reservedOperand),
           ((opndOf .brick f.b).isNone, .reservedOperand),
           ((f.f.extractLsb' 2 4) != 0, .unusedNonzero),
           ((MMode.ofBits (f.f.extractLsb' 0 2)).isNone, .reservedField)]
          (.union g ((MMode.ofBits (f.f.extractLsb' 0 2)).getD .cv) ((opndOf .brick f.d).getD .z) ((opndOf .brick f.a).getD .z) ((opndOf .brick f.b).getD .z))

/-- Opcode 0x94: `stopt`, `stopt_imm`. -/
def dec94 (g : Guard) (f : Fields) : Except DecodeError Raw :=
  match g with
  | .s _ => .error .formIllegal
  | .b g =>
    if (f.f.extractLsb' 4 1) == 0 then
      finish
        [((opndOf .brick f.d).isNone, .reservedOperand),
         ((opndOf .brick f.a).isNone, .reservedOperand),
         (f.b != 0, .unusedNonzero),
         ((f.f.extractLsb' 5 1) != 0, .unusedNonzero),
         ((f.f.extractLsb' 0 4) != 0, .unusedNonzero)]
        (.stopt g ((opndOf .brick f.d).getD .z) ((opndOf .brick f.a).getD .z))
    else
    if (f.f.extractLsb' 4 1) == 1 then
      finish
        [((opndOf .brick f.d).isNone, .reservedOperand),
         (f.a != 0, .unusedNonzero),
         (f.b != 0, .unusedNonzero),
         ((f.f.extractLsb' 5 1) != 0, .unusedNonzero)]
        (.stoptImm g (f.f.extractLsb' 0 4) ((opndOf .brick f.d).getD .z))
    else
    .error .reservedField

/-- Opcode 0x95: `stopq_lower`, `stopq_raise`. -/
def dec95 (g : Guard) (f : Fields) : Except DecodeError Raw :=
  match g with
  | .s _ => .error .formIllegal
  | .b g =>
    if (f.f.extractLsb' 0 1) == 0 then
      finish
        [((opndOf .brick f.d).isNone, .reservedOperand),
         ((opndOf .brick f.a).isNone, .reservedOperand),
         (f.b != 0, .unusedNonzero),
         ((f.f.extractLsb' 1 5) != 0, .unusedNonzero)]
        (.stopqLower g ((opndOf .brick f.d).getD .z) ((opndOf .brick f.a).getD .z))
    else
    if (f.f.extractLsb' 0 1) == 1 then
      finish
        [((opndOf .brick f.d).isNone, .reservedOperand),
         ((opndOf .brick f.a).isNone, .reservedOperand),
         (f.b != 0, .unusedNonzero),
         ((f.f.extractLsb' 1 5) != 0, .unusedNonzero)]
        (.stopqRaise g ((opndOf .brick f.d).getD .z) ((opndOf .brick f.a).getD .z))
    else
    .error .reservedField

/-- Opcode 0x96: `spacc_fadd`, `spacc_add`, `spacc_fmax`. -/
def dec96 (g : Guard) (f : Fields) : Except DecodeError Raw :=
  match g with
  | .s _ => .error .formIllegal
  | .b g =>
    if (f.f.extractLsb' 4 2) == 0 then
      finish
        [((opndOf .brick f.d).isNone, .reservedOperand),
         (f.d.extractLsb' 4 2 != 0, .sparse),
         (!(((opndOf .brick f.d).getD .z).dstUse (.b g)), .operandUse),
         (!(((opndOf .brick f.d).getD .z).outOk (.b g)), .outputNotOq),
         ((opndOf .brick f.a).isNone, .reservedOperand),
         ((opndOf .brick f.b).isNone, .reservedOperand),
         ((Rm.ofBits (f.f.extractLsb' 1 3)).isNone, .reservedField),
         ((f.f.extractLsb' 0 1) != 0, .unusedNonzero)]
        (.spaccFadd g ((Rm.ofBits (f.f.extractLsb' 1 3)).getD .rne) (f.d.extractLsb' 0 4) ((opndOf .brick f.a).getD .z) ((opndOf .brick f.b).getD .z))
    else
    if (f.f.extractLsb' 4 2) == 1 then
      finish
        [((opndOf .brick f.d).isNone, .reservedOperand),
         (f.d.extractLsb' 4 2 != 0, .sparse),
         (!(((opndOf .brick f.d).getD .z).dstUse (.b g)), .operandUse),
         (!(((opndOf .brick f.d).getD .z).outOk (.b g)), .outputNotOq),
         ((opndOf .brick f.a).isNone, .reservedOperand),
         ((opndOf .brick f.b).isNone, .reservedOperand),
         ((f.f.extractLsb' 1 3) != 0, .reservedField),
         ((f.f.extractLsb' 0 1) != 0, .unusedNonzero)]
        (.spaccAdd g (f.d.extractLsb' 0 4) ((opndOf .brick f.a).getD .z) ((opndOf .brick f.b).getD .z))
    else
    if (f.f.extractLsb' 4 2) == 2 then
      finish
        [((opndOf .brick f.d).isNone, .reservedOperand),
         (f.d.extractLsb' 4 2 != 0, .sparse),
         (!(((opndOf .brick f.d).getD .z).dstUse (.b g)), .operandUse),
         (!(((opndOf .brick f.d).getD .z).outOk (.b g)), .outputNotOq),
         ((opndOf .brick f.a).isNone, .reservedOperand),
         ((opndOf .brick f.b).isNone, .reservedOperand),
         ((f.f.extractLsb' 1 3) != 0, .reservedField),
         ((f.f.extractLsb' 0 1) != 0, .unusedNonzero)]
        (.spaccFmax g (f.d.extractLsb' 0 4) ((opndOf .brick f.a).getD .z) ((opndOf .brick f.b).getD .z))
    else
    .error .reservedField

/-- Opcode 0x97: `spdrain`, `spdrain_v`. -/
def dec97 (g : Guard) (f : Fields) : Except DecodeError Raw :=
  match g with
  | .s _ => .error .formIllegal
  | .b g =>
    if (f.f.extractLsb' 4 1) == 0 then
      finish
        [((opndOf .brick f.d).isNone, .reservedOperand),
         (f.a != 0, .unusedNonzero),
         (f.b != 0, .unusedNonzero),
         ((f.f.extractLsb' 5 1) != 0, .unusedNonzero)]
        (.spdrain g (f.f.extractLsb' 0 4) ((opndOf .brick f.d).getD .z))
    else
    if (f.f.extractLsb' 4 1) == 1 then
      finish
        [((opndOf .brick f.d).isNone, .reservedOperand),
         (f.a != 0, .unusedNonzero),
         (f.b != 0, .unusedNonzero),
         ((f.f.extractLsb' 5 1) != 0, .unusedNonzero)]
        (.spdrainV g (f.f.extractLsb' 0 4) ((opndOf .brick f.d).getD .z))
    else
    .error .reservedField

/-- Opcode 0x98: `part`. -/
def dec98 (g : Guard) (f : Fields) : Except DecodeError Raw :=
  match g with
  | .s _ => .error .formIllegal
  | .b g =>
    finish
          [((opndOf .brick f.d).isNone, .reservedOperand),
           ((opndOf .brick f.a).isNone, .reservedOperand),
           (f.b != 0, .unusedNonzero),
           ((f.f.extractLsb' 5 1) != 0, .unusedNonzero)]
          (.part g (f.f.extractLsb' 0 5) ((opndOf .brick f.d).getD .z) ((opndOf .brick f.a).getD .z))

/-- Opcode 0xF2: `isq`. -/
def decF2 (g : Guard) (f : Fields) : Except DecodeError Raw :=
  finish
        [((opndOf g.form f.d).isNone, .reservedOperand),
         ((opndOf g.form f.a).isNone, .reservedOperand),
         (f.b != 0, .unusedNonzero),
         ((f.f.extractLsb' 2 4) != 0, .unusedNonzero)]
        (.isq g (f.f.extractLsb' 0 2) ((opndOf g.form f.d).getD .z) ((opndOf g.form f.a).getD .z))

/-- Opcode 0xF3: `probe`. -/
def decF3 (g : Guard) (f : Fields) : Except DecodeError Raw :=
  finish
        [((opndOf g.form f.d).isNone, .reservedOperand),
         ((opndOf g.form f.a).isNone, .reservedOperand),
         (f.b != 0, .unusedNonzero),
         ((f.f.extractLsb' 2 4) != 0, .unusedNonzero)]
        (.probe g (f.f.extractLsb' 0 2) ((opndOf g.form f.d).getD .z) ((opndOf g.form f.a).getD .z))

/-- Opcode 0xF4: `unpin`. -/
def decF4 (g : Guard) (f : Fields) : Except DecodeError Raw :=
  finish
        [((opndOf g.form f.d).isNone, .reservedOperand),
         ((opndOf g.form f.a).isNone, .reservedOperand),
         (f.b != 0, .unusedNonzero),
         ((f.f.extractLsb' 2 4) != 0, .unusedNonzero)]
        (.unpin g (f.f.extractLsb' 0 2) ((opndOf g.form f.d).getD .z) ((opndOf g.form f.a).getD .z))

/-- Opcode 0xF0: `hod`. -/
def decF0 (g : Guard) (f : Fields) : Except DecodeError Raw :=
  finish
        [((opndOf g.form f.d).isNone, .reservedOperand),
         ((opndOf g.form f.a).isNone, .reservedOperand),
         (f.b != 0, .unusedNonzero),
         ((f.f.extractLsb' 2 4) != 0, .unusedNonzero)]
        (.hod g (f.f.extractLsb' 0 2) ((opndOf g.form f.d).getD .z) ((opndOf g.form f.a).getD .z))

/-- Opcode 0xF1: `coll`. -/
def decF1 (g : Guard) (f : Fields) : Except DecodeError Raw :=
  finish
        [((opndOf g.form f.d).isNone, .reservedOperand),
         ((opndOf g.form f.a).isNone, .reservedOperand),
         (f.b != 0, .unusedNonzero),
         ((f.f.extractLsb' 2 4) != 0, .unusedNonzero)]
        (.coll g (f.f.extractLsb' 0 2) ((opndOf g.form f.d).getD .z) ((opndOf g.form f.a).getD .z))

/-- Opcode 0xF5: `jobwait`. -/
def decF5 (g : Guard) (f : Fields) : Except DecodeError Raw :=
  finish
        [((opndOf g.form f.d).isNone, .reservedOperand),
         ((opndOf g.form f.a).isNone, .reservedOperand),
         (f.b != 0, .unusedNonzero),
         ((f.f.extractLsb' 2 4) != 0, .unusedNonzero)]
        (.jobwait g (f.f.extractLsb' 0 2) ((opndOf g.form f.d).getD .z) ((opndOf g.form f.a).getD .z))

/-- Opcode 0xA0: `ldb`. -/
def decA0 (g : Guard) (f : Fields) : Except DecodeError Raw :=
  match g with
  | .s _ => .error .formIllegal
  | .b g =>
    finish
          [((opndOf .brick f.d).isNone, .reservedOperand),
           ((opndOf .brick f.a).isNone, .reservedOperand),
           ((opndOf .brick f.b).isNone, .reservedOperand),
           ((f.f.extractLsb' 4 2) != 0, .reservedField),
           ((Size.ofBits (f.f.extractLsb' 2 2)).isNone, .reservedField),
           ((f.f.extractLsb' 0 2) != 0, .reservedField)]
          (.ldb g ((Size.ofBits (f.f.extractLsb' 2 2)).getD .w) ((opndOf .brick f.d).getD .z) ((opndOf .brick f.a).getD .z) ((opndOf .brick f.b).getD .z))

/-- Opcode 0xA1: `stb`. -/
def decA1 (g : Guard) (f : Fields) : Except DecodeError Raw :=
  match g with
  | .s _ => .error .formIllegal
  | .b g =>
    finish
          [((opndOf .brick f.d).isNone, .reservedOperand),
           ((opndOf .brick f.a).isNone, .reservedOperand),
           ((opndOf .brick f.b).isNone, .reservedOperand),
           ((f.f.extractLsb' 4 2) != 0, .reservedField),
           ((Size.ofBits (f.f.extractLsb' 2 2)).isNone, .reservedField),
           ((f.f.extractLsb' 0 2) != 0, .reservedField)]
          (.stb g ((Size.ofBits (f.f.extractLsb' 2 2)).getD .w) ((opndOf .brick f.d).getD .z) ((opndOf .brick f.a).getD .z) ((opndOf .brick f.b).getD .z))

/-- Opcode 0xA2: `ldv`. -/
def decA2 (g : Guard) (f : Fields) : Except DecodeError Raw :=
  finish
        [((opndOf g.form f.d).isNone, .reservedOperand),
         ((opndOf g.form f.a).isNone, .reservedOperand),
         ((opndOf g.form f.b).isNone, .reservedOperand),
         ((f.f.extractLsb' 4 2) != 0, .reservedField),
         ((Size.ofBits (f.f.extractLsb' 2 2)).isNone, .reservedField),
         ((f.f.extractLsb' 0 2) != 0, .reservedField)]
        (.ldv g ((Size.ofBits (f.f.extractLsb' 2 2)).getD .w) ((opndOf g.form f.d).getD .z) ((opndOf g.form f.a).getD .z) ((opndOf g.form f.b).getD .z))

/-- Opcode 0xA3: `stv`. -/
def decA3 (g : Guard) (f : Fields) : Except DecodeError Raw :=
  finish
        [((opndOf g.form f.d).isNone, .reservedOperand),
         ((opndOf g.form f.a).isNone, .reservedOperand),
         ((opndOf g.form f.b).isNone, .reservedOperand),
         ((f.f.extractLsb' 4 2) != 0, .reservedField),
         ((Size.ofBits (f.f.extractLsb' 2 2)).isNone, .reservedField),
         ((f.f.extractLsb' 0 2) != 0, .reservedField)]
        (.stv g ((Size.ofBits (f.f.extractLsb' 2 2)).getD .w) ((opndOf g.form f.d).getD .z) ((opndOf g.form f.a).getD .z) ((opndOf g.form f.b).getD .z))

/-- Opcode 0xA4: `ldg`. -/
def decA4 (g : Guard) (f : Fields) : Except DecodeError Raw :=
  finish
        [((opndOf g.form f.d).isNone, .reservedOperand),
         ((opndOf g.form f.a).isNone, .reservedOperand),
         ((opndOf g.form f.b).isNone, .reservedOperand),
         ((f.f.extractLsb' 4 2) != 0, .reservedField),
         ((Size.ofBits (f.f.extractLsb' 2 2)).isNone, .reservedField)]
        (.ldg g ((Size.ofBits (f.f.extractLsb' 2 2)).getD .w) (f.f.extractLsb' 0 2) ((opndOf g.form f.d).getD .z) ((opndOf g.form f.a).getD .z) ((opndOf g.form f.b).getD .z))

/-- Opcode 0xA5: `stg`. -/
def decA5 (g : Guard) (f : Fields) : Except DecodeError Raw :=
  finish
        [((opndOf g.form f.d).isNone, .reservedOperand),
         ((opndOf g.form f.a).isNone, .reservedOperand),
         ((opndOf g.form f.b).isNone, .reservedOperand),
         ((f.f.extractLsb' 4 2) != 0, .reservedField),
         ((Size.ofBits (f.f.extractLsb' 2 2)).isNone, .reservedField)]
        (.stg g ((Size.ofBits (f.f.extractLsb' 2 2)).getD .w) (f.f.extractLsb' 0 2) ((opndOf g.form f.d).getD .z) ((opndOf g.form f.a).getD .z) ((opndOf g.form f.b).getD .z))

/-- Opcode 0xA6: `ldp`. -/
def decA6 (g : Guard) (f : Fields) : Except DecodeError Raw :=
  finish
        [((opndOf g.form f.d).isNone, .reservedOperand),
         ((opndOf g.form f.a).isNone, .reservedOperand),
         ((opndOf g.form f.b).isNone, .reservedOperand),
         ((f.f.extractLsb' 4 2) != 0, .reservedField),
         ((f.f.extractLsb' 2 2) != 0, .reservedField)]
        (.ldp g (f.f.extractLsb' 0 2) ((opndOf g.form f.d).getD .z) ((opndOf g.form f.a).getD .z) ((opndOf g.form f.b).getD .z))

/-- Opcode 0xA7: `stp`. -/
def decA7 (g : Guard) (f : Fields) : Except DecodeError Raw :=
  finish
        [((opndOf g.form f.d).isNone, .reservedOperand),
         ((opndOf g.form f.a).isNone, .reservedOperand),
         ((opndOf g.form f.b).isNone, .reservedOperand),
         ((f.f.extractLsb' 4 2) != 0, .reservedField),
         ((f.f.extractLsb' 2 2) != 0, .reservedField)]
        (.stp g (f.f.extractLsb' 0 2) ((opndOf g.form f.d).getD .z) ((opndOf g.form f.a).getD .z) ((opndOf g.form f.b).getD .z))

/-- Opcode 0xA8: `clrp`. -/
def decA8 (g : Guard) (f : Fields) : Except DecodeError Raw :=
  finish
        [((opndOf g.form f.d).isNone, .reservedOperand),
         ((opndOf g.form f.a).isNone, .reservedOperand),
         ((opndOf g.form f.b).isNone, .reservedOperand),
         ((f.f.extractLsb' 4 2) != 0, .reservedField),
         ((f.f.extractLsb' 2 2) != 0, .reservedField)]
        (.clrp g (f.f.extractLsb' 0 2) ((opndOf g.form f.d).getD .z) ((opndOf g.form f.a).getD .z) ((opndOf g.form f.b).getD .z))

/-- Opcode 0xA9: `pref`. -/
def decA9 (g : Guard) (f : Fields) : Except DecodeError Raw :=
  finish
        [(f.d != 0, .unusedNonzero),
         ((opndOf g.form f.a).isNone, .reservedOperand),
         ((opndOf g.form f.b).isNone, .reservedOperand),
         ((f.f.extractLsb' 4 2) != 0, .reservedField),
         ((f.f.extractLsb' 2 2) != 0, .reservedField)]
        (.pref g (f.f.extractLsb' 0 2) ((opndOf g.form f.a).getD .z) ((opndOf g.form f.b).getD .z))

/-- Opcode 0xB0: `amoadd`, `amoand`, `amoor`, `amoxor`, `amomin`, `amomax`, `amominu`, `amomaxu`, `amoswap`, `amofadd`. -/
def decB0 (g : Guard) (f : Fields) : Except DecodeError Raw :=
  if f.amOp == 0 then
    finish
        [((AOrd.ofBits f.amOrd).isNone, .reservedField),
         ((Scope.ofBits f.amScope).isNone, .reservedField)]
        (.amoadd g ((AOrd.ofBits f.amOrd).getD .rlx) ((Scope.ofBits f.amScope).getD .brick) f.amW f.amD f.amA f.amB)
  else
  if f.amOp == 1 then
    finish
        [((AOrd.ofBits f.amOrd).isNone, .reservedField),
         ((Scope.ofBits f.amScope).isNone, .reservedField)]
        (.amoand g ((AOrd.ofBits f.amOrd).getD .rlx) ((Scope.ofBits f.amScope).getD .brick) f.amW f.amD f.amA f.amB)
  else
  if f.amOp == 2 then
    finish
        [((AOrd.ofBits f.amOrd).isNone, .reservedField),
         ((Scope.ofBits f.amScope).isNone, .reservedField)]
        (.amoor g ((AOrd.ofBits f.amOrd).getD .rlx) ((Scope.ofBits f.amScope).getD .brick) f.amW f.amD f.amA f.amB)
  else
  if f.amOp == 3 then
    finish
        [((AOrd.ofBits f.amOrd).isNone, .reservedField),
         ((Scope.ofBits f.amScope).isNone, .reservedField)]
        (.amoxor g ((AOrd.ofBits f.amOrd).getD .rlx) ((Scope.ofBits f.amScope).getD .brick) f.amW f.amD f.amA f.amB)
  else
  if f.amOp == 4 then
    finish
        [((AOrd.ofBits f.amOrd).isNone, .reservedField),
         ((Scope.ofBits f.amScope).isNone, .reservedField)]
        (.amomin g ((AOrd.ofBits f.amOrd).getD .rlx) ((Scope.ofBits f.amScope).getD .brick) f.amW f.amD f.amA f.amB)
  else
  if f.amOp == 5 then
    finish
        [((AOrd.ofBits f.amOrd).isNone, .reservedField),
         ((Scope.ofBits f.amScope).isNone, .reservedField)]
        (.amomax g ((AOrd.ofBits f.amOrd).getD .rlx) ((Scope.ofBits f.amScope).getD .brick) f.amW f.amD f.amA f.amB)
  else
  if f.amOp == 6 then
    finish
        [((AOrd.ofBits f.amOrd).isNone, .reservedField),
         ((Scope.ofBits f.amScope).isNone, .reservedField)]
        (.amominu g ((AOrd.ofBits f.amOrd).getD .rlx) ((Scope.ofBits f.amScope).getD .brick) f.amW f.amD f.amA f.amB)
  else
  if f.amOp == 7 then
    finish
        [((AOrd.ofBits f.amOrd).isNone, .reservedField),
         ((Scope.ofBits f.amScope).isNone, .reservedField)]
        (.amomaxu g ((AOrd.ofBits f.amOrd).getD .rlx) ((Scope.ofBits f.amScope).getD .brick) f.amW f.amD f.amA f.amB)
  else
  if f.amOp == 8 then
    finish
        [((AOrd.ofBits f.amOrd).isNone, .reservedField),
         ((Scope.ofBits f.amScope).isNone, .reservedField)]
        (.amoswap g ((AOrd.ofBits f.amOrd).getD .rlx) ((Scope.ofBits f.amScope).getD .brick) f.amW f.amD f.amA f.amB)
  else
  if f.amOp == 9 then
    finish
        [((AOrd.ofBits f.amOrd).isNone, .reservedField),
         ((Scope.ofBits f.amScope).isNone, .reservedField)]
        (.amofadd g ((AOrd.ofBits f.amOrd).getD .rlx) ((Scope.ofBits f.amScope).getD .brick) f.amW f.amD f.amA f.amB)
  else
  .error .reservedField

/-- Opcode 0xB1: `cas`. -/
def decB1 (g : Guard) (f : Fields) : Except DecodeError Raw :=
  if f.amOp == 0 then
    finish
        [((AOrd.ofBits f.amOrd).isNone, .reservedField),
         ((Scope.ofBits f.amScope).isNone, .reservedField)]
        (.cas g ((AOrd.ofBits f.amOrd).getD .rlx) ((Scope.ofBits f.amScope).getD .brick) f.amW f.amD f.amA f.amB)
  else
  .error .reservedField

/-- Opcode 0xB2: `fence`. -/
def decB2 (g : Guard) (f : Fields) : Except DecodeError Raw :=
  finish
        [(f.d != 0, .unusedNonzero),
         (f.a != 0, .unusedNonzero),
         (f.b != 0, .unusedNonzero),
         ((FOrd.ofBits (f.f.extractLsb' 3 3)).isNone, .reservedField),
         ((Scope.ofBits (f.f.extractLsb' 0 3)).isNone, .reservedField)]
        (.fence g ((FOrd.ofBits (f.f.extractLsb' 3 3)).getD .acq) ((Scope.ofBits (f.f.extractLsb' 0 3)).getD .brick))

/-- Opcode 0xB3: `fencex`. -/
def decB3 (g : Guard) (f : Fields) : Except DecodeError Raw :=
  finish
        [(f.d != 0, .unusedNonzero),
         (f.a != 0, .unusedNonzero),
         (f.b != 0, .unusedNonzero),
         ((FOrd.ofBits (f.f.extractLsb' 3 3)).isNone, .reservedField),
         ((Scope.ofBits (f.f.extractLsb' 0 3)).isNone, .reservedField)]
        (.fencex g ((FOrd.ofBits (f.f.extractLsb' 3 3)).getD .acq) ((Scope.ofBits (f.f.extractLsb' 0 3)).getD .brick))

/-- Opcode 0xB4: `fencee`. -/
def decB4 (g : Guard) (f : Fields) : Except DecodeError Raw :=
  finish
        [(f.d != 0, .unusedNonzero),
         (f.a != 0, .unusedNonzero),
         (f.b != 0, .unusedNonzero),
         ((EOrd.ofBits (f.f.extractLsb' 3 3)).isNone, .reservedField),
         ((Scope.ofBits (f.f.extractLsb' 0 3)).isNone, .reservedField)]
        (.fencee g ((EOrd.ofBits (f.f.extractLsb' 3 3)).getD .rel) ((Scope.ofBits (f.f.extractLsb' 0 3)).getD .brick))

/-- Opcode 0xC0: `peekt`. -/
def decC0 (g : Guard) (f : Fields) : Except DecodeError Raw :=
  match g with
  | .s _ => .error .formIllegal
  | .b g =>
    finish
          [((opndOf .brick f.d).isNone, .reservedOperand),
           ((opndOf .brick f.a).isNone, .reservedOperand),
           (f.b != 0, .unusedNonzero),
           (f.f != 0, .unusedNonzero)]
          (.peekt g ((opndOf .brick f.d).getD .z) ((opndOf .brick f.a).getD .z))

/-- Opcode 0xC1: `routea_step`, `routea_set`. -/
def decC1 (g : Guard) (f : Fields) : Except DecodeError Raw :=
  if f.f == 1 then
    finish
        [(f.d != 0, .unusedNonzero),
         ((opndOf g.form f.a).isNone, .reservedOperand),
         ((opndOf g.form f.b).isNone, .reservedOperand)]
        (.routeaSet g ((opndOf g.form f.a).getD .z) ((opndOf g.form f.b).getD .z))
  else if f.f == 0 then
    match g with
    | .s _ => .error .reservedField
    | .b g => finish
        [((opndOf .brick f.d).isNone, .reservedOperand),
         (f.a != 0, .unusedNonzero),
         (f.b != 0, .unusedNonzero)]
        (.routeaStep g ((opndOf .brick f.d).getD .z))
  else .error .reservedField

/-- Opcode 0xC2: `vcbind`. -/
def decC2 (g : Guard) (f : Fields) : Except DecodeError Raw :=
  finish
        [(f.d != 0, .unusedNonzero),
         ((opndOf g.form f.a).isNone, .reservedOperand),
         ((opndOf g.form f.b).isNone, .reservedOperand),
         (f.f != 0, .unusedNonzero)]
        (.vcbind g ((opndOf g.form f.a).getD .z) ((opndOf g.form f.b).getD .z))

/-- Opcode 0xC3: `qstat`. -/
def decC3 (g : Guard) (f : Fields) : Except DecodeError Raw :=
  match g with
  | .s _ => .error .formIllegal
  | .b g =>
    finish
          [((opndOf .brick f.d).isNone, .reservedOperand),
           (f.a != 0, .unusedNonzero),
           (f.b != 0, .unusedNonzero),
           ((QSel.ofBits f.f).isNone, .reservedField),
           (f.f.extractLsb' 3 1 != 0, .unusedNonzero)]
          (.qstat g ((QSel.ofBits f.f).getD (.i 0)) ((opndOf .brick f.d).getD .z))

/-- Opcode 0xD0: `call`. -/
def decD0 (g : Guard) (f : Fields) : Except DecodeError Raw :=
  finish
        [((opndOf g.form f.d).isNone, .reservedOperand),
         ((opndOf g.form f.a).isNone, .reservedOperand),
         ((opndOf g.form f.b).isNone, .reservedOperand),
         ((f.f.extractLsb' 4 2) != 0, .unusedNonzero),
         (f.f.extractLsb' 3 1 == 0 && f.f.extractLsb' 0 3 != 0, .unusedNonzero)]
        (.call g (optPred f.f) ((opndOf g.form f.d).getD .z) ((opndOf g.form f.a).getD .z) ((opndOf g.form f.b).getD .z))

/-- Opcode 0xD1: `ret`. -/
def decD1 (g : Guard) (f : Fields) : Except DecodeError Raw :=
  finish
        [(f.d != 0, .unusedNonzero),
         ((opndOf g.form f.a).isNone, .reservedOperand),
         (f.b != 0, .unusedNonzero),
         (f.f != 0, .unusedNonzero)]
        (.ret g ((opndOf g.form f.a).getD .z))

/-- Opcode 0xD2: `yield`. -/
def decD2 (g : Guard) (f : Fields) : Except DecodeError Raw :=
  finish
        [(f.d != 0, .unusedNonzero),
         ((opndOf g.form f.a).isNone, .reservedOperand),
         (f.b != 0, .unusedNonzero),
         (f.f != 0, .unusedNonzero)]
        (.yield g ((opndOf g.form f.a).getD .z))

/-- Opcode 0xD3: `resume`. -/
def decD3 (g : Guard) (f : Fields) : Except DecodeError Raw :=
  finish
        [((opndOf g.form f.d).isNone, .reservedOperand),
         ((opndOf g.form f.a).isNone, .reservedOperand),
         ((opndOf g.form f.b).isNone, .reservedOperand),
         (f.f != 0, .unusedNonzero)]
        (.resume g ((opndOf g.form f.d).getD .z) ((opndOf g.form f.a).getD .z) ((opndOf g.form f.b).getD .z))

/-- Opcode 0xD4: `apply`. -/
def decD4 (g : Guard) (f : Fields) : Except DecodeError Raw :=
  finish
        [((opndOf g.form f.d).isNone, .reservedOperand),
         ((opndOf g.form f.a).isNone, .reservedOperand),
         ((opndOf g.form f.b).isNone, .reservedOperand),
         ((f.f.extractLsb' 4 2) != 0, .unusedNonzero),
         (f.f.extractLsb' 3 1 == 0 && f.f.extractLsb' 0 3 != 0, .unusedNonzero)]
        (.apply g (optPred f.f) ((opndOf g.form f.d).getD .z) ((opndOf g.form f.a).getD .z) ((opndOf g.form f.b).getD .z))

/-- Opcode 0xD5: `cseq`. -/
def decD5 (g : Guard) (f : Fields) : Except DecodeError Raw :=
  finish
        [((opndOf g.form f.d).isNone, .reservedOperand),
         ((opndOf g.form f.a).isNone, .reservedOperand),
         ((opndOf g.form f.b).isNone, .reservedOperand),
         (f.f != 0, .unusedNonzero)]
        (.cseq g ((opndOf g.form f.d).getD .z) ((opndOf g.form f.a).getD .z) ((opndOf g.form f.b).getD .z))

/-- Opcode 0xD6: `cpar`. -/
def decD6 (g : Guard) (f : Fields) : Except DecodeError Raw :=
  finish
        [((opndOf g.form f.d).isNone, .reservedOperand),
         ((opndOf g.form f.a).isNone, .reservedOperand),
         ((opndOf g.form f.b).isNone, .reservedOperand),
         (f.f != 0, .unusedNonzero)]
        (.cpar g ((opndOf g.form f.d).getD .z) ((opndOf g.form f.a).getD .z) ((opndOf g.form f.b).getD .z))

/-- Opcode 0xD7: `cpipe`. -/
def decD7 (g : Guard) (f : Fields) : Except DecodeError Raw :=
  finish
        [((opndOf g.form f.d).isNone, .reservedOperand),
         ((opndOf g.form f.a).isNone, .reservedOperand),
         ((opndOf g.form f.b).isNone, .reservedOperand),
         (f.f != 0, .unusedNonzero)]
        (.cpipe g ((opndOf g.form f.d).getD .z) ((opndOf g.form f.a).getD .z) ((opndOf g.form f.b).getD .z))

/-- Opcode 0xD8: `cfarm`. -/
def decD8 (g : Guard) (f : Fields) : Except DecodeError Raw :=
  finish
        [((opndOf g.form f.d).isNone, .reservedOperand),
         ((opndOf g.form f.a).isNone, .reservedOperand),
         ((opndOf g.form f.b).isNone, .reservedOperand),
         ((f.f.extractLsb' 2 4) != 0, .unusedNonzero),
         ((FarmPol.ofBits (f.f.extractLsb' 0 2)).isNone, .reservedField)]
        (.cfarm g ((FarmPol.ofBits (f.f.extractLsb' 0 2)).getD .rr) ((opndOf g.form f.d).getD .z) ((opndOf g.form f.a).getD .z) ((opndOf g.form f.b).getD .z))

/-- Opcode 0xD9: `cloop`. -/
def decD9 (g : Guard) (f : Fields) : Except DecodeError Raw :=
  finish
        [((opndOf g.form f.d).isNone, .reservedOperand),
         ((opndOf g.form f.a).isNone, .reservedOperand),
         ((opndOf g.form f.b).isNone, .reservedOperand),
         (f.f != 0, .unusedNonzero)]
        (.cloop g ((opndOf g.form f.d).getD .z) ((opndOf g.form f.a).getD .z) ((opndOf g.form f.b).getD .z))

/-- Opcode 0xDA: `cfree`. -/
def decDA (g : Guard) (f : Fields) : Except DecodeError Raw :=
  finish
        [((opndOf g.form f.d).isNone, .reservedOperand),
         ((opndOf g.form f.a).isNone, .reservedOperand),
         (f.b != 0, .unusedNonzero),
         (f.f != 0, .unusedNonzero)]
        (.cfree g ((opndOf g.form f.d).getD .z) ((opndOf g.form f.a).getD .z))

/-- Opcode 0xDB: `waitc`, `waitc_s`. -/
def decDB (g : Guard) (f : Fields) : Except DecodeError Raw :=
  if (f.f.extractLsb' 4 1) == 0 then
    finish
        [((opndOf g.form f.d).isNone, .reservedOperand),
         ((opndOf g.form f.a).isNone, .reservedOperand),
         (f.b != 0, .unusedNonzero),
         ((f.f.extractLsb' 5 1) != 0, .unusedNonzero),
         (f.f.extractLsb' 3 1 == 0 && f.f.extractLsb' 0 3 != 0, .unusedNonzero)]
        (.waitc g (optPred f.f) ((opndOf g.form f.d).getD .z) ((opndOf g.form f.a).getD .z))
  else
  if (f.f.extractLsb' 4 1) == 1 then
    finish
        [((opndOf g.form f.d).isNone, .reservedOperand),
         ((opndOf g.form f.a).isNone, .reservedOperand),
         (f.b != 0, .unusedNonzero),
         ((f.f.extractLsb' 5 1) != 0, .unusedNonzero),
         ((f.f.extractLsb' 3 1) != 0, .reservedField),
         ((f.f.extractLsb' 0 3) != 0, .unusedNonzero)]
        (.waitcS g ((opndOf g.form f.d).getD .z) ((opndOf g.form f.a).getD .z))
  else
  .error .reservedField

/-- Opcode 0xDC: `fold`. -/
def decDC (g : Guard) (f : Fields) : Except DecodeError Raw :=
  finish
        [((opndOf g.form f.d).isNone, .reservedOperand),
         ((opndOf g.form f.a).isNone, .reservedOperand),
         (f.b != 0, .unusedNonzero),
         (f.f != 0, .unusedNonzero)]
        (.fold g ((opndOf g.form f.d).getD .z) ((opndOf g.form f.a).getD .z))

/-- Opcode 0xDD: `stow`. -/
def decDD (g : Guard) (f : Fields) : Except DecodeError Raw :=
  finish
        [((opndOf g.form f.d).isNone, .reservedOperand),
         ((opndOf g.form f.a).isNone, .reservedOperand),
         (f.b != 0, .unusedNonzero),
         (f.f != 0, .unusedNonzero)]
        (.stow g ((opndOf g.form f.d).getD .z) ((opndOf g.form f.a).getD .z))

/-- Opcode 0xDE: `cquery`. -/
def decDE (g : Guard) (f : Fields) : Except DecodeError Raw :=
  finish
        [((opndOf g.form f.d).isNone, .reservedOperand),
         ((opndOf g.form f.a).isNone, .reservedOperand),
         (f.b != 0, .unusedNonzero),
         (f.f != 0, .unusedNonzero)]
        (.cquery g ((opndOf g.form f.d).getD .z) ((opndOf g.form f.a).getD .z))

/-- Opcode 0xE0: `br`. -/
def decE0 (g : Guard) (f : Fields) : Except DecodeError Raw :=
  match g with
  | .b _ => .error .formIllegal
  | .s g =>
    finish
          [(f.d != 0, .unusedNonzero),
           (f.a != 0, .unusedNonzero),
           (f.b != 0, .unusedNonzero),
           (f.f != 0, .unusedNonzero)]
          (.br g)

/-- Opcode 0xE1: `bc`. -/
def decE1 (g : Guard) (f : Fields) : Except DecodeError Raw :=
  match g with
  | .b _ => .error .formIllegal
  | .s g =>
    finish
          [(f.d != 0, .unusedNonzero),
           ((opndOf .seq f.a).isNone, .reservedOperand),
           ((opndOf .seq f.b).isNone, .reservedOperand),
           ((f.f.extractLsb' 3 3) != 0, .unusedNonzero),
           ((Cond.ofBits (f.f.extractLsb' 0 3)).isNone, .reservedField)]
          (.bc g ((Cond.ofBits (f.f.extractLsb' 0 3)).getD .eq) ((opndOf .seq f.a).getD .z) ((opndOf .seq f.b).getD .z))

/-- Opcode 0xE2: `jal`. -/
def decE2 (g : Guard) (f : Fields) : Except DecodeError Raw :=
  match g with
  | .b _ => .error .formIllegal
  | .s g =>
    finish
          [((opndOf .seq f.d).isNone, .reservedOperand),
           (f.a != 0, .unusedNonzero),
           (f.b != 0, .unusedNonzero),
           (f.f != 0, .unusedNonzero)]
          (.jal g ((opndOf .seq f.d).getD .z))

/-- Opcode 0xE3: `jr`. -/
def decE3 (g : Guard) (f : Fields) : Except DecodeError Raw :=
  match g with
  | .b _ => .error .formIllegal
  | .s g =>
    finish
          [((opndOf .seq f.d).isNone, .reservedOperand),
           ((opndOf .seq f.a).isNone, .reservedOperand),
           (f.b != 0, .unusedNonzero),
           (f.f != 0, .unusedNonzero)]
          (.jr g ((opndOf .seq f.d).getD .z) ((opndOf .seq f.a).getD .z))

/-- Opcode 0xE4: `loop`. -/
def decE4 (g : Guard) (f : Fields) : Except DecodeError Raw :=
  match g with
  | .b _ => .error .formIllegal
  | .s g =>
    finish
          [((opndOf .seq f.d).isNone, .reservedOperand),
           (f.a != 0, .unusedNonzero),
           (f.b != 0, .unusedNonzero),
           (f.f != 0, .unusedNonzero)]
          (.loop g ((opndOf .seq f.d).getD .z))

/-- Opcode 0xE5: `scmd`. -/
def decE5 (g : Guard) (f : Fields) : Except DecodeError Raw :=
  match g with
  | .b _ => .error .formIllegal
  | .s g =>
    finish
          [(f.d != 0, .unusedNonzero),
           ((opndOf .seq f.a).isNone, .reservedOperand),
           ((opndOf .seq f.b).isNone, .reservedOperand),
           (f.f != 0, .unusedNonzero)]
          (.scmd g ((opndOf .seq f.a).getD .z) ((opndOf .seq f.b).getD .z))

/-- Opcode 0xE6: `sbar`. -/
def decE6 (g : Guard) (f : Fields) : Except DecodeError Raw :=
  match g with
  | .b _ => .error .formIllegal
  | .s g =>
    finish
          [(f.d != 0, .unusedNonzero),
           (f.a != 0, .unusedNonzero),
           (f.b != 0, .unusedNonzero),
           ((f.f.extractLsb' 4 2) != 0, .unusedNonzero)]
          (.sbar g (f.f.extractLsb' 0 4))

/-- Opcode 0xE7: `cstep`. -/
def decE7 (g : Guard) (f : Fields) : Except DecodeError Raw :=
  match g with
  | .b _ => .error .formIllegal
  | .s g =>
    finish
          [(f.d != 0, .unusedNonzero),
           ((opndOf .seq f.a).isNone, .reservedOperand),
           (f.b != 0, .unusedNonzero),
           ((f.f.extractLsb' 3 3) != 0, .unusedNonzero)]
          (.cstep g (f.f.extractLsb' 0 3) ((opndOf .seq f.a).getD .z))

/-- Opcode 0xE8: `cload`. -/
def decE8 (g : Guard) (f : Fields) : Except DecodeError Raw :=
  match g with
  | .b _ => .error .formIllegal
  | .s g =>
    finish
          [(f.d != 0, .unusedNonzero),
           ((opndOf .seq f.a).isNone, .reservedOperand),
           ((opndOf .seq f.b).isNone, .reservedOperand),
           ((f.f.extractLsb' 3 3) != 0, .unusedNonzero)]
          (.cload g (f.f.extractLsb' 0 3) ((opndOf .seq f.a).getD .z) ((opndOf .seq f.b).getD .z))

/-- Opcode 0xE9: `arm`. -/
def decE9 (g : Guard) (f : Fields) : Except DecodeError Raw :=
  match g with
  | .b _ => .error .formIllegal
  | .s g =>
    finish
          [(f.d != 0, .unusedNonzero),
           ((opndOf .seq f.a).isNone, .reservedOperand),
           (f.b != 0, .unusedNonzero),
           ((f.f.extractLsb' 3 3) != 0, .unusedNonzero)]
          (.arm g (f.f.extractLsb' 0 3) ((opndOf .seq f.a).getD .z))

/-- Opcode 0xEA: `waitd`, `waitd_t`. -/
def decEA (g : Guard) (f : Fields) : Except DecodeError Raw :=
  match g with
  | .b _ => .error .formIllegal
  | .s g =>
    if (f.f.extractLsb' 3 1) == 0 then
      finish
        [(f.d != 0, .unusedNonzero),
         (f.a != 0, .unusedNonzero),
         (f.b != 0, .unusedNonzero),
         ((f.f.extractLsb' 4 2) != 0, .unusedNonzero)]
        (.waitd g (f.f.extractLsb' 0 3))
    else
    if (f.f.extractLsb' 3 1) == 1 then
      finish
        [(f.d != 0, .unusedNonzero),
         (f.a != 0, .unusedNonzero),
         (f.b != 0, .unusedNonzero),
         ((f.f.extractLsb' 4 2) != 0, .unusedNonzero)]
        (.waitdT g (f.f.extractLsb' 0 3))
    else
    .error .reservedField

/-- Opcode 0xEB: `notify`. -/
def decEB (g : Guard) (f : Fields) : Except DecodeError Raw :=
  match g with
  | .b _ => .error .formIllegal
  | .s g =>
    finish
          [(f.d != 0, .unusedNonzero),
           ((opndOf .seq f.a).isNone, .reservedOperand),
           ((opndOf .seq f.b).isNone, .reservedOperand),
           (f.f != 0, .unusedNonzero)]
          (.notify g ((opndOf .seq f.a).getD .z) ((opndOf .seq f.b).getD .z))

/-- Opcode 0xF6: `tlbinv`, `tlbinv_space`. -/
def decF6 (g : Guard) (f : Fields) : Except DecodeError Raw :=
  match g with
  | .b _ => .error .formIllegal
  | .s g =>
    if (f.f.extractLsb' 4 1) == 0 then
      finish
        [(f.d != 0, .unusedNonzero),
         ((opndOf .seq f.a).isNone, .reservedOperand),
         ((opndOf .seq f.b).isNone, .reservedOperand),
         ((f.f.extractLsb' 5 1) != 0, .unusedNonzero)]
        (.tlbinv g ((f.f.extractLsb' 3 1) == 1) (f.f.extractLsb' 0 3) ((opndOf .seq f.a).getD .z) ((opndOf .seq f.b).getD .z))
    else
    if (f.f.extractLsb' 4 1) == 1 then
      finish
        [(f.d != 0, .unusedNonzero),
         ((opndOf .seq f.a).isNone, .reservedOperand),
         ((opndOf .seq f.b).isNone, .reservedOperand),
         ((f.f.extractLsb' 5 1) != 0, .unusedNonzero),
         ((f.f.extractLsb' 0 3) != 0, .unusedNonzero)]
        (.tlbinvSpace g ((f.f.extractLsb' 3 1) == 1) ((opndOf .seq f.a).getD .z) ((opndOf .seq f.b).getD .z))
    else
    .error .reservedField

/-- Opcode 0xF7: `tlbsync`. -/
def decF7 (g : Guard) (f : Fields) : Except DecodeError Raw :=
  match g with
  | .b _ => .error .formIllegal
  | .s g =>
    finish
          [((opndOf .seq f.d).isNone, .reservedOperand),
           (f.a != 0, .unusedNonzero),
           (f.b != 0, .unusedNonzero),
           (f.f != 0, .unusedNonzero)]
          (.tlbsync g ((opndOf .seq f.d).getD .z))

/-- Opcode 0xF8: `migr`. -/
def decF8 (g : Guard) (f : Fields) : Except DecodeError Raw :=
  match g with
  | .b _ => .error .formIllegal
  | .s g =>
    finish
          [((opndOf .seq f.d).isNone, .reservedOperand),
           ((opndOf .seq f.a).isNone, .reservedOperand),
           ((opndOf .seq f.b).isNone, .reservedOperand),
           (f.f != 0, .unusedNonzero)]
          (.migr g ((opndOf .seq f.d).getD .z) ((opndOf .seq f.a).getD .z) ((opndOf .seq f.b).getD .z))

/-- Opcode 0xF9: `svc`. -/
def decF9 (g : Guard) (f : Fields) : Except DecodeError Raw :=
  match g with
  | .b _ => .error .formIllegal
  | .s g =>
    finish
          [(f.d != 0, .unusedNonzero),
           (f.a != 0, .unusedNonzero),
           (f.b != 0, .unusedNonzero)]
          (.svc g f.f)

/-- Opcode 0xFA: `eret`. -/
def decFA (g : Guard) (f : Fields) : Except DecodeError Raw :=
  match g with
  | .b _ => .error .formIllegal
  | .s g =>
    finish
          [(f.d != 0, .unusedNonzero),
           (f.a != 0, .unusedNonzero),
           (f.b != 0, .unusedNonzero),
           (f.f != 0, .unusedNonzero)]
          (.eret g)

/-- Opcode 0xFB: `crd`; B-form leaves A unused (R98), so that any A but 0 fails check 6 there (R30). -/
def decFB (g : Guard) (f : Fields) : Except DecodeError Raw :=
  finish
        [((opndOf g.form f.d).isNone, .reservedOperand),
         ((opndOf g.form f.a).isNone, match g with | .b _ => .unusedNonzero | .s _ => .reservedOperand)]
        (.crd g ((opndOf g.form f.d).getD .z) ((opndOf g.form f.a).getD .z) (f.b ++ f.f))

/-- Opcode 0xFC: `cwr`. -/
def decFC (g : Guard) (f : Fields) : Except DecodeError Raw :=
  match g with
  | .b _ => .error .formIllegal
  | .s g =>
    finish
          [((opndOf .seq f.a).isNone, .reservedOperand),
           ((opndOf .seq f.b).isNone, .reservedOperand)]
          (.cwr g (f.d ++ f.f) ((opndOf .seq f.a).getD .z) ((opndOf .seq f.b).getD .z))

/-- Opcode 0xFD: `rddig`. -/
def decFD (g : Guard) (f : Fields) : Except DecodeError Raw :=
  finish
        [((opndOf g.form f.d).isNone, .reservedOperand),
         ((opndOf g.form f.a).isNone, .reservedOperand),
         ((opndOf g.form f.b).isNone, .reservedOperand),
         (f.f != 0, .unusedNonzero)]
        (.rddig g ((opndOf g.form f.d).getD .z) ((opndOf g.form f.a).getD .z) ((opndOf g.form f.b).getD .z))

/-- The instruction of an operation word under a decoded guard, by its major opcode (R44). -/
def decodeOp (g : Guard) (f : Fields) : Except DecodeError Raw :=
  match f.op.toNat with
  | 0x00 => dec00 g f
  | 0x01 => dec01 g f
  | 0x02 => dec02 g f
  | 0x03 => dec03 g f
  | 0x04 => dec04 g f
  | 0x05 => dec05 g f
  | 0x06 => dec06 g f
  | 0x07 => dec07 g f
  | 0x08 => dec08 g f
  | 0x09 => dec09 g f
  | 0x0A => dec0A g f
  | 0x0B => dec0B g f
  | 0x0C => dec0C g f
  | 0x0D => dec0D g f
  | 0x0E => dec0E g f
  | 0x0F => dec0F g f
  | 0x10 => dec10 g f
  | 0x12 => dec12 g f
  | 0x11 => dec11 g f
  | 0x13 => dec13 g f
  | 0x14 => dec14 g f
  | 0x15 => dec15 g f
  | 0x16 => dec16 g f
  | 0x17 => dec17 g f
  | 0x18 => dec18 g f
  | 0x19 => dec19 g f
  | 0x1A => dec1A g f
  | 0x1B => dec1B g f
  | 0x1C => dec1C g f
  | 0x1D => dec1D g f
  | 0x1E => dec1E g f
  | 0x1F => dec1F g f
  | 0x20 => dec20 g f
  | 0x21 => dec21 g f
  | 0x22 => dec22 g f
  | 0x23 => dec23 g f
  | 0x24 => dec24 g f
  | 0x25 => dec25 g f
  | 0x26 => dec26 g f
  | 0x27 => dec27 g f
  | 0x28 => dec28 g f
  | 0x29 => dec29 g f
  | 0x2A => dec2A g f
  | 0x2B => dec2B g f
  | 0x2C => dec2C g f
  | 0x2D => dec2D g f
  | 0x30 => dec30 g f
  | 0x31 => dec31 g f
  | 0x32 => dec32 g f
  | 0x33 => dec33 g f
  | 0x34 => dec34 g f
  | 0x35 => dec35 g f
  | 0x36 => dec36 g f
  | 0x37 => dec37 g f
  | 0x38 => dec38 g f
  | 0x39 => dec39 g f
  | 0x3A => dec3A g f
  | 0x3B => dec3B g f
  | 0x3C => dec3C g f
  | 0x3D => dec3D g f
  | 0x3E => dec3E g f
  | 0x3F => dec3F g f
  | 0x40 => dec40 g f
  | 0x41 => dec41 g f
  | 0x42 => dec42 g f
  | 0x43 => dec43 g f
  | 0x50 => dec50 g f
  | 0x51 => dec51 g f
  | 0x52 => dec52 g f
  | 0x53 => dec53 g f
  | 0x54 => dec54 g f
  | 0x55 => dec55 g f
  | 0x62 => dec62 g f
  | 0x56 => dec56 g f
  | 0x57 => dec57 g f
  | 0x58 => dec58 g f
  | 0x59 => dec59 g f
  | 0x5A => dec5A g f
  | 0x5B => dec5B g f
  | 0x5C => dec5C g f
  | 0x5D => dec5D g f
  | 0x5E => dec5E g f
  | 0x5F => dec5F g f
  | 0x60 => dec60 g f
  | 0x61 => dec61 g f
  | 0x63 => dec63 g f
  | 0x64 => dec64 g f
  | 0x65 => dec65 g f
  | 0x70 => dec70 g f
  | 0x71 => dec71 g f
  | 0x72 => dec72 g f
  | 0x73 => dec73 g f
  | 0x74 => dec74 g f
  | 0x75 => dec75 g f
  | 0x76 => dec76 g f
  | 0x77 => dec77 g f
  | 0x78 => dec78 g f
  | 0x79 => dec79 g f
  | 0x80 => dec80 g f
  | 0x81 => dec81 g f
  | 0x82 => dec82 g f
  | 0x83 => dec83 g f
  | 0x84 => dec84 g f
  | 0x85 => dec85 g f
  | 0x86 => dec86 g f
  | 0x87 => dec87 g f
  | 0x88 => dec88 g f
  | 0x89 => dec89 g f
  | 0x8A => dec8A g f
  | 0x8B => dec8B g f
  | 0x8C => dec8C g f
  | 0x90 => dec90 g f
  | 0x91 => dec91 g f
  | 0x92 => dec92 g f
  | 0x93 => dec93 g f
  | 0x94 => dec94 g f
  | 0x95 => dec95 g f
  | 0x96 => dec96 g f
  | 0x97 => dec97 g f
  | 0x98 => dec98 g f
  | 0xF2 => decF2 g f
  | 0xF3 => decF3 g f
  | 0xF4 => decF4 g f
  | 0xF0 => decF0 g f
  | 0xF1 => decF1 g f
  | 0xF5 => decF5 g f
  | 0xA0 => decA0 g f
  | 0xA1 => decA1 g f
  | 0xA2 => decA2 g f
  | 0xA3 => decA3 g f
  | 0xA4 => decA4 g f
  | 0xA5 => decA5 g f
  | 0xA6 => decA6 g f
  | 0xA7 => decA7 g f
  | 0xA8 => decA8 g f
  | 0xA9 => decA9 g f
  | 0xB0 => decB0 g f
  | 0xB1 => decB1 g f
  | 0xB2 => decB2 g f
  | 0xB3 => decB3 g f
  | 0xB4 => decB4 g f
  | 0xC0 => decC0 g f
  | 0xC1 => decC1 g f
  | 0xC2 => decC2 g f
  | 0xC3 => decC3 g f
  | 0xD0 => decD0 g f
  | 0xD1 => decD1 g f
  | 0xD2 => decD2 g f
  | 0xD3 => decD3 g f
  | 0xD4 => decD4 g f
  | 0xD5 => decD5 g f
  | 0xD6 => decD6 g f
  | 0xD7 => decD7 g f
  | 0xD8 => decD8 g f
  | 0xD9 => decD9 g f
  | 0xDA => decDA g f
  | 0xDB => decDB g f
  | 0xDC => decDC g f
  | 0xDD => decDD g f
  | 0xDE => decDE g f
  | 0xE0 => decE0 g f
  | 0xE1 => decE1 g f
  | 0xE2 => decE2 g f
  | 0xE3 => decE3 g f
  | 0xE4 => decE4 g f
  | 0xE5 => decE5 g f
  | 0xE6 => decE6 g f
  | 0xE7 => decE7 g f
  | 0xE8 => decE8 g f
  | 0xE9 => decE9 g f
  | 0xEA => decEA g f
  | 0xEB => decEB g f
  | 0xF6 => decF6 g f
  | 0xF7 => decF7 g f
  | 0xF8 => decF8 g f
  | 0xF9 => decF9 g f
  | 0xFA => decFA g f
  | 0xFB => decFB g f
  | 0xFC => decFC g f
  | 0xFD => decFD g f
  | _ => .error .unassigned

/-- A word of a form as its fields give it. -/
def decodeRaw (fm : Form) (w : W64) : Except DecodeError Raw :=
  decodeOp (Guard.ofBits fm (w.extractLsb' 32 32)) (Fields.of w)

/-- Decode a word of a form (R26, R46, R47): an instruction, or the lowest failing check. -/
def decode (fm : Form) (w : W64) : Except DecodeError Instr :=
  match decodeRaw fm w with
  | .error e => .error e
  | .ok (l, i) =>
    match leastFail l with
    | some e => .error e
    | none => .ok i

/-- A word in layout A3 or M (R28). -/
def wordA3 (hi : BitVec 32) (op : BitVec 8) (d a b f : BitVec 6) : W64 := hi ++ op ++ d ++ a ++ b ++ f

/-- A word in layout I12 (R28). -/
def wordI12 (hi : BitVec 32) (op : BitVec 8) (d a : BitVec 6) (imm : BitVec 12) : W64 := hi ++ op ++ d ++ a ++ imm

/-- A word in layout C9 (R28). -/
def wordC9 (hi : BitVec 32) (op : BitVec 8) (d a : BitVec 6) (c : BitVec 3) (imm : BitVec 9) : W64 :=
  hi ++ op ++ d ++ a ++ c ++ imm

/-- A word in layout I18 (R28). -/
def wordI18 (hi : BitVec 32) (op : BitVec 8) (d : BitVec 6) (imm : BitVec 18) : W64 := hi ++ op ++ d ++ imm

/-- A word in layout AM (R28). -/
def wordAM (hi : BitVec 32) (op : BitVec 8) (d a b o : BitVec 4) (w : BitVec 2) (ord sc : BitVec 3) : W64 :=
  hi ++ op ++ d ++ a ++ b ++ o ++ w ++ ord ++ sc

/-- The word of an instruction, from the encoding tables of the spec; `none` for an event, which has no word. -/
def encode : Instr → Option W64
  | .nop g => some (wordA3 g.bits 0x00 0 0 0 0#6)
  | .pset g a b => some (wordA3 g.bits 0x01 0 a.code b.code 0#6)
  | .pand g d a b => some (wordA3 g.bits 0x02 d.code a.code b.code 0#6)
  | .por g d a b => some (wordA3 g.bits 0x02 d.code a.code b.code 1#6)
  | .pxor g d a b => some (wordA3 g.bits 0x02 d.code a.code b.code 2#6)
  | .pandn g d a b => some (wordA3 g.bits 0x02 d.code a.code b.code 3#6)
  | .pnot g d a => some (wordA3 g.bits 0x02 d.code a.code 0 4#6)
  | .pmov g d a => some (wordA3 g.bits 0x02 d.code a.code 0 5#6)
  | .sel g n d a b => some (wordA3 g.bits 0x03 d.code a.code b.code (0#3 ++ n))
  | .steer g d a => some (wordA3 g.bits 0x04 d.code a.code 0 0#6)
  | .merge g d a => some (wordA3 g.bits 0x05 d.code a.code 0 0#6)
  | .mergeAny g d a => some (wordA3 g.bits 0x05 d.code a.code 0 1#6)
  | .gate g d a => some (wordA3 g.bits 0x06 d.code a.code 0 0#6)
  | .done g => some (wordA3 g.bits 0x07 0 0 0 0#6)
  | .brk g n => some (wordA3 g.bits 0x08 0 0 0 n)
  | .trap g n a => some (wordA3 g.bits 0x09 0 a.code 0 n)
  | .mark g n a => some (wordA3 g.bits 0x0A 0 a.code 0 n)
  | .sett g n a => some (wordA3 g.bits 0x0B 0 a.code 0 (0#3 ++ n))
  | .seamO g n => some (wordA3 g.bits 0x0C 0 0 0 (0#1 ++ 0#2 ++ n))
  | .seamJ g n => some (wordA3 g.bits 0x0C 0 0 0 (0#1 ++ 1#2 ++ 0#1 ++ n))
  | .seamAll g => some (wordA3 g.bits 0x0C 0 0 0 (0#1 ++ 2#2 ++ 0#3))
  | .deq g a b => some (wordA3 g.bits 0x0D 0 a.code b.code 0#6)
  | .kput g n a => some (wordA3 g.bits 0x0E 0 a.code 0 (0#4 ++ n))
  | .kget g d => some (wordA3 g.bits 0x0F d.code 0 0 0#6)
  | .add g d a b => some (wordA3 g.bits 0x10 d.code a.code b.code 0#6)
  | .sub g d a b => some (wordA3 g.bits 0x12 d.code a.code b.code 0#6)
  | .addi g d a imm => some (wordI12 g.bits 0x11 d.code a.code imm)
  | .mul g d a b => some (wordA3 g.bits 0x13 d.code a.code b.code 0#6)
  | .mulh g d a b => some (wordA3 g.bits 0x13 d.code a.code b.code 1#6)
  | .mulhu g d a b => some (wordA3 g.bits 0x13 d.code a.code b.code 2#6)
  | .div g d a b => some (wordA3 g.bits 0x14 d.code a.code b.code 0#6)
  | .divu g d a b => some (wordA3 g.bits 0x14 d.code a.code b.code 1#6)
  | .rem g d a b => some (wordA3 g.bits 0x14 d.code a.code b.code 2#6)
  | .remu g d a b => some (wordA3 g.bits 0x14 d.code a.code b.code 3#6)
  | .and g d a b => some (wordA3 g.bits 0x15 d.code a.code b.code 0#6)
  | .andi g d a imm => some (wordI12 g.bits 0x16 d.code a.code imm)
  | .or g d a b => some (wordA3 g.bits 0x17 d.code a.code b.code 0#6)
  | .ori g d a imm => some (wordI12 g.bits 0x18 d.code a.code imm)
  | .xor g d a b => some (wordA3 g.bits 0x19 d.code a.code b.code 0#6)
  | .xori g d a imm => some (wordI12 g.bits 0x1A d.code a.code imm)
  | .shl g d a b => some (wordA3 g.bits 0x1B d.code a.code b.code 0#6)
  | .shli g d a imm => some (wordI12 g.bits 0x1C d.code a.code imm)
  | .shr g d a b => some (wordA3 g.bits 0x1D d.code a.code b.code 0#6)
  | .shri g d a imm => some (wordI12 g.bits 0x1E d.code a.code imm)
  | .sra g d a b => some (wordA3 g.bits 0x1F d.code a.code b.code 0#6)
  | .srai g d a imm => some (wordI12 g.bits 0x20 d.code a.code imm)
  | .rotl g d a b => some (wordA3 g.bits 0x21 d.code a.code b.code 0#6)
  | .clz g d a => some (wordA3 g.bits 0x22 d.code a.code 0 0#6)
  | .ctz g d a => some (wordA3 g.bits 0x22 d.code a.code 0 1#6)
  | .popc g d a => some (wordA3 g.bits 0x22 d.code a.code 0 2#6)
  | .min g d a b => some (wordA3 g.bits 0x23 d.code a.code b.code 0#6)
  | .max g d a b => some (wordA3 g.bits 0x23 d.code a.code b.code 1#6)
  | .minu g d a b => some (wordA3 g.bits 0x23 d.code a.code b.code 2#6)
  | .maxu g d a b => some (wordA3 g.bits 0x23 d.code a.code b.code 3#6)
  | .abs g d a => some (wordA3 g.bits 0x24 d.code a.code 0 0#6)
  | .neg g d a => some (wordA3 g.bits 0x24 d.code a.code 0 1#6)
  | .cmpeq g d a b => some (wordA3 g.bits 0x25 d.code a.code b.code 0#6)
  | .cmpne g d a b => some (wordA3 g.bits 0x25 d.code a.code b.code 1#6)
  | .cmplt g d a b => some (wordA3 g.bits 0x25 d.code a.code b.code 2#6)
  | .cmpltu g d a b => some (wordA3 g.bits 0x25 d.code a.code b.code 3#6)
  | .cmple g d a b => some (wordA3 g.bits 0x25 d.code a.code b.code 4#6)
  | .cmpleu g d a b => some (wordA3 g.bits 0x25 d.code a.code b.code 5#6)
  | .cmpeqi g d a imm => some (wordC9 g.bits 0x26 d.code a.code 0 imm)
  | .cmpnei g d a imm => some (wordC9 g.bits 0x26 d.code a.code 1 imm)
  | .cmplti g d a imm => some (wordC9 g.bits 0x26 d.code a.code 2 imm)
  | .cmpltui g d a imm => some (wordC9 g.bits 0x26 d.code a.code 3 imm)
  | .cmplei g d a imm => some (wordC9 g.bits 0x26 d.code a.code 4 imm)
  | .cmpleui g d a imm => some (wordC9 g.bits 0x26 d.code a.code 5 imm)
  | .movi g d imm => some (wordI18 g.bits 0x27 d.code imm)
  | .movhi g d imm => some (wordI18 g.bits 0x28 d.code imm)
  | .bfx g d a b => some (wordA3 g.bits 0x29 d.code a.code b.code (0#5 ++ 0#1))
  | .bfxS g d a b => some (wordA3 g.bits 0x29 d.code a.code b.code (0#5 ++ 1#1))
  | .bfi g d a b => some (wordA3 g.bits 0x2A d.code a.code b.code 0#6)
  | .adds g d a b => some (wordA3 g.bits 0x2B d.code a.code b.code 0#6)
  | .subs g d a b => some (wordA3 g.bits 0x2B d.code a.code b.code 1#6)
  | .madd g d a b => some (wordA3 g.bits 0x2C d.code a.code b.code 0#6)
  | .lea g sh d a b => some (wordA3 g.bits 0x2D d.code a.code b.code (0#4 ++ sh))
  | .fadd g fmt rm d a b => some (wordA3 g.bits 0x30 d.code a.code b.code (fmt.bits ++ rm.bits ++ 0#1))
  | .fsub g fmt rm d a b => some (wordA3 g.bits 0x31 d.code a.code b.code (fmt.bits ++ rm.bits ++ 0#1))
  | .fmul g fmt rm d a b => some (wordA3 g.bits 0x32 d.code a.code b.code (fmt.bits ++ rm.bits ++ 0#1))
  | .ffma g fmt rm d a b => some (wordA3 g.bits 0x33 d.code a.code b.code (fmt.bits ++ rm.bits ++ 0#1))
  | .ffms g fmt rm d a b => some (wordA3 g.bits 0x34 d.code a.code b.code (fmt.bits ++ rm.bits ++ 0#1))
  | .fdiv g fmt rm d a b => some (wordA3 g.bits 0x35 d.code a.code b.code (fmt.bits ++ rm.bits ++ 0#1))
  | .fsqrt g fmt rm d a => some (wordA3 g.bits 0x36 d.code a.code 0 (fmt.bits ++ rm.bits ++ 0#1))
  | .frsq g fmt rm d a => some (wordA3 g.bits 0x37 d.code a.code 0 (fmt.bits ++ rm.bits ++ 0#1))
  | .fexp2 g fmt rm d a => some (wordA3 g.bits 0x38 d.code a.code 0 (fmt.bits ++ rm.bits ++ 0#1))
  | .flog2 g fmt rm d a => some (wordA3 g.bits 0x39 d.code a.code 0 (fmt.bits ++ rm.bits ++ 0#1))
  | .fmin g fmt num d a b => some (wordA3 g.bits 0x3A d.code a.code b.code (fmt.bits ++ 0#3 ++ BitVec.ofBool num))
  | .fmax g fmt num d a b => some (wordA3 g.bits 0x3B d.code a.code b.code (fmt.bits ++ 0#3 ++ BitVec.ofBool num))
  | .fabs g fmt d a => some (wordA3 g.bits 0x3C d.code a.code 0 (fmt.bits ++ 0#3 ++ 0#1))
  | .fneg g fmt d a => some (wordA3 g.bits 0x3D d.code a.code 0 (fmt.bits ++ 0#3 ++ 0#1))
  | .fcmpeq g fmt d a b => some (wordA3 g.bits 0x3E d.code a.code b.code (fmt.bits ++ 0#3 ++ 0#1))
  | .fcmplt g fmt d a b => some (wordA3 g.bits 0x3E d.code a.code b.code (fmt.bits ++ 1#3 ++ 0#1))
  | .fcmple g fmt d a b => some (wordA3 g.bits 0x3E d.code a.code b.code (fmt.bits ++ 2#3 ++ 0#1))
  | .fcmpun g fmt d a b => some (wordA3 g.bits 0x3E d.code a.code b.code (fmt.bits ++ 3#3 ++ 0#1))
  | .fclass g fmt d a => some (wordA3 g.bits 0x3F d.code a.code 0 (fmt.bits ++ 0#3 ++ 0#1))
  | .fround g fmt rm d a => some (wordA3 g.bits 0x40 d.code a.code 0 (fmt.bits ++ rm.bits ++ 0#1))
  | .fcvti g fmt rm u d a => some (wordA3 g.bits 0x41 d.code a.code 0 (fmt.bits ++ rm.bits ++ BitVec.ofBool u))
  | .icvtf g fmt rm u d a => some (wordA3 g.bits 0x42 d.code a.code 0 (fmt.bits ++ rm.bits ++ BitVec.ofBool u))
  | .fscale g fmt rm d a b => some (wordA3 g.bits 0x43 d.code a.code b.code (fmt.bits ++ rm.bits ++ 0#1))
  | .sopen g port n a b => some (wordA3 g.bits 0x50 0 a.code b.code (port.bits ++ 0#1 ++ 0#1 ++ n))
  | .sopenRe g port n => some (wordA3 g.bits 0x50 0 0 0 (port.bits ++ 0#1 ++ 1#1 ++ n))
  | .sclose g port d => some (wordA3 g.bits 0x51 d.code 0 0 (port.bits ++ 0#4))
  | .vadd g fmt rm a b => some (wordA3 g.bits 0x52 0x32 a.code b.code (fmt.bits ++ rm.bits ++ 0#1))
  | .vsub g fmt rm a b => some (wordA3 g.bits 0x53 0x32 a.code b.code (fmt.bits ++ rm.bits ++ 0#1))
  | .vmul g fmt rm a b => some (wordA3 g.bits 0x54 0x32 a.code b.code (fmt.bits ++ rm.bits ++ 0#1))
  | .vfma g fmt rm a => some (wordA3 g.bits 0x55 0x32 a.code 0 (fmt.bits ++ rm.bits ++ 0#1))
  | .vaxpy g fmt rm a => some (wordA3 g.bits 0x62 0x32 a.code 0 (fmt.bits ++ rm.bits ++ 0#1))
  | .vmin g fmt num a b => some (wordA3 g.bits 0x56 0x32 a.code b.code (fmt.bits ++ 0#3 ++ BitVec.ofBool num))
  | .vmax g fmt num a b => some (wordA3 g.bits 0x57 0x32 a.code b.code (fmt.bits ++ 0#3 ++ BitVec.ofBool num))
  | .vabs g fmt a => some (wordA3 g.bits 0x58 0x32 a.code 0 (fmt.bits ++ 0#3 ++ 0#1))
  | .vneg g fmt a => some (wordA3 g.bits 0x59 0x32 a.code 0 (fmt.bits ++ 0#3 ++ 0#1))
  | .vsel g fmt a b => some (wordA3 g.bits 0x5A 0x32 a.code b.code (fmt.bits ++ 0#3 ++ 0#1))
  | .vcmp g fmt cond d a b => some (wordA3 g.bits 0x5B d.code a.code b.code (fmt.bits ++ cond.bits ++ 0#1))
  | .vredsum g fmt rm d a => some (wordA3 g.bits 0x5C d.code a.code 0 (fmt.bits ++ rm.bits ++ 0#1))
  | .vredmax g fmt num d a => some (wordA3 g.bits 0x5D d.code a.code 0 (fmt.bits ++ 0#3 ++ BitVec.ofBool num))
  | .vamax g fmt d a => some (wordA3 g.bits 0x5E d.code a.code 0 (fmt.bits ++ 0#3 ++ 0#1))
  | .vscan g fmt rm a b => some (wordA3 g.bits 0x5F 0x32 a.code b.code (fmt.bits ++ rm.bits ++ 0#1))
  | .vexp2 g fmt rm a => some (wordA3 g.bits 0x60 0x32 a.code 0 (fmt.bits ++ rm.bits ++ 0#1))
  | .vrsq g fmt rm a => some (wordA3 g.bits 0x61 0x32 a.code 0 (fmt.bits ++ rm.bits ++ 0#1))
  | .vcvt g rm a => some (wordA3 g.bits 0x63 0x32 a.code 0 (0#2 ++ rm.bits ++ 0#1))
  | .vqnt g a b => some (wordA3 g.bits 0x64 0x32 a.code b.code (0#2 ++ 0#3 ++ 0#1))
  | .vdqnt g rm a b => some (wordA3 g.bits 0x65 0x32 a.code b.code (0#2 ++ rm.bits ++ 0#1))
  | .cvt g rm d a cf ct => some (wordA3 g.bits 0x70 d.code a.code (cf.bits ++ ct.bits) (0#2 ++ rm.bits ++ 0#1))
  | .qnt g k d a b => some (wordA3 g.bits 0x71 d.code a.code b.code (k.bits ++ 0#4))
  | .dqnt g k rm d a b => some (wordA3 g.bits 0x72 d.code a.code b.code (k.bits ++ rm.bits ++ 0#1))
  | .scalex g k d a => some (wordA3 g.bits 0x73 d.code a.code 0 (k.bits ++ 0#4))
  | .limb g d a => some (wordA3 g.bits 0x74 d.code a.code 0 0#6)
  | .unlimb g d a => some (wordA3 g.bits 0x75 d.code a.code 0 0#6)
  | .packH g d a b => some (wordA3 g.bits 0x76 d.code a.code b.code (0#4 ++ 0#2))
  | .packB g d a b => some (wordA3 g.bits 0x76 d.code a.code b.code (0#4 ++ 1#2))
  | .packN g d a b => some (wordA3 g.bits 0x76 d.code a.code b.code (0#4 ++ 2#2))
  | .unpackH g u d a b => some (wordA3 g.bits 0x77 d.code a.code b.code (0#3 ++ BitVec.ofBool u ++ 0#2))
  | .unpackB g u d a b => some (wordA3 g.bits 0x77 d.code a.code b.code (0#3 ++ BitVec.ofBool u ++ 1#2))
  | .unpackN g u d a b => some (wordA3 g.bits 0x77 d.code a.code b.code (0#3 ++ BitVec.ofBool u ++ 2#2))
  | .hdr g d a b => some (wordA3 g.bits 0x78 d.code a.code b.code 0#6)
  | .hdrget g fld d a => some (wordA3 g.bits 0x79 d.code a.code 0 (0#3 ++ fld.bits))
  | .oclaim g ms xs => some (wordA3 g.bits 0x80 (ms.setWidth 6) (xs.setWidth 6) 0 0#6)
  | .orelease g ms xs => some (wordA3 g.bits 0x81 (ms.setWidth 6) (xs.setWidth 6) 0 0#6)
  | .ofillBank g fmt n a b => some (wordA3 g.bits 0x82 (n.setWidth 6) a.code b.code (fmt.bits ++ 0#1 ++ 0#2))
  | .ofillBus g fmt n => some (wordA3 g.bits 0x82 (n.setWidth 6) 0 0 (fmt.bits ++ 1#1 ++ 0#2))
  | .ostat g e d => some (wordA3 g.bits 0x83 d.code 0 0 (0#3 ++ e.bits))
  | .mbind g n a => some (wordA3 g.bits 0x84 (n.setWidth 6) a.code 0 0#6)
  | .mzero g n => some (wordA3 g.bits 0x85 (n.setWidth 6) 0 0 0#6)
  | .mmacK8 g last n p q => some (wordA3 g.bits 0x86 (n.setWidth 6) (p.setWidth 6) (q.setWidth 6) (0#2 ++ 0#3 ++ BitVec.ofBool last))
  | .mmacK4 g last n p q => some (wordA3 g.bits 0x86 (n.setWidth 6) (p.setWidth 6) (q.setWidth 6) (1#2 ++ 0#3 ++ BitVec.ofBool last))
  | .mmacK16 g last p q => some (wordA3 g.bits 0x86 0 (p.setWidth 6) (q.setWidth 6) (2#2 ++ 0#3 ++ BitVec.ofBool last))
  | .mreconI64 g k16 n a => some (wordA3 g.bits 0x87 (n.setWidth 6) a.code 0 (0#3 ++ BitVec.ofBool k16 ++ 0#2))
  | .mreconF32 g k16 n a => some (wordA3 g.bits 0x87 (n.setWidth 6) a.code 0 (0#3 ++ BitVec.ofBool k16 ++ 1#2))
  | .mreconF32Add g k16 n a => some (wordA3 g.bits 0x87 (n.setWidth 6) a.code 0 (0#3 ++ BitVec.ofBool k16 ++ 2#2))
  | .mdrain g n a => some (wordA3 g.bits 0x88 (n.setWidth 6) a.code 0 (0#5 ++ 0#1))
  | .mdrainZ g n a => some (wordA3 g.bits 0x88 (n.setWidth 6) a.code 0 (0#5 ++ 1#1))
  | .trienc g d a => some (wordA3 g.bits 0x89 d.code a.code 0 0#6)
  | .tridec g d a => some (wordA3 g.bits 0x8A d.code a.code 0 0#6)
  | .triadd g d a b => some (wordA3 g.bits 0x8B d.code a.code b.code 0#6)
  | .trimul g d a b => some (wordA3 g.bits 0x8C d.code a.code b.code 0#6)
  | .scanb g op k d a b => some (wordA3 g.bits 0x90 d.code a.code b.code (BitVec.ofBool op ++ 0#1 ++ k))
  | .scant g op k d a b => some (wordA3 g.bits 0x91 d.code a.code b.code (BitVec.ofBool op ++ 0#1 ++ k))
  | .isect g mode d a b => some (wordA3 g.bits 0x92 d.code a.code b.code (0#4 ++ mode.bits))
  | .union g mode d a b => some (wordA3 g.bits 0x93 d.code a.code b.code (0#4 ++ mode.bits))
  | .stopt g d a => some (wordA3 g.bits 0x94 d.code a.code 0 (0#1 ++ 0#1 ++ 0#4))
  | .stoptImm g l d => some (wordA3 g.bits 0x94 d.code 0 0 (0#1 ++ 1#1 ++ l))
  | .stopqLower g d a => some (wordA3 g.bits 0x95 d.code a.code 0 (0#5 ++ 0#1))
  | .stopqRaise g d a => some (wordA3 g.bits 0x95 d.code a.code 0 (0#5 ++ 1#1))
  | .spaccFadd g rm k a b => some (wordA3 g.bits 0x96 (k.setWidth 6) a.code b.code (0#2 ++ rm.bits ++ 0#1))
  | .spaccAdd g k a b => some (wordA3 g.bits 0x96 (k.setWidth 6) a.code b.code (1#2 ++ 0#3 ++ 0#1))
  | .spaccFmax g k a b => some (wordA3 g.bits 0x96 (k.setWidth 6) a.code b.code (2#2 ++ 0#3 ++ 0#1))
  | .spdrain g k d => some (wordA3 g.bits 0x97 d.code 0 0 (0#1 ++ 0#1 ++ k))
  | .spdrainV g k d => some (wordA3 g.bits 0x97 d.code 0 0 (0#1 ++ 1#1 ++ k))
  | .part g b d a => some (wordA3 g.bits 0x98 d.code a.code 0 (0#1 ++ b))
  | .isq g w d a => some (wordA3 g.bits 0xF2 d.code a.code 0 (0#4 ++ w))
  | .probe g w d a => some (wordA3 g.bits 0xF3 d.code a.code 0 (0#4 ++ w))
  | .unpin g w d a => some (wordA3 g.bits 0xF4 d.code a.code 0 (0#4 ++ w))
  | .hod g w d a => some (wordA3 g.bits 0xF0 d.code a.code 0 (0#4 ++ w))
  | .coll g w d a => some (wordA3 g.bits 0xF1 d.code a.code 0 (0#4 ++ w))
  | .jobwait g w d a => some (wordA3 g.bits 0xF5 d.code a.code 0 (0#4 ++ w))
  | .ldb g sz d a b => some (wordA3 g.bits 0xA0 d.code a.code b.code (0#2 ++ sz.bits ++ 0#2))
  | .stb g sz v a b => some (wordA3 g.bits 0xA1 v.code a.code b.code (0#2 ++ sz.bits ++ 0#2))
  | .ldv g sz d a b => some (wordA3 g.bits 0xA2 d.code a.code b.code (0#2 ++ sz.bits ++ 0#2))
  | .stv g sz v a b => some (wordA3 g.bits 0xA3 v.code a.code b.code (0#2 ++ sz.bits ++ 0#2))
  | .ldg g sz w d a b => some (wordA3 g.bits 0xA4 d.code a.code b.code (0#2 ++ sz.bits ++ w))
  | .stg g sz w v a b => some (wordA3 g.bits 0xA5 v.code a.code b.code (0#2 ++ sz.bits ++ w))
  | .ldp g w d a b => some (wordA3 g.bits 0xA6 d.code a.code b.code (0#2 ++ 0#2 ++ w))
  | .stp g w v a b => some (wordA3 g.bits 0xA7 v.code a.code b.code (0#2 ++ 0#2 ++ w))
  | .clrp g w v a b => some (wordA3 g.bits 0xA8 v.code a.code b.code (0#2 ++ 0#2 ++ w))
  | .pref g w a b => some (wordA3 g.bits 0xA9 0 a.code b.code (0#2 ++ 0#2 ++ w))
  | .amoadd g ord sc w d a b => some (wordAM g.bits 0xB0 d a b 0 w ord.bits sc.bits)
  | .amoand g ord sc w d a b => some (wordAM g.bits 0xB0 d a b 1 w ord.bits sc.bits)
  | .amoor g ord sc w d a b => some (wordAM g.bits 0xB0 d a b 2 w ord.bits sc.bits)
  | .amoxor g ord sc w d a b => some (wordAM g.bits 0xB0 d a b 3 w ord.bits sc.bits)
  | .amomin g ord sc w d a b => some (wordAM g.bits 0xB0 d a b 4 w ord.bits sc.bits)
  | .amomax g ord sc w d a b => some (wordAM g.bits 0xB0 d a b 5 w ord.bits sc.bits)
  | .amominu g ord sc w d a b => some (wordAM g.bits 0xB0 d a b 6 w ord.bits sc.bits)
  | .amomaxu g ord sc w d a b => some (wordAM g.bits 0xB0 d a b 7 w ord.bits sc.bits)
  | .amoswap g ord sc w d a b => some (wordAM g.bits 0xB0 d a b 8 w ord.bits sc.bits)
  | .amofadd g ord sc w d a b => some (wordAM g.bits 0xB0 d a b 9 w ord.bits sc.bits)
  | .cas g ord sc w d a b => some (wordAM g.bits 0xB1 d a b 0 w ord.bits sc.bits)
  | .fence g ord sc => some (wordA3 g.bits 0xB2 0 0 0 (ord.bits ++ sc.bits))
  | .fencex g ord sc => some (wordA3 g.bits 0xB3 0 0 0 (ord.bits ++ sc.bits))
  | .fencee g ord sc => some (wordA3 g.bits 0xB4 0 0 0 (ord.bits ++ sc.bits))
  | .peekt g d a => some (wordA3 g.bits 0xC0 d.code a.code 0 0#6)
  | .routeaStep g d => some (wordA3 g.bits 0xC1 d.code 0 0 0#6)
  | .routeaSet g a b => some (wordA3 g.bits 0xC1 0 a.code b.code 1#6)
  | .vcbind g a b => some (wordA3 g.bits 0xC2 0 a.code b.code 0#6)
  | .qstat g q d => some (wordA3 g.bits 0xC3 d.code 0 0 q.bits)
  | .call g p d a b => some (wordA3 g.bits 0xD0 d.code a.code b.code (0#2 ++ predBits p))
  | .ret g a => some (wordA3 g.bits 0xD1 0 a.code 0 0#6)
  | .yield g a => some (wordA3 g.bits 0xD2 0 a.code 0 0#6)
  | .resume g d a b => some (wordA3 g.bits 0xD3 d.code a.code b.code 0#6)
  | .apply g p d a b => some (wordA3 g.bits 0xD4 d.code a.code b.code (0#2 ++ predBits p))
  | .cseq g d a b => some (wordA3 g.bits 0xD5 d.code a.code b.code 0#6)
  | .cpar g d a b => some (wordA3 g.bits 0xD6 d.code a.code b.code 0#6)
  | .cpipe g d a b => some (wordA3 g.bits 0xD7 d.code a.code b.code 0#6)
  | .cfarm g pol d a b => some (wordA3 g.bits 0xD8 d.code a.code b.code (0#4 ++ pol.bits))
  | .cloop g d a b => some (wordA3 g.bits 0xD9 d.code a.code b.code 0#6)
  | .cfree g d a => some (wordA3 g.bits 0xDA d.code a.code 0 0#6)
  | .waitc g p d a => some (wordA3 g.bits 0xDB d.code a.code 0 (0#1 ++ 0#1 ++ predBits p))
  | .waitcS g d a => some (wordA3 g.bits 0xDB d.code a.code 0 (0#1 ++ 1#1 ++ 0#4))
  | .fold g d a => some (wordA3 g.bits 0xDC d.code a.code 0 0#6)
  | .stow g d a => some (wordA3 g.bits 0xDD d.code a.code 0 0#6)
  | .cquery g d a => some (wordA3 g.bits 0xDE d.code a.code 0 0#6)
  | .br g => some (wordA3 g.bits 0xE0 0 0 0 0#6)
  | .bc g cond a b => some (wordA3 g.bits 0xE1 0 a.code b.code (0#3 ++ cond.bits))
  | .jal g d => some (wordA3 g.bits 0xE2 d.code 0 0 0#6)
  | .jr g d a => some (wordA3 g.bits 0xE3 d.code a.code 0 0#6)
  | .loop g d => some (wordA3 g.bits 0xE4 d.code 0 0 0#6)
  | .scmd g a b => some (wordA3 g.bits 0xE5 0 a.code b.code 0#6)
  | .sbar g p => some (wordA3 g.bits 0xE6 0 0 0 (0#2 ++ p))
  | .cstep g n a => some (wordA3 g.bits 0xE7 0 a.code 0 (0#3 ++ n))
  | .cload g n a b => some (wordA3 g.bits 0xE8 0 a.code b.code (0#3 ++ n))
  | .arm g n a => some (wordA3 g.bits 0xE9 0 a.code 0 (0#3 ++ n))
  | .waitd g n => some (wordA3 g.bits 0xEA 0 0 0 (0#2 ++ 0#1 ++ n))
  | .waitdT g n => some (wordA3 g.bits 0xEA 0 0 0 (0#2 ++ 1#1 ++ n))
  | .notify g a b => some (wordA3 g.bits 0xEB 0 a.code b.code 0#6)
  | .tlbinv g allas sz a b => some (wordA3 g.bits 0xF6 0 a.code b.code (0#1 ++ 0#1 ++ BitVec.ofBool allas ++ sz))
  | .tlbinvSpace g allas a b => some (wordA3 g.bits 0xF6 0 a.code b.code (0#1 ++ 1#1 ++ BitVec.ofBool allas ++ 0#3))
  | .tlbsync g d => some (wordA3 g.bits 0xF7 d.code 0 0 0#6)
  | .migr g v a b => some (wordA3 g.bits 0xF8 v.code a.code b.code 0#6)
  | .svc g n => some (wordA3 g.bits 0xF9 0 0 0 n)
  | .eret g => some (wordA3 g.bits 0xFA 0 0 0 0#6)
  | .crd g d a c => some (wordA3 g.bits 0xFB d.code a.code (c.extractLsb' 6 6) (c.extractLsb' 0 6))
  | .cwr g c a b => some (wordA3 g.bits 0xFC (c.extractLsb' 6 6) a.code b.code (c.extractLsb' 0 6))
  | .rddig g d a b => some (wordA3 g.bits 0xFD d.code a.code b.code 0#6)
  | .tokenDelivery .. => none
  | .headerDelivery .. => none
  | .seamMarkerDelivery .. => none
  | .stepWordForward .. => none
  | .controlTokenDelivery .. => none
  | .loopbackDelivery .. => none
  | .outputInjection .. => none
  | .seamAutoAppend .. => none
  | .reconfigurationTokenArrival .. => none
  | .roundMark .. => none
  | .streamPatternDelivery .. => none
  | .streamPatternComplete .. => none
  | .slotFillComplete .. => none
  | .busTransfer .. => none
  | .arrayPassComplete .. => none
  | .tileReadComplete .. => none
  | .atomicPerform .. => none
  | .ldpDeferredComplete .. => none
  | .pagerService => none
  | .pagerAcknowledge => none
  | .invalidationEffect .. => none
  | .migrationPerform .. => none
  | .tlbsyncComplete .. => none
  | .jobAccept .. => none
  | .jobStart .. => none
  | .hodRow .. => none
  | .iseProbePass .. => none
  | .iseElementMove .. => none
  | .collectiveForm .. => none
  | .jobComplete .. => none
  | .bankTokenReceipt .. => none
  | .notifyWrite .. => none
  | .packetFetch .. => none
  | .packetPresent .. => none
  | .residentQueueChange .. => none
  | .pasidTeardown .. => none
  | .teardownComplete => none
  | .claimArrival .. => none
  | .claimGrant .. => none
  | .claimReservation .. => none
  | .startBarrierOpen .. => none
  | .launchWaveOpen .. => none
  | .preEmption .. => none
  | .resumption .. => none
  | .spurEnd .. => none
  | .sequenceSecondPlace .. => none
  | .loopBodyRestart .. => none
  | .farmDistribution .. => none
  | .domainQueueRecordWrite .. => none
  | .inactivityWindowExpiry .. => none
  | .deadlockDeclaration => none
  | .faultActionResume .. => none
  | .faultActionSkip .. => none
  | .faultActionRetire .. => none
  | .faultActionBreaksOff .. => none
  | .faultActionNodeOff .. => none
  | .uncorrectableError .. => none
  | .correctedError => none
  | .scrub .. => none
  | .linkFailure .. => none
  | .inactivityReport .. => none
  | .spanFormation .. => none
  | .lintelReload => none
  | .fatalStop .. => none
  | .keystoneWatchdogExpiry => none
  | .thermalEmergency => none
  | .warmReset => none
  | .ridgePowerOn => none
  | .throttleAdjust .. => none
  | .ageingUpdate .. => none
  | .secureBoot => none
  | .romLoaderRecovery .. => none
  | .attestationRequest .. => none
  | .debugUnlock .. => none
  | .atsInvalidation .. => none
  | .registerWrite .. => none
  | .gatingSequence => none
  | .loadValueReturn .. => none
  | .powerLoss => none

/-- The form of an instruction's guard. -/
def formOf (w : W64) : Option Form :=
  match decode .seq w, decode .brick w with
  | .ok _, _ => some .seq
  | .error _, .ok _ => some .brick
  | .error _, .error _ => none

/-- The instruction that a row's bits give: the S-form reading where there is one, else the B-form reading. The bits
at and above `nbits` are zero. -/
def decodeTableWord (nbits w : Nat) : Option Instr :=
  let v : W64 := BitVec.ofNat 64 (w % 2 ^ nbits)
  match decode .seq v with
  | .ok i => some i
  | .error _ =>
    match decode .brick v with
    | .ok i => some i
    | .error _ => none

end Sys2Proof
end

