-- ==== Sys2Proof/Machine/Roles.lean ====
section
/-! DEFINITION. What an instruction's fields are for: its guard, the operands it reads and the one it writes (R28, R70,
R98, R146, R167, R174, R196, R210, R255, R276, R301, R342). -/

namespace Sys2Proof.Machine

open Sys2Proof

/-- The guard of an instruction; an event has none. -/
def guardOf : Instr → Option Guard
  | .nop g => some g
  | .pset g _ _ => some g
  | .pand g _ _ _ => some g
  | .por g _ _ _ => some g
  | .pxor g _ _ _ => some g
  | .pandn g _ _ _ => some g
  | .pnot g _ _ => some g
  | .pmov g _ _ => some g
  | .sel g _ _ _ _ => some (.b g)
  | .steer g _ _ => some (.b g)
  | .merge g _ _ => some (.b g)
  | .mergeAny g _ _ => some (.b g)
  | .gate g _ _ => some (.b g)
  | .done g => some (.b g)
  | .brk g _ => some g
  | .trap g _ _ => some g
  | .mark g _ _ => some g
  | .sett g _ _ => some (.b g)
  | .seamO g _ => some (.b g)
  | .seamJ g _ => some (.b g)
  | .seamAll g => some (.b g)
  | .deq g _ _ => some (.b g)
  | .kput g _ _ => some (.b g)
  | .kget g _ => some (.b g)
  | .add g _ _ _ => some g
  | .sub g _ _ _ => some g
  | .addi g _ _ _ => some g
  | .mul g _ _ _ => some g
  | .mulh g _ _ _ => some g
  | .mulhu g _ _ _ => some g
  | .div g _ _ _ => some g
  | .divu g _ _ _ => some g
  | .rem g _ _ _ => some g
  | .remu g _ _ _ => some g
  | .and g _ _ _ => some g
  | .andi g _ _ _ => some g
  | .or g _ _ _ => some g
  | .ori g _ _ _ => some g
  | .xor g _ _ _ => some g
  | .xori g _ _ _ => some g
  | .shl g _ _ _ => some g
  | .shli g _ _ _ => some g
  | .shr g _ _ _ => some g
  | .shri g _ _ _ => some g
  | .sra g _ _ _ => some g
  | .srai g _ _ _ => some g
  | .rotl g _ _ _ => some g
  | .clz g _ _ => some g
  | .ctz g _ _ => some g
  | .popc g _ _ => some g
  | .min g _ _ _ => some g
  | .max g _ _ _ => some g
  | .minu g _ _ _ => some g
  | .maxu g _ _ _ => some g
  | .abs g _ _ => some g
  | .neg g _ _ => some g
  | .cmpeq g _ _ _ => some g
  | .cmpne g _ _ _ => some g
  | .cmplt g _ _ _ => some g
  | .cmpltu g _ _ _ => some g
  | .cmple g _ _ _ => some g
  | .cmpleu g _ _ _ => some g
  | .cmpeqi g _ _ _ => some g
  | .cmpnei g _ _ _ => some g
  | .cmplti g _ _ _ => some g
  | .cmpltui g _ _ _ => some g
  | .cmplei g _ _ _ => some g
  | .cmpleui g _ _ _ => some g
  | .movi g _ _ => some g
  | .movhi g _ _ => some g
  | .bfx g _ _ _ => some g
  | .bfxS g _ _ _ => some g
  | .bfi g _ _ _ => some g
  | .adds g _ _ _ => some g
  | .subs g _ _ _ => some g
  | .madd g _ _ _ => some g
  | .lea g _ _ _ _ => some g
  | .fadd g _ _ _ _ _ => some g
  | .fsub g _ _ _ _ _ => some g
  | .fmul g _ _ _ _ _ => some g
  | .ffma g _ _ _ _ _ => some g
  | .ffms g _ _ _ _ _ => some g
  | .fdiv g _ _ _ _ _ => some g
  | .fsqrt g _ _ _ _ => some g
  | .frsq g _ _ _ _ => some g
  | .fexp2 g _ _ _ _ => some g
  | .flog2 g _ _ _ _ => some g
  | .fmin g _ _ _ _ _ => some g
  | .fmax g _ _ _ _ _ => some g
  | .fabs g _ _ _ => some g
  | .fneg g _ _ _ => some g
  | .fcmpeq g _ _ _ _ => some g
  | .fcmplt g _ _ _ _ => some g
  | .fcmple g _ _ _ _ => some g
  | .fcmpun g _ _ _ _ => some g
  | .fclass g _ _ _ => some g
  | .fround g _ _ _ _ => some g
  | .fcvti g _ _ _ _ _ => some g
  | .icvtf g _ _ _ _ _ => some g
  | .fscale g _ _ _ _ _ => some g
  | .sopen g _ _ _ _ => some (.b g)
  | .sopenRe g _ _ => some (.b g)
  | .sclose g _ _ => some (.b g)
  | .vadd g _ _ _ _ => some (.b g)
  | .vsub g _ _ _ _ => some (.b g)
  | .vmul g _ _ _ _ => some (.b g)
  | .vfma g _ _ _ => some (.b g)
  | .vaxpy g _ _ _ => some (.b g)
  | .vmin g _ _ _ _ => some (.b g)
  | .vmax g _ _ _ _ => some (.b g)
  | .vabs g _ _ => some (.b g)
  | .vneg g _ _ => some (.b g)
  | .vsel g _ _ _ => some (.b g)
  | .vcmp g _ _ _ _ _ => some (.b g)
  | .vredsum g _ _ _ _ => some (.b g)
  | .vredmax g _ _ _ _ => some (.b g)
  | .vamax g _ _ _ => some (.b g)
  | .vscan g _ _ _ _ => some (.b g)
  | .vexp2 g _ _ _ => some (.b g)
  | .vrsq g _ _ _ => some (.b g)
  | .vcvt g _ _ => some (.b g)
  | .vqnt g _ _ => some (.b g)
  | .vdqnt g _ _ _ => some (.b g)
  | .cvt g _ _ _ _ _ => some g
  | .qnt g _ _ _ _ => some g
  | .dqnt g _ _ _ _ _ => some g
  | .scalex g _ _ _ => some g
  | .limb g _ _ => some g
  | .unlimb g _ _ => some g
  | .packH g _ _ _ => some g
  | .packB g _ _ _ => some g
  | .packN g _ _ _ => some g
  | .unpackH g _ _ _ _ => some g
  | .unpackB g _ _ _ _ => some g
  | .unpackN g _ _ _ _ => some g
  | .hdr g _ _ _ => some g
  | .hdrget g _ _ _ => some g
  | .oclaim g _ _ => some (.b g)
  | .orelease g _ _ => some (.b g)
  | .ofillBank g _ _ _ _ => some (.b g)
  | .ofillBus g _ _ => some (.b g)
  | .ostat g _ _ => some (.b g)
  | .mbind g _ _ => some (.b g)
  | .mzero g _ => some (.b g)
  | .mmacK8 g _ _ _ _ => some (.b g)
  | .mmacK4 g _ _ _ _ => some (.b g)
  | .mmacK16 g _ _ _ => some (.b g)
  | .mreconI64 g _ _ _ => some (.b g)
  | .mreconF32 g _ _ _ => some (.b g)
  | .mreconF32Add g _ _ _ => some (.b g)
  | .mdrain g _ _ => some (.b g)
  | .mdrainZ g _ _ => some (.b g)
  | .trienc g _ _ => some (.b g)
  | .tridec g _ _ => some (.b g)
  | .triadd g _ _ _ => some (.b g)
  | .trimul g _ _ _ => some (.b g)
  | .scanb g _ _ _ _ _ => some (.b g)
  | .scant g _ _ _ _ _ => some (.b g)
  | .isect g _ _ _ _ => some (.b g)
  | .union g _ _ _ _ => some (.b g)
  | .stopt g _ _ => some (.b g)
  | .stoptImm g _ _ => some (.b g)
  | .stopqLower g _ _ => some (.b g)
  | .stopqRaise g _ _ => some (.b g)
  | .spaccFadd g _ _ _ _ => some (.b g)
  | .spaccAdd g _ _ _ => some (.b g)
  | .spaccFmax g _ _ _ => some (.b g)
  | .spdrain g _ _ => some (.b g)
  | .spdrainV g _ _ => some (.b g)
  | .part g _ _ _ => some (.b g)
  | .isq g _ _ _ => some g
  | .probe g _ _ _ => some g
  | .unpin g _ _ _ => some g
  | .hod g _ _ _ => some g
  | .coll g _ _ _ => some g
  | .jobwait g _ _ _ => some g
  | .ldb g _ _ _ _ => some (.b g)
  | .stb g _ _ _ _ => some (.b g)
  | .ldv g _ _ _ _ => some g
  | .stv g _ _ _ _ => some g
  | .ldg g _ _ _ _ _ => some g
  | .stg g _ _ _ _ _ => some g
  | .ldp g _ _ _ _ => some g
  | .stp g _ _ _ _ => some g
  | .clrp g _ _ _ _ => some g
  | .pref g _ _ _ => some g
  | .amoadd g _ _ _ _ _ _ => some g
  | .amoand g _ _ _ _ _ _ => some g
  | .amoor g _ _ _ _ _ _ => some g
  | .amoxor g _ _ _ _ _ _ => some g
  | .amomin g _ _ _ _ _ _ => some g
  | .amomax g _ _ _ _ _ _ => some g
  | .amominu g _ _ _ _ _ _ => some g
  | .amomaxu g _ _ _ _ _ _ => some g
  | .amoswap g _ _ _ _ _ _ => some g
  | .amofadd g _ _ _ _ _ _ => some g
  | .cas g _ _ _ _ _ _ => some g
  | .fence g _ _ => some g
  | .fencex g _ _ => some g
  | .fencee g _ _ => some g
  | .peekt g _ _ => some (.b g)
  | .routeaStep g _ => some (.b g)
  | .routeaSet g _ _ => some g
  | .vcbind g _ _ => some g
  | .qstat g _ _ => some (.b g)
  | .call g _ _ _ _ => some g
  | .ret g _ => some g
  | .yield g _ => some g
  | .resume g _ _ _ => some g
  | .apply g _ _ _ _ => some g
  | .cseq g _ _ _ => some g
  | .cpar g _ _ _ => some g
  | .cpipe g _ _ _ => some g
  | .cfarm g _ _ _ _ => some g
  | .cloop g _ _ _ => some g
  | .cfree g _ _ => some g
  | .waitc g _ _ _ => some g
  | .waitcS g _ _ => some g
  | .fold g _ _ => some g
  | .stow g _ _ => some g
  | .cquery g _ _ => some g
  | .br g => some (.s g)
  | .bc g _ _ _ => some (.s g)
  | .jal g _ => some (.s g)
  | .jr g _ _ => some (.s g)
  | .loop g _ => some (.s g)
  | .scmd g _ _ => some (.s g)
  | .sbar g _ => some (.s g)
  | .cstep g _ _ => some (.s g)
  | .cload g _ _ _ => some (.s g)
  | .arm g _ _ => some (.s g)
  | .waitd g _ => some (.s g)
  | .waitdT g _ => some (.s g)
  | .notify g _ _ => some (.s g)
  | .tlbinv g _ _ _ _ => some (.s g)
  | .tlbinvSpace g _ _ _ => some (.s g)
  | .tlbsync g _ => some (.s g)
  | .migr g _ _ _ => some (.s g)
  | .svc g _ => some (.s g)
  | .eret g => some (.s g)
  | .crd g _ _ _ => some g
  | .cwr g _ _ _ => some (.s g)
  | .rddig g _ _ _ => some g
  | _ => none

/-- The operands an instruction reads, D first where it is read as a source (R255). -/
def srcsOf : Instr → List Opnd
  | .pset _ a b => [a, b]
  | .pand _ _ a b => [a, b]
  | .por _ _ a b => [a, b]
  | .pxor _ _ a b => [a, b]
  | .pandn _ _ a b => [a, b]
  | .pnot _ _ a => [a]
  | .pmov _ _ a => [a]
  | .sel _ _ _ a b => [a, b]
  | .steer _ _ a => [a]
  | .merge _ _ a => [a]
  | .mergeAny _ _ a => [a]
  | .gate _ _ a => [a]
  | .trap _ _ a => [a]
  | .mark _ _ a => [a]
  | .sett _ _ a => [a]
  | .deq _ a b => [a, b]
  | .kput _ _ a => [a]
  | .add _ _ a b => [a, b]
  | .sub _ _ a b => [a, b]
  | .addi _ _ a _ => [a]
  | .mul _ _ a b => [a, b]
  | .mulh _ _ a b => [a, b]
  | .mulhu _ _ a b => [a, b]
  | .div _ _ a b => [a, b]
  | .divu _ _ a b => [a, b]
  | .rem _ _ a b => [a, b]
  | .remu _ _ a b => [a, b]
  | .and _ _ a b => [a, b]
  | .andi _ _ a _ => [a]
  | .or _ _ a b => [a, b]
  | .ori _ _ a _ => [a]
  | .xor _ _ a b => [a, b]
  | .xori _ _ a _ => [a]
  | .shl _ _ a b => [a, b]
  | .shli _ _ a _ => [a]
  | .shr _ _ a b => [a, b]
  | .shri _ _ a _ => [a]
  | .sra _ _ a b => [a, b]
  | .srai _ _ a _ => [a]
  | .rotl _ _ a b => [a, b]
  | .clz _ _ a => [a]
  | .ctz _ _ a => [a]
  | .popc _ _ a => [a]
  | .min _ _ a b => [a, b]
  | .max _ _ a b => [a, b]
  | .minu _ _ a b => [a, b]
  | .maxu _ _ a b => [a, b]
  | .abs _ _ a => [a]
  | .neg _ _ a => [a]
  | .cmpeq _ _ a b => [a, b]
  | .cmpne _ _ a b => [a, b]
  | .cmplt _ _ a b => [a, b]
  | .cmpltu _ _ a b => [a, b]
  | .cmple _ _ a b => [a, b]
  | .cmpleu _ _ a b => [a, b]
  | .cmpeqi _ _ a _ => [a]
  | .cmpnei _ _ a _ => [a]
  | .cmplti _ _ a _ => [a]
  | .cmpltui _ _ a _ => [a]
  | .cmplei _ _ a _ => [a]
  | .cmpleui _ _ a _ => [a]
  | .bfx _ _ a b => [a, b]
  | .bfxS _ _ a b => [a, b]
  | .bfi _ _ a b => [a, b]
  | .adds _ _ a b => [a, b]
  | .subs _ _ a b => [a, b]
  | .madd _ _ a b => [a, b]
  | .lea _ _ _ a b => [a, b]
  | .fadd _ _ _ _ a b => [a, b]
  | .fsub _ _ _ _ a b => [a, b]
  | .fmul _ _ _ _ a b => [a, b]
  | .ffma _ _ _ _ a b => [a, b]
  | .ffms _ _ _ _ a b => [a, b]
  | .fdiv _ _ _ _ a b => [a, b]
  | .fsqrt _ _ _ _ a => [a]
  | .frsq _ _ _ _ a => [a]
  | .fexp2 _ _ _ _ a => [a]
  | .flog2 _ _ _ _ a => [a]
  | .fmin _ _ _ _ a b => [a, b]
  | .fmax _ _ _ _ a b => [a, b]
  | .fabs _ _ _ a => [a]
  | .fneg _ _ _ a => [a]
  | .fcmpeq _ _ _ a b => [a, b]
  | .fcmplt _ _ _ a b => [a, b]
  | .fcmple _ _ _ a b => [a, b]
  | .fcmpun _ _ _ a b => [a, b]
  | .fclass _ _ _ a => [a]
  | .fround _ _ _ _ a => [a]
  | .fcvti _ _ _ _ _ a => [a]
  | .icvtf _ _ _ _ _ a => [a]
  | .fscale _ _ _ _ a b => [a, b]
  | .sopen _ _ _ a b => [a, b]
  | .vadd _ _ _ a b => [a, b]
  | .vsub _ _ _ a b => [a, b]
  | .vmul _ _ _ a b => [a, b]
  | .vfma _ _ _ a => [a]
  | .vaxpy _ _ _ a => [a]
  | .vmin _ _ _ a b => [a, b]
  | .vmax _ _ _ a b => [a, b]
  | .vabs _ _ a => [a]
  | .vneg _ _ a => [a]
  | .vsel _ _ a b => [a, b]
  | .vcmp _ _ _ _ a b => [a, b]
  | .vredsum _ _ _ _ a => [a]
  | .vredmax _ _ _ _ a => [a]
  | .vamax _ _ _ a => [a]
  | .vscan _ _ _ a b => [a, b]
  | .vexp2 _ _ _ a => [a]
  | .vrsq _ _ _ a => [a]
  | .vcvt _ _ a => [a]
  | .vqnt _ a b => [a, b]
  | .vdqnt _ _ a b => [a, b]
  | .cvt _ _ _ a _ _ => [a]
  | .qnt _ _ _ a b => [a, b]
  | .dqnt _ _ _ _ a b => [a, b]
  | .scalex _ _ _ a => [a]
  | .limb _ _ a => [a]
  | .unlimb _ _ a => [a]
  | .packH _ _ a b => [a, b]
  | .packB _ _ a b => [a, b]
  | .packN _ _ a b => [a, b]
  | .unpackH _ _ _ a b => [a, b]
  | .unpackB _ _ _ a b => [a, b]
  | .unpackN _ _ _ a b => [a, b]
  | .hdr _ _ a b => [a, b]
  | .hdrget _ _ _ a => [a]
  | .ofillBank _ _ _ a b => [a, b]
  | .mbind _ _ a => [a]
  | .mreconI64 _ _ _ a => [a]
  | .mreconF32 _ _ _ a => [a]
  | .mreconF32Add _ _ _ a => [a]
  | .mdrain _ _ a => [a]
  | .mdrainZ _ _ a => [a]
  | .trienc _ _ a => [a]
  | .tridec _ _ a => [a]
  | .triadd _ _ a b => [a, b]
  | .trimul _ _ a b => [a, b]
  | .scanb _ _ _ _ a b => [a, b]
  | .scant _ _ _ _ a b => [a, b]
  | .isect _ _ _ a b => [a, b]
  | .union _ _ _ a b => [a, b]
  | .stopt _ _ a => [a]
  | .stopqLower _ _ a => [a]
  | .stopqRaise _ _ a => [a]
  | .spaccFadd _ _ _ a b => [a, b]
  | .spaccAdd _ _ a b => [a, b]
  | .spaccFmax _ _ a b => [a, b]
  | .part _ _ _ a => [a]
  | .isq _ _ _ a => [a]
  | .probe _ _ _ a => [a]
  | .unpin _ _ _ a => [a]
  | .hod _ _ _ a => [a]
  | .coll _ _ _ a => [a]
  | .jobwait _ _ _ a => [a]
  | .ldb _ _ _ a b => [a, b]
  | .stb _ _ v a b => [v, a, b]
  | .ldv _ _ _ a b => [a, b]
  | .stv _ _ v a b => [v, a, b]
  | .ldg _ _ _ _ a b => [a, b]
  | .stg _ _ _ v a b => [v, a, b]
  | .ldp _ _ _ a b => [a, b]
  | .stp _ _ v a b => [v, a, b]
  | .clrp _ _ v a b => [v, a, b]
  | .pref _ _ a b => [a, b]
  | .peekt _ _ a => [a]
  | .routeaSet _ a b => [a, b]
  | .vcbind _ a b => [a, b]
  | .call _ _ _ a b => [a, b]
  | .ret _ a => [a]
  | .yield _ a => [a]
  | .resume _ _ a b => [a, b]
  | .apply _ _ _ a b => [a, b]
  | .cseq _ _ a b => [a, b]
  | .cpar _ _ a b => [a, b]
  | .cpipe _ _ a b => [a, b]
  | .cfarm _ _ _ a b => [a, b]
  | .cloop _ _ a b => [a, b]
  | .cfree _ _ a => [a]
  | .waitc _ _ _ a => [a]
  | .waitcS _ _ a => [a]
  | .fold _ _ a => [a]
  | .stow _ _ a => [a]
  | .cquery _ _ a => [a]
  | .bc _ _ a b => [a, b]
  | .jr _ _ a => [a]
  | .scmd _ a b => [a, b]
  | .cstep _ _ a => [a]
  | .cload _ _ a b => [a, b]
  | .arm _ _ a => [a]
  | .notify _ a b => [a, b]
  | .tlbinv _ _ _ a b => [a, b]
  | .tlbinvSpace _ _ a b => [a, b]
  | .migr _ v a b => [v, a, b]
  | .crd _ _ a _ => [a]
  | .cwr _ _ a b => [a, b]
  | .rddig _ _ a b => [a, b]
  | _ => []

/-- The operand an instruction writes. -/
def dstOf : Instr → Option Opnd
  | .pand _ d _ _ => some d
  | .por _ d _ _ => some d
  | .pxor _ d _ _ => some d
  | .pandn _ d _ _ => some d
  | .pnot _ d _ => some d
  | .pmov _ d _ => some d
  | .sel _ _ d _ _ => some d
  | .steer _ d _ => some d
  | .merge _ d _ => some d
  | .mergeAny _ d _ => some d
  | .gate _ d _ => some d
  | .kget _ d => some d
  | .add _ d _ _ => some d
  | .sub _ d _ _ => some d
  | .addi _ d _ _ => some d
  | .mul _ d _ _ => some d
  | .mulh _ d _ _ => some d
  | .mulhu _ d _ _ => some d
  | .div _ d _ _ => some d
  | .divu _ d _ _ => some d
  | .rem _ d _ _ => some d
  | .remu _ d _ _ => some d
  | .and _ d _ _ => some d
  | .andi _ d _ _ => some d
  | .or _ d _ _ => some d
  | .ori _ d _ _ => some d
  | .xor _ d _ _ => some d
  | .xori _ d _ _ => some d
  | .shl _ d _ _ => some d
  | .shli _ d _ _ => some d
  | .shr _ d _ _ => some d
  | .shri _ d _ _ => some d
  | .sra _ d _ _ => some d
  | .srai _ d _ _ => some d
  | .rotl _ d _ _ => some d
  | .clz _ d _ => some d
  | .ctz _ d _ => some d
  | .popc _ d _ => some d
  | .min _ d _ _ => some d
  | .max _ d _ _ => some d
  | .minu _ d _ _ => some d
  | .maxu _ d _ _ => some d
  | .abs _ d _ => some d
  | .neg _ d _ => some d
  | .cmpeq _ d _ _ => some d
  | .cmpne _ d _ _ => some d
  | .cmplt _ d _ _ => some d
  | .cmpltu _ d _ _ => some d
  | .cmple _ d _ _ => some d
  | .cmpleu _ d _ _ => some d
  | .cmpeqi _ d _ _ => some d
  | .cmpnei _ d _ _ => some d
  | .cmplti _ d _ _ => some d
  | .cmpltui _ d _ _ => some d
  | .cmplei _ d _ _ => some d
  | .cmpleui _ d _ _ => some d
  | .movi _ d _ => some d
  | .movhi _ d _ => some d
  | .bfx _ d _ _ => some d
  | .bfxS _ d _ _ => some d
  | .bfi _ d _ _ => some d
  | .adds _ d _ _ => some d
  | .subs _ d _ _ => some d
  | .madd _ d _ _ => some d
  | .lea _ _ d _ _ => some d
  | .fadd _ _ _ d _ _ => some d
  | .fsub _ _ _ d _ _ => some d
  | .fmul _ _ _ d _ _ => some d
  | .ffma _ _ _ d _ _ => some d
  | .ffms _ _ _ d _ _ => some d
  | .fdiv _ _ _ d _ _ => some d
  | .fsqrt _ _ _ d _ => some d
  | .frsq _ _ _ d _ => some d
  | .fexp2 _ _ _ d _ => some d
  | .flog2 _ _ _ d _ => some d
  | .fmin _ _ _ d _ _ => some d
  | .fmax _ _ _ d _ _ => some d
  | .fabs _ _ d _ => some d
  | .fneg _ _ d _ => some d
  | .fcmpeq _ _ d _ _ => some d
  | .fcmplt _ _ d _ _ => some d
  | .fcmple _ _ d _ _ => some d
  | .fcmpun _ _ d _ _ => some d
  | .fclass _ _ d _ => some d
  | .fround _ _ _ d _ => some d
  | .fcvti _ _ _ _ d _ => some d
  | .icvtf _ _ _ _ d _ => some d
  | .fscale _ _ _ d _ _ => some d
  | .sclose _ _ d => some d
  | .vcmp _ _ _ d _ _ => some d
  | .vredsum _ _ _ d _ => some d
  | .vredmax _ _ _ d _ => some d
  | .vamax _ _ d _ => some d
  | .cvt _ _ d _ _ _ => some d
  | .qnt _ _ d _ _ => some d
  | .dqnt _ _ _ d _ _ => some d
  | .scalex _ _ d _ => some d
  | .limb _ d _ => some d
  | .unlimb _ d _ => some d
  | .packH _ d _ _ => some d
  | .packB _ d _ _ => some d
  | .packN _ d _ _ => some d
  | .unpackH _ _ d _ _ => some d
  | .unpackB _ _ d _ _ => some d
  | .unpackN _ _ d _ _ => some d
  | .hdr _ d _ _ => some d
  | .hdrget _ _ d _ => some d
  | .ostat _ _ d => some d
  | .trienc _ d _ => some d
  | .tridec _ d _ => some d
  | .triadd _ d _ _ => some d
  | .trimul _ d _ _ => some d
  | .scanb _ _ _ d _ _ => some d
  | .scant _ _ _ d _ _ => some d
  | .isect _ _ d _ _ => some d
  | .union _ _ d _ _ => some d
  | .stopt _ d _ => some d
  | .stoptImm _ _ d => some d
  | .stopqLower _ d _ => some d
  | .stopqRaise _ d _ => some d
  | .spdrain _ _ d => some d
  | .spdrainV _ _ d => some d
  | .part _ _ d _ => some d
  | .isq _ _ d _ => some d
  | .probe _ _ d _ => some d
  | .unpin _ _ d _ => some d
  | .hod _ _ d _ => some d
  | .coll _ _ d _ => some d
  | .jobwait _ _ d _ => some d
  | .ldb _ _ d _ _ => some d
  | .ldv _ _ d _ _ => some d
  | .ldg _ _ _ d _ _ => some d
  | .ldp _ _ d _ _ => some d
  | .peekt _ d _ => some d
  | .routeaStep _ d => some d
  | .qstat _ _ d => some d
  | .call _ _ d _ _ => some d
  | .resume _ d _ _ => some d
  | .apply _ _ d _ _ => some d
  | .cseq _ d _ _ => some d
  | .cpar _ d _ _ => some d
  | .cpipe _ d _ _ => some d
  | .cfarm _ _ d _ _ => some d
  | .cloop _ d _ _ => some d
  | .cfree _ d _ => some d
  | .waitc _ _ d _ => some d
  | .waitcS _ d _ => some d
  | .fold _ d _ => some d
  | .stow _ d _ => some d
  | .cquery _ d _ => some d
  | .jal _ d => some d
  | .jr _ d _ => some d
  | .loop _ d => some d
  | .tlbsync _ d => some d
  | .crd _ d _ _ => some d
  | .rddig _ d _ _ => some d
  | _ => none

/-- A stream instruction that writes `sw` (R167). -/
def laneSw : Instr → Bool
  | .vadd .. => true
  | .vsub .. => true
  | .vmul .. => true
  | .vfma .. => true
  | .vaxpy .. => true
  | .vmin .. => true
  | .vmax .. => true
  | .vabs .. => true
  | .vneg .. => true
  | .vsel .. => true
  | .vscan .. => true
  | .vexp2 .. => true
  | .vrsq .. => true
  | .vcvt .. => true
  | .vqnt .. => true
  | .vdqnt .. => true
  | _ => false

end Sys2Proof.Machine
end

