-- ==== Sys2Proof/Machine/Ctl.lean ====
section
/-! DEFINITION. Device control space (R440): reading and writing its registers, and the actions of a fault handler
(R407, R408), which a write of `fax` takes. -/

namespace Sys2Proof.Machine

open Sys2Proof

/-! ## Handler actions -/

/-- A context as a round starts, or starts again: no store and no wait of that round (R235). -/
def Ctx.openRound (k : Ctx) : Ctx := { k with stored := false, wait := none, defer := none, atomAt := [] }

/-- A context at the commit of a round: the slots that the release condition kept back bar the stores of the next (R241). -/
def Ctx.barKept (k : Ctx) : Ctx := { k with barred := k.kept, kept := 0 }

/-- A thread as a round starts. -/
def Thread.openRound (t : Thread) : Thread := { t with stored := false, defer := none, atomAt := [], retd := false }

/-- A body as a round starts: nothing held (R397). -/
def Body.openRound (b : Body) : Body :=
  { b with ctxs := b.ctxs.map Ctx.openRound, th := b.th.openRound, held := [], invs := [], cmds := [], recs := [],
           trace := [], reqs := [], rets := [], yld := none }

/-- Start the next round, or the same round again, at a cycle (R94, step 7; R396). -/
def Spur.openRound (sp : Spur) (now : Nat) : Spur :=
  let b := sp.live.openRound
  { sp with live := b, start := b, causes := [], stale := false, retry := false, delivered := [], collected := [],
            roundAt := now, rlenNow := sp.live.th.rlen }

/-- The spur enters running again by a handler's hand (R408): its idle count starts afresh (R365). -/
def Spur.handlerResume (sp : Spur) (now : Nat) : Spur :=
  { sp with life := .running, sStop := false, sFault := none, dead := none, paging := false, badNow := [], retried := [],
            tries := 0, lastBusy := now, awayFrom := now, inactive := false }.openRound now

/-- Put BE of a status word to zero (R52, R90). -/
def beOff (w : BitVec n) : BitVec n := w &&& ~~~(1#n <<< 12)

/-- Action 4: breaks off (R408). -/
def Spur.breaksOff (sp : Spur) : Spur :=
  sp.modLive fun b => { b with
    ctxs := b.ctxs.map fun k => { k with cst := beOff k.cst }
    th := { b.th with sst := beOff b.th.sst } }

/-- The slots of a context whose node is `n` (R404, R408). -/
def Ctx.nodeSlots (k : Ctx) (n : W32) : BitVec 16 :=
  (upTo 16).foldl (fun a i => if k.nodeOf i == n then a ||| (1#16 <<< i) else a) 0

/-- Action 5: node off (R408). -/
def Spur.nodeOff (sp : Spur) (n : W32) : Spur :=
  sp.modLive fun b => { b with ctxs := b.ctxs.map fun k => { k with off := k.off ||| k.nodeSlots n } }

/-- A writer whose write no round held: the mode of a thread is the one it is in (R407). -/
def unheld : Writer → Writer
  | .system h => .thread h
  | w => w

/-- Who may write `fax` and `faa` at all (R407). -/
def faxWriter (s : State) : Writer → Bool
  | .summit | .keystone | .system _ => true
  | .thread h => (match s.thread? h with | some t => t.sysMode | none => false)
  | .management | .host _ | .fabric => false

/-- The writer may act on a spur of domain `d` (R407). -/
def faxOver (s : State) (d : Nat) : Writer → Bool
  | .summit | .keystone => true
  | .thread h | .system h => (match s.spur? h with | some x => s.under x.dom d | none => false)
  | .management | .host _ | .fabric => false

/-- A handler's action on a spur (R408), with the result of R407: no live handle, then not stopped, then the action. -/
def faultAct (s : State) (w : Writer) (h : Handle) (act : Nat) (node : W32) : State × Nat :=
  match s.spur? h with
  | none => (s, 2)
  | some sp =>
    if !faxOver s sp.dom w then (s, 2)
    else if sp.life != .stopped || sp.final then (s, 1)
    else
      match act with
      | 1 => (claimTurn (s.setSpur (sp.handlerResume s.now)) h, 0)
      | 2 =>
        if sp.sStop then
          (claimTurn (s.setSpur ((sp.modLive fun b => { b with th := { b.th with pc := b.th.pc + 8 } }).handlerResume s.now)) h, 0)
        else (s, 3)
      | 3 => (s.setSpur { sp with final := true }, 0)
      | 4 => (claimTurn (s.setSpur (sp.breaksOff.handlerResume s.now)) h, 0)
      | 5 => (claimTurn (s.setSpur ((sp.nodeOff node).handlerResume s.now)) h, 0)
      | _ => (s, 3)

/-- A write of `fax` (R407). -/
def writeFax (s : State) (w : Writer) (v : W64) : State :=
  if !faxWriter s w then s
  else
    let (s, res) := faultAct s w (v.extractLsb' 32 32) (v.extractLsb' 28 4).toNat (s.ctl.faa.extractLsb' 0 32)
    { s with ctl := { s.ctl with fax := (v &&& 0xFFFFFFFFF0000000) ||| BitVec.ofNat 64 res } }

/-! ## Registers -/

/-- A notify register's TAIL and wake flag; one not listed holds its reset value (R376, R385, R392). -/
def Ctl.notify? (c : Ctl) (q : Nat) : NotifyReg :=
  match c.notify.find? (·.q == q) with
  | some n => n
  | none => ⟨q, 0, false⟩

/-- Put a notify register. -/
def Ctl.setNotify (c : Ctl) (n : NotifyReg) : Ctl := { c with notify := insertKey (·.q) n c.notify }

/-- A notify write: it stores TAIL and sets the wake flag (R392); to a queue that is not in use or defunct it is
ignored (R387). -/
def writeNotify (s : State) (q : Nat) (tail : W32) : State :=
  let d := s.qDesc q
  if !d.v || d.df then s
  else { s with ctl := s.ctl.setNotify { s.ctl.notify? q with tail := tail, wake := true } }

/-- A write of `ptd` starts a teardown: every queue that names the PASID becomes defunct (R391, step 1). -/
def writePtd (s : State) (v : W64) : State :=
  if s.ctl.ptd.getLsbD 31 then s
  else
    let p := bitsOf v.toNat 0 20
    let s := { s with ctl := { s.ctl with ptd := BitVec.ofNat 64 (v.toNat % 2 ^ 20 + bitsOf v.toNat 31 1 * 2 ^ 31) } }
    if bitsOf v.toNat 31 1 = 0 then s
    else
      let qs := (upTo 4096).filter fun q => let d := s.qDesc q; d.v && d.pasid == p
      let gone := (qs.filter fun q => !(s.qDesc q).df).filterMap fun q =>
        let n := ((s.ctl.notify? q).tail.toNat + 2 ^ 32 - (s.qDesc q).head) % 2 ^ 32
        if n = 0 then none else some (q, n)
      { qs.foldl State.setDefunct s with teardown := some ⟨p, gone⟩ }

/-- No spur is placed (R264). -/
def State.noneplaced (s : State) : Bool := s.spurs.all fun x => !x.placed

/-- The privileged writers of R264 and R376. -/
def isPriv : Writer → Bool
  | .summit | .keystone => true
  | .management | .host _ | .thread _ | .system _ | .fabric => false

/-- Keep the bits `lo` to `hi` of a value. -/
def keepBits (v : W64) (lo hi : Nat) : W64 := BitVec.ofNat 64 (bitsOf v.toNat lo (hi + 1 - lo) * 2 ^ lo)

/-- Change one ring register set. -/
def Ctl.modRing (c : Ctl) (i : Nat) (f : FreeRing → FreeRing) : Ctl := { c with rings := upd c.rings i f }

/-- Change one trace ring register set. -/
def Ctl.modTrace (c : Ctl) (i : Nat) (f : TraceRing → TraceRing) : Ctl := { c with traces := upd c.traces i f }

/-- A position of a free ring wraps modulo `frn` (R275). -/
def ringWrap (r : FreeRing) (v : W64) : W64 :=
  let n := bitsOf r.frn.toNat 0 16
  let v := bitsOf v.toNat 0 16
  BitVec.ofNat 64 (if n = 0 then v else v % n)

/-- What an offset of device control space names (R440). -/
inductive CtlReg where
  | notify (q : Nat)
  | ptd | atb | ddb | ptb | cqb | fax | faa | fdb | fdl | fds
  | ring (i k : Nat)
  | trace (ridge k : Nat)
  | pwl | pws
  | agm (ridge : Nat)
  | absent
  deriving DecidableEq, Repr

/-- The register at an 8-byte offset of device control space (R440). -/
def ctlReg (o : Nat) : CtlReg :=
  if o < 0x8000 then .notify (o / 8)
  else if o = 0x8000 then .ptd
  else if o = 0x10000 then .atb
  else if o = 0x10008 then .ddb
  else if o = 0x10010 then .ptb
  else if o = 0x10018 then .cqb
  else if o = 0x10020 then .fax
  else if o = 0x10028 then .faa
  else if o = 0x10030 then .fdb
  else if o = 0x10038 then .fdl
  else if o = 0x10040 then .fds
  else if 0x20000 ≤ o ∧ o < 0x20400 ∧ o % 0x100 < 0x40 then .ring (2 * ((o - 0x20000) / 0x100) + o % 0x100 / 0x20) (o % 0x20 / 8)
  else if 0x30000 ≤ o ∧ o < 0x30000 + 0x20 * 192 then .trace ((o - 0x30000) / 0x20) (o % 0x20 / 8)
  else if o = 0x40000 then .pwl
  else if o = 0x40008 then .pws
  else if 0x41000 ≤ o ∧ o < 0x41000 + 8 * 192 then .agm ((o - 0x41000) / 8)
  else .absent

/-- Read a register of device control space; an address that R440 does not list reads zero. The DF bit of a notify register
is a copy of its descriptor's (R385). -/
def ctlRead (s : State) (o : Nat) : W64 :=
  let c := s.ctl
  match ctlReg o with
  | .notify q => BitVec.ofNat 64 ((c.notify? q).tail.toNat + if (s.qDesc q).df then 2 ^ 63 else 0)
  | .ptd => c.ptd
  | .atb => c.atb
  | .ddb => c.ddb
  | .ptb => c.ptb
  | .cqb => c.cqb
  | .fax => c.fax
  | .faa => c.faa
  | .fdb => c.fdb
  | .fdl => c.fdl
  | .fds => c.fds
  | .ring i k =>
    let r := nth c.rings i ⟨0, 0, 0, 0⟩
    if k = 0 then r.frb else if k = 1 then r.frn else if k = 2 then r.frh else r.frt
  | .trace i k =>
    let r := nth c.traces i ⟨0, 0, 0, 0⟩
    if k = 0 then r.trb else if k = 1 then r.trn else if k = 2 then r.trh else r.trt
  | .pwl => c.pwl
  | .pws => c.pws
  | .agm i => nth c.agm i 0
  | .absent => 0

/-- A writer's port reaches an offset of device control space (R395): the physical function's BAR 0 maps the notify aperture
and `ptd`, a virtual function's the aperture pages assigned to it, and the management port only the power limit (R424). -/
def ctlReaches (w : Writer) (o : Nat) : Bool :=
  match w with
  | .host fn => if fn = 0 then decide (o < 0x10000) else decide (o < 0x8000) && Config.vfPage fn (o / 4096)
  | .management => o == 0x40000
  | .summit | .keystone | .thread _ | .system _ | .fabric => true

/-- Write a register of device control space that the writer reaches, as its definition permits the writer (R264, R275, R376,
R391, R395, R407, R412, R419, R424, R426); an address that R440 does not list ignores the write. -/
def ctlWrite (s : State) (w : Writer) (o : Nat) (v : W64) : State :=
  if !ctlReaches w o then s else
  let c := s.ctl
  let root := isPriv w && s.noneplaced
  match ctlReg o with
  | .notify q => writeNotify s q (v.extractLsb' 0 32)
  | .ptd => writePtd s v
  | .atb => if root then { s with ctl := { c with atb := keepBits v 19 51 } } else s
  | .ddb => if root then { s with ctl := { c with ddb := keepBits v 19 51 } } else s
  | .ptb => if root then { s with ctl := { c with ptb := keepBits v 23 51 } } else s
  | .cqb => if root then { s with ctl := { c with cqb := keepBits v 18 51 } } else s
  | .fax => writeFax s w v
  | .faa => if faxWriter s w then { s with ctl := { c with faa := keepBits v 0 31 } } else s
  | .fdb => if isPriv w then { s with ctl := { c with fdb := keepBits v 20 51 } } else s
  | .fdl => if isPriv w then { s with ctl := { c with fdl := keepBits v 20 39 } } else s
  | .fds => s
  | .ring i k => { s with ctl := c.modRing i fun r =>
      if k = 0 then { r with frb := keepBits v 12 51 } else if k = 1 then { r with frn := keepBits v 0 15 }
      else if k = 2 then { r with frh := ringWrap r v } else { r with frt := ringWrap r v } }
  | .trace i k =>
    if !isPriv w then s
    else { s with ctl := c.modTrace i fun r =>
      if k = 0 then { r with trb := keepBits v 12 51 } else if k = 1 then { r with trn := keepBits v 0 4 }
      else if k = 2 then { r with trh := keepBits v 0 31 } else r }
  | .pwl =>
    let n := bitsOf v.toNat 0 12
    if (isPriv w || w == .management) && decide (400 ≤ n) && decide (n ≤ 2600) then
      { s with ctl := { c with pwl := BitVec.ofNat 64 n } }
    else s
  | .pws => s
  | .agm _ => s
  | .absent => s

/-! ## Physical accesses -/

/-- The base of device control space (R15). -/
def ctlBase : Nat := 0x0F0000000000

/-- Read one byte at a physical address: memory, or a register of device control space. An address of the other packages'
range that names this one is a byte of its own (R15; DESIGN CHOICE, log 142). -/
def State.physByte (s : State) (pa : Nat) : Byte :=
  if isCtlSpace pa then
    BitVec.ofNat 8 ((ctlRead s ((pa - ctlBase) / 8 * 8)).toNat / 256 ^ (pa % 8))
  else readByte s.mem pa

/-- Read bytes at a physical address. -/
def State.physRead (s : State) : Nat → Nat → List Byte
  | _, 0 => []
  | pa, n + 1 => s.physByte pa :: s.physRead (pa + 1) n

/-- Write bytes in device control space: each register they reach takes one write, in which they replace its bytes
(R440, log 10); `n` bounds the registers. -/
def ctlPut (w : Writer) : Nat → Nat → List Byte → State → State
  | 0, _, _, s => s
  | n + 1, pa, bytes, s =>
    if bytes.isEmpty then s
    else
      let o := (pa - ctlBase) / 8 * 8
      let r := pa % 8
      let here := bytes.take (8 - r)
      let old := toBytes 8 (ctlRead s o).toNat
      ctlPut w n (pa + here.length) (bytes.drop (8 - r))
        (ctlWrite s w o (BitVec.ofNat 64 (ofBytes (old.take r ++ here ++ old.drop (r + here.length)))))

/-- Write bytes at a physical address: memory, whose words they make good (R409), or registers of device control space. -/
def State.physWrite (s : State) (w : Writer) (pa : Nat) (bytes : List Byte) : State :=
  if isCtlSpace pa then ctlPut w (bytes.length / 8 + 2) pa bytes s
  else ({ s with mem := writeBytes s.mem pa bytes } : State).rewritten pa bytes.length

/-- Who an agent writes for: the mode of a thread is the one in which it stored (R407). -/
def writerOf (who : AgentId) (sys : Bool) : Writer :=
  match who with
  | .thread t => if sys then .system t else .fabric
  | .ctx _ => .fabric

/-- `n` bytes at a physical address as a number, as the device reads its structures (R440). -/
def State.physNat (s : State) (pa n : Nat) : Nat :=
  if isCtlSpace pa then ofBytes (s.physRead pa n) else readNat s.mem pa n

/-- The device writes `n` bytes of a structure of its own (R440). -/
def State.putNat (s : State) (pa n v : Nat) : State :=
  if isCtlSpace pa then s.physWrite .fabric pa (toBytes n v)
  else ({ s with mem := writeNat s.mem pa n v } : State).rewritten pa n

end Sys2Proof.Machine
end

