-- ==== Sys2Proof/Machine/Translate.lean ====
section
/-! DEFINITION. The walk, its caches and the accessed and dirty bits (R264 to R273). A lookup takes a cached entry
where there is one, and an eviction is a turn of its own, so a run shows every choice a cache could make. -/

namespace Sys2Proof.Machine

open Sys2Proof

/-- Kinds of access (R268, R403). -/
inductive AccK where
  | read | write | rw | fetch
  deriving DecidableEq, Repr

/-- The code of an access kind in a record (R403). -/
def AccK.code : AccK → BitVec 8
  | .read => 0 | .write => 1 | .rw => 2 | .fetch => 3

/-- The kind a record's code names. -/
def AccK.ofCode (c : BitVec 8) : AccK :=
  if c = 1 then .write else if c = 2 then .rw else if c = 3 then .fetch else .read

/-- The code of a fault kind in a record (R403); a record of data lost has none. -/
def TKind.code : TKind → Nat
  | .notPresent => 0 | .unmapped => 1 | .permission => 2 | .table | .lost => 3

/-- What an access asks of its page: its kind, whether its agent is a user agent, and the presence attribute it
demands, if it demands one (R249, R270). -/
structure Need where
  acc : AccK
  user : Bool
  pres : Option Bool
  deriving DecidableEq, Repr

/-- A bit of a table entry. -/
def entBit (e : W64) (n : Nat) : Bool := e.getLsbD n

/-- The frame field of a table entry, as an address (R266). -/
def entFrame (e : W64) : Nat := (e.extractLsb' 12 40).toNat * 4096

/-- Reserved bits of a table entry are zero (R266). -/
def entOk (e : W64) : Bool :=
  if entBit e 0 then
    if entBit e 1 then e.extractLsb' 52 6 == 0 && !entBit e 11
    else e.extractLsb' 52 6 == 0 && e.extractLsb' 2 10 == 0
  else (e.extractLsb' 10 2 == 0) || e.extractLsb' 52 6 == 0

/-- The page size of a leaf at a level (R265). -/
def leafSize (level : Nat) (e : W64) : Nat := 2 ^ (12 + 9 * level) * (if entBit e 10 then 16 else 1)

/-- The virtual tag an entry of a level stands for; a C16 leaf stands for its whole group (R267). -/
def entTag (level : Nat) (e : W64) (va : Nat) : Nat :=
  if level = 5 then 0
  else va / 2 ^ (12 + 9 * level) / (if entBit e 0 && entBit e 1 && entBit e 10 then 16 else 1)

/-- The leaf permits an access (R249, R270). -/
def permits (n : Need) (e : W64) : Bool :=
  (match n.acc with
    | .read => entBit e 2
    | .write => entBit e 3
    | .rw => entBit e 2 && entBit e 3
    | .fetch => entBit e 4) &&
  (!n.user || (entBit e 5 && !entBit e 9)) &&
  (match n.pres with
    | none => true
    | some p => entBit e 8 == p)

/-- A cache entry answers for an address (R271). -/
def CacheEnt.covers (c : CacheEnt) (u : CacheUnit) (asid level va : Nat) : Bool :=
  c.unit_ == u && c.asid == asid && c.level == level && c.tag == entTag level c.ent va

/-- Fill a cache, replacing an entry that answers for the same address. -/
def State.fill (s : State) (c : CacheEnt) (va : Nat) : State :=
  { s with caches := c :: s.caches.filter fun x => !(x.covers c.unit_ c.asid c.level va) }

/-- What a table read found: the entry, where it lies, and whether it came from a cache. -/
structure Found where
  ent : W64
  addr : Nat
  cached : Bool
  deriving DecidableEq, Repr

/-- Read the entry of a level: from the unit's cache, or by a walker read (R271). -/
def State.tableRead (s : State) (u : CacheUnit) (asid level va addr : Nat) : Found :=
  match s.caches.find? fun c => c.covers u asid level va with
  | some c => ⟨c.ent, c.addr, true⟩
  | none => ⟨BitVec.ofNat 64 (s.physNat addr 8), addr, false⟩

/-- The place of the entry for `va` in the table of a level (R265). -/
def entAddr (table level va : Nat) : Nat := table + 8 * (va / 2 ^ (12 + 9 * level) % 512)

/-- An entry that a walker would read lies in a word that stays bad (R409). -/
def State.badEnt (s : State) (f : Found) : Bool := !f.cached && s.spoilt [(f.addr, 8)]

/-- Set A, and D for a write, with an atomic OR on the leaf (R273). -/
def setAD (s : State) (c : CacheEnt) (va : Nat) (acc : AccK) : State :=
  let need : W64 := match acc with
    | .write | .rw => 0xC0
    | .read | .fetch => 0x40
  if c.ent &&& need == need then s
  else
    (s.putNat c.addr 8 (BitVec.ofNat 64 (s.physNat c.addr 8) ||| need).toNat).fill { c with ent := c.ent ||| need } va

/-- The end of a walk at a leaf, with the pointers of its path (R268): a translation that forms is cached with them
(R271). -/
def walkLeaf (s : State) (u : CacheUnit) (asid va level : Nat) (n : Need) (path : List CacheEnt) (f : Found) :
    State × Except TFault (Nat × W64) :=
  let e := f.ent
  let size := leafSize level e
  if level = 4 || entFrame e % size != 0 || (entBit e 3 && !entBit e 2) || !populated (entFrame e + va % size) then
    (s, .error ⟨.table, level, e, f.addr⟩)
  else if !permits n e then (s, .error ⟨.permission, level, e, f.addr⟩)
  else
    let c : CacheEnt := ⟨u, asid, level, entTag level e va, e, f.addr⟩
    let s := (if f.cached then path else path ++ [c]).foldl (fun s c => s.fill c va) s
    (setAD s c va n.acc, .ok (entFrame e + va % size, e))

/-- The walk from the table of level `k` down, behind the pointers of a path (R268). -/
def walkFrom (u : CacheUnit) (asid va : Nat) (n : Need) :
    Nat → Nat → List CacheEnt → State → State × Except TFault (Nat × W64)
  | level, table, path, s =>
    let f := s.tableRead u asid level va (entAddr table level va)
    let e := f.ent
    if s.badEnt f then (s, .error ⟨.lost, level, e, f.addr⟩)
    else if !entOk e then (s, .error ⟨.table, level, e, f.addr⟩)
    else if !entBit e 0 then
      let kind := (e.extractLsb' 10 2).toNat
      if kind = 0 then (s, .error ⟨.unmapped, level, e, f.addr⟩)
      else if kind = 3 || !entBit e 1 || level > 1 then (s, .error ⟨.table, level, e, f.addr⟩)
      else (s, .error ⟨.notPresent, level, e, f.addr⟩)
    else if entBit e 1 then walkLeaf s u asid va level n path f
    else
      match level with
      | 0 => (s, .error ⟨.table, level, e, f.addr⟩)
      | k + 1 =>
        walkFrom u asid va n k (entFrame e) (if f.cached then path else path ++ [⟨u, asid, level, entTag level e va, e, f.addr⟩]) s

/-- A cached leaf that answers for an address at some level, lowest level first (R271). -/
def State.cachedLeaf (s : State) (u : CacheUnit) (asid va : Nat) : Option CacheEnt :=
  (upTo 4).findSome? fun level =>
    s.caches.find? fun c => c.covers u asid level va && entBit c.ent 0 && entBit c.ent 1

/-- Translate an access (R268, R271): by a cached leaf, else by a walk. A store through a cached leaf with D = 0 walks
again (R273), which the model reaches by the same OR on the leaf. -/
def translate (s : State) (u : CacheUnit) (asid va : Nat) (n : Need) : State × Except TFault (Nat × W64) :=
  if va ≥ 2 ^ 57 then (s, .error ⟨.unmapped, 0xFF, 0, 0⟩)
  else
    let redo (c : CacheEnt) : Bool := (n.acc == .write || n.acc == .rw) && !entBit c.ent 7
    match s.cachedLeaf u asid va with
    | some c =>
      if redo c then
        let s' := { s with caches := s.caches.filter (· != c) }
        translateWalk s' u asid va n
      else walkLeaf s u asid va c.level n [] ⟨c.ent, c.addr, true⟩
    | none => translateWalk s u asid va n
where
  /-- A walk from the ASID table, of whose entry it tests V alone (R268, log 98). -/
  translateWalk (s : State) (u : CacheUnit) (asid va : Nat) (n : Need) : State × Except TFault (Nat × W64) :=
    let root := s.ctl.atb.toNat / 2 ^ 19 * 2 ^ 19 % 2 ^ 52
    let f := s.tableRead u asid 5 va (root + 8 * asid)
    if s.badEnt f then (s, .error ⟨.lost, 5, f.ent, f.addr⟩)
    else if !entBit f.ent 0 then (s, .error ⟨.unmapped, 5, f.ent, f.addr⟩)
    else walkFrom u asid va n 4 (entFrame f.ent) (if f.cached then [] else [⟨u, asid, 5, 0, f.ent, f.addr⟩]) s

/-! ## Posted operations (R278, R280) -/

/-- The range a posted operation names: whether of every ASID, its ASID and its bounds. -/
def PostedKind.range : PostedKind → Bool × Nat × Nat × Nat
  | .inv all asid lo hi => (all, asid, lo, hi)
  | .migr asid va _ size _ _ => (false, asid, va, va + size)

/-- A posted migration of the page of an address that is not over; with `held`, one that holds its translations (R280). -/
def State.migrAt (s : State) (held : Bool) (asid va : Nat) : Bool :=
  s.posted.any fun p => match p.kind with
    | .migr a v _ size _ _ => !p.isOver && (!held || p.left.isEmpty) && a == asid && decide (v ≤ va) && decide (va < v + size)
    | .inv .. => false

/-- A posted migration that is not over moves the page of an address (R280). -/
def State.moving (s : State) (asid va : Nat) : Bool := s.migrAt false asid va

/-- A migration holds every new translation of an address (R280). -/
def State.migrHolds (s : State) (asid va : Nat) : Bool := s.migrAt true asid va

/-- A device access translates an address: its step waits while a migration holds that page (R280, log 150). -/
def State.holdFor (s : State) (asid va : Nat) : State := { s with heldUp := s.heldUp || s.migrHolds asid va }

/-- A write translated now by a unit makes its round stale: a posted invalidation or migration names the translation and has
not taken effect in the unit's cache (R306). -/
def State.staleAt (s : State) (u : CacheUnit) (asid va n : Nat) : Bool :=
  s.posted.any fun p =>
    let (all, a, lo, hi) := p.kind.range
    p.left.contains u && (all || a == asid) && decide (va < hi) && decide (lo < va + n)

/-! ## Leaves by walker reads (R268, R271) -/

/-- A leaf as a walker read finds it: its level, its entry and where the entry lies. -/
structure Leaf where
  level : Nat
  ent : W64
  addr : Nat
  deriving DecidableEq, Repr

/-- The page size of a leaf (R265). -/
def Leaf.size (l : Leaf) : Nat := leafSize l.level l.ent

/-- The walk of R268 from the table of a level down, with every entry read from memory and no access checked. -/
def State.leafFrom (s : State) (va : Nat) : Nat → Nat → Except TFault Leaf
  | level, table =>
    let a := entAddr table level va
    let e := BitVec.ofNat 64 (s.physNat a 8)
    let bad (k : TKind) : Except TFault Leaf := .error ⟨k, level, e, a⟩
    if s.spoilt [(a, 8)] then bad .lost
    else if !entOk e then bad .table
    else if !entBit e 0 then
      let kind := (e.extractLsb' 10 2).toNat
      if kind = 0 then bad .unmapped
      else if kind = 3 || !entBit e 1 || level > 1 then bad .table
      else bad .notPresent
    else if entBit e 1 then
      if level = 4 || entFrame e % leafSize level e != 0 || (entBit e 3 && !entBit e 2) ||
          !populated (entFrame e + va % leafSize level e) then bad .table
      else .ok ⟨level, e, a⟩
    else
      match level with
      | 0 => bad .table
      | k + 1 => s.leafFrom va k (entFrame e)

/-- The leaf for an address of an ASID (R268). -/
def State.leaf (s : State) (asid va : Nat) : Except TFault Leaf :=
  if va ≥ 2 ^ 57 then .error ⟨.unmapped, 0xFF, 0, 0⟩
  else
    let a := s.ctl.atb.toNat / 2 ^ 19 * 2 ^ 19 % 2 ^ 52 + 8 * asid
    let e := BitVec.ofNat 64 (s.physNat a 8)
    if s.spoilt [(a, 8)] then .error ⟨.lost, 5, e, a⟩
    else if !entBit e 0 then .error ⟨.unmapped, 5, e, a⟩
    else s.leafFrom va 4 (entFrame e)

/-! ## The device's own accesses -/

/-- The body of a class 7 record (R403). -/
def tBody (asid va : Nat) (acc : AccK) (f : TFault) (noFrame : Bool) : List Byte :=
  toBytes 8 va ++ toBytes 8 f.ent.toNat ++ toBytes 2 asid ++ [acc.code, BitVec.ofNat 8 f.level,
    BitVec.ofNat 8 f.kind.code, if noFrame then 1 else 0] ++ zeros 10

/-- The bedrock unit of a massif. -/
def bedrock (massif : Nat) : CacheUnit := .bedrock (BitVec.ofNat 2 massif)

/-- Why the device could not read or write a range for itself. -/
structure DevFault where
  va : Nat
  f : TFault
  deriving DecidableEq, Repr

/-- Where words of 8 bytes at virtual addresses lie, for the device to write them. -/
def devPlace (u : CacheUnit) (asid : Nat) : Nat → Nat → State → State × Except DevFault (List Nat)
  | 0, _, s => (s, .ok [])
  | n + 1, va, s =>
    match translate (s.holdFor asid va) u asid va ⟨.write, false, none⟩ with
    | (s, .error f) => (s, .error ⟨va, f⟩)
    | (s, .ok (pa, _)) =>
      match devPlace u asid n (va + 8) s with
      | (s, .error e) => (s, .error e)
      | (s, .ok l) => (s, .ok (pa :: l))

/-- Write bytes for the device, all or none. -/
def devWrite (s : State) (u : CacheUnit) (asid va : Nat) (bytes : List Byte) : State × Option DevFault :=
  match devPlace u asid ((bytes.length + 7) / 8) va s with
  | (s, .error e) => (s, some e)
  | (s, .ok pas) =>
    ((pas.zip (upTo pas.length)).foldl (fun s x => s.physWrite .fabric x.1 ((bytes.drop (8 * x.2)).take 8)) s, none)

end Sys2Proof.Machine
end

