-- ==== Sys2Proof/Machine/Operands.lean ====
section
/-! DEFINITION. One agent as its instruction sees it, and every operand form (R33, R34, R54, R143, R160 to R166):
queues, registers, predicates, stream ports and the special operands, read as they stand before the firing. -/

namespace Sys2Proof.Machine

open Sys2Proof

/-! ## The view of the executing agent -/

/-- A fault as a meaning raises it: class and detail (R401), the body of R403, and for a not-present fault what the
pager is told (R274). -/
structure Flt where
  cls : Nat
  detail : W64
  body : List Byte
  page : Option PageAsk
  deriving DecidableEq, Repr

/-- A fault whose record has no body. -/
def flt (cls : Nat) (detail : W64) : Flt := ⟨cls, detail, [], none⟩

/-- A resource overrun with its subcode and value (R401). -/
def overrun (sub : Nat) (v : W64) : Flt := flt 2 (BitVec.ofNat 64 (sub % 256 * 2 ^ 56 + v.toNat % 2 ^ 56))

/-- The executing agent: the machine around it, its spur, its brick and context (blank for a thread), its thread, and
what its instruction has done so far. `cx0` is the context before the firing. -/
structure Ex where
  s : State
  sp : Spur
  who : AgentId
  slot : BitVec 4
  bank : BitVec 2
  c : Bool
  arm : Bool
  g : BGuard
  br : Brick
  cx0 : Ctx
  cx : Ctx
  th : Thread
  fault : Option Flt
  wait : Bool
  npc : Option W64
  deriving DecidableEq, Repr

/-- The brick form or the sequencer form is executing. -/
def Ex.isB (x : Ex) : Bool :=
  match x.who with
  | .ctx _ => true
  | .thread _ => false

/-- The width of values (R143). -/
def Ex.w (x : Ex) : Nat := if x.isB then 32 else 64

/-- Raise a fault; the first one stands. -/
def Ex.raise (x : Ex) (f : Flt) : Ex := if x.fault.isSome then x else { x with fault := some f }

/-- Wait: the firing or instruction has no effect and is tried again (R235). -/
def Ex.stall (x : Ex) : Ex := { x with wait := true }

/-- Whether the instruction still goes on. -/
def Ex.ok (x : Ex) : Bool := x.fault.isNone && !x.wait

/-- The agent is a user agent (R270). -/
def Ex.user (x : Ex) : Bool := if x.isB then !x.sp.ctxSys else !x.th.sysMode

/-- System software: a thread in system mode, or a brick context of a system image (R316). -/
def Ex.sys (x : Ex) : Bool := !x.user

/-! ## Formats in ports and tokens (R42) -/

/-- Elements per token of a format code. -/
def perTok (f : Nat) : Nat :=
  match f with
  | 3 | 4 | 9 | 11 => 2
  | 5 | 6 | 7 | 12 => 4
  | 8 => 8
  | _ => 1

/-- Bits of one element. -/
def elBits (f : Nat) : Nat := 32 / perTok f

/-- Element `j` of a token's payload. -/
def elAt (f : Nat) (w j : Nat) : Nat := w / 2 ^ (elBits f * j) % 2 ^ elBits f

/-- Elements packed into one payload, element 0 lowest, unused positions zero. -/
def packEls (f : Nat) : List Nat → Nat
  | [] => 0
  | e :: r => e % 2 ^ elBits f + 2 ^ elBits f * packEls f r

/-- Replace element `j` of a payload. -/
def putEl (f : Nat) (w j v : Nat) : Nat := w - elAt f w j * 2 ^ (elBits f * j) + v % 2 ^ elBits f * 2 ^ (elBits f * j)

/-! ## The bank -/

/-- The agent holds an uncommitted store of the round (R241). -/
def Ex.markStored (x : Ex) : Ex :=
  if x.isB then { x with cx := { x.cx with stored := true } } else { x with th := { x.th with stored := true } }

/-- The bytes of a bank write as a held write made in place (R397). -/
def Ex.bankStore (x : Ex) (row col : BitVec 8) (off : Nat) (bytes : List Byte) : Ex :=
  let h : Held := ⟨x.who, .store, 0, 0, some (row, col), off, bytes, x.sys⟩
  let mark (k : Brick) : Brick := { k with bank := writeBytes k.bank off bytes }
  let x := x.markStored
  let x := { x with sp := x.sp.modLive fun b => { b with held := b.held ++ [h] } }
  if x.isB && x.br.row == row && x.br.col == col then { x with br := mark x.br }
  else { x with sp := x.sp.modLive fun b => { b with bricks := updFirst (fun k => k.row == row && k.col == col) mark b.bricks } }

/-- The brick of the spur at a row and column, as the executing agent sees it. -/
def Ex.brickAt (x : Ex) (row col : BitVec 8) : Option Brick :=
  if x.isB && x.br.row == row && x.br.col == col then some x.br else x.sp.live.brick? row col

/-! ## Stream ports (R160, R161) -/

/-- The index of a port. -/
def Port.idx : Port → Nat
  | .sa => 0 | .sb => 1 | .sw => 2

/-- An unopened descriptor (R160). -/
def Desc.none : Desc := ⟨0, 0, 0, 0, 0⟩

/-- An idle scoreboard. -/
def Board.idle : Board := ⟨[], .none, []⟩

/-- The descriptor attached to a port. -/
def Ctx.descOf (k : Ctx) (p : Nat) : Option (Nat × Desc) :=
  match nth k.att p none with
  | some n => some (n.toNat, nth k.sd n.toNat Desc.none)
  | none => none

/-- The pattern a port consumes or fills: the oldest one with words left to consume, else the active one. -/
def Ctx.patOf (k : Ctx) (p : Nat) : Option Pattern :=
  let b := nth k.board p Board.idle
  match b.old with
  | q :: _ => some q
  | [] => b.active

/-- Rows of a pattern (R100). -/
def Pattern.rows (q : Pattern) : Nat := q.c1 * q.c2

/-- Words of a row (R100). -/
def Pattern.rowWords (q : Pattern) : Nat := (q.c0 + perTok q.fmt.toNat - 1) / perTok q.fmt.toNat

/-- The format a port carries (R168). -/
def Ctx.portFmt (k : Ctx) (p : Nat) : Option Nat :=
  match k.descOf p with
  | some (_, d) => some d.fmt.toNat
  | none => (k.patOf p).map (·.fmt.toNat)

/-- The remaining count of a port (R161). -/
def Ctx.remaining (k : Ctx) (p : Nat) : Nat :=
  match k.descOf p with
  | some (_, d) => d.count - d.pos
  | none =>
    match k.patOf p with
    | some q => if q.row < q.rows then q.c0 - q.el else 0
    | none => 0

/-- A read port has the words of its next `n` elements (R166). -/
def Ctx.delivered (k : Ctx) (p n : Nat) : Bool :=
  match k.descOf p with
  | some _ => true
  | none =>
    match k.patOf p with
    | some q => decide ((q.el % perTok q.fmt.toNat + n + perTok q.fmt.toNat - 1) / perTok q.fmt.toNat ≤ q.buf.length)
    | none => false

/-- A write port has room for the words of its next `n` elements (R166). -/
def Ctx.roomSw (k : Ctx) (n : Nat) : Bool :=
  match k.descOf 2 with
  | some _ => true
  | none =>
    match k.patOf 2 with
    | some q => decide (q.buf.length + (n + perTok q.fmt.toNat - 1) / perTok q.fmt.toNat ≤ Config.streamPort)
    | none => false

/-- Byte address of the word of element `e` of a descriptor (R160). -/
def Desc.addr (d : Desc) (e : Nat) : Nat :=
  ((d.base.toNat : Int) + 4 * d.stride.toInt * ((e / perTok d.fmt.toNat : Nat) : Int)).emod 65536 |>.toNat

/-- Where row (i1, i2) of a pattern starts (R100). -/
def Pattern.rowAt (q : Pattern) (i1 i2 : Nat) : Int := (q.base.toNat : Int) + q.s1 * i1 + q.s2 * i2

/-- Every row of a pattern starts where a test admits it; equal strides of zero repeat one row. -/
def Pattern.rowsOk (q : Pattern) (p : Int → Bool) : Bool :=
  (upTo (if q.s2 = 0 then 1 else q.c2)).all fun i2 => (upTo (if q.s1 = 0 then 1 else q.c1)).all fun i1 => p (q.rowAt i1 i2)

/-- The bricks whose bytes a row of a pattern from address `t` on touches, each with the end of the row in its bank. -/
def Pattern.rowBanks (q : Pattern) (t : Int) : List (Nat × Nat) :=
  let lo := t.toNat
  let hi := lo + 4 * q.rowWords
  (upTo ((hi - 1) / 65536 + 1 - lo / 65536)).map fun j => (lo / 65536 + j, min (hi - 65536 * (lo / 65536 + j)) 65536)

/-- The address of word `j` of a pattern, counted over its rows (R100). -/
def Pattern.wordAt (q : Pattern) (j : Nat) : Int :=
  let r := j / q.rowWords
  q.rowAt (r % q.c1) (r / q.c1) + 4 * (j % q.rowWords : Nat)

/-- The words of a pattern. -/
def Pattern.words (q : Pattern) : Nat := q.rows * q.rowWords

/-- Word `j` after the pattern's position: of the port's buffer, or of the own bank as it stands (R227). -/
def Pattern.wordNow (q : Pattern) (bank : List Host.Cell) (j : Nat) : Nat :=
  if q.space = 2 then readNat bank ((q.wordAt (q.row * q.rowWords + q.el / perTok q.fmt.toNat + j)).emod 65536).toNat 4
  else (nth q.buf j 0).toNat

/-- The next `n` elements of a read port, as they stand before the firing (R162, R165). -/
def Ctx.elems (k : Ctx) (br : Brick) (p n : Nat) : List Nat :=
  match k.descOf p with
  | some (_, d) => (upTo n).map fun j =>
      let e := d.pos + j
      elAt d.fmt.toNat (readNat br.bank (d.addr e) 4) (e % perTok d.fmt.toNat)
  | none =>
    match k.patOf p with
    | some q => (upTo n).map fun j =>
        let e := q.el % perTok q.fmt.toNat + j
        elAt q.fmt.toNat (q.wordNow br.bank (e / perTok q.fmt.toNat)) (e % perTok q.fmt.toNat)
    | none => []

/-- The elements of the next token of a port (R165). -/
def Ctx.tokLen (k : Ctx) (p : Nat) : Nat := min (perTok ((k.portFmt p).getD 0)) (k.remaining p)

/-- A pattern advanced by `n` elements within its row; words wholly consumed leave a read pattern's buffer. -/
def Pattern.advance (q : Pattern) (n : Nat) : Pattern :=
  let e := q.el + n
  let drop := if q.write then 0
    else if e ≥ q.c0 then q.rowWords - q.el / perTok q.fmt.toNat
    else e / perTok q.fmt.toNat - q.el / perTok q.fmt.toNat
  { q with el := if e ≥ q.c0 then 0 else e, row := if e ≥ q.c0 then q.row + 1 else q.row, buf := q.buf.drop drop }

/-- Change the pattern a port consumes or fills; a read pattern delivered and consumed whole leaves the port. -/
def Ctx.modPat (k : Ctx) (p : Nat) (f : Pattern → Pattern) : Ctx :=
  { k with board := upd k.board p fun b =>
      match b.old with
      | q :: r => let q := f q; { b with old := if q.row ≥ q.rows then r else q :: r }
      | [] => { b with active := b.active.map f } }

/-- Advance a port by `n` elements (R165). -/
def Ctx.advance (k : Ctx) (p n : Nat) : Ctx :=
  match k.descOf p with
  | some (i, _) => { k with sd := upd k.sd i fun d => { d with pos := d.pos + n } }
  | none => k.modPat p fun q => q.advance n

/-- Put elements into the words a write pattern holds. -/
def putWords (f : Nat) : List W32 → Nat → List Nat → List W32
  | buf, _, [] => buf
  | buf, e, v :: r =>
    if e % perTok f = 0 then putWords f (buf ++ [BitVec.ofNat 32 (v % 2 ^ elBits f)]) (e + 1) r
    else putWords f (buf.dropLast ++ [BitVec.ofNat 32 (putEl f (buf.getLastD 0).toNat (e % perTok f) v)]) (e + 1) r

/-- Write elements through a descriptor, one bank word at a time (R162). -/
def Ex.descWrite (d : Desc) : Ex → Nat → List Nat → Ex
  | x, _, [] => x
  | x, e, v :: r =>
    let a := d.addr e
    let w := putEl d.fmt.toNat (readNat x.br.bank a 4) (e % perTok d.fmt.toNat) v
    Ex.descWrite d (x.bankStore x.br.row x.br.col a (toBytes 4 w)) (e + 1) r

/-- The bank offset of the word that holds element `e` of a pattern's row in the own bank (R100). -/
def Pattern.bankWord (q : Pattern) (e : Nat) : Nat :=
  ((q.wordAt (q.row * q.rowWords + e / perTok q.fmt.toNat)).emod 65536).toNat

/-- Write elements of a row of a pattern in the own bank, each at its own bits of its word (R162, R227); the last element
of a row leaves the rest of its word zero (R100). -/
def Ex.patWrite (q : Pattern) : Ex → Nat → List Nat → Ex
  | x, _, [] => x
  | x, e, v :: r =>
    let a := q.bankWord e
    let j := e % perTok q.fmt.toNat
    let w := putEl q.fmt.toNat (readNat x.br.bank a 4) j v
    let w := if e + 1 = q.c0 then w % 2 ^ (elBits q.fmt.toNat * (j + 1)) else w
    Ex.patWrite q (x.bankStore x.br.row x.br.col a (toBytes 4 w)) (e + 1) r

/-- Write elements to `sw` and advance it (R165): through its descriptor, at their places of a pattern in the own bank, or
into the words that another pattern gathers. -/
def Ex.putSw (x : Ex) (vs : List Nat) : Ex :=
  match x.cx.descOf 2, x.cx.patOf 2 with
  | some (_, d), _ =>
    let x := Ex.descWrite d x d.pos vs
    { x with cx := x.cx.advance 2 vs.length }
  | none, some q =>
    if q.space = 2 then
      let x := Ex.patWrite q x q.el vs
      { x with cx := x.cx.advance 2 vs.length }
    else { x with cx := (x.cx.modPat 2 fun q => { q with buf := putWords q.fmt.toNat q.buf q.el vs }).advance 2 vs.length }
  | none, none => x

/-! ## Queues -/

/-- The input queue `n` of a context. -/
def Ctx.inQ (k : Ctx) (n : BitVec 3) : InQ := nth k.iq n.toNat InQ.empty

/-- One arm of an input queue. -/
def InQ.side (q : InQ) (a : Bool) : List InEnt := if a then q.arm1 else q.arm0

/-- Put one arm of an input queue. -/
def InQ.setSide (q : InQ) (a : Bool) (l : List InEnt) : InQ := if a then { q with arm1 := l } else { q with arm0 := l }

/-- The arm that serves queue `n`: the chosen arm for the guard's IA, else the only one. -/
def Ex.armOf (x : Ex) (n : BitVec 3) : Bool := x.g.iae && x.g.ia == n && x.arm

/-- The head token of queue `n` before the firing, and its header (R34, R55). -/
def Ex.head (x : Ex) (n : BitVec 3) : Option (Tok × W64 × Nat) := headTok ((x.cx0.inQ n).side (x.armOf n))

/-- Dequeue one arm of a queue; its binding's scale register takes the token's scale byte (R55). -/
def Ctx.deq (k : Ctx) (br : Brick) (n : BitVec 3) (a : Bool) : Ctx :=
  match (k.inQ n).side a with
  | .tok _ h _ :: r =>
    let k := { k with iq := upd k.iq n.toNat fun q => q.setSide a r }
    match (br.bindsOf k.idx n).find? (fun b => !paired br k.idx n || bindAr b == a) with
    | some b => { k with scl := k.scl.set (bindSc b) (h.extractLsb' 56 8) }
    | none => k
  | _ => k

/-- Dequeue the control token of queue `n`. -/
def Ctx.deqK (k : Ctx) (n : Nat) : Ctx :=
  { k with kq := upd k.kq n fun l => match l with | .bit _ :: r => r | l => l }

/-- Output queue `n`. -/
def Ctx.outQ (k : Ctx) (n : BitVec 3) : List OutEnt := nth k.oq n.toNat []

/-- Append a flit to output queue `n`, unless the context has emitted a seam on it (R69). -/
def Ex.pushOut (x : Ex) (n : BitVec 3) (f : Flit) (a : Arm) : Ex :=
  if x.cx.seamed.getLsbD n.toNat then x.raise (flt 5 (BitVec.ofNat 64 n.toNat))
  else { x with cx := { x.cx with oq := upd x.cx.oq n.toNat (· ++ [⟨f, a⟩]) } }

/-- The tag of an output token: the override where it is on, else the firing's bank (R64). -/
def Ex.outTag (x : Ex) (n : BitVec 3) : BitVec 2 :=
  match nth x.cx0.ovr n.toNat none with
  | some t => t
  | none => x.bank

/-- Append a token to output queue `n`. -/
def Ex.pushTok (x : Ex) (n : BitVec 3) (stop : Bool) (pay : W32) (a : Arm) : Ex :=
  x.pushOut n (.tok ⟨stop, x.outTag n, pay⟩) a

/-- Append a bit to control output `n`; its seam flag is bit 8 + n, as its seam fault's detail is (R69). -/
def Ex.pushK (x : Ex) (n : Nat) (b : Bool) : Ex :=
  if x.cx.seamed.getLsbD (8 + n) then x.raise (flt 5 (BitVec.ofNat 64 (8 + n)))
  else { x with cx := { x.cx with jq := upd x.cx.jq n (· ++ [.bit b]) } }

/-! ## Reading operands -/

/-- Cycles since the start barrier opened (R54, R91). -/
def Spur.cycles (sp : Spur) (now : Nat) : Nat := now - sp.openedAt

/-- A sequencer register; `g0` reads zero (R33). -/
def Thread.reg (t : Thread) (n : BitVec 5) : W64 := if n = 0 then 0 else nth t.g n.toNat 0

/-- Write a sequencer register; `g0` ignores writes (R33). -/
def Thread.setReg (t : Thread) (n : BitVec 5) (v : W64) : Thread := if n = 0 then t else { t with g := t.g.set n.toNat v }

/-- The stop flag and payload of an operand that may name a token (R76). -/
def Ex.stopOf (x : Ex) : Opnd → Bool
  | .i n | .iDeq n => (match x.head n with | some (t, _, _) => t.stop | none => false)
  | _ => false

/-- Read a source operand as a pattern; a brick's values are 32 bits, zero-extended here (R33, R54, R143). -/
def Ex.get (x : Ex) : Opnd → W64
  | .d n => (x.cx0.reg x.bank n).zeroExtend 64
  | .i n | .iDeq n => (match x.head n with | some (t, _, _) => t.pay.zeroExtend 64 | none => 0)
  | .q n => BitVec.ofNat 64 ((x.cx0.predSet x.bank).getLsbD n.toNat).toNat
  | .sa => BitVec.ofNat 64 (packEls ((x.cx0.portFmt 0).getD 0) (x.cx0.elems x.br 0 (x.cx0.tokLen 0)))
  | .sb => BitVec.ofNat 64 (packEls ((x.cx0.portFmt 1).getD 0) (x.cx0.elems x.br 1 (x.cx0.tokLen 1)))
  | .z => 0
  | .tg => (match x.head x.g.ia with | some (t, _, _) => t.tag.zeroExtend 64 | none => 0)
  | .bk => x.bank.zeroExtend 64
  | .rw => x.br.row.zeroExtend 64
  | .cl => x.br.col.zeroExtend 64
  | .hdr => (match x.head x.g.ia with | some (_, h, _) => (h.extractLsb' 0 32).zeroExtend 64 | none => 0)
  | .scl => (match x.head x.g.ia with | some (_, h, _) => (h.extractLsb' 56 8).zeroExtend 64 | none => 0)
  | .rnd => (x.sp.rnd.extractLsb' 0 32).zeroExtend 64
  | .cyc => BitVec.ofNat 64 (x.sp.cycles x.s.now % 2 ^ 32)
  | .g n => x.th.reg n
  | .f n => BitVec.ofNat 64 (x.th.f.getLsbD n.toNat).toNat
  | .pc => x.th.pc
  | .rid => BitVec.ofNat 64 x.sp.home
  | .dom => BitVec.ofNat 64 x.sp.dom
  | .o _ | .sw | .e _ => 0

/-- A source as a number below 2^32 or 2^64. -/
def Ex.nat (x : Ex) (o : Opnd) : Nat := (x.get o).toNat

/-! ## Writing operands -/

/-- Write predicate `n` of the firing's bank, or of the thread. -/
def Ex.putPred (x : Ex) (n : BitVec 3) (v : Bool) : Ex :=
  if x.isB then { x with cx := x.cx.setPreds x.bank (putBit8 (x.cx.predSet x.bank) n v) }
  else { x with th := { x.th with f := putBit8 x.th.f n v } }

/-- Write a result with a stop flag, to any destination (R33, R76, R143). -/
def Ex.putT (x : Ex) (o : Opnd) (stop : Bool) (v : W64) : Ex :=
  if !x.ok then x
  else
    match o with
    | .d n => { x with cx := x.cx.setReg x.bank n (v.extractLsb' 0 32) }
    | .q n => x.putPred n (v.getLsbD 0)
    | .o n => x.pushTok n stop (v.extractLsb' 0 32) .a0
    | .sw =>
      let f := (x.cx.portFmt 2).getD 0
      x.putSw ((upTo (x.cx.tokLen 2)).map fun j => elAt f (v.toNat % 2 ^ 32) j)
    | .g n => { x with th := x.th.setReg n v }
    | .f n => x.putPred n (v.getLsbD 0)
    | _ => x

/-- Write a result (R143). -/
def Ex.put (x : Ex) (o : Opnd) (v : W64) : Ex := x.putT o false v

/-! ## The end of an instruction -/

/-- Dequeue the queues that operands name with the dequeue code, each once (R34, R64); a paired queue is dequeued by
its merge alone. -/
def Ex.deqs (x : Ex) (l : List Opnd) : Ex :=
  { x with cx := (dedup (l.filterMap fun o => match o with | .iDeq n => some n | _ => none)).foldl (fun k n =>
      if paired x.br k.idx n then k else k.deq x.br n false) x.cx }

/-- Advance the ports that scalar operands name, each by one token (R165). -/
def Ex.ports (x : Ex) (l : List Opnd) : Ex :=
  let step (k : Ctx) (o : Opnd) (p : Nat) : Ctx := if l.contains o then k.advance p (x.cx0.tokLen p) else k
  { x with cx := step (step x.cx .sa 0) .sb 1 }

/-! ## Status and flags -/

/-- OR sticky flags into the agent's status: bits 0 to 7 of `cst` or `sst` (R52, R90, R126). -/
def Ex.flags (x : Ex) (fl : BitVec 8) : Ex :=
  if x.isB then { x with cx := { x.cx with cst := x.cx.cst ||| fl.zeroExtend 32 } }
  else { x with th := { x.th with sst := x.th.sst ||| fl.zeroExtend 64 } }

/-- The status word of the agent. -/
def Ex.status (x : Ex) : Nat := if x.isB then x.cx.cst.toNat else x.th.sst.toNat

/-- The first word of the sequencer code (R312). -/
def Spur.seqBase (sp : Spur) : Nat := sp.img.addr.toNat + sp.img.seqOff

/-- The node-table entry of the executing word (R404); a word outside the image's sequencer code has none. -/
def Ex.nodeEnt (x : Ex) : Option NodeEnt :=
  if x.isB then x.cx0.nodeEnt x.slot.toNat
  else
    let n := (x.th.pc.toNat - x.sp.seqBase) / 8
    if x.sp.seqBase ≤ x.th.pc.toNat ∧ n < x.sp.img.seq.length then seqNodeEnt x.sp.img.nodes n else none

/-- The node of the executing word (R404). -/
def Ex.node (x : Ex) : W32 := match x.nodeEnt with | some e => e.node | none => 0xFFFFFFFF

/-- The loop indices of the executing word, in the firing's bank, as they stood before it (R404). -/
def Ex.loops (x : Ex) : List W32 :=
  match x.nodeEnt with
  | none => []
  | some e => e.loops.map fun c =>
      if x.isB then x.cx0.reg x.bank (c.extractLsb' 0 4) else (x.th.reg (c.extractLsb' 0 5)).extractLsb' 0 32

/-- Draw one RSN counter value (R121): the view after it, and the value. -/
def Ex.drawN (x : Ex) : Ex × W32 :=
  if x.isB then
    let i := 4 * x.slot.toNat + x.bank.toNat
    let v := nth x.cx.rsn i 0
    ({ x with cx := { x.cx with rsn := x.cx.rsn.set i (v + 1) } }, v)
  else ({ x with th := { x.th with rsn := x.th.rsn + 1 } }, x.th.rsn)

end Sys2Proof.Machine
end

