-- ==== Sys2Proof/Machine/Records.lean ====
section
/-! DEFINITION. Records and where they go: fault records, notices, completions (R108, R322, R336, R382, R402, R403,
R443), and the building of an agent's view. -/

namespace Sys2Proof.Machine

open Sys2Proof

/-! ## Entering and leaving the view -/

/-- A context entry that holds nothing (R50). -/
def Ctx.blank (row col : BitVec 8) (i : BitVec 3) : Ctx where
  row := row
  col := col
  idx := i
  conf := false
  sv := 0
  off := 0
  slots := List.replicate 16 0
  nodes := []
  regs := List.replicate 64 0
  preds := List.replicate 4 0
  iq := List.replicate 8 InQ.empty
  kq := List.replicate 4 []
  oq := List.replicate 8 []
  jq := List.replicate 4 []
  obind := List.replicate 12 0
  grout := List.replicate 16 0
  scl := List.replicate 4 0
  ovr := List.replicate 8 none
  pass := List.replicate 16 0
  passWas := List.replicate 16 0
  cst := 0
  bfc := 0
  bsq := 0
  mdc := 0
  win := List.replicate 4 0
  sd := List.replicate 4 Desc.none
  att := List.replicate 3 none
  board := List.replicate 3 Board.idle
  lm := List.replicate 4 0
  rsn := List.replicate 64 0
  tcount := 0
  seamed := 0
  recon := none
  wait := none
  load := none
  defer := none
  kept := 0
  barred := 0
  stored := false
  atomAt := []
  stagedCst := []

/-- An operand slot that holds nothing (R181). -/
def Slot.blank : Slot := ⟨none, .empty, false, false, none, [], [], 0, 0xFFFFFFFF⟩

/-- An accumulator that holds nothing (R181). -/
def Acc.blank : Acc := ⟨none, .empty, .empty, [], none⟩

/-- A brick as a grant gives it. -/
def Brick.blank (row col : BitVec 8) : Brick where
  row := row
  col := col
  active := 0
  bank := []
  full := []
  vc := List.replicate 32 0
  staged := []
  dig := List.replicate 32 0
  slots := List.replicate 4 Slot.blank
  accs := List.replicate 3 Acc.blank
  passSlots := []
  passAccs := []

/-- A guard that asks for nothing. -/
def BGuard.always : BGuard := ⟨0, 0, false, 0, false, 0, false, 0, 0, false, false⟩

/-- The instruction in a slot of a context (R50). -/
def Ctx.instr? (k : Ctx) (n : Nat) : Option Instr :=
  match decode .brick (nth k.slots n 0) with
  | .ok i => some i
  | .error _ => none

/-- The arm of a paired queue that arrived first; arm 0 on a tie (R75). -/
def firstArm (q : InQ) : Bool :=
  match headTok q.arm0, headTok q.arm1 with
  | some (_, _, a), some (_, _, b) => decide (b < a)
  | none, some _ => true
  | _, none => false

/-- The control bit at the head of the guard's control queue (R64). -/
def ctlBit (k : Ctx) (g : BGuard) : Bool :=
  if g.ck then (match nth k.kq g.ib.toNat [] with | .bit b :: _ => b | _ => false) else false

/-- The arm that serves the guard's IA (R75). -/
def guardArm (i : Instr) (k : Ctx) (g : BGuard) : Bool :=
  match i with
  | .merge .. => ctlBit k g
  | .mergeAny .. => firstArm (k.inQ g.ia)
  | _ => false

/-- The bank of a firing (R37). -/
def guardBank (k : Ctx) (g : BGuard) (arm : Bool) : BitVec 2 :=
  if g.iae then (match headTok ((k.inQ g.ia).side arm) with | some (t, _, _) => t.tag | none => 0) else g.tg

/-- The view of a firing. -/
def enterB (s : State) (c : CtxAt) (slot : BitVec 4) (i : Instr) (g : BGuard) : Option Ex :=
  match s.spur? c.h with
  | none => none
  | some sp =>
    match sp.live.brick? c.row c.col, sp.live.ctx? c.row c.col c.ctx with
    | some br, some k =>
      let arm := guardArm i k g
      some ⟨s, sp, .ctx c, slot, guardBank k g arm, ctlBit k g, arm, g, br, k, k, sp.live.th, none, false, none⟩
    | _, _ => none

/-- The view of a thread's instruction. -/
def enterS (s : State) (h : Handle) : Option Ex :=
  match s.spur? h with
  | none => none
  | some sp =>
    some ⟨s, sp, .thread h, 0, 0, false, false, BGuard.always, Brick.blank 0 0, Ctx.blank 0 0 0, Ctx.blank 0 0 0,
      sp.live.th, none, false, none⟩

/-- Put the view's parts back into the machine. -/
def Ex.back (x : Ex) : State :=
  let live := if x.isB then (x.sp.live.setBrick x.br).setCtx x.cx else x.sp.live
  x.s.setSpur { x.sp with live := { live with th := x.th } }

/-- The end of a firing with sources `l`: ports advance and queues are dequeued (R64, R165). -/
def Ex.finish (x : Ex) (l : List Opnd) : Ex :=
  if !x.isB then x
  else
    let x := (x.ports l).deqs l
    if x.g.ck then { x with cx := x.cx.deqK x.g.ib.toNat } else x

/-! ## Records -/

/-- Loop indices filled to four (R402). -/
def loops4 (l : List W32) : List Byte := (upTo 4).flatMap fun n => toBytes 4 (nth l n 0).toNat

/-- A fault record or notice (R402). -/
def record (kind cls : Nat) (detail : W64) (h : Handle) (dom : Nat) (node : W32) (ctx slot : BitVec 8) (rounds : Nat)
    (loops : List W32) (body : List Byte) : List Byte :=
  let k := (48 + body.length + 15) / 16
  toBytes 8 detail.toNat ++ toBytes 4 h.toNat ++ toBytes 2 dom ++ [BitVec.ofNat 8 kind, BitVec.ofNat 8 cls] ++
    toBytes 4 node.toNat ++ [ctx, slot] ++ toBytes 2 k ++ toBytes 8 rounds ++ loops4 loops ++ padTo (16 * k - 48) body

/-- The record of a cause of a spur (R402, R403). -/
def Spur.record (sp : Spur) (c : Cause) : List Byte :=
  Machine.record 3 c.cls c.detail sp.handle sp.dom c.node c.ctx c.slot sp.rnd.toNat c.loops c.body

/-- Queue a record for a domain queue (R382). -/
def State.post (s : State) (d q : Nat) (bytes : List Byte) : State := { s with recq := s.recq ++ [⟨d, q, bytes⟩] }

/-- The handler queue of a domain, its own or its nearest ancestor's (R336). -/
def State.handlerQ (s : State) (d : Nat) : Option (Nat × Nat) :=
  (s.chain d).findSome? fun x => (s.dom? x).bind fun y => y.hq.map fun q => (x, q)

/-- The handler queue of the nearest enclosing composite that names one (R336); `fuel` bounds the nesting. -/
def compHandler (s : State) : Nat → Target → Option (Nat × Nat)
  | 0, _ => none
  | n + 1, .member i _ =>
    match s.comps.find? fun c => c.handle == i with
    | some c => (match c.hq with | some q => some (c.dom, q) | none => compHandler s n c.target)
    | none => none
  | _ + 1, _ => none

/-- Send a record to a handler queue, or to the keystone core's log where none is named (R336, R406). -/
def State.postHandler (s : State) (q : Option (Nat × Nat)) (bytes : List Byte) : State :=
  match q with
  | some (d, q) => s.post d q bytes
  | none => { s with klog := s.klog ++ [bytes] }

/-- A device notice (R443). -/
def noticeBytes (d cause detail : Nat) (h : Handle) (body : List Byte) : List Byte :=
  record 5 0 (BitVec.ofNat 64 (cause * 2 ^ 56 + detail % 2 ^ 56)) h d 0xFFFFFFFF 0xFF 0xFF 0 [] (padTo 16 body)

/-- A device notice to a domain's handler, or to domain 0's where the domain is invalid (R387, R443). -/
def State.notice (s : State) (d cause detail : Nat) (h : Handle) (body : List Byte) : State :=
  s.postHandler (s.handlerQ (if (s.dom? d).isSome then d else 0)) (noticeBytes d cause detail h body)

/-- A 16-byte record of R108 and R322. -/
def record16 (v : W64) (h : Handle) (dom kind status : Nat) : List Byte :=
  toBytes 8 v.toNat ++ toBytes 4 h.toNat ++ toBytes 2 dom ++ [BitVec.ofNat 8 kind, BitVec.ofNat 8 status]

/-- A launch that no `waitc` collects is outstanding no more (R317). -/
def State.notOut (s : State) (h : Handle) : State :=
  { s with spurs := s.spurs.map fun x => { x with launches := x.launches.erase h } }

/-- The claim of a stowed spur that waited for barrier `n`, which is complete, is made: it arrives now (R327, R351). -/
def State.makeClaim (s : State) (p : Handle) (n : Nat) : State :=
  let waits (c : Claim) : Bool := c.st == .held && c.kind == .resume p &&
    (match s.spur? p with
      | some sp => sp.stowWait == some n && (match sp.bars[n]? with | some b => b.st == .complete | none => true)
      | none => false)
  if s.claims.any waits then
    { s with claims := updFirst waits (fun c => { c with st := .pending, no := s.nextClaim, since := s.now }) s.claims,
             nextClaim := s.nextClaim + 1 }
  else s

/-- A launch completes: its record is queued, its caller's barrier or its composite told (R321, R322, R335). -/
def State.complete (s : State) (t : Target) (h : Handle) (dom status : Nat) (result : W64) : State :=
  match t with
  | .none => s.notOut h
  | .queue d q => (s.notOut h).post d q (record16 result h dom 1 status)
  | .notice d q => s.notice d 2 q 0 (record16 result h dom 1 status)
  | .barrier p n => (s.modSpur p fun sp =>
      { sp with bars := upd sp.bars n fun b =>
          if b.st == .armed && b.h == h then { b with st := .complete, status := BitVec.ofNat 8 status, result := result }
          else b }).makeClaim p n
  | .member i n => { s with comps := updFirst (fun c => c.handle == i) (fun c =>
      { c with members := upd c.members n fun m =>
          { m with ended := status != 1, status := BitVec.ofNat 8 status, result := result } }) s.comps }

/-! ## Causes -/

/-- The cause of a fault of the executing agent (R401, R402). -/
def Ex.cause (x : Ex) (f : Flt) : Cause :=
  { cls := f.cls, detail := f.detail, node := x.node,
    ctx := if x.isB then x.cx0.idx.zeroExtend 8 else 0xFF, slot := if x.isB then x.slot.zeroExtend 8 else 0xFF,
    loops := x.loops, body := f.body, row := x.cx0.row, col := x.cx0.col, page := f.page }

/-- Loop indices compared in order. -/
def loopsLt : List W32 → List W32 → Option Bool
  | a :: r, b :: t => if a < b then some true else if b < a then some false else loopsLt r t
  | [], _ :: _ => some true
  | _ :: _, [] => some false
  | [], [] => none

/-- The cause a record names comes first: lowest node, loop indices, context and slot (R405). -/
def Cause.before (a b : Cause) : Bool :=
  if a.node < b.node then true
  else if b.node < a.node then false
  else
    match loopsLt a.loops b.loops with
    | some x => x
    | none => decide (a.ctx < b.ctx) || (a.ctx == b.ctx && decide (a.slot < b.slot))

/-- The cause a voided round's record names (R405). -/
def firstCause : List Cause → Option Cause
  | [] => none
  | c :: r =>
    match firstCause r with
    | none => some c
    | some d => if d.before c then some d else some c

end Sys2Proof.Machine
end

