-- ==== Sys2Proof/Machine/Access.lean ====
section
/-! DEFINITION. Memory accesses of an agent: translation and its faults, the vault, what its own spur's held writes
show, footprints, and held writes (R229 to R235, R251 to R254, R262, R269). -/

namespace Sys2Proof.Machine

open Sys2Proof

/-- A translation fault as its record tells it; a not-present fault goes to the pager (R269, R401, R403). -/
def transFlt (asid va : Nat) (acc : AccK) (f : TFault) : Flt :=
  ⟨7, BitVec.ofNat 64 va, tBody asid va acc f false,
    if f.kind == .notPresent then some ⟨asid, va, acc.code, f.level, f.addr⟩ else none⟩

/-- Data is lost at an address of a space (R401, R403). -/
def lostFlt (space : BitVec 8) (addr : W64) : Flt := ⟨11, addr, space :: zeros 15, none⟩

/-- A read meets a word that stays bad (R409): the value is not used, and the agent waits for its round to be voided; where
data is lost a brick faults, and a thread's round is voided with the cause. -/
def Ex.lose (x : Ex) (space : BitVec 8) (addr : W64) : Ex :=
  let f := lostFlt space addr
  if x.isB && x.sp.lostAt (errKey space addr) then x.raise f
  else { x with s := x.s.modSpur x.sp.handle fun sp => sp.badRead space addr (x.cause f) }.stall

/-- A walk for the agent ended without a translation (R269, R409). -/
def Ex.walkEnds (x : Ex) (va : Nat) (acc : AccK) (f : TFault) : Ex :=
  if f.kind == .lost then x.lose 3 (BitVec.ofNat 64 f.addr) else x.raise (transFlt x.sp.asid va acc f)

/-- Translate an access of the agent (R229, R231, R270): the view after it, and the physical address. A translation that a
migration holds waits (R280). -/
def Ex.translate (x : Ex) (va : Nat) (acc : AccK) (pres : Option Bool) : Ex × Nat :=
  if x.s.migrHolds x.sp.asid va then (x.stall, 0)
  else match Machine.translate x.s (bedrock x.sp.massif) x.sp.asid va ⟨acc, x.user, pres⟩ with
  | (s, .ok (pa, _)) => ({ x with s := s }, pa)
  | (s, .error f) => (Ex.walkEnds { x with s := s } va acc f, 0)

/-- Lay the bytes of one held write over bytes read from `pa` on. -/
def layOver (pa : Nat) (l : List Byte) (h : Held) : List Byte :=
  if h.bank.isNone && overlap pa l.length h.pa h.bytes.length then
    (l.zip (upTo l.length)).map fun (b, j) => if h.pa ≤ pa + j ∧ pa + j < h.pa + h.bytes.length then nth h.bytes (pa + j - h.pa) b else b
  else l

/-- Device control space as the agent's own spur sees it: what its held writes do to the registers (R234, R440). -/
def Ex.ctlView (x : Ex) : State :=
  x.sp.live.held.foldl (fun s h => if h.bank.isNone && isCtlSpace h.pa then s.physWrite (writerOf h.who h.sys) h.pa h.bytes else s) x.s

/-- Bytes at a physical address as the agent's own spur sees them: its held writes are visible to it at once (R234). -/
def Ex.physBytes (x : Ex) (pa n : Nat) : List Byte :=
  if isCtlSpace pa then x.ctlView.physRead pa n else x.sp.live.held.foldl (layOver pa) (x.s.physRead pa n)

/-- Bytes from a physical address on hold a word that stays bad and that no held write of the agent's spur covers (R409). -/
def Ex.badAt (x : Ex) (pa n : Nat) : Bool :=
  (upTo n).any fun j => (x.s.badWords.any fun b => decide (b ≤ pa + j) && decide (pa + j < b + 8)) &&
    !(x.sp.live.held.any fun h => h.bank.isNone && decide (h.pa ≤ pa + j) && decide (pa + j < h.pa + h.bytes.length))

/-- A read of words of which one may stay bad (R409). -/
def Ex.readGood (x : Ex) (va pa n : Nat) : Ex :=
  if !x.ok || !x.badAt pa n then x else x.lose 2 (BitVec.ofNat 64 va)

/-- Whether a presence word of memory is full for the agent's spur (R247). -/
def Ex.globalFull (x : Ex) (pa : Nat) : Bool :=
  x.sp.live.held.foldl (fun f h =>
    if h.bank.isNone && overlap pa 4 h.pa h.bytes.length then
      (match h.kind with | .stp => true | .clrp => false | .store => f)
    else f) (x.s.full.contains pa)

/-- Some other spur holds an uncommitted `stp` of this word (R247). -/
def Ex.otherFill (x : Ex) (pa : Nat) : Bool :=
  x.s.spurs.any fun o => o.handle != x.sp.handle && o.live.held.any fun h => h.bank.isNone && h.kind == .stp && h.pa == pa

/-- The ridge an agent accesses its vault from (R229). -/
def Ex.ridge (x : Ex) : Nat := if x.isB then x.sp.ridge x.br.row.toNat x.br.col.toNat else x.sp.home

/-- The brick of the spur that a vault address names, on the accessing ridge (R232). -/
def Ex.vaultBrick (x : Ex) (b : Nat) : Option (BitVec 8 × BitVec 8) :=
  ((cells x.sp.img.hd.ht x.sp.img.hd.wd).find? fun rc => x.sp.brickNo rc.1 rc.2 == 256 * x.ridge + b).map fun rc =>
    (BitVec.ofNat 8 rc.1, BitVec.ofNat 8 rc.2)

/-- Where an access lands. -/
inductive Place1 where
  | phys (va pa : Nat)
  | bank (row col : BitVec 8) (off : Nat) (vault : Nat)
  deriving DecidableEq, Repr

/-- The footprint lines of a node (R251). -/
def Spur.foots (sp : Spur) (n : W32) : List Foot := sp.img.foots.filter (·.node == n)

/-- A footprint line admits an access of a kind to byte `i` of a place (R251, R254). -/
def footAdmits (x : Ex) (f : Foot) (kind : Nat) (p : Place1) (i : Nat) : Bool :=
  let within (a base len : Nat) : Bool := decide (base ≤ a + i) && decide (a + i < base + len)
  f.kind == kind &&
  match p with
  | .phys va _ =>
    if f.space < 4 then
      let w := nth x.cx0.win f.space 0
      !w.getLsbD 63 && w != 0 && within va (w.toNat + f.off) f.len
    else f.space == 5 && within va f.off f.len
  | .bank _ _ _ v =>
    (f.space == 4 || (decide (f.space < 4) && (nth x.cx0.win f.space 0).getLsbD 63)) && within v f.off f.len

/-- The footprint check of a memory node, whose footprint is the union of its lines (R251, R254). -/
def Ex.footCheck (x : Ex) (kind n : Nat) (p : Place1) : Ex :=
  let l := x.sp.foots x.node
  let a := match p with | .phys va _ => va | .bank _ _ _ v => v
  if l.isEmpty || x.node == 0xFFFFFFFF || (upTo n).all fun i => l.any fun f => footAdmits x f kind p i then x
  else x.raise (overrun 9 (BitVec.ofNat 64 a))

/-- Where a vault address leads, or its overrun (R232). -/
def Ex.vaultAt (x : Ex) (t n : Nat) : Ex × Place1 :=
  let bad := (x.raise (overrun 1 (BitVec.ofNat 64 t)), Place1.phys 0 0)
  if t ≥ 2 ^ 24 then bad
  else
    match x.vaultBrick (t / 65536) with
    | none => bad
    | some rc => if t % 65536 + n ≤ x.sp.img.hd.vlt then (x, .bank rc.1 rc.2 (t % 65536) t) else bad

/-- Where a memory instruction's address leads, before translation (R230, R231): a vault address, a virtual address, or
an overrun through an unset window. `t` is the B-form or S-form sum. -/
inductive Target1 where
  | vault (t : Nat)
  | virt (va : Nat)
  | unset (w : BitVec 2)
  deriving DecidableEq, Repr

/-- The target of a windowed instruction (R231). -/
def Ex.window (x : Ex) (w : BitVec 2) (t : Nat) : Target1 :=
  if !x.isB then .virt t
  else
    let v := nth x.cx0.win w.toNat 0
    if v = 0 then .unset w else if v.getLsbD 63 then .vault t else .virt ((v.extractLsb' 0 57).toNat + t)

/-- The sum of A and B (R231). -/
def Ex.sum (x : Ex) (g : Guard) (a b : Opnd) : Nat :=
  match g with
  | .b _ => (x.nat a + x.nat b) % 2 ^ 32
  | .s sg => (x.get a + x.get b + sextX sg.x).toNat

/-- Form the place of an access of `n` bytes aligned to `al`, with the checks of R262 in the order unset window,
alignment, vault range and translation; a read of a word that stays bad goes no further (R409). -/
def Ex.place (x : Ex) (tg : Target1) (al n : Nat) (acc : AccK) (pres : Option Bool) : Ex × Place1 :=
  let bad (f : Flt) := (x.raise f, Place1.phys 0 0)
  match tg with
  | .unset w => bad (overrun 2 (w.setWidth 64))
  | .vault t => if t % al != 0 then bad (flt 8 (BitVec.ofNat 64 t)) else x.vaultAt t n
  | .virt va =>
    if va % al != 0 then bad (flt 8 (BitVec.ofNat 64 va))
    else
      let (x, pa) := x.translate va acc pres
      (if acc == .write then x else x.readGood va pa n, .phys va pa)

/-- The bytes at a place, as the agent sees them. -/
def Ex.bytesAt (x : Ex) (p : Place1) (n : Nat) : List Byte :=
  match p with
  | .phys _ pa => x.physBytes pa n
  | .bank r c off _ => (match x.brickAt r c with | some b => readBytes b.bank off n | none => zeros n)

/-- Held writes of the agent's round outside its own bank (R397). -/
def Ex.heldCount (x : Ex) : Nat :=
  (x.sp.live.held.filter fun h => h.who == x.who && h.bank != some (x.br.row, x.br.col)).length

/-- A write to memory joins those that its round holds; one whose translation a posted invalidation or migration has named
makes the round stale (R306). -/
def Ex.joinHeld (x : Ex) (h : Held) : Ex :=
  { x with sp := { (x.sp.modLive fun b => { b with held := b.held ++ [h] }) with
      stale := x.sp.stale || x.s.staleAt (bedrock x.sp.massif) h.asid h.va h.bytes.length } }

/-- Hold a write in the round (R234); a firing beyond the limit of held writes waits (R397). -/
def Ex.hold (x : Ex) (kind : WKind) (p : Place1) (bytes : List Byte) : Ex :=
  if !x.ok then x
  else
    let own := match p with | .phys .. => false | .bank r c _ _ => x.isB && r == x.br.row && c == x.br.col
    if x.isB && !own && decide (Config.heldWrites ≤ x.heldCount) then x.stall
    else
      match p with
      | .bank r c off _ => x.bankStore r c off bytes
      | .phys va pa =>
        x.markStored.joinHeld ⟨x.who, kind, x.sp.asid, va, none, pa, bytes, x.sys⟩

/-- A read deferred on a word completes when the word is filled: its firing takes effect with the value (R246). -/
def Ctx.fill (k : Ctx) (bank : Option (BitVec 8 × BitVec 8)) (pa : Nat) (v : W64) : Ctx :=
  match k.defer with
  | some d =>
    if d.bank == bank && d.pa == pa then
      { k with wait := none, defer := none, load := some { d.load with val := v }, bfc := k.bfc + 1 }
    else k
  | none => k

/-- The same for a thread's read (R246). -/
def Thread.fill (t : Thread) (bank : Option (BitVec 8 × BitVec 8)) (pa : Nat) (v : W64) : Thread :=
  match t.defer with
  | some d => if d.bank == bank && d.pa == pa then { t with defer := none, load := some { d.load with val := v } } else t
  | none => t

/-- The reads of a spur that are deferred on a word complete (R246). -/
def Body.fill (b : Body) (bank : Option (BitVec 8 × BitVec 8)) (pa : Nat) (v : W64) : Body :=
  { b with ctxs := b.ctxs.map fun k => k.fill bank pa v, th := b.th.fill bank pa v }

/-- A word at a place is filled for the agent's own spur (R234, R246). -/
def Ex.fillOwn (x : Ex) (p : Place1) (v : W64) : Ex :=
  let (bank, pa) : Option (BitVec 8 × BitVec 8) × Nat := match p with
    | .phys _ pa => (none, pa)
    | .bank r c off _ => (some (r, c), off)
  { x with sp := x.sp.modLive fun b => b.fill bank pa v, th := x.th.fill bank pa v }

/-- The range of `n` bytes at a place, where it lies in memory. -/
def Place1.range (p : Place1) (n : Nat) : Option Reach :=
  match p with
  | .phys va pa => some ⟨va, pa, n⟩
  | .bank .. => none

/-- A load's value is written, or returns later (R234); `r` is the range of memory it was read from. -/
def Ex.deliver (x : Ex) (d : Opnd) (v : W64) (r : Option Reach) : Ex :=
  if !x.ok then x
  else if x.s.late then
    if x.isB then { x with cx := { x.cx with load := some ⟨x.slot, x.bank, v, d, r⟩ } }
    else { x with th := { x.th with load := some ⟨0, 0, v, d, r⟩ } }
  else x.put d v

/-- The deferred reads of a spur, with their agents (R246). -/
def Spur.parked (sp : Spur) : List (AgentId × Deferred) :=
  (sp.live.th.defer.map fun e => (AgentId.thread sp.handle, e)).toList ++
    sp.live.ctxs.filterMap fun k => k.defer.map fun e => (.ctx ⟨sp.handle, k.row, k.col, k.idx⟩, e)

/-- The table of a deferred read has an entry for it: the 8 of its bank, or the 4,096 of its spur's massif (R19, R246). -/
def Ex.deferRoom (x : Ex) (e : Deferred) : Bool :=
  let others (l : List (AgentId × Deferred)) : Nat := (l.filter fun y => y.1 != x.who && y.2.bank == e.bank).length
  if e.bank.isSome then decide (others x.sp.parked < Config.bankDeferrals)
  else decide (others ((x.s.spurs.filter (·.massif == x.sp.massif)).flatMap Spur.parked) < Config.deferrals)

/-- A presence read is deferred on the word at a place, or refused, and tried again, while its table is full (R246). -/
def Ex.defers (x : Ex) (d : Opnd) (p : Place1) : Ex :=
  let load : PendLoad := ⟨x.slot, x.bank, 0, d, p.range 4⟩
  let e : Deferred := match p with
    | .phys _ pa => ⟨none, pa, load⟩
    | .bank r c off _ => ⟨some (r, c), off, load⟩
  let put (b : Body) : Body := match x.who with
    | .ctx c => b.modCtx c fun k => { k with defer := some e }
    | .thread _ => { b with th := { b.th with defer := some e } }
  if x.deferRoom e then { x with s := x.s.modSpur x.sp.handle fun sp => sp.modLive put }.stall else x.stall

/-- A plain load of `n` bytes at a virtual address by the agent (R262). -/
def Ex.loadVirt (x : Ex) (va n : Nat) : Ex × Nat :=
  let (x, p) := x.place (.virt va) n n .read none
  (x, if x.ok then ofBytes (x.bytesAt p n) else 0)

/-- Plain loads of words of 8 bytes at virtual addresses. -/
def Ex.loadWords (x : Ex) : Nat → Nat → Ex × List W64
  | _, 0 => (x, [])
  | va, n + 1 =>
    let (x, v) := x.loadVirt va 8
    if !x.ok then (x, [])
    else
      let (x, l) := x.loadWords (va + 8) n
      (x, BitVec.ofNat 64 v :: l)

end Sys2Proof.Machine
end

