-- ==== Sys2Proof/Machine/Ports.lean ====
section
/-! DEFINITION. What a stream instruction does at its ports (R165, R166), and the words of sequencer patterns at `sw` (R100,
R227, R234, R299). -/

namespace Sys2Proof.Machine

open Sys2Proof

/-! ## Beats (R165) -/

/-- Lanes of a lane format. -/
def vLanes : VFmt → Nat
  | .f32 => 16 | .bf16 | .f16 => 32 | .i8 => 64

/-- Lanes of a scalar format. -/
def fLanes : FFmt → Nat
  | .f32 => 16 | .bf16 | .f16 => 32

/-- Lanes of a source port format for the conversions (R173). -/
def cvtLanes (f : Nat) : Nat :=
  match f with
  | 3 | 4 | 9 | 11 => 32
  | 5 | 6 | 7 | 12 => 64
  | 8 => 128
  | _ => 16

/-- The lane count of a stream instruction; none for any other (R165, R173). -/
def lanesOf (i : Instr) (k : Ctx) : Option Nat :=
  let src (a : Opnd) : Nat := cvtLanes ((k.portFmt (if a == .sb then 1 else 0)).getD 0)
  match i with
  | .vadd _ f _ _ _ | .vsub _ f _ _ _ | .vmin _ f _ _ _ | .vmax _ f _ _ _ | .vredsum _ f _ _ _
  | .vredmax _ f _ _ _ => some (vLanes f)
  | .vabs _ f _ | .vneg _ f _ => some (vLanes f)
  | .vsel _ f _ _ => some (vLanes f)
  | .vcmp _ f _ _ _ _ => some (vLanes f)
  | .vmul _ f _ _ _ | .vscan _ f _ _ _ => some (fLanes f)
  | .vfma _ f _ _ | .vaxpy _ f _ _ | .vexp2 _ f _ _ | .vrsq _ f _ _ => some (fLanes f)
  | .vamax _ f _ _ => some (fLanes f)
  | .vcvt _ _ a => some (src a)
  | .vqnt _ a _ => some (src a)
  | .vdqnt _ _ a _ => some (src a)
  | _ => none

/-- The ports a stream instruction names as vector operands (R165, R167). -/
def vecPorts (i : Instr) : List Nat :=
  match i with
  | .vfma .. | .vaxpy .. => [0, 1]
  | _ => (if (srcsOf i).contains .sa then [0] else []) ++ (if (srcsOf i).contains .sb then [1] else [])

/-- The lanes of a beat (R165). -/
def beatLen (i : Instr) (k : Ctx) (l : Nat) : Nat :=
  (vecPorts i ++ if laneSw i then [2] else []).foldl (fun n p => min n (k.remaining p)) l

/-- An operand reads a stop token. -/
def readsStop (k : Ctx) : Opnd → Bool
  | .i n | .iDeq n => (match headTok (k.inQ n).arm0 with | some (t, _, _) => t.stop | none => false)
  | _ => false

/-- The sources that end a firing as plain operands do: a beat advances its vector ports itself (R165), and an `spacc`
that reads a stop token leaves B alone (R219), and an `sopen` has advanced the ports it reads before it opens its descriptor
(R164). -/
def plainSrcs (i : Instr) (k : Ctx) : List Opnd :=
  match i with
  | .sopen _ _ _ a b => [a, b].filter fun o => o != .sa && o != .sb
  | .spaccFadd _ _ _ a b | .spaccAdd _ _ a b | .spaccFmax _ _ a b => if readsStop k a then [a] else [a, b]
  | _ =>
    match lanesOf i k with
    | some _ => (srcsOf i).filter fun o => o != .sa && o != .sb
    | none => srcsOf i

/-- The instruction writes `sw`. -/
def writesSw (i : Instr) : Bool := laneSw i || dstOf i == some .sw

/-- What stream operands ask (R166). -/
def streamReady (i : Instr) (k : Ctx) : Bool :=
  let tokSw := !(dstOf i == some .sw) || (decide (1 ≤ k.remaining 2) && k.roomSw (k.tokLen 2))
  match lanesOf i k with
  | some l =>
    let n := beatLen i k l
    tokSw && (vecPorts i).all (fun p => decide (1 ≤ k.remaining p) && k.delivered p n) &&
      (!laneSw i || (decide (1 ≤ k.remaining 2) && k.roomSw n))
  | none => tokSw && (vecPorts i).all fun p => decide (1 ≤ k.remaining p) && k.delivered p (k.tokLen p)

/-! ## Sequencer patterns at a port (R100, R227, R234, R299) -/

/-- Write one word of a write pattern at place `j` of the pattern, held in the round as a store is. -/
def Ex.patStore (x : Ex) (q : Pattern) (j : Nat) (w : W32) : Ex :=
  let t := q.wordAt j
  let tg := if q.space = 1 then .vault (if t < 0 then 2 ^ 24 else t.toNat) else .virt (t.emod (2 ^ 64)).toNat
  let (x, p) := x.place tg 4 4 .write none
  x.hold .store p (toBytes 4 w.toNat)

/-- Write the whole words that the firing has given the write pattern of `sw` (R100, R234); a pattern in the own bank
gathers none, as its elements are written at their firings (R227). -/
def Ex.flushSw (x : Ex) : Ex :=
  match x.cx.descOf 2, x.cx.patOf 2 with
  | none, some q =>
    let part := q.el % perTok q.fmt.toNat
    let whole := if part = 0 then q.buf.length else q.buf.length - 1
    let x := ((q.buf.take whole).zip (upTo whole)).foldl (fun x w => x.patStore q (q.moved + w.2) w.1) x
    { x with cx := x.cx.modPat 2 fun q => { q with buf := q.buf.drop whole, moved := q.moved + whole } }
  | _, _ => x

/-- The thread has received the bank-ownership tokens of every bank that a pattern for a brick touches (R299). -/
def Spur.gateOpen (sp : Spur) (row col : BitVec 8) (q : Pattern) : Bool :=
  let ridge := sp.ridge row.toNat col.toNat
  !sp.img.bg || q.space == 0 ||
    (if q.space = 2 then sp.gates.contains (ridge, sp.brickNo row.toNat col.toNat % 256)
     else q.rowsOk fun t => (q.rowBanks t).all fun b => sp.gates.contains (ridge, b.1))

/-- A write to `sw` finds its pattern's banks open (R299). -/
def Ex.swOpen (x : Ex) (i : Instr) : Bool :=
  !writesSw i ||
    match x.cx0.descOf 2, x.cx0.patOf 2 with
    | none, some q => x.sp.gateOpen x.br.row x.br.col q
    | _, _ => true

end Sys2Proof.Machine
end

