-- ==== Sys2Proof/Machine/Pager.lean ====
section
/-! DEFINITION. Frames, the free rings and the stages of the pager (R274, R275), and the device's own reads and writes of
memory, whose not-present faults the pager serves within the access (log 14). -/

namespace Sys2Proof.Machine

open Sys2Proof

/-! ## Frames -/

/-- Copy the bytes of a frame and keep the canonical form. -/
def copyCells (m : List Host.Cell) (src dst size : Nat) : List Host.Cell :=
  (m.filter fun c => decide (c.1 < dst)) ++
    ((m.filter fun c => decide (src ≤ c.1) && decide (c.1 < src + size)).map fun c => (c.1 - src + dst, c.2)) ++
    m.filter fun c => decide (dst + size ≤ c.1)

/-- Copy the presence bits of a frame. -/
def copyFull (l : List Nat) (src dst size : Nat) : List Nat :=
  (l.filter fun a => decide (a < dst)) ++
    ((l.filter fun a => decide (src ≤ a) && decide (a < src + size)).map fun a => a - src + dst) ++
    l.filter fun a => decide (dst + size ≤ a)

/-- Copy a frame with its presence bits (R274, R280); a word that stays bad stays so in the copy (R409). -/
def State.copyFrame (s : State) (src dst size : Nat) : State :=
  { s with mem := copyCells s.mem src dst size, full := copyFull s.full src dst size,
           badWords := copyFull s.badWords src dst size }

/-- Write zeros to a frame and empty its presence bits (R274). -/
def State.zeroFrame (s : State) (dst size : Nat) : State :=
  { s with mem := s.mem.filter fun c => !(decide (dst ≤ c.1) && decide (c.1 < dst + size))
           full := s.full.filter fun a => !(decide (dst ≤ a) && decide (a < dst + size))
           badWords := s.badWords.filter fun a => !(decide (dst ≤ a) && decide (a < dst + size)) }

/-! ## The free rings (R275) -/

/-- A frame the pager may use: aligned to its size and in a populated range. -/
def frameOk (f size : Nat) : Bool := f % size == 0 && populated f && populated (f + size - 1)

/-- The index of the ring of a massif and of a page level. -/
def ringIdx (massif level : Nat) : Nat := 2 * massif + level

/-- The fault tokens that the pager has not done with. -/
def State.pagerToks (s : State) : List FaultTok := s.pagerQ ++ s.pagerAck ++ s.pagerFwd.map (·.1)

/-- The spur that an agent belongs to. -/
def AgentId.handle : AgentId → Handle
  | .ctx c => c.h
  | .thread h => h

/-- The domain and the handle that a fault token's reports name. -/
def State.faulter (s : State) (t : FaultTok) : Nat × Handle :=
  match t.who with
  | .spur h => ((match s.spur? h with | some sp => sp.dom | none => 0), h)
  | .job j => (match s.jobs.find? fun k => k.id == j with
    | some k => (k.cmd.dom, AgentId.handle k.cmd.who)
    | none => (match s.cmdq.find? fun c => c.2.no == j with
      | some (_, c) => (c.dom, AgentId.handle c.who)
      | none => (0, 0)))
  | .lintel q => ((s.qDesc q).dom, 0)
  | .device d => (d, 0)

/-- A frame or slot skipped is reported as a table fault, in the entry field of its record (R275). -/
def State.skipped (s : State) (t : FaultTok) (level v : Nat) : State :=
  let (d, h) := s.faulter t
  s.postHandler (s.handlerQ d) (record 3 7 (BitVec.ofNat 64 t.ask.va) h d 0xFFFFFFFF 0xFF 0xFF 0 []
    (tBody t.ask.asid t.ask.va (AccK.ofCode t.ask.acc) ⟨.table, level, BitVec.ofNat 64 v, 0⟩ false))

/-- Take a frame of a ring, slot by slot: a slot outside a populated range or with a bad frame is skipped (R275). -/
def takeFrame (t : FaultTok) (level : Nat) : Nat → State → State × Option Nat
  | 0, s => (s, none)
  | n + 1, s =>
    let i := ringIdx t.massif level
    let r := nth s.ctl.rings i ⟨0, 0, 0, 0⟩
    let k := r.frn.toNat
    if k = 0 || r.frh = r.frt then (s, none)
    else
      let slot := r.frb.toNat + 8 * (r.frh.toNat % k)
      let s := { s with ctl := s.ctl.modRing i fun r => { r with frh := BitVec.ofNat 64 ((r.frh.toNat + 1) % k) } }
      if !populated slot || s.badWords.contains slot then takeFrame t level n (s.skipped t level slot)
      else
        let f := s.physNat slot 8
        if frameOk f (2 ^ (12 + 9 * level)) then (s, some f) else takeFrame t level n (s.skipped t level f)

/-- Return a backing frame to the tail of its ring; a full ring takes none, and a notice names it (R274, stage 5). -/
def State.giveFrame (s : State) (t : FaultTok) (level f : Nat) : State :=
  let i := ringIdx t.massif level
  let r := nth s.ctl.rings i ⟨0, 0, 0, 0⟩
  let k := r.frn.toNat
  if k != 0 && (r.frt.toNat + 1) % k != r.frh.toNat then
    let s := s.putNat (r.frb.toNat + 8 * (r.frt.toNat % k)) 8 f
    { s with ctl := s.ctl.modRing i fun r => { r with frt := BitVec.ofNat 64 ((r.frt.toNat + 1) % k) } }
  else s.notice (s.faulter t).1 4 f 0 (toBytes 1 t.massif ++ toBytes 1 level)

/-! ## The stages (R274) -/

/-- The leaf the pager writes: the frame, the template, V, L, A, and D for a write (R273, R274). -/
def pagerLeaf (e : W64) (frame : Nat) (acc : AccK) : W64 :=
  let d : W64 := match acc with
    | .write | .rw => 0x80
    | .read | .fetch => 0
  (e &&& 0xFC000000000003FC) ||| BitVec.ofNat 64 frame ||| 0x43 ||| d

/-- What R268 gives of an entry that is read again and is not valid (R274, stage 1); none where it is still of kind 01 or
10. -/
def notValidKind (e : W64) : Option TKind :=
  let kind := e.extractLsb' 10 2
  if kind = 0 then some .unmapped else if kind = 3 || !entBit e 1 || !entOk e then some .table else none

/-- Stages 1 to 5 for one page: done, or the fault that goes on and whether for want of a frame (R274). -/
def pageIn (s : State) (t : FaultTok) : State × Option (TFault × Bool) :=
  let e := BitVec.ofNat 64 (s.physNat t.ask.addr 8)
  let fails (k : TKind) : TFault := ⟨k, t.ask.level, e, t.ask.addr⟩
  if s.spoilt [(t.ask.addr, 8)] then (s, some (fails .lost, false))
  else if entBit e 0 then (s, none)
  else
    match notValidKind e with
    | some k => (s, some (fails k, false))
    | none =>
      match takeFrame t t.ask.level 65536 s with
      | (s, none) => (s, some (fails .notPresent, true))
      | (s, some frame) =>
        let size := 2 ^ (12 + 9 * t.ask.level)
        let copies := e.extractLsb' 10 2 == 2
        let s := if copies then s.copyFrame (entFrame e) frame size else s.zeroFrame frame size
        let s := s.putNat t.ask.addr 8 (pagerLeaf e frame (AccK.ofCode t.ask.acc)).toNat
        (if copies then s.giveFrame t t.ask.level (entFrame e) else s, none)

/-- The pager serves a token: it is acknowledged, or its fault goes on (R274). -/
def State.serve (s : State) (t : FaultTok) : State :=
  match pageIn s t with
  | (s, none) => { s with pagerAck := s.pagerAck ++ [t] }
  | (s, some f) => { s with pagerFwd := s.pagerFwd ++ [(t, f)] }

/-- The pager serves every token that has arrived, in the order of arrival (R274). -/
def State.serveAll (s : State) : State := s.pagerQ.foldl State.serve { s with pagerQ := [] }

/-! ## The device's own accesses -/

/-- Who accesses memory for the device: its translation unit, the massif, the domain and the ASID. -/
structure DevAt where
  massif : Nat
  dom : Nat
  asid : Nat
  deriving DecidableEq, Repr

/-- The translation unit of a device access. -/
def DevAt.unit (d : DevAt) : CacheUnit := bedrock d.massif

/-- Translate with system-mode permission; the pager serves a not-present fault after the tokens that arrived before it
(R274, R309, R332, R382, log 14), and a page that a migration moves makes the step wait (R280, log 150). -/
def devTrans (s : State) (d : DevAt) (va : Nat) (acc : AccK) : State × Except TFault Nat :=
  match translate (s.holdFor d.asid va) d.unit d.asid va ⟨acc, false, none⟩ with
  | (s, .ok (pa, _)) => (s, .ok pa)
  | (s, .error f) =>
    if f.kind != .notPresent then (s, .error f)
    else
      match pageIn s.serveAll ⟨.device d.dom, ⟨d.asid, va, acc.code, f.level, f.addr⟩, d.massif, none⟩ with
      | (s, some (f, _)) => (s, .error f)
      | (s, none) =>
        match translate s d.unit d.asid va ⟨acc, false, none⟩ with
        | (s, .ok (pa, _)) => (s, .ok pa)
        | (s, .error f) => (s, .error f)

/-- Where words of 8 bytes from `va` on lie; a read of one that stays bad fails (R409, log 139). -/
def devWords (d : DevAt) (acc : AccK) : Nat → Nat → State → State × Except DevFault (List Nat)
  | 0, _, s => (s, .ok [])
  | n + 1, va, s =>
    match devTrans s d va acc with
    | (s, .error f) => (s, .error ⟨va, f⟩)
    | (s, .ok pa) =>
      if acc != .write && s.spoilt [(pa, 8)] then (s, .error ⟨va, ⟨.lost, 0xFF, 0, pa⟩⟩)
      else match devWords d acc n (va + 8) s with
      | (s, .error e) => (s, .error e)
      | (s, .ok l) => (s, .ok (pa :: l))

/-- Read `n` words of 8 bytes for the device. -/
def devGet (s : State) (d : DevAt) (acc : AccK) (va n : Nat) : State × Except DevFault (List W64) :=
  match devWords d acc n va s with
  | (s, .error e) => (s, .error e)
  | (s, .ok pas) => (s, .ok (pas.map fun pa => BitVec.ofNat 64 (s.physNat pa 8)))

/-- Write words of 8 bytes for the device, all or none. -/
def devPut (s : State) (d : DevAt) (va : Nat) (ws : List W64) : State × Option DevFault :=
  match devWords d .write ws.length va s with
  | (s, .error e) => (s, some e)
  | (s, .ok pas) =>
    ((pas.zip ws).foldl (fun s x => s.putNat x.1 8 x.2.toNat) s, none)

end Sys2Proof.Machine
end

