-- ==== Sys2Proof/Machine/Table.lean ====
section
/-! DEFINITION. The callable tables (R308, R309): reading an entry, taking and freeing one, and use counts. An entry that
a round has taken or freed stands in `taken` until that round commits (R344). -/

namespace Sys2Proof.Machine

open Sys2Proof

/-- Who reads the callable table of a domain, and the table's address (R309). -/
def tabAt (massif d : Nat) (y : Dom) : DevAt × Nat := (⟨massif, d, y.asid⟩, y.ctb)

/-- What rounds that have not committed have done to the entry at an address. -/
def State.takenAt (s : State) (asid va : Nat) : List TabEnt := s.taken.filter fun e => e.asid == asid && e.va == va

/-- The words of entry `id` of a domain's table as memory holds them; none where the device cannot read it, with a notice
(R309, R443). -/
def readRaw (s : State) (massif d id : Nat) : State × Option (List W64) :=
  match s.dom? d with
  | none => (s, none)
  | some y =>
    match devGet s ⟨massif, d, y.asid⟩ .read (y.ctb + 32 * id) 4 with
    | (s, .ok ws) => (s, some ws)
    | (s, .error e) => (s.notice d 6 e.va 0 (toBytes 2 id), none)

/-- The words of an entry with what has been performed on it: one that a `cfree` has freed is free, and one that a builder
has taken holds its words behind word 0, which is in memory (R309, R344). -/
def overlay (l : List TabEnt) (ws : List W64) : List W64 :=
  if l.any (·.freed) then [0, 0, 0, 0]
  else match l with
    | e :: _ => nth ws 0 0 :: e.words.drop 1
    | [] => ws

/-- The words of entry `id` of a domain's table; none where the device cannot read it. -/
def readTab (s : State) (massif d id : Nat) : State × Option (List W64) :=
  match readRaw s massif d id, s.dom? d with
  | (s, some ws), some y => (s, some (overlay (s.takenAt y.asid (y.ctb + 32 * id)) ws))
  | (s, _), _ => (s, none)

/-- The kind of an entry (R308). -/
def entKind (ws : List W64) : Nat := bitsOf (nth ws 0 0).toNat 60 4

/-- The members of a composite entry: a and b, or the body (R308). -/
def entMembers (ws : List W64) : List Nat :=
  let w := (nth ws 1 0).toNat
  let k := entKind ws
  if k = 3 ∨ k = 4 ∨ k = 5 then [bitsOf w 0 12, bitsOf w 16 12]
  else if k = 6 ∨ k = 7 then [bitsOf w 0 12] else []

/-- The policy of a farm entry: what its builder named, else a free value (R342, log 15). -/
def farmPol (s : State) (d id : Nat) : BitVec 2 :=
  match s.dom? d with
  | none => 0
  | some y =>
    let va := y.ctb + 32 * id
    match s.takenAt y.asid va with
    | e :: _ => e.pol
    | [] =>
      match s.pols.find? fun e => e.1 == y.asid && e.2.1 == va with
      | some e => e.2.2
      | none => let p := Config.farmPolicy y.asid va; if p = 3 then 0 else p

/-- Add to the use count of an entry, modulo 2^32 (R309). -/
def addUse (s : State) (massif d id n : Nat) : State :=
  match s.dom? d with
  | none => s
  | some y =>
    match devTrans s ⟨massif, d, y.asid⟩ (y.ctb + 32 * id) .write with
    | (s, .error _) => s
    | (s, .ok pa) => s.putNat pa 4 ((s.physNat pa 4 + n) % 2 ^ 32)

/-- Subtract 1 from the use count of an entry; entry 0 names none (R309, R345). -/
def decUse (s : State) (massif d id : Nat) : State := if id = 0 then s else addUse s massif d id (2 ^ 32 - 1)

/-- Subtract 1 from the use count of each member of an entry (R349). -/
def dropMembers (s : State) (massif d : Nat) (members : List Nat) : State :=
  members.foldl (fun s id => decUse s massif d id) s

/-- What was performed on the entry at an address is settled. -/
def State.settleAt (s : State) (asid va : Nat) : State :=
  { s with taken := s.taken.filter fun x => !(x.asid == asid && x.va == va) }

/-- A builder takes a free entry: the `cas` of its word 0, and 1 more on the use count of each member (R309, R348); false
where word 0 cannot be written. -/
def takeEntry (s : State) (massif d : Nat) (e : TabEnt) : State × Bool :=
  match devPut s ⟨massif, d, e.asid⟩ e.va (e.words.take 1) with
  | (s, some _) => (s, false)
  | (s, none) =>
    ((entMembers e.words).foldl (fun s id => addUse s massif d id 1) { s with taken := s.taken ++ [e] }, true)

/-- The rest of a builder's entry is written (R344, R348). -/
def commitTable (s : State) (massif d : Nat) (h : Handle) (va : Nat) : State :=
  match s.taken.find? fun e => e.owner == h && e.va == va && !e.freed with
  | none => s
  | some e =>
    (devPut { s with
      taken := s.taken.filter (· != e)
      pols := (s.pols.filter fun x => !(x.1 == e.asid && x.2.1 == va)) ++
        (if entKind e.words = 6 then [(e.asid, va, e.pol)] else []) } ⟨massif, d, e.asid⟩ (va + 8) (e.words.drop 1)).1

/-- An entry is freed, and each member's use count falls by 1 (R344, R349). -/
def commitFree (s : State) (massif d : Nat) (h : Handle) (va : Nat) (members : List Nat) : State :=
  match s.taken.find? fun e => e.owner == h && e.va == va && e.freed with
  | none => s
  | some e => dropMembers (devPut (s.settleAt e.asid va) ⟨massif, d, e.asid⟩ va [0]).1 massif d members

/-- What a spur's last round, which never committed, did to its table is undone: an entry that a builder took is free again,
and one that a `cfree` freed is not (log 124). -/
def dropTaken (s : State) (massif d : Nat) (h : Handle) : State :=
  let mine := s.taken.filter fun e => e.owner == h && !e.freed
  let s := mine.foldl (fun s e =>
    dropMembers (devPut (s.settleAt e.asid e.va) ⟨massif, d, e.asid⟩ e.va [0]).1 massif d (entMembers e.words)) s
  { s with taken := s.taken.filter fun e => e.owner != h }

end Sys2Proof.Machine
end

