-- ==== Sys2Proof/Machine/Tiles.lean ====
section
/-! DEFINITION. The tile table (R181 to R184): ownership, states and their completions inside the brick. -/

namespace Sys2Proof.Machine

open Sys2Proof

/-- Slot `n` of a brick. -/
def Brick.slot (b : Brick) (n : Nat) : Slot := nth b.slots n Slot.blank

/-- Accumulator `n` of a brick. -/
def Brick.acc (b : Brick) (n : Nat) : Acc := nth b.accs n Acc.blank

/-- Change slot `n`. -/
def Brick.modSlot (b : Brick) (n : Nat) (f : Slot → Slot) : Brick := { b with slots := upd b.slots n f }

/-- Change accumulator `n`. -/
def Brick.modAcc (b : Brick) (n : Nat) (f : Acc → Acc) : Brick := { b with accs := upd b.accs n f }

/-- A state in which an entry can be taken. -/
def TileSt.idle : TileSt → Bool
  | .empty | .ready => true
  | .filling | .draining => false

/-- Slot `n` is owned by context `c` (R182). -/
def Brick.ownsSlot (b : Brick) (c : BitVec 3) (n : Nat) : Bool := (b.slot n).owner == some c

/-- Accumulator `n` is owned by context `c` (R182). -/
def Brick.ownsAcc (b : Brick) (c : BitVec 3) (n : Nat) : Bool := (b.acc n).owner == some c

/-- The entries that a mask names. -/
def maskBits (w : Nat) (m : Nat) : List Nat := (upTo w).filter fun n => m / 2 ^ n % 2 == 1

/-- A slot's binding makes it a sender (R188). -/
def Slot.sends (s : Slot) : Bool := s.bind.getLsbD 15 && s.bind.getLsbD 14

/-- A slot's binding makes it a receiver (R188). -/
def Slot.receives (s : Slot) : Bool := s.bind.getLsbD 15 && !s.bind.getLsbD 14

/-- The bus of a slot's binding: the column bus or the row bus (R188). -/
def Slot.colBus (s : Slot) : Bool := s.bind.getLsbD 13

/-- The identifier of a slot's binding (R188). -/
def Slot.did (s : Slot) : BitVec 8 := s.bind.extractLsb' 0 8

/-- A copy from the bank completes (R183). -/
def Slot.filled (s : Slot) : Slot :=
  if s.st == .filling && !s.bus then
    if s.sends then { s with st := .draining, send := true } else { s with st := .ready }
  else s

/-- The array pass of a brick completes (R183, R184). -/
def Brick.passDone (b : Brick) : Brick :=
  let b := b.passSlots.foldl (fun b n => b.modSlot n fun s => { s with st := .ready }) b
  let b := b.passAccs.foldl (fun b n => b.modAcc n fun a => { a with st := .ready }) b
  { b with passSlots := [], passAccs := [] }

/-- A read of an accumulator completes: it returns to its state before the read (R184). -/
def Acc.readDone (a : Acc) : Acc := if a.st == .draining then { a with st := a.before } else a

/-- Fills from the bank, passes and reads complete before a round mark (R94, R191, R205). -/
def Brick.settle (b : Brick) : Brick :=
  let b := b.passDone
  { b with slots := b.slots.map Slot.filled, accs := b.accs.map Acc.readDone }

/-- Every bus of a body settled. -/
def Body.settle (b : Body) : Body := { b with bricks := b.bricks.map Brick.settle }

/-! ## Buses (R189) -/

/-- The slots of a bus that a test admits, with their places (R189). -/
def Body.busSlots (b : Body) (col : Bool) (n did : BitVec 8) (p : Slot → Bool) : List (Brick × Nat × Slot) :=
  (b.bricks.filter fun k => if col then k.col == n else k.row == n).flatMap fun k =>
    ((upTo 4).map fun m => (k, m, k.slot m)).filter fun x => x.2.2.colBus == col && x.2.2.did == did && p x.2.2

/-- The cause of a transfer's format mismatch at a receiver (R189). -/
def busMismatch (x : Brick × Nat × Slot) : Cause :=
  { cls := 4, detail := BitVec.ofNat 64 x.2.1, node := x.2.2.bindNode,
    ctx := match x.2.2.owner with | some c => c.zeroExtend 8 | none => 0xFF, slot := 0xFF, loops := [], body := [],
    row := x.1.row, col := x.1.col, page := none }

/-- The transfers of a bus whose count of receivers is reached: the sender and its receivers (R189). -/
def Body.transfer (b : Body) (col : Bool) (n did : BitVec 8) :
    Option ((Brick × Nat × Slot) × List (Brick × Nat × Slot)) :=
  let dest := b.busSlots col n did fun t => t.receives && t.bus && t.st == .filling
  match b.busSlots col n did fun t => t.sends && t.send && t.st == .draining with
  | [x] => if dest.length = (x.2.2.bind.extractLsb' 8 5).toNat + 1 then some (x, dest) else none
  | _ => none

/-- The causes of a transfer that cannot take place: every receiver whose format differs from the sender's (R189). -/
def misfits (x : Brick × Nat × Slot) (dest : List (Brick × Nat × Slot)) : List Cause :=
  (dest.filter fun y => y.2.2.fmt != x.2.2.fmt).map busMismatch

/-- The mismatches of a body's buses: a transfer's count that is reached in a round faults in that round (R189). -/
def Body.busFaults (b : Body) : List Cause :=
  b.bricks.flatMap fun k => (upTo 4).flatMap fun m =>
    let t := k.slot m
    if t.sends && t.send && t.st == .draining then
      match b.transfer t.colBus (if t.colBus then k.col else k.row) t.did with
      | some (x, dest) => misfits x dest
      | none => []
    else []

/-- The slots, the accumulators and the first pair of each target that `mmac` names (R192). -/
def mmacNames : Instr → Option (List Nat × List Nat)
  | .mmacK8 _ _ n p q | .mmacK4 _ _ n p q => some ([p.toNat, q.toNat], [n.toNat])
  | .mmacK16 _ _ p q => some ([p.toNat, p.toNat + 1, q.toNat, q.toNat + 1], [0, 1, 2])
  | _ => none

/-- The accumulators a read of a tile names (R194, R202). -/
def readNames : Instr → Option (List Nat)
  | .mreconI64 _ k n _ | .mreconF32 _ k n _ | .mreconF32Add _ k n _ => some (if k then [0, 1, 2] else [n.toNat])
  | .mdrain _ n _ | .mdrainZ _ n _ => some [n.toNat]
  | _ => none

/-- The tables of the other owners of entries of the firing's brick: the spurs that share it, and those that have left it
(R205, R330). -/
def Ex.sharers (x : Ex) : List Brick :=
  let n := x.sp.brickNo x.br.row.toNat x.br.col.toNat
  ((x.s.tiles.filter fun t => t.1 == n).map fun t => { x.br with slots := t.2.1, accs := t.2.2 }) ++
  (x.s.spurs.filter fun o => o.placed && o.handle != x.sp.handle).flatMap fun o =>
    o.live.bricks.filter fun b => o.brickNo b.row.toNat b.col.toNat == n

/-- Eligibility of the matrix instructions (R193, R198); an instruction that names an entry it does not own is eligible,
and faults (R182). An `mmac` with an empty slot waits while another name of it is busy (log 132, DESIGN CHOICE). -/
def tileReady (i : Instr) (x : Ex) : Bool :=
  let c := x.cx0.idx
  match i with
  | .oclaim _ ms xs =>
    ((maskBits 4 ms.toNat).all fun n => ((x.br.slot n).owner.isNone || x.br.ownsSlot c n) &&
      x.sharers.all fun b => (b.slot n).owner.isNone) &&
    (maskBits 3 xs.toNat).all fun n => ((x.br.acc n).owner.isNone || x.br.ownsAcc c n) &&
      x.sharers.all fun b => (b.acc n).owner.isNone
  | .orelease _ ms xs =>
    ((maskBits 4 ms.toNat).all fun n => !x.br.ownsSlot c n || (x.br.slot n).st.idle) &&
    (maskBits 3 xs.toNat).all fun n => !x.br.ownsAcc c n || (x.br.acc n).st.idle
  | .ofillBank _ _ n _ _ | .ofillBus _ _ n | .mbind _ n _ => !x.br.ownsSlot c n.toNat || (x.br.slot n.toNat).st.idle
  | .mzero _ n => !x.br.ownsAcc c n.toNat || (x.br.acc n.toNat).st.idle
  | _ =>
    match mmacNames i, readNames i with
    | some (sl, ac), _ =>
      !(sl.all (x.br.ownsSlot c) && ac.all (x.br.ownsAcc c)) ||
        (sl.all (fun n => (x.br.slot n).st.idle) && ac.all (fun n => (x.br.acc n).st.idle) && x.cx0.tcount != 0 &&
          x.br.passAccs.isEmpty)
    | none, some ac => !ac.all (x.br.ownsAcc c) || ac.all fun n => (x.br.acc n).st.idle
    | none, none => true

end Sys2Proof.Machine
end

