-- ==== Sys2Proof/Machine/Rounds.lean ====
section
/-! DEFINITION. The round mark (R94): a round commits whole or is voided whole (R396 to R400), configuration changes and
context steps take effect, phase and trace records are written, and the fault that stops a spur is routed (R406). TAKING
AN EXCEPTION is `roundMark` with the fault of an S-form word, or with the causes that firings left. -/

namespace Sys2Proof.Machine

open Sys2Proof

/-! ## Before the decision -/

/-- A load's value returns to a firing, which then takes effect (R234); where the words it gives `sw` fault its round
holds the cause, and where they find no room the firing goes on waiting (R397). -/
def landB (s : State) (c : CtxAt) : State :=
  match s.ctx? c with
  | none => s
  | some k =>
    match k.load with
    | none => s
    | some l =>
      match k.instr? l.slot.toNat with
      | none => s
      | some i =>
        match guardOf i with
        | some (.b g) =>
          match enterB s c l.slot i g with
          | none => s
          | some x =>
            let x := { x with cx := { x.cx with load := none } }.put l.dst l.val
            let x := if writesSw i then x.flushSw else x
            (match x.fault with
              | some f => x.s.modSpur c.h fun sp => (sp.addCause (x.cause f)).modLive fun b =>
                  b.modCtx c fun k => { k with load := none }
              | none => if x.wait then s else ({ x with sp := x.sp.busy s.now }.finish (srcsOf i)).back)
        | _ => s

/-- A load's value returns to a thread (R234). -/
def landS (s : State) (h : Handle) : State :=
  match enterS s h with
  | none => s
  | some x =>
    match x.th.load with
    | none => s
    | some l =>
      let x := { x with th := { x.th with load := none, pc := x.th.pc + 8 }, sp := x.sp.busy s.now }
      (x.put l.dst l.val).back

/-- Firings and instructions already issued complete (R94, step 2). -/
def landLoads (s : State) (h : Handle) : State :=
  match s.spur? h with
  | none => s
  | some sp => landS ((sp.live.ctxs.filter (·.load.isSome)).foldl (fun s k => landB s ⟨h, k.row, k.col, k.idx⟩) s) h

/-- A firing still waiting is withdrawn; its pass counts stand as before it was chosen (R235). -/
def Ctx.withdraw (k : Ctx) : Ctx :=
  if k.wait.isSome || k.load.isSome then { k with wait := none, defer := none, load := none, pass := k.passWas } else k

/-- Withdraw every waiting firing of a body, and its thread's deferred read (R235). -/
def Body.withdraw (b : Body) : Body := { b with ctxs := b.ctxs.map Ctx.withdraw, th := { b.th with defer := none } }

/-- Change a spur's live body and the body its round started from, as another agent's write does. -/
def Spur.modBoth (sp : Spur) (f : Body → Body) : Spur := { sp with live := f sp.live, start := f sp.start }

/-! ## Patterns of a port (R95, R102) -/

/-- A pattern enters the scoreboard of a port: active where the port is idle, else pending (R102). -/
def Ctx.enter (k : Ctx) (port : Nat) (q : Pattern) : Ctx :=
  { k with board := upd k.board port fun b =>
      match b.active with
      | none => { b with active := some q }
      | some _ => { b with pend := b.pend ++ [q] } }

/-- A pattern as it was entered. -/
def Pattern.fresh (q : Pattern) : Pattern := { q with row := 0, el := 0, moved := 0, buf := [] }

/-- The newest pattern that was entered as `q` leaves a scoreboard. -/
def Board.leave (b : Board) (q : Pattern) : Board :=
  let hit (p : Pattern) : Bool := p.fresh == q
  if b.pend.any hit then { b with pend := (b.pend.reverse.eraseP hit).reverse }
  else if b.active.any hit then { b with active := b.pend.head?, pend := b.pend.drop 1 }
  else { b with old := (b.old.reverse.eraseP hit).reverse }

/-- A pattern that was entered leaves the scoreboard of a port (R95). -/
def Ctx.leave (k : Ctx) (port : Nat) (q : Pattern) : Ctx := { k with board := upd k.board port fun b => b.leave q }

/-! ## Voiding (R399) -/

/-- Put flits back at the head of the wire into a port of a spur, in their order (R400). -/
def unreceive (h : Handle) (l : List (BitVec 8 × Flit)) (ws : List Wire) : List Wire :=
  l.reverse.foldl (fun ws pf => updFirst (fun w => w.dst == .spur h pf.1) (fun w => { w with buf := pf.2 :: w.buf }) ws) ws

/-- The causes of a round, deadlock and link failure among them (R398). -/
def Spur.allCauses (sp : Spur) : List Cause :=
  sp.causes ++ (match sp.dead with | some d => [d] | none => []) ++
    (match sp.linkDown with
      | some (l, v) => [⟨12, BitVec.ofNat 64 (l.toNat + 256 * v.toNat), 0xFFFFFFFF, 0xFF, 0xFF, [], [], 0, 0, none⟩]
      | none => [])

/-- The round is voided at its mark (R396). -/
def Spur.voids (sp : Spur) : Bool := !sp.allCauses.isEmpty || sp.stale || sp.retry

/-- The spur back at the start of its round (R399). -/
def Spur.undo (sp : Spur) : Spur :=
  { sp with live := sp.start, bars := sp.collected.foldl (fun b x => b.set x.1 x.2) sp.bars,
            launches := sp.launches ++ sp.collected.map fun x => x.2.h }

/-- A fault stops the spur and its record is routed (R336, R406), with the round number as it stood at the fault: an S-form
fault has committed its round (R96, R402). Where domain 0 names no handler the keystone core
retires it. -/
def stopWith (s : State) (sp : Spur) (c : Cause) (sForm : Bool) : State :=
  let at_ := if sForm then { sp with rnd := sp.rnd - 1 } else sp
  let q := (compHandler s 64 sp.target).or sp.hq
  let sp' := { sp with life := .stopped, sStop := sForm, sFault := some c, final := q.isNone, dead := none,
                       linkDown := none }
  rotate ((s.setSpur sp').postHandler q (at_.record c)) sp.handle

/-- A pattern that the round entered in another spur leaves its port again (R95). -/
def State.unsend (s : State) (r : Request) : State :=
  match r with
  | .scmd c port q => s.modSpur c.h fun x => x.modBoth fun b => b.modCtx c fun k => k.leave port q
  | _ => s

/-- Void a round (R398, R399): a fault stops the spur; a not-present fault waits for the pager; otherwise the round is
executed again, at once or at the spur's next turn among the sharers of its bricks (R330). -/
def voidRound (s : State) (sp : Spur) : State :=
  let s := { s with wires := unreceive sp.handle sp.delivered s.wires }
  let all := sp.allCauses
  let s := sp.live.reqs.foldl State.unsend s
  let u := { sp.undo with causes := [], stale := false, retry := false, delivered := [], collected := [] }
  match firstCause (all.filter fun c => c.page.isNone) with
  | some c => stopWith s u c false
  | none =>
    let toks := all.filterMap fun c : Cause => c.page.map fun k => (⟨.spur sp.handle, k, sp.massif, some c⟩ : FaultTok)
    let s := { s with pagerQ := s.pagerQ ++ toks }
    let u := { u with retried := u.retried ++ u.badNow, tries := if u.badNow.isEmpty then u.tries else u.tries + 1, badNow := [] }
    rotate (s.setSpur { (u.openRound s.now) with paging := !toks.isEmpty }) sp.handle

/-! ## Committing (R397) -/

/-- A word of memory is filled for every agent: the reads deferred on it complete with its value (R246). -/
def State.fillWord (s : State) (pa : Nat) (v : W64) : State :=
  { s with full := setFull s.full pa, spurs := s.spurs.map fun sp => sp.modLive fun b => b.fill none pa v }

/-- One held write becomes visible (R397); a bank write was made in place. -/
def commitHeld (s : State) (h : Held) : State :=
  if h.bank.isSome then s
  else
    let s := s.physWrite (writerOf h.who h.sys) h.pa h.bytes
    match h.kind with
    | .store => s
    | .stp => s.fillWord h.pa (BitVec.ofNat 64 (ofBytes h.bytes))
    | .clrp => { s with full := (upTo (h.bytes.length / 4)).foldl (fun l j => setEmpty l (h.pa + 4 * j)) s.full }

/-- Every translation cache of the package (R271). -/
def allUnits : List CacheUnit :=
  (upTo 4).flatMap fun m => [.bedrock (BitVec.ofNat 2 m), .lintel (BitVec.ofNat 2 m)] ++
    (upTo 16).map fun n => .ise (BitVec.ofNat 2 m) (BitVec.ofNat 4 n)

/-- Whether a held write is one whose translation an invalidation names (R278). -/
def Held.inRange (h : Held) (all : Bool) (asid lo hi : Nat) : Bool :=
  h.bank.isNone && (all || h.asid == asid) && decide (h.va < hi) && decide (lo < h.va + h.bytes.length)

/-- Mark stale every round that holds such a write (R278). -/
def State.markStale (s : State) (all : Bool) (asid lo hi : Nat) : State :=
  { s with spurs := s.spurs.map fun sp =>
      if sp.live.held.any fun h => h.inRange all asid lo hi then { sp with stale := true } else sp }

/-- Post one invalidation or migration (R277, R278, R280): a migration whose leaf is gone is over at once. A posting's number
is its place in the list. -/
def postInv (by_ : Handle) (s : State) (v : HeldInv) : State :=
  let s := s.stir by_
  let id := s.posted.length
  match v with
  | .inv all asid lo hi =>
    { (s.markStale all asid lo hi) with posted := s.posted ++ [⟨id, by_, .inv all asid lo hi, allUnits, false, false⟩] }
  | .migr asid va frame size =>
    let p : Posted := match s.leaf asid va with
      | .ok l =>
        let bad := l.size != size
        ⟨id, by_, .migr asid va frame size l.ent l.addr, if bad then [] else allUnits, bad, bad⟩
      | .error _ => ⟨id, by_, .migr asid va frame size 0 0, [], true, true⟩
    { s with posted := s.posted ++ [p] }

/-- The engine a command port number names (R285, R287). -/
def enginePort (massif n : Nat) : EnginePort :=
  if n < 8 then .hod (BitVec.ofNat 2 massif) (BitVec.ofNat 3 n)
  else if n < 0x18 then .ise (BitVec.ofNat 2 massif) (BitVec.ofNat 4 (n - 8))
  else .coll

/-- A command leaves for an engine: commands are numbered in the order in which they leave (R290). -/
def State.sendCmd (s : State) (e : EnginePort) (c : Cmd) : State :=
  { s.stir (AgentId.handle c.who) with cmdq := s.cmdq ++ [(e, { c with no := s.nextJob })], nextJob := s.nextJob + 1 }

/-- A flit of a bank gate: it goes onto the wire of its gate, at the spur or a composite it belongs to (R300, R335); one
that no binding wires is discarded. -/
def State.sendGate (s : State) (h : Handle) (p : BitVec 8) (f : Flit) : State :=
  match (gateNames s false 16 h).findSome? fun i => s.wireFrom (.spur i p) with
  | some w => if s.liveEnd w.dst then s.modWire w (· ++ [f]) else s
  | none => s

/-- A flit of a data port: it goes onto the wires from its port, and is discarded where that leads nowhere any more; with no
binding that wires the port, a token goes to the engine's buffer of the port where an engine takes tokens there, and is
discarded else, as headers and seams are (R285, R318, log 11). -/
def State.sendData (s : State) (h : Handle) (p : BitVec 8) (f : Flit) : State :=
  let job : Bool := s.portWanted h p && (match f with | .tok _ => true | _ => false)
  match s.wireFrom (.spur h p) with
  | some w =>
    match w.dst with
    | .job .. => if job then s.modWire w (· ++ [f]) else s
    | .spur .. | .farm .. | .gate .. | .saddle .. => s.putWires (s.wiresFrom (.spur h p)) f
  | none => if job then { s with wires := s.wires ++ [⟨.spur h p, .job h p, [f]⟩] } else s

/-- A data flit of the edge hold leaves at the commit (R400). -/
def releaseFlit (sp : Spur) (s : State) (e : EdgeFlit) : State :=
  match e.flit with
  | .cmd _ | .step => s
  | f => if 0xF0 ≤ e.port then s.sendGate sp.handle e.port f else s.sendData sp.handle e.port f

/-- The engine of a command of a thread's engine port (R287). -/
def threadEngine (massif : Nat) (p : BitVec 3) (c : Cmd) : EnginePort :=
  match c.cls with
  | .hod => .hod (BitVec.ofNat 2 massif) p
  | .coll => .coll
  | .isq | .probe | .unpin => .ise (BitVec.ofNat 2 massif) (p.zeroExtend 4)

/-- The commands at the head of an output queue, each with its engine by the phase of its route then in force, the queue
without them, and the routes with the step words passed (R59, R286). -/
def queuedCmds (massif tag : Nat) : List Route → List OutEnt → List (EnginePort × Cmd) × List OutEnt × List Route
  | rs, [] => ([], [], rs)
  | rs, e :: l =>
    match rs[tag]?, e.flit with
    | some r, .cmd c =>
      if entV r.ent && entKd r.ent == 1 then
        let x := queuedCmds massif tag rs l
        ((enginePort massif (rtCol r.ent).toNat, c) :: x.1, x.2)
      else ([], e :: l, rs)
    | some r, .step =>
      if l.any fun y => match y.flit with | .cmd _ => true | _ => false then queuedCmds massif tag (rs.set tag r.advance) l
      else ([], e :: l, rs)
    | _, _ => ([], e :: l, rs)

/-- The commands that stand in the output queues of a body, and the body without them: a command leaves when its round
commits (R286, R305). -/
def Body.queueCmds (b : Body) (massif : Nat) : List (EnginePort × Cmd) × Body :=
  b.ctxs.foldl (fun x k =>
    (upTo 8).foldl (fun x n =>
      let o := nth k.obind n 0
      if entV o && entKd o == 0 then
        let q := queuedCmds massif (outT0 o).toNat x.2.routes
          (match x.2.ctx? k.row k.col k.idx with | some k => nth k.oq n [] | none => [])
        if q.1.isEmpty then x
        else (x.1 ++ q.1, { x.2 with routes := q.2.2 }.modCtx ⟨0, k.row, k.col, k.idx⟩ fun k => { k with oq := k.oq.set n q.2.1 })
      else x) x) ([], b)

/-- The engine commands of a round in the order of their issue, and the spur without those that stood in its output queues
(R286, R290). -/
def Spur.roundCmds (sp : Spur) : List (EnginePort × Cmd) × Spur :=
  let edge := sp.live.edge.filterMap fun e => match e.flit with
    | .cmd c => some (enginePort sp.massif e.port.toNat, c)
    | _ => none
  let (q, b) := sp.live.queueCmds sp.massif
  let th := sp.live.cmds.map fun p => (threadEngine sp.massif p.1 p.2, p.2)
  (sortBy (fun c => [c.2.no]) (edge ++ q ++ th), { sp with live := b })

/-- A route entry is written (R60): used from the first time the route enters that phase, or at once where it is that of the
phase in force and this was entered with an entry of V = 0. -/
def Route.set (r : Route) (phase : Nat) (v : W32) : Route :=
  { r with ents := r.ents.set phase v, ent := if r.cur = phase && r.hollow then v else r.ent }

/-- A binding is staged (R86). -/
def Body.stage (b : Body) (row col : BitVec 8) (vc : Nat) (v : W32) : Body :=
  { b with bricks := updFirst (fun k => k.row == row && k.col == col) (fun k =>
      { k with staged := (k.staged.filter fun x => x.1 != vc) ++ [(vc, v)] }) b.bricks }

/-- A coroutine resumes with its argument in `g2`; one that was stowed resumes when it is restored (R347). -/
def Spur.resume (x : Spur) (arg : W64) (now : Nat) : Spur :=
  let x := x.modLive fun b => { b with th := b.th.setReg 2 arg }
  match x.life with
  | .yielded => { x with life := .running, lastBusy := now, awayFrom := now, inactive := false }.openRound now
  | _ => { x with start := x.live, wasYielded := false }

/-- A request leaves at the commit (R344). -/
def sendReq (sp : Spur) (s : State) (r : Request) : State :=
  match r with
  | .launch h => { s with claims := updFirst (fun c => c.handle == h && c.st == .held) (fun c => { c with st := .sent }) s.claims }
  | .resume h arg => claimTurn (s.modSpur h fun x => x.resume arg s.now) h
  | .fold _ | .stow _ => s.modSpur sp.handle fun x => { x with move := some r }
  | .table va => commitTable s sp.massif sp.dom sp.handle va
  | .cfree va l => commitFree s sp.massif sp.dom sp.handle va l
  | .route h tag phase v => s.modSpur h fun x => x.modBoth fun b =>
      { b with routes := upd b.routes tag fun r => Route.set r phase v }
  | .vcbind h row col vc v => s.modSpur h fun x => x.modBoth fun b => b.stage row col vc v
  | .scmd .. => s
  | .cwr c n v => s.modSpur c.h fun x => x.modBoth fun b => b.modCtx c fun k => { k with stagedCst := k.stagedCst ++ [(n, v)] }
  | .phase n ctx begun => s.modSpur sp.handle fun x =>
      { x with phases := x.phases ++ [(⟨n, ctx, begun, none, none, none, none, 0⟩ : Phase)] }

/-- Write one trace record to the ring of the home ridge; a full ring drops it and counts it (R79, R412), for a thread's
record in a count of its own (log 119). -/
def writeTrace (sp : Spur) (s : State) (t : CtxAt × List Byte) : State :=
  let r := nth s.ctl.traces sp.home ⟨0, 0, 0, 0⟩
  let size := 2 ^ bitsOf r.trn.toNat 0 5
  let used := (r.trt.toNat + 2 ^ 32 - r.trh.toNat) % 2 ^ 32
  if r.trb = 0 || used ≥ size then
    s.modSpur sp.handle fun x => x.modLive fun b =>
      if t.2.getD 5 0 = 0xFF then { b with th := { b.th with mdc := b.th.mdc + 1 } }
      else b.modCtx t.1 fun k => { k with mdc := k.mdc + 1 }
  else
    let s := s.physWrite .fabric (r.trb.toNat + 64 * (r.trt.toNat % size)) t.2
    { s with ctl := s.ctl.modTrace sp.home fun r => { r with trt := BitVec.ofNat 64 ((r.trt.toNat + 1) % 2 ^ 32) } }

/-- The staged writes of a context's registers (R91, R111). -/
def Ctx.applyStaged (k : Ctx) : Ctx :=
  k.stagedCst.foldl (fun k w =>
    if w.1 = 0x100 then
      let v := w.2.extractLsb' 0 32
      let rm := if bitsOf v.toNat 8 3 ≤ 4 then v &&& 0x700 else k.cst &&& 0x700
      { k with cst := (k.cst &&& ~~~0x37FF#32) ||| (v &&& 0x30FF) ||| rm }
    else if w.1 = 0x103 && w.2 == 0 then { k with mdc := 0 } else k) { k with stagedCst := [] }

/-! ## Changes of configuration (R68, R53) -/

/-- What stands behind the seam marker at an arm's head. -/
def dropSeam : List InEnt → List InEnt
  | .seam :: r => r
  | _ => []

/-- What stands behind the seam marker at a control queue's head. -/
def dropSeamK : List KEnt → List KEnt
  | .seam :: r => r
  | _ => []

/-- An input queue after a change: the tokens that stood behind the seam, and no latched header (R53, log 28). -/
def InQ.change (q : InQ) : InQ := ⟨dropSeam q.arm0, dropSeam q.arm1, 0, 0⟩

/-- The image fields of a fresh `cst` (R52, R53). -/
def cfgCst (c : CtxCfg) : W32 :=
  BitVec.ofNat 32 (c.rm.toNat * 2 ^ 8 + (if c.be then 2 ^ 12 else 0) + (if c.me then 2 ^ 13 else 0))

/-- Load a configuration into a context entry (R53, R121, R160); patterns already entered are kept (R102). -/
def Ctx.install (k : Ctx) (c : CtxCfg) : Ctx :=
  { Ctx.blank k.row k.col k.idx with
    conf := true, sv := c.sv, slots := c.slots, nodes := c.nodes, regs := c.regs, preds := c.preds, win := c.win,
    obind := c.obind, grout := c.grout, cst := cfgCst c, iq := k.iq.map InQ.change, kq := k.kq.map dropSeamK,
    board := k.board, bfc := k.bfc, bsq := k.bsq, mdc := k.mdc, tcount := k.tcount, atomAt := k.atomAt,
    stagedCst := k.stagedCst }

/-- Every bound queue shows a seam marker at its head (R68, condition 2). -/
def Ctx.seamsIn (b : Body) (br : Brick) (k : Ctx) : Bool :=
  ((upTo 8).all fun n =>
    let q := BitVec.ofNat 3 n
    !k.boundIn br q ||
      (seamHead (k.inQ q).arm0 && (!paired br k.idx q || seamHead (k.inQ q).arm1))) &&
  (upTo 4).all fun n => !b.groutInto k (BitVec.ofNat 2 n) || seamHeadK (nth k.kq n [])

/-- Every bound output has injected everything, its seam marker included (R68, condition 3). -/
def Ctx.seamsOut (k : Ctx) : Bool :=
  (upTo 12).all fun n =>
    !k.boundOut n || (k.seamed.getLsbD n && (if n < 8 then (nth k.oq n []).isEmpty else (nth k.jq (n - 8) []).isEmpty))

/-- The change of a context is due at this mark (R68, R105). -/
def Ctx.changeDue (b : Body) (br : Brick) (k : Ctx) : Bool :=
  match k.recon with
  | none => false
  | some r => r.arrived && (!k.conf || (br.active == k.idx && k.seamsIn b br && k.seamsOut))

/-- Put bindings into a channel table: a new value clears the channel's digest (R414). -/
def Brick.setVc (b : Brick) (n : Nat) (v : W32) : Brick :=
  if nth b.vc n 0 == v then b else { b with vc := b.vc.set n v, dig := b.dig.set n 0 }

/-- The context whose change a staged binding waits for (R86). -/
def stagedFor (b : Brick) (x : Nat × W32) : BitVec 3 :=
  let old := nth b.vc x.1 0
  if bindV old then bindCtx old else bindCtx x.2

/-- Apply a change to a brick: the image's bindings, then the staged ones of the context (R68, R105). -/
def Brick.change (b : Brick) (ctx : BitVec 3) (vc : List (Option W32)) : Brick :=
  let mine := b.staged.filter fun x => stagedFor b x == ctx
  let b1 := (vc.zip (upTo vc.length)).foldl (fun b x => match x.1 with | some v => b.setVc x.2 v | none => b)
    { b with staged := b.staged.filter fun x => !(stagedFor b x == ctx) }
  mine.foldl (fun b x => b.setVc x.1 x.2) b1

/-- The changes due at a mark take effect (R94, step 5). -/
def Body.changes (b : Body) : Body :=
  b.ctxs.foldl (fun a k =>
    match b.brick? k.row k.col, k.recon with
    | some br0, some r =>
      if k.changeDue b br0 then
        let a := a.setCtx (k.install r.cfg)
        match a.brick? k.row k.col with
        | some br => a.setBrick (br.change k.idx r.cfg.vc)
        | none => a
      else a
    | _, _ => a) b

/-- A brick lies in a section (R97). -/
def Section.has (x : Section) (row col : BitVec 8) : Bool :=
  decide (x.row ≤ row.toNat) && decide (row.toNat < x.row + x.h) && decide (x.col ≤ col.toNat) &&
    decide (col.toNat < x.col + x.w)

/-- Section `n` of a spur; an image that declares none has section 0 equal to the spur (R97). -/
def Spur.section? (sp : Spur) (n : Nat) : Option Section :=
  if sp.img.sections.isEmpty then (if n = 0 then some ⟨0, 0, 0, sp.img.hd.wd, sp.img.hd.ht⟩ else none)
  else sp.img.sections.find? (·.n == n)

/-- One pending step (R104): taken when the entry holds a configuration on every brick of the section. -/
def stepSection (sp : Spur) (b : Body) (r : StepReq) : Option Body :=
  match sp.section? r.section_.toNat with
  | none => some b
  | some x =>
    if (b.ctxs.filter fun k => x.has k.row k.col && k.idx == r.ctx).all (·.conf) then
      some { b with
        bricks := b.bricks.map fun k => if x.has k.row k.col then { k with active := r.ctx } else k
        ctxs := b.ctxs.map fun k =>
          if x.has k.row k.col && k.idx == r.ctx then
            { k with cst := k.cst &&& ~~~0x8000#32, pass := List.replicate 16 0 }
          else k }
    else none

/-- The pending steps (R94, step 6). -/
def Spur.stepAll (sp : Spur) : Spur :=
  let (b, left) := sp.live.th.steps.foldl (fun (a : Body × List StepReq) r =>
    match stepSection sp a.1 r with
    | some b => (b, a.2)
    | none => (a.1, a.2 ++ [r])) (sp.live, [])
  { sp with live := { b with th := { b.th with steps := left } } }

/-! ## Phase records (R112 to R114) -/

/-- A count of a phase record saturates (R112). -/
def sat32 (n : Nat) : Nat := min n 0xFFFFFFFF

/-- The 32 bytes of a phase record (R113). -/
def phaseRecord (sp : Spur) (p : Phase) (now : Nat) (ret : Bool) : List Byte :=
  let span (a b : Option Nat) : Nat := match a, b with
    | some a, some b => b - a
    | some a, none => now - a
    | none, _ => 0
  let l := (p.loaded.getD now) - p.begun
  let f := span p.loaded p.filled
  let st := span p.filled p.done
  let d := span p.done p.drained
  let big := [l, f, st, d].any (· > 0xFFFFFFFF)
  toBytes 4 sp.handle.toNat ++ [BitVec.ofNat 8 p.section_, p.ctx.zeroExtend 8] ++ zeros 2 ++ toBytes 4 (sat32 l) ++
    toBytes 4 (sat32 f) ++ toBytes 4 (sat32 st) ++ toBytes 4 (sat32 d) ++ toBytes 4 (sat32 p.rounds) ++
    toBytes 4 ((if ret then 1 else 0) + (if big then 2 else 0))

/-- Write a phase record to the log of the home ridge's sequencer; one that faults is dropped and LD set (R113, R114), and
`phi` stays (log 130, DESIGN CHOICE). -/
def writePhase (s : State) (h : Handle) (p : Phase) (ret : Bool) : State :=
  match s.spur? h with
  | none => s
  | some sp =>
    let q := nth s.seqs sp.home ⟨0, 0, 4096⟩
    if q.phb = 0 then s
    else
      match devWrite s (bedrock sp.massif) sp.asid (q.phb.toNat + 32 * (q.phi.toNat % 4096)) (phaseRecord sp p s.now ret) with
      | (s, none) => { s with seqs := upd s.seqs sp.home fun q => { q with phi := q.phi + 1 } }
      | (s, some _) => s.modSpur h fun x => x.modLive fun b => { b with th := { b.th with sst := b.th.sst ||| 0x40000 } }

/-- The newest phase of a section. -/
def Spur.phaseOf (sp : Spur) (n : Nat) : Option Phase := (sp.phases.filter (·.section_ == n)).getLast?

/-- A section's change has taken effect on its last brick: no entry of it still waits for one (R112). -/
def Spur.settled (sp : Spur) (n : Nat) (ctx : BitVec 3) : Bool :=
  match sp.section? n with
  | none => true
  | some x => sp.live.ctxs.all fun k =>
      !(x.has k.row k.col && k.idx == ctx) ||
        (match k.recon with | some r => r.section_.toNat != n | none => true)

/-- Phases whose change has settled are loaded now, and end the earlier phase of their section (R112, R113). -/
def endPhases (s : State) (h : Handle) : State :=
  match s.spur? h with
  | none => s
  | some sp =>
    let hit (p : Phase) : Bool := p.loaded.isNone && sp.settled p.section_ p.ctx
    let isOver := sp.phases.filter fun p => p.loaded.isSome && sp.phases.any fun r => hit r && r.section_ == p.section_
    let keep := (sp.phases.filter fun p => !isOver.contains p).map fun p => if hit p then { p with loaded := some s.now } else p
    isOver.foldl (fun s p => writePhase s h p false) (s.setSpur { sp with phases := keep })

/-- Change the phases in force of the sections that a brick lies in. -/
def Spur.inPhase (sp : Spur) (row col : BitVec 8) (f : Section → Phase → Phase) : Spur :=
  { sp with phases := sp.phases.map fun (p : Phase) =>
      match sp.section? p.section_ with
      | some x => if p.loaded.isSome && x.has row col then f x p else p
      | none => p }

/-- A bound output of a brick injects a token: the fill of its phase is over (R112). -/
def Spur.phaseFill (sp : Spur) (row col : BitVec 8) (now : Nat) : Spur :=
  sp.inPhase row col fun _ p => { p with filled := p.filled.or (some now) }

/-- A `done` of a brick: its phase is steady no more, and drained once every brick of the section has DN = 1 (R112). -/
def Spur.phaseDone (sp : Spur) (row col : BitVec 8) (now : Nat) : Spur :=
  let quiet (x : Section) : Bool := sp.live.bricks.all fun b =>
    !x.has b.row b.col || (b.row == row && b.col == col) ||
      (match sp.live.ctx? b.row b.col b.active with | some k => k.dn | none => false)
  sp.inPhase row col fun x p =>
    { p with done := p.done.or (some now), drained := if quiet x then p.drained.or (some now) else p.drained }

/-! ## The end of a spur's round -/

/-- The place of an agent's `ret` among those of a round (R346): the thread's, then by row and column. -/
def retKey : AgentId → List Nat
  | .thread _ => [0]
  | .ctx c => [1, c.row.toNat, c.col.toNat]

/-- The `ret` that counts (R346): the thread's, else that of the brick lowest in row and then column, first in firing
order; one kept from the round that a fault ended stands before the others of its brick. -/
def Spur.theRet (sp : Spur) : Option (AgentId × W64) :=
  leastBy (fun r : AgentId × W64 => retKey r.1) (sp.kept.toList ++ sp.live.rets)

/-- The effects of a commit on the rest of the machine, in the order of R397. -/
def commitOut (s : State) (sp : Spur) : State :=
  let (cmds, sp) := sp.roundCmds
  let s := s.modSpur sp.handle fun x => { x with live := sp.live }
  let b := sp.live
  let s := b.held.foldl commitHeld s
  let s := b.invs.foldl (postInv sp.handle) s
  let s := cmds.foldl (fun s c => s.sendCmd c.1 c.2) s
  let s := b.edge.foldl (releaseFlit sp) s
  let s := b.reqs.foldl (sendReq sp) s
  let s := { s with recq := s.recq ++ b.recs }
  b.trace.foldl (writeTrace sp) s

/-- A pending fold or stow is cancelled, with the units it reserved (R351). -/
def Spur.noMove (sp : Spur) : Spur := { sp with move := none, stowAt := none, stowWait := none }

/-- A move that a running spur has asked for is still to be performed, at the mark it stands at (R351). -/
def Spur.moveLeft (sp : Spur) : Bool := sp.life == .running && sp.move.isSome

/-- Commit a round (R94, steps 3 to 7), with the S-form fault that made the mark, if one did (R96). A `ret` of the round cancels
a move that is still pending, also where it is kept until the fault is over (R351). -/
def commitRound (s : State) (sp : Spur) (early : Option Cause) : State :=
  let h := sp.handle
  let s := commitOut s sp
  match s.spur? h with
  | none => s
  | some sp =>
    let ret := sp.theRet
    let yld := sp.live.yld
    let sp := sp.modLive fun b => { b with ctxs := b.ctxs.map fun k => k.applyStaged.barKept, edge := [] }
    let sp := { sp with rnd := sp.rnd + 1, atoms := [], badNow := [], retried := [], tries := 0,
                        phases := sp.phases.map fun (p : Phase) => { p with rounds := p.rounds + 1 } }
    let sp := (sp.modLive Body.changes).stepAll
    let s := endPhases (s.setSpur sp) h
    match s.spur? h with
    | none => s
    | some sp =>
      match early with
      | some c =>
        let sp := { (if ret.isSome then sp.noMove else sp) with kept := ret }.openRound s.now
        match c.page with
        | some k =>
          let s := s.setSpur { sp with paging := true }
          rotate { s with pagerQ := s.pagerQ ++ [⟨.spur h, k, sp.massif, some c⟩] } h
        | none => stopWith s sp.noMove c true
      | none =>
        match ret with
        | some r =>
          let s := sp.phases.foldl (fun s p => writePhase s h p true) (s.setSpur { sp with phases := [] })
          rotate (s.modSpur h fun sp => { (sp.noMove.openRound s.now) with final := true, result := r.2 }) h
        | none =>
          let sp := sp.openRound s.now
          match yld with
          | some v => rotate ((s.setSpur { sp with life := .yielded }).complete sp.target h sp.dom 1 v) h
          | none => rotate (s.setSpur sp) h

/-- The round mark of a spur (R94), early where an S-form fault makes it (R96); a bus transfer whose count the round has
reached faults in it where a format differs (R189). -/
def roundMark (s : State) (h : Handle) (early : Option Cause) : State :=
  let s := landLoads s h
  match s.spur? h with
  | none => s
  | some sp =>
    let sp := sp.modLive fun b => b.withdraw.settle
    let sp := sp.live.busFaults.foldl Spur.addCause sp
    if sp.voids then voidRound s sp else commitRound (s.setSpur sp) sp early

end Sys2Proof.Machine
end

