-- ==== Sys2Proof/Machine/Run.lean ====
section
/-! DEFINITION. When a slot is eligible (R37, R63, R166, R241), and how every instruction runs: entered with its agent's
view, and left by writing the view back, by waiting, or by its fault (R39, R47, R64, R96). -/

namespace Sys2Proof.Machine

open Sys2Proof

/-! ## The other conditions -/

/-- An order with a release component. -/
def aRel : AOrd → Bool
  | .rel | .ar | .sc => true
  | .rlx | .acq => false

/-- A fence order with a release component. -/
def fRel : FOrd → Bool
  | .rel | .ar | .sc => true
  | .acq => false

/-- The instruction releases (R241); every order of `fencee` does (R301). -/
def releases : Instr → Bool
  | .amoadd _ o _ _ _ _ _ | .amoand _ o _ _ _ _ _ | .amoor _ o _ _ _ _ _ | .amoxor _ o _ _ _ _ _
  | .amomin _ o _ _ _ _ _ | .amomax _ o _ _ _ _ _ | .amominu _ o _ _ _ _ _ | .amomaxu _ o _ _ _ _ _
  | .amoswap _ o _ _ _ _ _ | .amofadd _ o _ _ _ _ _ | .cas _ o _ _ _ _ _ => aRel o
  | .fence _ o _ | .fencex _ o _ => fRel o
  | .fencee .. => true
  | _ => false

/-- The instruction stores (R241). -/
def storesMem (i : Instr) : Bool :=
  (match i with
    | .stb .. | .stv .. | .stg .. | .stp .. | .clrp .. | .mreconI64 .. | .mreconF32 .. | .mreconF32Add ..
    | .mdrain .. | .mdrainZ .. | .spaccFadd .. | .spaccAdd .. | .spaccFmax .. | .spdrain .. | .spdrainV .. => true
    | _ => false) || writesSw i

/-- The instruction issues an engine command (R286). -/
def isCmd : Instr → Bool
  | .hod .. | .coll .. | .isq .. | .probe .. | .unpin .. => true
  | _ => false

/-- Whether a flit is a command of an agent. -/
def cmdOf (w : AgentId) : Flit → Bool
  | .cmd c => c.who == w
  | _ => false

/-- The cards of an agent's commands that its round holds (R286). -/
def Ex.heldCards (x : Ex) : List W64 :=
  let b := x.sp.live
  let fl (l : List Flit) : List W64 := l.filterMap fun f => match f with
    | .cmd c => if c.who == x.who then some c.card else none
    | _ => none
  fl ((x.cx0.oq.flatMap id).map (·.flit)) ++ fl (b.routes.flatMap fun r => r.fly.map (·.flit)) ++ fl (b.edge.map (·.flit)) ++
    (b.cmds.filter fun c => c.2.who == x.who).map (·.2.card)

/-- The cards of an agent's commands that are held or whose jobs have not completed (R286). -/
def Ex.outstanding (x : Ex) : List W64 :=
  x.heldCards ++ (x.s.cmdq.filter fun c => c.2.who == x.who).map (·.2.card) ++
    (x.s.jobs.filter fun j => j.st != .finished && j.cmd.who == x.who).map (·.cmd.card)

/-- The thread's engine port that a command names holds no command that its engine has not accepted (R286); a brick's output
queue is seen to by its guard. -/
def Ex.portFree (x : Ex) (i : Instr) : Bool :=
  match dstOf i with
  | some (.e n) => x.s.cmdsAt x.who n == 0
  | _ => true

/-- The barrier of a spur that holds a handle (R350). -/
def Spur.barOf (sp : Spur) (h : Handle) : Option (Nat × Barrier) :=
  ((upTo sp.bars.length).zip sp.bars).find? fun b => b.2.st != .free && b.2.h == h

/-- The barrier that holds the handle in A (R350). -/
def Ex.barAt (x : Ex) (a : Opnd) : Option (Nat × Barrier) :=
  let v := x.get a
  if v.extractLsb' 32 32 == 0 then x.sp.barOf (v.setWidth 32) else none

/-- The conditions an instruction adds to its guard (R63). -/
def ready (i : Instr) (x : Ex) : Bool :=
  tileReady i x && streamReady i x.cx0 && x.swOpen i &&
  (!releases i || !(if x.isB then x.cx0.stored else x.th.stored)) &&
  (!isCmd i || (decide (x.outstanding.length < 16) && x.portFree i)) &&
  (!storesMem i || x.cx0.barred &&& ~~~(1#16 <<< x.slot.toNat) == 0) &&
  match i with
  | .kput _ n _ => decide (bitCount (nth x.cx0.jq n.toNat []) < 8)
  | .waitc _ _ _ a | .waitcS _ _ a =>
    (match x.barAt a with
      | some (_, b) => b.st == .complete
      | none => true)
  | _ => true

/-- The spur's edge hold is full for a route, so its output shows no room (R400). -/
def Body.holdFull (b : Body) (t : BitVec 6) : Bool := decide (Config.edgeHold ≤ (b.edge.filter (·.tag == t)).length)

/-- Output queue `n` feeds a route at an edge port whose hold is full (R400). -/
def Ex.outHeld (x : Ex) (n : BitVec 3) : Bool :=
  let o := nth x.cx0.obind n.toNat 0
  let full (t : BitVec 6) : Bool :=
    match x.sp.live.routes[t.toNat]? with
    | some r => entV r.ent && entKd r.ent == 1 && x.sp.live.holdFull t
    | none => false
  entV o && (entKd o != 2) && (full (outT0 o) || (entKd o == 1 && full (outT1 o)))

/-- A brick guard holds (R37); a command that waits for its engine takes an entry of its output queue (R286). -/
def guardHolds (g : BGuard) (x : Ex) : Bool :=
  let k := x.cx0
  x.cx0.predSet x.bank &&& g.pm == g.pv &&& g.pm &&
  (!g.iae || (x.head g.ia).isSome) &&
  (!g.te || (match x.head g.ia with | some (t, _, _) => t.tag == g.tg | none => false)) &&
  (!(g.ibe && !g.ck) || (headTok (k.inQ g.ib).arm0).isSome) &&
  (!(g.ibe && g.ck) || !(frontBits (nth k.kq g.ib.toNat [])).isEmpty) &&
  (!g.oe || (decide (x.s.cmdsAt x.who g.oq + 1 ≤ outRoom (k.outQ g.oq)) && !x.outHeld g.oq))

/-- A sequencer guard holds (R39). -/
def sGuardHolds (g : SGuard) (t : Thread) : Bool := !g.ge || t.f.getLsbD g.gf.toNat != g.gs

/-- The privileged instructions (R44): they execute only in system mode. -/
def privileged : Instr → Bool
  | .tlbinv .. | .tlbinvSpace .. | .tlbsync .. | .migr .. | .eret _ => true
  | _ => false

/-- The fault of an S-form word that fails a check (R47): the word, its address and the code. -/
def undefAt (word pc : W64) (code : Nat) : Flt :=
  ⟨1, BitVec.ofNat 64 code, toBytes 8 word.toNat ++ toBytes 8 pc.toNat, none⟩

/-- The word of an instruction, as the record carries it (R403). -/
def wordOf (i : Instr) : W64 := (encode i).getD 0

/-! ## Leaving -/

/-- The end of a firing: a fault voids the round at its mark (R398), a wait keeps the slot (R235), and else its effects
stand (R64). -/
def leaveB (i : Instr) (c : CtxAt) (x : Ex) : State :=
  let x := if x.ok && writesSw i then x.flushSw else x
  match x.fault with
  | some f =>
    let cause := x.cause f
    x.s.modSpur c.h fun sp =>
      (sp.addCause cause).modLive fun b =>
        match b.ctx? c.row c.col c.ctx with
        | some k => b.setCtx { k with wait := none }
        | none => b
  | none =>
    if x.wait then
      x.s.modSpur c.h fun sp => sp.modLive fun b =>
        match b.ctx? c.row c.col c.ctx with
        | some k => b.setCtx { k with wait := some x.slot }
        | none => b
    else
      let x := if x.cx.load.isSome then x else x.finish (plainSrcs i x.cx0)
      let rest : BitVec 16 := ~~~(1#16 <<< x.slot.toNat)
      { x with
        cx := { x.cx with wait := none, kept := x.cx.kept &&& rest, barred := x.cx.barred &&& rest, bfc := x.cx.bfc + 1 }
        sp := x.sp.busy x.s.now }.back

/-- The end of a thread's instruction: a fault makes a round mark at once (R96), a wait leaves the thread at the word
(R235), and else the program counter moves on. -/
def leaveS (h : Handle) (x : Ex) : State :=
  match x.fault with
  | some f => roundMark x.s h (some (x.cause f))
  | none =>
    if x.wait then x.s
    else
      let pc := if x.th.load.isSome then x.th.pc else x.npc.getD (x.th.pc + 8)
      { x with th := { x.th with pc := pc }, sp := x.sp.busy x.s.now }.back

/-- Run an instruction: its agent's view, its guard, the conditions it adds, the privilege check, and its own effect. A
slot that is not eligible does not fire; a word whose guard fails is issued and only advances `pc` (R39, R63, R365). -/
def run (i : Instr) (g : Guard) (body : Ex → Ex) (s : State) : Out :=
  match g, s.agent with
  | .b gd, .firing c slot =>
    match enterB s c slot i gd with
    | none => .fault .noAgent
    | some x =>
      if guardHolds gd x && ready i x then
        if gd.iae && decide (x.sp.img.hd.bnk ≤ x.bank.toNat) then
          .next (leaveB i c (x.raise (overrun 4 (x.bank.zeroExtend 64))))
        else .next (leaveB i c (body x))
      else .next s
  | .s gd, .thread h =>
    match enterS s h with
    | none => .fault .noAgent
    | some x =>
      if !sGuardHolds gd x.th then .next { x with th := { x.th with pc := x.th.pc + 8 }, sp := x.sp.busy x.s.now }.back
      else if privileged i && !x.th.sysMode then .next (leaveS h (x.raise (undefAt (wordOf i) x.th.pc DecodeError.privileged.code)))
      else if ready i x then .next (leaveS h (body x))
      else .next s
  | _, _ => .fault .noAgent

end Sys2Proof.Machine
end

