-- ==== Sys2Proof/Machine/Arith.lean ====
section
/-! DEFINITION. Number formats, exact values and their one rounding (R115 to R139, R154 to R159): every result is formed
exactly, as a sign, a whole number times a power of two and a sticky bit, and rounded once. -/

namespace Sys2Proof.Machine

open Sys2Proof

/-! ## Formats (R115, R116) -/

/-- A floating-point format: its precision, bias, exponent bits, largest finite code, infinity and canonical NaN. -/
structure FpFmt where
  width : Nat
  p : Nat
  bias : Nat
  maxCode : Nat
  inf : Option Nat
  nan : Nat
  deriving DecidableEq, Repr

/-- FP32. -/
def fp32 : FpFmt := ⟨32, 24, 127, 0x7F7FFFFF, some 0x7F800000, 0x7FC00000⟩
/-- BF16. -/
def bf16 : FpFmt := ⟨16, 8, 127, 0x7F7F, some 0x7F80, 0x7FC0⟩
/-- FP16. -/
def fp16 : FpFmt := ⟨16, 11, 15, 0x7BFF, some 0x7C00, 0x7E00⟩
/-- E4M3. -/
def e4m3 : FpFmt := ⟨8, 4, 7, 0x7E, none, 0x7F⟩
/-- E5M2. -/
def e5m2 : FpFmt := ⟨8, 3, 15, 0x7B, some 0x7C, 0x7E⟩

/-- The smallest normal exponent. -/
def FpFmt.emin (f : FpFmt) : Int := 1 - (f.bias : Int)

/-- The format of a scalar instruction. -/
def fmtOf : FFmt → FpFmt
  | .f32 => fp32 | .bf16 => Machine.bf16 | .f16 => fp16

/-! ## Flags (R52, R126) -/

/-- Inexact. -/
def flNX : BitVec 8 := 0x01
/-- Underflow. -/
def flUF : BitVec 8 := 0x02
/-- Overflow. -/
def flOF : BitVec 8 := 0x04
/-- Division by zero. -/
def flDZ : BitVec 8 := 0x08
/-- Invalid operation. -/
def flNV : BitVec 8 := 0x10
/-- Format. -/
def flFMT : BitVec 8 := 0x20
/-- Scale underflow. -/
def flSUF : BitVec 8 := 0x40
/-- Scale overflow. -/
def flSOF : BitVec 8 := 0x80

/-! ## Values -/

/-- A code read (R116, R117): a NaN with its signalling bit, an infinity, a zero, or `m · 2^e` with `m` above 0. -/
inductive Fv where
  | nan (sig : Bool)
  | inf (neg : Bool)
  | zero (neg : Bool)
  | fin (neg : Bool) (m : Nat) (e : Int)
  deriving DecidableEq, Repr

/-- Read a code of a format; higher bits are ignored (R143). -/
def FpFmt.read (f : FpFmt) (v : Nat) : Fv :=
  let c := v % 2 ^ (f.width - 1)
  let neg := v / 2 ^ (f.width - 1) % 2 == 1
  let fb := f.p - 1
  let fr := c % 2 ^ fb
  let ex := c / 2 ^ fb
  if f.inf == some c then .inf neg
  else if c > f.maxCode then .nan (f.inf.isSome && fr / 2 ^ (fb - 1) % 2 == 0)
  else if ex = 0 then (if fr = 0 then .zero neg else .fin neg fr (f.emin - fb))
  else .fin neg (2 ^ fb + fr) ((ex : Int) - f.bias - fb)

/-- A code with its sign. -/
def FpFmt.signed (f : FpFmt) (neg : Bool) (c : Nat) : Nat := if neg then 2 ^ (f.width - 1) + c else c

/-- A result: its code, its flags, and whether it was rounded, so that RSN draws a value (R121). -/
structure Res where
  code : Nat
  fl : BitVec 8
  drew : Bool
  deriving DecidableEq, Repr

/-- A result that needs no rounding. -/
def Res.plain (c : Nat) : Res := ⟨c, 0, false⟩

/-- A result with flags that needs no rounding. -/
def Res.with (c : Nat) (fl : BitVec 8) : Res := ⟨c, fl, false⟩

/-- An exact nonzero real: `(m + d) · 2^e` with `0 < d < 1` where `sticky`, else `d = 0`. -/
structure Ext where
  neg : Bool
  m : Nat
  e : Int
  sticky : Bool
  deriving DecidableEq, Repr

/-- The integer step of a rounding (R122): `n` with the fraction `rem / 2^sh` and a sticky bit below it, rounded in mode
`rm` (0 RNE, 1 RTZ, 2 RDN, 3 RUP, 4 RSN); `r` is the random value. -/
def roundStep (rm r : Nat) (neg : Bool) (n rem sh : Nat) (sticky : Bool) : Nat :=
  let inexact := rem != 0 || sticky
  let up := match rm with
    | 0 => if 2 * rem > 2 ^ sh then true else if 2 * rem = 2 ^ sh then sticky || n % 2 == 1 else false
    | 2 => neg && inexact
    | 3 => !neg && inexact
    | 4 => decide (2 ^ 16 ≤ rem * 2 ^ 16 / 2 ^ sh + r)
    | _ => false
  if up then n + 1 else n

/-- The overflow results of R123. -/
def overflowCode (f : FpFmt) (rm : Nat) (neg : Bool) : Nat :=
  let toInf := match rm with
    | 1 => false | 2 => neg | 3 => !neg | _ => true
  f.signed neg (if toInf then f.inf.getD f.maxCode else f.maxCode)

/-- `round_fp` (R122, R123). -/
def roundFp (f : FpFmt) (rm r : Nat) (v : Ext) : Res :=
  let lg := (v.m.log2 : Int) + v.e
  let ee := max lg f.emin
  let ue := ee - (f.p : Int) + 1
  let sh := (ue - v.e).toNat
  let k := (v.e - ue).toNat
  let n := v.m * 2 ^ k / 2 ^ sh
  let rem := v.m * 2 ^ k % 2 ^ sh
  let inexact := rem != 0 || v.sticky
  let n' := roundStep rm r v.neg n rem sh v.sticky
  let code := (ee + f.bias - 1).toNat * 2 ^ (f.p - 1) + n'
  if code > f.maxCode then ⟨overflowCode f rm v.neg, flOF ||| flNX, true⟩
  else ⟨f.signed v.neg code, (if inexact then flNX else 0) ||| (if inexact && decide (lg < f.emin) then flUF else 0), true⟩

/-- The canonical NaN, with NV where asked. -/
def nanRes (f : FpFmt) (nv : Bool) : Res := .with f.nan (if nv then flNV else 0)

/-- A value is a signalling NaN. -/
def Fv.sig : Fv → Bool
  | .nan s => s
  | _ => false

/-- A value is a NaN. -/
def Fv.isNan : Fv → Bool
  | .nan _ => true
  | _ => false

/-- The sign bit of a value. -/
def Fv.neg : Fv → Bool
  | .nan _ => false
  | .inf n | .zero n | .fin n _ _ => n

/-- A value with its sign inverted. -/
def Fv.negate : Fv → Fv
  | .nan s => .nan s
  | .inf n => .inf !n
  | .zero n => .zero !n
  | .fin n m e => .fin (!n) m e

/-- Infinity as a code; E4M3 has none and gives its largest value (R123). -/
def infCode (f : FpFmt) (neg : Bool) : Nat := f.signed neg (f.inf.getD f.maxCode)

/-- A signed mantissa. -/
def sgnMant (neg : Bool) (m : Nat) : Int := if neg then -(m : Int) else m

/-- The exact sum of two finite values, as a signed mantissa and its exponent. -/
def sumExact (n1 : Bool) (m1 : Nat) (e1 : Int) (n2 : Bool) (m2 : Nat) (e2 : Int) : Int × Int :=
  let e := min e1 e2
  (sgnMant n1 (m1 * 2 ^ (e1 - e).toNat) + sgnMant n2 (m2 * 2 ^ (e2 - e).toNat), e)

/-- Round a signed mantissa; an exact zero takes the sign of R124. -/
def roundInt2 (f : FpFmt) (rm r : Nat) (v : Int × Int) : Res :=
  if v.1 = 0 then .plain (f.signed (rm == 2) 0) else roundFp f rm r ⟨decide (v.1 < 0), v.1.natAbs, v.2, false⟩

/-- The sum of two values into a format (R124, R154). -/
def addV (f : FpFmt) (rm r : Nat) (a b : Fv) : Res :=
  match a, b with
  | .nan s, x => nanRes f (s || x.sig)
  | x, .nan s => nanRes f (s || x.sig)
  | .inf m, .inf n => if m == n then .plain (infCode f m) else nanRes f true
  | .inf m, _ => .plain (infCode f m)
  | _, .inf n => .plain (infCode f n)
  | .zero m, .zero n => .plain (f.signed (if m == n then m else rm == 2) 0)
  | .zero _, .fin n m e => roundFp f rm r ⟨n, m, e, false⟩
  | .fin n m e, .zero _ => roundFp f rm r ⟨n, m, e, false⟩
  | .fin n1 m1 e1, .fin n2 m2 e2 => roundInt2 f rm r (sumExact n1 m1 e1 n2 m2 e2)

/-- The difference of two values into a format (R154). -/
def subV (f : FpFmt) (rm r : Nat) (a b : Fv) : Res := addV f rm r a b.negate

/-- The exact product of two values that are no NaN and no invalid pair. -/
def mulExact : Fv → Fv → Fv
  | .inf m, b => .inf (m != b.neg)
  | a, .inf n => .inf (a.neg != n)
  | .zero m, b => .zero (m != b.neg)
  | a, .zero n => .zero (a.neg != n)
  | .fin n1 m1 e1, .fin n2 m2 e2 => .fin (n1 != n2) (m1 * m2) (e1 + e2)
  | .nan s, _ => .nan s
  | _, .nan s => .nan s

/-- Zero times infinity. -/
def zeroInf : Fv → Fv → Bool
  | .zero _, .inf _ | .inf _, .zero _ => true
  | _, _ => false

/-- Round one value into a format (R154, R175). -/
def roundV (f : FpFmt) (rm r : Nat) : Fv → Res
  | .nan s => nanRes f s
  | .inf n => .plain (infCode f n)
  | .zero n => .plain (f.signed n 0)
  | .fin n m e => roundFp f rm r ⟨n, m, e, false⟩

/-- `fmul` (R154). -/
def mulV (f : FpFmt) (rm r : Nat) (a b : Fv) : Res :=
  if a.isNan || b.isNan then nanRes f (a.sig || b.sig)
  else if zeroInf a b then nanRes f true
  else roundV f rm r (mulExact a b)

/-- `ffma`: A · B + C with one rounding (R154). -/
def fmaV (f : FpFmt) (rm r : Nat) (a b c : Fv) : Res :=
  if zeroInf a b then nanRes f true
  else if a.isNan || b.isNan || c.isNan then nanRes f (a.sig || b.sig || c.sig)
  else addV f rm r (mulExact a b) c

/-- Integer square root by digits, highest first: `acc` is the root found so far. -/
def isqrtBits (n : Nat) : Nat → Nat → Nat
  | 0, acc => acc
  | k + 1, acc =>
    let t := acc + 2 ^ k
    isqrtBits n k (if t * t ≤ n then t else acc)

/-- The integer square root. -/
def isqrt (n : Nat) : Nat := isqrtBits n (n.log2 / 2 + 1) 0

/-- `fdiv` (R155). -/
def divV (f : FpFmt) (rm r : Nat) (a b : Fv) : Res :=
  match a, b with
  | .nan s, x => nanRes f (s || x.sig)
  | x, .nan s => nanRes f (s || x.sig)
  | .inf _, .inf _ | .zero _, .zero _ => nanRes f true
  | .inf m, x => .plain (infCode f (m != x.neg))
  | x, .inf n => .plain (f.signed (x.neg != n) 0)
  | .zero m, x => .plain (f.signed (m != x.neg) 0)
  | .fin n1 _ _, .zero n2 => .with (infCode f (n1 != n2)) flDZ
  | .fin n1 m1 e1, .fin n2 m2 e2 =>
    let q := m1 * 2 ^ 128
    roundFp f rm r ⟨n1 != n2, q / m2, e1 - e2 - 128, q % m2 != 0⟩

/-- `fsqrt` (R155). -/
def sqrtV (f : FpFmt) (rm r : Nat) : Fv → Res
  | .nan s => nanRes f s
  | .zero n => .plain (f.signed n 0)
  | .inf n => if n then nanRes f true else .plain (infCode f false)
  | .fin n m e =>
    if n then nanRes f true
    else
      let k : Nat := if (e - 256) % 2 = 0 then 256 else 257
      let v := m * 2 ^ k
      let q := isqrt v
      roundFp f rm r ⟨false, q, (e - (k : Int)) / 2, q * q != v⟩

/-- `frsq` (R155). -/
def rsqV (f : FpFmt) (rm r : Nat) : Fv → Res
  | .nan s => nanRes f s
  | .zero n => .with (infCode f n) flDZ
  | .inf n => if n then nanRes f true else .plain 0
  | .fin n m e =>
    if n then nanRes f true
    else
      let t : Nat := if (e + 320) % 2 = 0 then 320 else 321
      let q := isqrt (2 ^ t / m)
      roundFp f rm r ⟨false, q, -((t : Int) + e) / 2, q * q * m != 2 ^ t⟩

/-- Fraction bits kept in `fexp2` and `flog2` (log 6). -/
def fnBits : Nat := 320

/-- The product of the roots `2^(2^-j)` for the fraction bits of `x`, highest first: `fr` holds the `n` bits still to
take, `root` is `2^(2^-j)` and `acc` the product so far, with `fnBits` fraction bits. -/
def exp2Bits : Nat → Nat → Nat → Nat → Nat
  | 0, _, _, acc => acc
  | n + 1, fr, root, acc =>
    let root := isqrt (root * 2 ^ fnBits)
    exp2Bits n fr root (if fr / 2 ^ n % 2 = 1 then acc * root / 2 ^ fnBits else acc)

/-- `fexp2` (R155): a nonzero fraction gives an irrational value, cut to `fnBits` bits and sticky (log 6). -/
def exp2V (f : FpFmt) (rm r : Nat) : Fv → Res
  | .nan s => nanRes f s
  | .zero _ => .plain (f.bias * 2 ^ (f.p - 1))
  | .inf n => if n then .plain 0 else .plain (infCode f false)
  | .fin n m e =>
    if (m.log2 : Int) + e ≥ 10 then roundFp f rm r ⟨false, 1, if n then -1024 else 1024, false⟩
    else if e ≥ 0 then roundFp f rm r ⟨false, 1, sgnMant n (m * 2 ^ e.toNat), false⟩
    else
      let k := (-e).toNat
      let i := sgnMant n m / (2 : Int) ^ k
      let fr := (sgnMant n m % (2 : Int) ^ k).toNat
      if fr = 0 then roundFp f rm r ⟨false, 1, i, false⟩
      else roundFp f rm r ⟨false, exp2Bits k fr (2 * 2 ^ fnBits) (2 ^ fnBits), i - fnBits, true⟩

/-- Bits of log2 of a value in [1, 2) with 640 fraction bits, by repeated squaring. -/
def log2Bits : Nat → Nat → Nat → Nat
  | 0, _, acc => acc
  | n + 1, v, acc =>
    let q := v * v / 2 ^ 640
    if q ≥ 2 ^ 641 then log2Bits n (q / 2) (2 * acc + 1) else log2Bits n q (2 * acc)

/-- `flog2` (R155, log 6). -/
def log2V (f : FpFmt) (rm r : Nat) : Fv → Res
  | .nan s => nanRes f s
  | .zero _ => .with (infCode f true) flDZ
  | .inf n => if n then nanRes f true else .plain (infCode f false)
  | .fin n m e =>
    if n then nanRes f true
    else
      let lg := (m.log2 : Int) + e
      if m = 2 ^ m.log2 then
        if lg = 0 then .plain 0 else roundFp f rm r ⟨decide (lg < 0), lg.natAbs, 0, false⟩
      else
        let v := m * 2 ^ (640 - m.log2)
        let l := log2Bits fnBits v 0
        if lg ≥ 0 then roundFp f rm r ⟨false, lg.toNat * 2 ^ fnBits + l, -(fnBits : Int), true⟩
        else roundFp f rm r ⟨true, (-lg).toNat * 2 ^ fnBits - l - 1, -(fnBits : Int), true⟩

/-! ## Comparison, minimum and maximum -/

/-- The order of two values that are no NaN, −0 equal to +0: −1, 0 or 1. -/
def cmpV (a b : Fv) : Int :=
  let key : Fv → Int × Int := fun v => match v with
    | .inf n => (if n then -2 else 2, 0)
    | _ => (0, 0)
  let fin : Fv → Bool × Nat × Int := fun v => match v with
    | .fin n m e => (n, m, e)
    | _ => (false, 0, 0)
  let ka := (key a).1
  let kb := (key b).1
  if ka != kb then (if ka < kb then -1 else 1)
  else if ka != 0 then 0
  else
    let (n1, m1, e1) := fin a
    let (n2, m2, e2) := fin b
    let d := (sumExact n1 m1 e1 (!n2) m2 e2).1
    if d < 0 then -1 else if d = 0 then 0 else 1

/-- The order of two values, −0 below +0 (R156). -/
def lessV (a b : Fv) : Bool :=
  match a, b with
  | .zero m, .zero n => m && !n
  | _, _ => cmpV a b == -1

/-- `fmin` and `fmax` (R156): `big` picks the maximum, `num` the `.num` form. -/
def minmaxV (f : FpFmt) (big num : Bool) (ca cb : Nat) : Res :=
  let a := f.read ca
  let b := f.read cb
  let nv : BitVec 8 := if a.sig || b.sig then flNV else 0
  let ca := ca % 2 ^ f.width
  let cb := cb % 2 ^ f.width
  if a.isNan && b.isNan then .with f.nan nv
  else if a.isNan then .with (if num then cb else f.nan) nv
  else if b.isNan then .with (if num then ca else f.nan) nv
  else .plain (if big then (if lessV a b then cb else ca) else (if lessV b a then cb else ca))

/-- The compares (R158). -/
def cmpF (c : FCond) (a b : Fv) : Bool × BitVec 8 :=
  let un := a.isNan || b.isNan
  let sig := a.sig || b.sig
  match c with
  | .eq => (!un && cmpV a b == 0, if sig then flNV else 0)
  | .lt => (!un && cmpV a b == -1, if un then flNV else 0)
  | .le => (!un && cmpV a b != 1, if un then flNV else 0)
  | .un => (un, if sig then flNV else 0)

/-- `fclass` (R157). -/
def classV (f : FpFmt) (c : Nat) : Nat :=
  match f.read c with
  | .nan s => if s then 2 ^ 8 else 2 ^ 9
  | .inf n => if n then 2 ^ 0 else 2 ^ 7
  | .zero n => if n then 2 ^ 3 else 2 ^ 4
  | .fin n m _ =>
    let normal := decide (2 ^ (f.p - 1) ≤ m)
    if n then (if normal then 2 ^ 1 else 2 ^ 2) else (if normal then 2 ^ 6 else 2 ^ 5)

/-- `fabs` and `fneg` (R156). -/
def signOp (f : FpFmt) (neg : Bool) (c : Nat) : Nat :=
  if (f.read c).isNan then f.nan
  else
    let b := c % 2 ^ (f.width - 1)
    f.signed (neg && c / 2 ^ (f.width - 1) % 2 == 0) b

/-! ## Integral values and integers (R159) -/

/-- `round_int` (R159): a finite value to a whole number, and whether it changed. -/
def roundWhole (rm r : Nat) (neg : Bool) (m : Nat) (e : Int) : Nat × Bool :=
  if e ≥ 0 then (m * 2 ^ e.toNat, false)
  else
    let sh := (-e).toNat
    (roundStep rm r neg (m / 2 ^ sh) (m % 2 ^ sh) sh false, m % 2 ^ sh != 0)

/-- `fround` (R159). -/
def froundV (f : FpFmt) (rm r : Nat) (c : Nat) : Res :=
  match f.read c with
  | .nan s => nanRes f s
  | .inf n => .plain (infCode f n)
  | .zero n => .plain (f.signed n 0)
  | .fin n m e =>
    let (k, ch) := roundWhole rm r n m e
    let code := if k = 0 then f.signed n 0 else (roundFp f 0 0 ⟨n, k, 0, false⟩).code
    ⟨code, if ch then flNX else 0, true⟩

/-- `fcvti` into the range `lo` to `hi` (R159): the whole number and its result. -/
def toIntV (rm r : Nat) (lo hi : Int) (v : Fv) : Int × Res :=
  match v with
  | .nan _ => (0, .with 0 flNV)
  | .inf n => (if n then lo else hi, ⟨0, flNX, true⟩)
  | .zero _ => (0, ⟨0, 0, true⟩)
  | .fin n m e =>
    let (k, ch) := roundWhole rm r n m e
    let s := sgnMant n k
    let d := min (max s lo) hi
    (d, ⟨0, if ch || d != s then flNX else 0, true⟩)

/-- `icvtf` (R159). -/
def ofIntV (f : FpFmt) (rm r : Nat) (v : Int) : Res :=
  if v = 0 then .plain 0 else roundFp f rm r ⟨decide (v < 0), v.natAbs, 0, false⟩

/-- `fscale` (R159); the exponent is cut where every result is the same. -/
def scaleV (f : FpFmt) (rm r : Nat) (c : Nat) (b : Int) : Res :=
  match f.read c with
  | .nan s => nanRes f s
  | .inf n => .plain (infCode f n)
  | .zero n => .plain (f.signed n 0)
  | .fin n m e => roundFp f rm r ⟨n, m, e + min (max b (-2048)) 2048, false⟩

/-! ## Stochastic rounding (R119, R120) -/

/-- `mix32` (R119). -/
def mix32 (x : W32) : W32 :=
  let x := x ^^^ (x >>> 16)
  let x := x * 0x6C8E9CF5
  let x := x ^^^ (x >>> 15)
  let x := x * 0xB3A15E27
  x ^^^ (x >>> 16)

/-- `rsn16` (R119). -/
def rsn16 (seed : W64) (node bank n : W32) : Nat :=
  let h := mix32 (seed.extractLsb' 0 32)
  let h := mix32 (h ^^^ seed.extractLsb' 32 32)
  let h := mix32 (h ^^^ node)
  let h := mix32 (h ^^^ bank)
  let h := mix32 (h ^^^ n)
  h.toNat % 2 ^ 16

/-- The mode an instruction rounds in (R125). -/
def Ex.mode (x : Ex) : Rm → Nat
  | .rne => 0 | .rtz => 1 | .rdn => 2 | .rup => 3 | .rsn => 4
  | .dyn => rmField x.status

/-- Run one rounded operation of the agent (R121, R127): the random value of its counter is drawn where the operation
rounds in mode RSN, and its flags are ORed into the status. -/
def Ex.rounded (x : Ex) (rm : Nat) (f : Nat → Nat → Res) : Ex × Nat :=
  if rm = 4 then
    let (y, n) := x.drawN
    let r := f rm (rsn16 x.sp.seed x.node (if x.isB then x.bank.zeroExtend 32 else 0) n)
    ((if r.drew then y else x).flags r.fl, r.code)
  else
    let r := f rm 0
    (x.flags r.fl, r.code)

/-! ## Block-scaled formats (R129 to R134) -/

/-- The exponent of an E8M0 code, and its flag (R131). -/
def e8m0 (c : Nat) : Int × BitVec 8 := if c % 256 = 255 then (127, flFMT) else ((c % 256 : Nat) - 127, 0)

/-- The largest magnitude of a block-scaled format (R133). -/
def kMax : KFmt → Nat
  | .k8 => 127 | .k4 => 7 | .k16 => 16319

/-- `ksat` (R128). -/
def ksat (v : Int) (mx : Nat) : Int := min (max v (-(mx : Int))) mx

/-- A hi limb or K8 code (R129). -/
def k8Read (c : Nat) : Int × BitVec 8 := if c % 256 = 0x80 then (-127, flFMT) else (Machine.signed 8 c, 0)

/-- A K4 code (R129). -/
def k4Read (c : Nat) : Int × BitVec 8 := if c % 16 = 8 then (-7, flFMT) else (Machine.signed 4 c, 0)

/-- A lo limb (R130). -/
def loRead (c : Nat) : Int × BitVec 8 :=
  (Machine.signed 7 c, if c / 128 % 2 != c / 64 % 2 then flFMT else 0)

/-- The value of a code of a block-scaled format (R129, R130). -/
def kRead : KFmt → Nat → Int × BitVec 8
  | .k8, c => k8Read c
  | .k4, c => k4Read c
  | .k16, c =>
    let h := k8Read (c / 256)
    let l := loRead c
    (h.1 * 128 + l.1, h.2 ||| l.2)

/-- `k16_split` as a code (R130). -/
def k16Code (q : Int) : Nat :=
  let lo := (q + 64) % 128 - 64
  let hi := (q - lo) / 128
  wrapNat 8 hi * 256 + wrapNat 8 lo

/-- The code of a quantised value. -/
def kCode : KFmt → Int → Nat
  | .k8, q => wrapNat 8 q
  | .k4, q => wrapNat 4 q
  | .k16, q => k16Code q

/-- `scalex_code` (R132). -/
def scalexV (k : KFmt) (c : Nat) : Nat × BitVec 8 :=
  let d : Int := match k with | .k8 => 6 | .k4 => 2 | .k16 => 14
  match fp32.read c with
  | .nan _ => (0xFE, flNV)
  | .inf _ => (0xFE, flSOF)
  | .zero _ => (0, 0)
  | .fin _ m e =>
    let x := (m.log2 : Int) + e - d
    if x < -127 then (0, flSUF) else if x > 127 then (0xFE, flSOF) else ((x + 127).toNat, 0)

/-- `qnt_k` (R133); scale code 0xFF sets FMT whatever the value is (log 39, DEDUCED). -/
def qntV (k : KFmt) (v : Fv) (sc : Nat) : Int × BitVec 8 :=
  let mx := kMax k
  let (x, fl) := e8m0 sc
  match v with
  | .nan _ => (0, flNV ||| fl)
  | .inf n => (sgnMant n mx, flSOF ||| flNX ||| fl)
  | .zero _ => (0, fl)
  | .fin n m e =>
    let (t, ch) := roundWhole 0 0 n m (e - x)
    let isOver := if e - x ≥ 0 then decide (mx + 1 ≤ m * 2 ^ (e - x).toNat) else decide ((mx + 1) * 2 ^ (x - e).toNat ≤ m)
    let q := ksat (sgnMant n t) mx
    (q, fl ||| (if isOver then flSOF else 0) ||| (if ch || q != sgnMant n t then flNX else 0))

/-- `dqnt` (R134, R176): the value times its scale, rounded once; scale code 0xFF sets FMT also where the code is 0 (log 39,
DEDUCED). -/
def dqntV (f : FpFmt) (rm r : Nat) (k : KFmt) (c sc : Nat) : Res :=
  let (q, f1) := kRead k c
  let (x, f2) := e8m0 sc
  if q = 0 then .with 0 (f1 ||| f2)
  else
    let y := roundFp f rm r ⟨decide (q < 0), q.natAbs, x, false⟩
    { y with fl := y.fl ||| f1 ||| f2 }

/-! ## TRI31 (R137 to R139) -/

/-- `trienc` (R137). -/
def trienc (v : Int) : Nat := (v % 1023).toNat * 2 ^ 21 + (v % 1024).toNat * 2 ^ 11 + (v % 1025).toNat

/-- The residues of a word, reduced, and the flag (R139). -/
def triRead (w : Nat) : (Nat × Nat × Nat) × BitVec 8 :=
  let ra := bitsOf w 21 10
  let rb := bitsOf w 11 10
  let rc := bitsOf w 0 11
  ((if ra = 1023 then 0 else ra, rb, if rc > 1024 then rc - 1025 else rc),
    if bitsOf w 31 1 = 1 || ra = 1023 || rc > 1024 then flFMT else 0)

/-- `crt3` (R138). -/
def crt3 (t : Nat × Nat × Nat) : Int :=
  let (ra, rb, rc) := t
  let y1 : Int := ((ra : Int) - rb) % 1023
  let y2 : Int := ((rb : Int) - rc) % 1025
  let z : Int := (y1 - y2) * 513 % 1025
  let v0 : Int := rb + 1024 * (y1 + 1023 * z)
  if v0 ≤ 536870399 then v0 else v0 - 1073740800

/-- A word of residues. -/
def triWord (t : Nat × Nat × Nat) : Nat := t.1 * 2 ^ 21 + t.2.1 * 2 ^ 11 + t.2.2

/-- Channel by channel (R137, R203). -/
def triOp (op : Nat → Nat → Nat) (a b : Nat × Nat × Nat) : Nat × Nat × Nat :=
  (op a.1 b.1 % 1023, op a.2.1 b.2.1 % 1024, op a.2.2 b.2.2 % 1025)

end Sys2Proof.Machine
end

