-- ==== Sys2Proof/Machine/Integer.lean ====
section
/-! DEFINITION. The integer and address instructions (R146 to R152). Each computes on patterns of the agent's width: 32
bits in B-form, 64 in S-form (R143). -/

namespace Sys2Proof.Machine

open Sys2Proof

/-! ## Shared forms -/

/-- A result computed from one source at the agent's width (R143). -/
def Ex.int1 (x : Ex) (d a : Opnd) (f : (w : Nat) → BitVec w → BitVec w) : Ex :=
  x.put d (if x.isB then (f 32 ((x.get a).setWidth 32)).setWidth 64 else f 64 (x.get a))

/-- A result computed from two sources at the agent's width (R143). -/
def Ex.int2 (x : Ex) (d a b : Opnd) (f : (w : Nat) → BitVec w → BitVec w → BitVec w) : Ex :=
  x.put d (if x.isB then (f 32 ((x.get a).setWidth 32) ((x.get b).setWidth 32)).setWidth 64
    else f 64 (x.get a) (x.get b))

/-- A result computed from a source and an immediate, wrapped to the width (R147). -/
def Ex.intImm (x : Ex) (d a : Opnd) (imm : Int) (f : (w : Nat) → BitVec w → BitVec w → BitVec w) : Ex :=
  x.int1 d a fun w v => f w v (BitVec.ofInt w imm)

/-- A truth value as a pattern. -/
def ofBool (w : Nat) (b : Bool) : BitVec w := if b then 1 else 0

/-- The compares of R150. -/
def cmpInt (c : Cond) (a b : BitVec w) : Bool :=
  match c with
  | .eq => a == b
  | .ne => a != b
  | .lt => a.slt b
  | .ltu => a.ult b
  | .le => a.sle b
  | .leu => a.ule b

/-- Compare two sources (R150). -/
def Ex.cmp (x : Ex) (c : Cond) (d a b : Opnd) : Ex := x.int2 d a b fun w u v => ofBool w (cmpInt c u v)

/-- Compare a source with an immediate (R150). -/
def Ex.cmpImm (x : Ex) (c : Cond) (d a : Opnd) (imm : Int) : Ex := x.intImm d a imm fun w u v => ofBool w (cmpInt c u v)

/-- The addend C (R144): the old value of a register D, else the head of IB, which the firing dequeues. -/
def Ex.addend (x : Ex) (d : Opnd) : W64 :=
  match d with
  | .d _ | .g _ => x.get d
  | _ => x.get (.i x.g.ib)

/-- The queues a firing dequeues for its addend, with those its operands name (R34, R144). -/
def Ex.dropAddend (x : Ex) (d : Opnd) (l : List Opnd) : Ex :=
  match d with
  | .d _ | .g _ => x
  | _ => if !x.ok || l.contains (.iDeq x.g.ib) then x else { x with cx := x.cx.deq x.br x.g.ib false }

/-! ## Counting -/

/-- Leading zero bits, with `n` bits still to look at (R149). -/
def leadingZeros (v : BitVec w) : Nat → Nat
  | 0 => 0
  | n + 1 => if v.getLsbD n then 0 else 1 + leadingZeros v n

/-- Trailing zero bits from bit `i` on, with `n` bits still to look at (R149). -/
def trailingZeros (v : BitVec w) : Nat → Nat → Nat
  | 0, _ => 0
  | n + 1, i => if v.getLsbD i then 0 else 1 + trailingZeros v n (i + 1)

/-- One bits among the lowest `n` (R149). -/
def onesCount (v : BitVec w) : Nat → Nat
  | 0 => 0
  | n + 1 => (v.getLsbD n).toNat + onesCount v n

/-! ## Fields and saturation -/

/-- The position and the used width of a bit field (R151). -/
def fieldAt (w : Nat) (b : BitVec w) : Nat × Nat :=
  let p := if w = 32 then bitsOf b.toNat 0 5 else bitsOf b.toNat 0 6
  let n := if w = 32 then bitsOf b.toNat 8 5 + 1 else bitsOf b.toNat 8 6 + 1
  (p, Nat.min n (w - p))

/-- A value clamped to the signed range (R152). -/
def satInt (w : Nat) (v : Int) : BitVec w :=
  BitVec.ofInt w (Min.min (Max.max v (-(2 : Int) ^ (w - 1))) ((2 : Int) ^ (w - 1) - 1))

/-- The truncated quotient (R148). -/
def divS (w : Nat) (a b : BitVec w) : BitVec w :=
  if b.toInt = 0 then BitVec.ofInt w (-1)
  else if a.toInt = -(2 : Int) ^ (w - 1) ∧ b.toInt = -1 then a
  else BitVec.ofInt w (a.toInt.tdiv b.toInt)

/-- The remainder of the truncated quotient (R148). -/
def remS (w : Nat) (a b : BitVec w) : BitVec w :=
  if b.toInt = 0 then a
  else if a.toInt = -(2 : Int) ^ (w - 1) ∧ b.toInt = -1 then 0
  else BitVec.ofInt w (a.toInt - b.toInt * a.toInt.tdiv b.toInt)

/-- The unsigned quotient (R148). -/
def divU (w : Nat) (a b : BitVec w) : BitVec w :=
  if b.toNat = 0 then BitVec.ofNat w (2 ^ w - 1) else BitVec.ofNat w (a.toNat / b.toNat)

/-- The unsigned remainder (R148). -/
def remU (w : Nat) (a b : BitVec w) : BitVec w :=
  if b.toNat = 0 then a else BitVec.ofNat w (a.toNat % b.toNat)

/-- A rotation to the left (R147). -/
def rotL (w : Nat) (a b : BitVec w) : BitVec w :=
  let k := b.toNat % w
  (a <<< k) ||| (a >>> (w - k))

/-! ## The meanings -/

/-- `add` (R147). -/
def execAdd (g : Guard) (d a b : Opnd) (s : State) : Out := run (.add g d a b) g (fun x => x.int2 d a b fun _ u v => u + v) s

/-- `sub` (R147). -/
def execSub (g : Guard) (d a b : Opnd) (s : State) : Out := run (.sub g d a b) g (fun x => x.int2 d a b fun _ u v => u - v) s

/-- `addi` (R147). -/
def execAddi (g : Guard) (d a : Opnd) (imm : BitVec 12) (s : State) : Out :=
  run (.addi g d a imm) g (fun x => x.intImm d a (imm12 g imm) fun _ u v => u + v) s

/-- `mul` (R148). -/
def execMul (g : Guard) (d a b : Opnd) (s : State) : Out :=
  run (.mul g d a b) g (fun x => x.int2 d a b fun w u v => BitVec.ofInt w (u.toInt * v.toInt)) s

/-- `mulh` (R148). -/
def execMulh (g : Guard) (d a b : Opnd) (s : State) : Out :=
  run (.mulh g d a b) g (fun x => x.int2 d a b fun w u v => BitVec.ofInt w (u.toInt * v.toInt / (2 : Int) ^ w)) s

/-- `mulhu` (R148). -/
def execMulhu (g : Guard) (d a b : Opnd) (s : State) : Out :=
  run (.mulhu g d a b) g (fun x => x.int2 d a b fun w u v => BitVec.ofNat w (u.toNat * v.toNat / 2 ^ w)) s

/-- `div` (R148). -/
def execDiv (g : Guard) (d a b : Opnd) (s : State) : Out := run (.div g d a b) g (fun x => x.int2 d a b divS) s

/-- `divu` (R148). -/
def execDivu (g : Guard) (d a b : Opnd) (s : State) : Out := run (.divu g d a b) g (fun x => x.int2 d a b divU) s

/-- `rem` (R148). -/
def execRem (g : Guard) (d a b : Opnd) (s : State) : Out := run (.rem g d a b) g (fun x => x.int2 d a b remS) s

/-- `remu` (R148). -/
def execRemu (g : Guard) (d a b : Opnd) (s : State) : Out := run (.remu g d a b) g (fun x => x.int2 d a b remU) s

/-- `and` (R147). -/
def execAnd (g : Guard) (d a b : Opnd) (s : State) : Out := run (.and g d a b) g (fun x => x.int2 d a b fun _ u v => u &&& v) s

/-- `andi` (R147). -/
def execAndi (g : Guard) (d a : Opnd) (imm : BitVec 12) (s : State) : Out :=
  run (.andi g d a imm) g (fun x => x.intImm d a (imm12 g imm) fun _ u v => u &&& v) s

/-- `or` (R147). -/
def execOr (g : Guard) (d a b : Opnd) (s : State) : Out := run (.or g d a b) g (fun x => x.int2 d a b fun _ u v => u ||| v) s

/-- `ori` (R147). -/
def execOri (g : Guard) (d a : Opnd) (imm : BitVec 12) (s : State) : Out :=
  run (.ori g d a imm) g (fun x => x.intImm d a (imm12 g imm) fun _ u v => u ||| v) s

/-- `xor` (R147). -/
def execXor (g : Guard) (d a b : Opnd) (s : State) : Out := run (.xor g d a b) g (fun x => x.int2 d a b fun _ u v => u ^^^ v) s

/-- `xori` (R147). -/
def execXori (g : Guard) (d a : Opnd) (imm : BitVec 12) (s : State) : Out :=
  run (.xori g d a imm) g (fun x => x.intImm d a (imm12 g imm) fun _ u v => u ^^^ v) s

/-- `shl` (R147). -/
def execShl (g : Guard) (d a b : Opnd) (s : State) : Out :=
  run (.shl g d a b) g (fun x => x.int2 d a b fun w u v => u <<< (v.toNat % w)) s

/-- `shli` (R147). -/
def execShli (g : Guard) (d a : Opnd) (imm : BitVec 12) (s : State) : Out :=
  run (.shli g d a imm) g (fun x => x.int1 d a fun _ u => u <<< (imm12 g imm).toNat) s

/-- `shr` (R147). -/
def execShr (g : Guard) (d a b : Opnd) (s : State) : Out :=
  run (.shr g d a b) g (fun x => x.int2 d a b fun w u v => u >>> (v.toNat % w)) s

/-- `shri` (R147). -/
def execShri (g : Guard) (d a : Opnd) (imm : BitVec 12) (s : State) : Out :=
  run (.shri g d a imm) g (fun x => x.int1 d a fun _ u => u >>> (imm12 g imm).toNat) s

/-- `sra` (R147). -/
def execSra (g : Guard) (d a b : Opnd) (s : State) : Out :=
  run (.sra g d a b) g (fun x => x.int2 d a b fun w u v => u.sshiftRight (v.toNat % w)) s

/-- `srai` (R147). -/
def execSrai (g : Guard) (d a : Opnd) (imm : BitVec 12) (s : State) : Out :=
  run (.srai g d a imm) g (fun x => x.int1 d a fun _ u => u.sshiftRight (imm12 g imm).toNat) s

/-- `rotl` (R147). -/
def execRotl (g : Guard) (d a b : Opnd) (s : State) : Out := run (.rotl g d a b) g (fun x => x.int2 d a b rotL) s

/-- `clz` (R149). -/
def execClz (g : Guard) (d a : Opnd) (s : State) : Out :=
  run (.clz g d a) g (fun x => x.int1 d a fun w u => BitVec.ofNat w (leadingZeros u w)) s

/-- `ctz` (R149). -/
def execCtz (g : Guard) (d a : Opnd) (s : State) : Out :=
  run (.ctz g d a) g (fun x => x.int1 d a fun w u => BitVec.ofNat w (trailingZeros u w 0)) s

/-- `popc` (R149). -/
def execPopc (g : Guard) (d a : Opnd) (s : State) : Out :=
  run (.popc g d a) g (fun x => x.int1 d a fun w u => BitVec.ofNat w (onesCount u w)) s

/-- `min` (R149). -/
def execMin (g : Guard) (d a b : Opnd) (s : State) : Out :=
  run (.min g d a b) g (fun x => x.int2 d a b fun _ u v => if v.slt u then v else u) s

/-- `max` (R149). -/
def execMax (g : Guard) (d a b : Opnd) (s : State) : Out :=
  run (.max g d a b) g (fun x => x.int2 d a b fun _ u v => if u.slt v then v else u) s

/-- `minu` (R149). -/
def execMinu (g : Guard) (d a b : Opnd) (s : State) : Out :=
  run (.minu g d a b) g (fun x => x.int2 d a b fun _ u v => if v.ult u then v else u) s

/-- `maxu` (R149). -/
def execMaxu (g : Guard) (d a b : Opnd) (s : State) : Out :=
  run (.maxu g d a b) g (fun x => x.int2 d a b fun _ u v => if u.ult v then v else u) s

/-- `abs` (R149). -/
def execAbs (g : Guard) (d a : Opnd) (s : State) : Out :=
  run (.abs g d a) g (fun x => x.int1 d a fun w u => BitVec.ofNat w u.toInt.natAbs) s

/-- `neg` (R149). -/
def execNeg (g : Guard) (d a : Opnd) (s : State) : Out := run (.neg g d a) g (fun x => x.int1 d a fun _ u => -u) s

/-- `cmpeq` (R150). -/
def execCmpeq (g : Guard) (d a b : Opnd) (s : State) : Out := run (.cmpeq g d a b) g (fun x => x.cmp .eq d a b) s

/-- `cmpne` (R150). -/
def execCmpne (g : Guard) (d a b : Opnd) (s : State) : Out := run (.cmpne g d a b) g (fun x => x.cmp .ne d a b) s

/-- `cmplt` (R150). -/
def execCmplt (g : Guard) (d a b : Opnd) (s : State) : Out := run (.cmplt g d a b) g (fun x => x.cmp .lt d a b) s

/-- `cmpltu` (R150). -/
def execCmpltu (g : Guard) (d a b : Opnd) (s : State) : Out := run (.cmpltu g d a b) g (fun x => x.cmp .ltu d a b) s

/-- `cmple` (R150). -/
def execCmple (g : Guard) (d a b : Opnd) (s : State) : Out := run (.cmple g d a b) g (fun x => x.cmp .le d a b) s

/-- `cmpleu` (R150). -/
def execCmpleu (g : Guard) (d a b : Opnd) (s : State) : Out := run (.cmpleu g d a b) g (fun x => x.cmp .leu d a b) s

/-- `cmpeqi` (R150). -/
def execCmpeqi (g : Guard) (d a : Opnd) (imm : BitVec 9) (s : State) : Out :=
  run (.cmpeqi g d a imm) g (fun x => x.cmpImm .eq d a (imm9 g imm)) s

/-- `cmpnei` (R150). -/
def execCmpnei (g : Guard) (d a : Opnd) (imm : BitVec 9) (s : State) : Out :=
  run (.cmpnei g d a imm) g (fun x => x.cmpImm .ne d a (imm9 g imm)) s

/-- `cmplti` (R150). -/
def execCmplti (g : Guard) (d a : Opnd) (imm : BitVec 9) (s : State) : Out :=
  run (.cmplti g d a imm) g (fun x => x.cmpImm .lt d a (imm9 g imm)) s

/-- `cmpltui` (R150). -/
def execCmpltui (g : Guard) (d a : Opnd) (imm : BitVec 9) (s : State) : Out :=
  run (.cmpltui g d a imm) g (fun x => x.cmpImm .ltu d a (imm9 g imm)) s

/-- `cmplei` (R150). -/
def execCmplei (g : Guard) (d a : Opnd) (imm : BitVec 9) (s : State) : Out :=
  run (.cmplei g d a imm) g (fun x => x.cmpImm .le d a (imm9 g imm)) s

/-- `cmpleui` (R150). -/
def execCmpleui (g : Guard) (d a : Opnd) (imm : BitVec 9) (s : State) : Out :=
  run (.cmpleui g d a imm) g (fun x => x.cmpImm .leu d a (imm9 g imm)) s

/-- `movi` (R147). -/
def execMovi (g : Guard) (d : Opnd) (imm : BitVec 18) (s : State) : Out :=
  run (.movi g d imm) g (fun x => x.intImm d .z (imm18 g imm) fun _ _ v => v) s

/-- `movhi` (R147): the immediate is read unsigned; D is read before it is written. -/
def execMovhi (g : Guard) (d : Opnd) (imm : BitVec 18) (s : State) : Out :=
  run (.movhi g d imm) g (fun x => x.put d
    (if x.isB then (((imm.setWidth 32) <<< 16 ||| ((x.get d).setWidth 16).setWidth 32 : W32)).setWidth 64
      else ((BitVec.ofInt 64 (imm18 g imm)) <<< 32) ||| ((x.get d).setWidth 32).setWidth 64)) s

/-- `bfx` (R151). -/
def execBfx (g : Guard) (d a b : Opnd) (s : State) : Out :=
  run (.bfx g d a b) g (fun x => x.int2 d a b fun w u v =>
    let (p, n) := fieldAt w v
    BitVec.ofNat w (bitsOf u.toNat p n)) s

/-- `bfx.s` (R151). -/
def execBfxS (g : Guard) (d a b : Opnd) (s : State) : Out :=
  run (.bfxS g d a b) g (fun x => x.int2 d a b fun w u v =>
    let (p, n) := fieldAt w v
    BitVec.ofInt w (signed n (bitsOf u.toNat p n))) s

/-- `bfi` (R151). -/
def execBfi (g : Guard) (d a b : Opnd) (s : State) : Out :=
  run (.bfi g d a b) g (fun x =>
    let old := x.get d
    x.int2 d a b fun w u v =>
      let (p, n) := fieldAt w v
      let m : BitVec w := BitVec.ofNat w (2 ^ n - 1) <<< p
      (old.setWidth w &&& ~~~m) ||| ((u <<< p) &&& m)) s

/-- `adds` (R152). -/
def execAdds (g : Guard) (d a b : Opnd) (s : State) : Out :=
  run (.adds g d a b) g (fun x => x.int2 d a b fun w u v => satInt w (u.toInt + v.toInt)) s

/-- `subs` (R152). -/
def execSubs (g : Guard) (d a b : Opnd) (s : State) : Out :=
  run (.subs g d a b) g (fun x => x.int2 d a b fun w u v => satInt w (u.toInt - v.toInt)) s

/-- `madd` (R147, R144). -/
def execMadd (g : Guard) (d a b : Opnd) (s : State) : Out :=
  run (.madd g d a b) g (fun x =>
    (x.int2 d a b fun w u v => (x.addend d).setWidth w + BitVec.ofInt w (u.toInt * v.toInt)).dropAddend d [a, b]) s

/-- `lea` (R147). -/
def execLea (g : Guard) (sh : BitVec 2) (d a b : Opnd) (s : State) : Out :=
  run (.lea g sh d a b) g (fun x => x.int2 d a b fun _ u v => u + (v <<< sh.toNat)) s

end Sys2Proof.Machine
end

