-- ==== Sys2Proof/Machine/Float.lean ====
section
/-! DEFINITION. Scalar floating point (R153 to R159). Operands are read in the instruction's format, the result is
rounded once and written as its code (R143). -/

namespace Sys2Proof.Machine

open Sys2Proof

/-! ## Shared forms -/

/-- A source as a value of a format (R143). -/
def Ex.fv (x : Ex) (f : FFmt) (o : Opnd) : Fv := (fmtOf f).read (x.nat o)

/-- Write the result of one rounded operation (R121, R127). -/
def Ex.fput (x : Ex) (rm : Rm) (d : Opnd) (f : Nat → Nat → Res) : Ex :=
  let (x, c) := x.rounded (x.mode rm) f
  x.put d (BitVec.ofNat 64 c)

/-- A result of one operand. -/
def Ex.fp1 (x : Ex) (f : FFmt) (rm : Rm) (d a : Opnd) (op : FpFmt → Nat → Nat → Fv → Res) : Ex :=
  x.fput rm d fun m r => op (fmtOf f) m r (x.fv f a)

/-- A result of two operands. -/
def Ex.fp2 (x : Ex) (f : FFmt) (rm : Rm) (d a b : Opnd) (op : FpFmt → Nat → Nat → Fv → Fv → Res) : Ex :=
  x.fput rm d fun m r => op (fmtOf f) m r (x.fv f a) (x.fv f b)

/-- A result of two operands and the addend (R144). -/
def Ex.fp3 (x : Ex) (f : FFmt) (rm : Rm) (d a b : Opnd) (sub : Bool) : Ex :=
  let c := (fmtOf f).read (x.addend d).toNat
  (x.fput rm d fun m r => fmaV (fmtOf f) m r (x.fv f a) (x.fv f b) (if sub then c.negate else c)).dropAddend d [a, b]

/-- A compare (R158). -/
def Ex.fcmp (x : Ex) (f : FFmt) (c : FCond) (d a b : Opnd) : Ex :=
  let (v, fl) := cmpF c (x.fv f a) (x.fv f b)
  (x.flags fl).put d (ofBool 64 v)

/-- The result of an operation that rounds nothing, with its flags. -/
def Ex.fplain (x : Ex) (d : Opnd) (r : Res) : Ex := (x.flags r.fl).put d (BitVec.ofNat 64 r.code)

/-! ## The meanings -/

/-- `fadd` (R154). -/
def execFadd (g : Guard) (fmt : FFmt) (rm : Rm) (d a b : Opnd) (s : State) : Out :=
  run (.fadd g fmt rm d a b) g (fun x => x.fp2 fmt rm d a b addV) s

/-- `fsub` (R154). -/
def execFsub (g : Guard) (fmt : FFmt) (rm : Rm) (d a b : Opnd) (s : State) : Out :=
  run (.fsub g fmt rm d a b) g (fun x => x.fp2 fmt rm d a b subV) s

/-- `fmul` (R154). -/
def execFmul (g : Guard) (fmt : FFmt) (rm : Rm) (d a b : Opnd) (s : State) : Out :=
  run (.fmul g fmt rm d a b) g (fun x => x.fp2 fmt rm d a b mulV) s

/-- `ffma` (R154). -/
def execFfma (g : Guard) (fmt : FFmt) (rm : Rm) (d a b : Opnd) (s : State) : Out :=
  run (.ffma g fmt rm d a b) g (fun x => x.fp3 fmt rm d a b false) s

/-- `ffms` (R154). -/
def execFfms (g : Guard) (fmt : FFmt) (rm : Rm) (d a b : Opnd) (s : State) : Out :=
  run (.ffms g fmt rm d a b) g (fun x => x.fp3 fmt rm d a b true) s

/-- `fdiv` (R155). -/
def execFdiv (g : Guard) (fmt : FFmt) (rm : Rm) (d a b : Opnd) (s : State) : Out :=
  run (.fdiv g fmt rm d a b) g (fun x => x.fp2 fmt rm d a b divV) s

/-- `fsqrt` (R155). -/
def execFsqrt (g : Guard) (fmt : FFmt) (rm : Rm) (d a : Opnd) (s : State) : Out :=
  run (.fsqrt g fmt rm d a) g (fun x => x.fp1 fmt rm d a sqrtV) s

/-- `frsq` (R155). -/
def execFrsq (g : Guard) (fmt : FFmt) (rm : Rm) (d a : Opnd) (s : State) : Out :=
  run (.frsq g fmt rm d a) g (fun x => x.fp1 fmt rm d a rsqV) s

/-- `fexp2` (R155). -/
def execFexp2 (g : Guard) (fmt : FFmt) (rm : Rm) (d a : Opnd) (s : State) : Out :=
  run (.fexp2 g fmt rm d a) g (fun x => x.fp1 fmt rm d a exp2V) s

/-- `flog2` (R155). -/
def execFlog2 (g : Guard) (fmt : FFmt) (rm : Rm) (d a : Opnd) (s : State) : Out :=
  run (.flog2 g fmt rm d a) g (fun x => x.fp1 fmt rm d a log2V) s

/-- `fmin` (R156). -/
def execFmin (g : Guard) (fmt : FFmt) (num : Bool) (d a b : Opnd) (s : State) : Out :=
  run (.fmin g fmt num d a b) g (fun x => x.fplain d (minmaxV (fmtOf fmt) false num (x.nat a) (x.nat b))) s

/-- `fmax` (R156). -/
def execFmax (g : Guard) (fmt : FFmt) (num : Bool) (d a b : Opnd) (s : State) : Out :=
  run (.fmax g fmt num d a b) g (fun x => x.fplain d (minmaxV (fmtOf fmt) true num (x.nat a) (x.nat b))) s

/-- `fabs` (R156). -/
def execFabs (g : Guard) (fmt : FFmt) (d a : Opnd) (s : State) : Out :=
  run (.fabs g fmt d a) g (fun x => x.put d (BitVec.ofNat 64 (signOp (fmtOf fmt) false (x.nat a)))) s

/-- `fneg` (R156). -/
def execFneg (g : Guard) (fmt : FFmt) (d a : Opnd) (s : State) : Out :=
  run (.fneg g fmt d a) g (fun x => x.put d (BitVec.ofNat 64 (signOp (fmtOf fmt) true (x.nat a)))) s

/-- `fcmpeq` (R158). -/
def execFcmpeq (g : Guard) (fmt : FFmt) (d a b : Opnd) (s : State) : Out :=
  run (.fcmpeq g fmt d a b) g (fun x => x.fcmp fmt .eq d a b) s

/-- `fcmplt` (R158). -/
def execFcmplt (g : Guard) (fmt : FFmt) (d a b : Opnd) (s : State) : Out :=
  run (.fcmplt g fmt d a b) g (fun x => x.fcmp fmt .lt d a b) s

/-- `fcmple` (R158). -/
def execFcmple (g : Guard) (fmt : FFmt) (d a b : Opnd) (s : State) : Out :=
  run (.fcmple g fmt d a b) g (fun x => x.fcmp fmt .le d a b) s

/-- `fcmpun` (R158). -/
def execFcmpun (g : Guard) (fmt : FFmt) (d a b : Opnd) (s : State) : Out :=
  run (.fcmpun g fmt d a b) g (fun x => x.fcmp fmt .un d a b) s

/-- `fclass` (R157). -/
def execFclass (g : Guard) (fmt : FFmt) (d a : Opnd) (s : State) : Out :=
  run (.fclass g fmt d a) g (fun x => x.put d (BitVec.ofNat 64 (classV (fmtOf fmt) (x.nat a)))) s

/-- `fround` (R159). -/
def execFround (g : Guard) (fmt : FFmt) (rm : Rm) (d a : Opnd) (s : State) : Out :=
  run (.fround g fmt rm d a) g (fun x => x.fput rm d fun m r => froundV (fmtOf fmt) m r (x.nat a)) s

/-- `fcvti` (R159). -/
def execFcvti (g : Guard) (fmt : FFmt) (rm : Rm) (u : Bool) (d a : Opnd) (s : State) : Out :=
  run (.fcvti g fmt rm u d a) g (fun x =>
    let w := x.w
    let lo : Int := if u then 0 else -(2 : Int) ^ (w - 1)
    let hi : Int := if u then (2 : Int) ^ w - 1 else (2 : Int) ^ (w - 1) - 1
    x.fput rm d fun m r =>
      let (v, y) := toIntV m r lo hi (x.fv fmt a)
      { y with code := wrapNat w v }) s

/-- `icvtf` (R159). -/
def execIcvtf (g : Guard) (fmt : FFmt) (rm : Rm) (u : Bool) (d a : Opnd) (s : State) : Out :=
  run (.icvtf g fmt rm u d a) g (fun x =>
    let v : Int := if u then (x.nat a : Int) else signed x.w (x.nat a)
    x.fput rm d fun m r => ofIntV (fmtOf fmt) m r v) s

/-- `fscale` (R159). -/
def execFscale (g : Guard) (fmt : FFmt) (rm : Rm) (d a b : Opnd) (s : State) : Out :=
  run (.fscale g fmt rm d a b) g (fun x =>
    x.fput rm d fun m r => scaleV (fmtOf fmt) m r (x.nat a) (signed x.w (x.nat b))) s

end Sys2Proof.Machine
end

