-- ==== Sys2Proof/Machine/Convert.lean ====
section
/-! DEFINITION. Conversion, quantisation, limbs, packing and headers (R174 to R179). -/

namespace Sys2Proof.Machine

open Sys2Proof

/-! ## Conversion of one element (R175) -/

/-- The floating-point format of a conversion code, if it is one. -/
def cvtFmt : CFmt → Option FpFmt
  | .f32 => some fp32 | .bf16 => some Machine.bf16 | .f16 => some fp16 | .e4m3 => some Machine.e4m3
  | .e5m2 => some Machine.e5m2 | .i32 | .i16 | .i8 => none

/-- Bits of an element of a conversion code. -/
def cvtBits : CFmt → Nat
  | .f32 | .i32 => 32 | .bf16 | .f16 | .i16 => 16 | .e4m3 | .e5m2 | .i8 => 8

/-- A floating-point value in another format: an infinity in E4M3 is its largest value, with OF (R123). -/
def cvtFp (t : FpFmt) (rm r : Nat) (v : Fv) : Res :=
  match v, t.inf with
  | .inf n, none => .with (infCode t n) flOF
  | _, _ => roundV t rm r v

/-- Convert one element of format `cf` in the low bits of `v` (R175): the result is an element of `ct`, an integer
sign-extended to `w` bits. -/
def cvtV (cf ct : CFmt) (w v rm r : Nat) : Res :=
  match cvtFmt cf, cvtFmt ct with
  | some f, some t => cvtFp t rm r (f.read v)
  | some f, none =>
    let (k, y) := toIntV rm r (-(2 : Int) ^ (cvtBits ct - 1)) ((2 : Int) ^ (cvtBits ct - 1) - 1) (f.read v)
    { y with code := wrapNat w k }
  | none, some t => ofIntV t rm r (signed (cvtBits cf) v)
  | none, none =>
    .plain (wrapNat w (min (max (signed (cvtBits cf) v) (-(2 : Int) ^ (cvtBits ct - 1))) ((2 : Int) ^ (cvtBits ct - 1) - 1)))

/-! ## The meanings -/

/-- `cvt` (R175). -/
def execCvt (g : Guard) (rm : Rm) (d a : Opnd) (cf ct : CFmt) (s : State) : Out :=
  run (.cvt g rm d a cf ct) g (fun x => x.fput rm d fun m r => cvtV cf ct x.w (x.nat a) m r) s

/-- `qnt` (R176). -/
def execQnt (g : Guard) (k : KFmt) (d a b : Opnd) (s : State) : Out :=
  run (.qnt g k d a b) g (fun x =>
    let (q, fl) := qntV k (fp32.read (x.nat a)) (x.nat b)
    (x.flags fl).put d (BitVec.ofNat 64 (kCode k q))) s

/-- `dqnt` (R176). -/
def execDqnt (g : Guard) (k : KFmt) (rm : Rm) (d a b : Opnd) (s : State) : Out :=
  run (.dqnt g k rm d a b) g (fun x => x.fput rm d fun m r => dqntV fp32 m r k (x.nat a) (x.nat b)) s

/-- `scalex` (R176). -/
def execScalex (g : Guard) (k : KFmt) (d a : Opnd) (s : State) : Out :=
  run (.scalex g k d a) g (fun x =>
    let (c, fl) := scalexV k (x.nat a)
    (x.flags fl).put d (BitVec.ofNat 64 c)) s

/-- `limb` (R177). -/
def execLimb (g : Guard) (d a : Opnd) (s : State) : Out :=
  run (.limb g d a) g (fun x => x.put d (BitVec.ofNat 64 (k16Code (ksat (signed x.w (x.nat a)) 16319)))) s

/-- `unlimb` (R177). -/
def execUnlimb (g : Guard) (d a : Opnd) (s : State) : Out :=
  run (.unlimb g d a) g (fun x =>
    let (v, fl) := kRead .k16 (x.nat a)
    (x.flags fl).put d (BitVec.ofNat 64 (wrapNat x.w v))) s

/-- `pack.h` (R178). -/
def execPackH (g : Guard) (d a b : Opnd) (s : State) : Out :=
  run (.packH g d a b) g (fun x => x.int2 d a b fun w u v =>
    BitVec.ofNat w (bitsOf v.toNat 0 16 * 2 ^ 16 + bitsOf u.toNat 0 16)) s

/-- `pack.b` (R178, R144). -/
def execPackB (g : Guard) (d a b : Opnd) (s : State) : Out :=
  run (.packB g d a b) g (fun x => (x.int2 d a b fun w u v =>
    ((x.addend d).setWidth w <<< 16) ||| BitVec.ofNat w (bitsOf v.toNat 0 8 * 2 ^ 8 + bitsOf u.toNat 0 8)).dropAddend d [a, b]) s

/-- `pack.n` (R178, R144). -/
def execPackN (g : Guard) (d a b : Opnd) (s : State) : Out :=
  run (.packN g d a b) g (fun x => (x.int2 d a b fun w u v =>
    ((x.addend d).setWidth w <<< 8) ||| BitVec.ofNat w (bitsOf v.toNat 0 4 * 2 ^ 4 + bitsOf u.toNat 0 4)).dropAddend d [a, b]) s

/-- Field `b` of `z` bits of a word, zero- or sign-extended (R178). -/
def Ex.unpack (x : Ex) (z : Nat) (u : Bool) (d a b : Opnd) : Ex :=
  x.int2 d a b fun w p q =>
    let v := bitsOf p.toNat (z * (q.toNat % (32 / z))) z
    if u then BitVec.ofNat w v else BitVec.ofInt w (signed z v)

/-- `unpack.h` (R178). -/
def execUnpackH (g : Guard) (u : Bool) (d a b : Opnd) (s : State) : Out :=
  run (.unpackH g u d a b) g (fun x => x.unpack 16 u d a b) s

/-- `unpack.b` (R178). -/
def execUnpackB (g : Guard) (u : Bool) (d a b : Opnd) (s : State) : Out :=
  run (.unpackB g u d a b) g (fun x => x.unpack 8 u d a b) s

/-- `unpack.n` (R178). -/
def execUnpackN (g : Guard) (u : Bool) (d a b : Opnd) (s : State) : Out :=
  run (.unpackN g u d a b) g (fun x => x.unpack 4 u d a b) s

/-- `hdr` (R179): bits [34:32] of the header are zero. -/
def execHdr (g : Guard) (d a b : Opnd) (s : State) : Out :=
  run (.hdr g d a b) g (fun x =>
    let h : W64 := ((x.get b).setWidth 32).setWidth 64 <<< 32 ||| ((x.get a).setWidth 32).setWidth 64
    let h := h &&& ~~~0x700000000#64
    match d with
    | .o n => x.pushOut n (.hdr h) .a0
    | _ => x.put d h) s

/-- A field of a header (R179). -/
def hdrField (f : HdrField) (h : W64) : W64 :=
  match f with
  | .user => (h.extractLsb' 0 32).setWidth 64
  | .scale => (h.extractLsb' 56 8).setWidth 64
  | .len => (h.extractLsb' 40 16).setWidth 64
  | .fmt => (h.extractLsb' 36 4).setWidth 64
  | .last => (h.extractLsb' 35 1).setWidth 64
  | .high => (h.extractLsb' 32 32).setWidth 64

/-- `hdrget` (R179). -/
def execHdrget (g : Guard) (fld : HdrField) (d a : Opnd) (s : State) : Out :=
  run (.hdrget g fld d a) g (fun x =>
    let h : W64 := match a with
      | .i n | .iDeq n => (match x.head n with | some (_, h, _) => h | none => 0)
      | _ => x.get a
    x.put d (hdrField fld h)) s

end Sys2Proof.Machine
end

