-- ==== Sys2Proof/Machine/Control.lean ====
section
/-! DEFINITION. Control, predicates, steering, seams, queues, routes and bindings (R70 to R86). -/

namespace Sys2Proof.Machine

open Sys2Proof

/-! ## Shared operations -/

/-- A predicate operand (R72). -/
def Ex.pred (x : Ex) (o : Opnd) : Bool := (x.get o).getLsbD 0

/-- Write one bit to a predicate (R72). -/
def Ex.putBit (x : Ex) (d : Opnd) (b : Bool) : Ex := x.put d (ofBool 64 b)

/-- Move a value with its stop flag (R76). -/
def Ex.move (x : Ex) (d a : Opnd) : Ex := x.putT d (x.stopOf a) (x.get a)

/-- Breaks are enabled for the agent (R78). -/
def Ex.breaksOn (x : Ex) : Bool := if x.isB then x.cx0.cst.getLsbD 12 else x.th.sst.getLsbD 12

/-- Trace marks are enabled for the agent (R79). -/
def Ex.marksOn (x : Ex) : Bool := if x.isB then x.cx0.cst.getLsbD 13 else x.th.sst.getLsbD 13

/-- A trace record of the executing word (R413). -/
def Ex.traceRecord (x : Ex) (n : BitVec 6) (v : W64) : List Byte :=
  toBytes 4 x.node.toNat ++ [n.setWidth 8, if x.isB then x.cx0.idx.setWidth 8 else 0xFF] ++ zeros 2 ++ toBytes 4 v.toNat ++
    toBytes 4 x.sp.rnd.toNat ++ loops4 x.loops ++ toBytes 4 x.sp.handle.toNat ++ toBytes 2 x.sp.dom ++ zeros 26

/-- The context a trace record is counted against. -/
def Ex.at_ (x : Ex) : CtxAt :=
  match x.who with
  | .ctx c => c
  | .thread h => ⟨h, 0, 0, 0⟩

/-- Every bound output of a context carries a seam (R52). -/
def Ctx.allSeamed (k : Ctx) : Bool := (upTo 12).all fun n => !k.boundOut n || k.seamed.getLsbD n

/-- Append a seam marker to output `n` of a context, unless it has carried one since the last change (R81): `n` 0 to 7
are `o0` to `o7`, 8 to 11 are `j0` to `j3`. SL tells that every bound output has carried one (R52). -/
def Ctx.seam (k : Ctx) (n : Nat) : Ctx :=
  if k.seamed.getLsbD n then k
  else
    let k := { k with seamed := k.seamed ||| (1#12 <<< n) }
    let k := if n < 8 then { k with oq := upd k.oq n (· ++ [(⟨.seam, .both⟩ : OutEnt)]) }
      else { k with jq := upd k.jq (n - 8) (· ++ [KEnt.seam]) }
    if k.allSeamed then { k with cst := k.cst ||| 0x4000 } else k

/-- Append a seam marker to every bound output that carries none, and set SL (R81). -/
def Ctx.seamEvery (k : Ctx) : Ctx :=
  let k := (upTo 12).foldl (fun k n => if k.boundOut n then k.seam n else k) k
  { k with cst := k.cst ||| 0x4000 }

/-- Tokens of an output queue that are not injected yet (R84). -/
def outToks (l : List OutEnt) : Nat :=
  (l.filter fun e => match e.flit with | .tok _ => true | .hdr _ | .seam | .step | .cmd _ => false).length

/-- The number of tokens in a queue (R84). -/
def Ctx.qCount (k : Ctx) : QSel → Nat
  | .i n => tokCount (k.inQ n).arm0 + tokCount (k.inQ n).arm1
  | .o n => outToks (k.outQ n)
  | .k n => bitCount (nth k.kq n.toNat [])
  | .j n => bitCount (nth k.jq n.toNat [])

/-! ## Control and predicates (R72, R73) -/

/-- `nop` (R72). -/
def execNop (g : Guard) (s : State) : Out := run (.nop g) g (fun x => x) s

/-- `pset` (R72). -/
def execPset (g : Guard) (a b : Opnd) (s : State) : Out :=
  run (.pset g a b) g (fun x =>
    let va : BitVec 8 := (x.get a).setWidth 8
    let vb : BitVec 8 := (x.get b).setWidth 8
    if x.isB then { x with cx := x.cx.setPreds x.bank ((x.cx0.predSet x.bank &&& ~~~vb) ||| (va &&& vb)) }
    else { x with th := { x.th with f := (x.th.f &&& ~~~vb) ||| (va &&& vb) } }) s

/-- `pand` (R72). -/
def execPand (g : Guard) (d a b : Opnd) (s : State) : Out :=
  run (.pand g d a b) g (fun x => x.putBit d (x.pred a && x.pred b)) s

/-- `por` (R72). -/
def execPor (g : Guard) (d a b : Opnd) (s : State) : Out :=
  run (.por g d a b) g (fun x => x.putBit d (x.pred a || x.pred b)) s

/-- `pxor` (R72). -/
def execPxor (g : Guard) (d a b : Opnd) (s : State) : Out :=
  run (.pxor g d a b) g (fun x => x.putBit d (x.pred a != x.pred b)) s

/-- `pandn` (R72). -/
def execPandn (g : Guard) (d a b : Opnd) (s : State) : Out :=
  run (.pandn g d a b) g (fun x => x.putBit d (x.pred a && !x.pred b)) s

/-- `pnot` (R72). -/
def execPnot (g : Guard) (d a : Opnd) (s : State) : Out := run (.pnot g d a) g (fun x => x.putBit d !(x.pred a)) s

/-- `pmov` (R72). -/
def execPmov (g : Guard) (d a : Opnd) (s : State) : Out := run (.pmov g d a) g (fun x => x.putBit d (x.pred a)) s

/-- `sel` (R73, R76). -/
def execSel (g : BGuard) (n : BitVec 3) (d a b : Opnd) (s : State) : Out :=
  run (.sel g n d a b) (.b g) (fun x => x.move d (if (x.cx0.predSet x.bank).getLsbD n.toNat then a else b)) s

/-! ## Steering, merging and gating (R74 to R76) -/

/-- `steer` (R74). -/
def execSteer (g : BGuard) (d a : Opnd) (s : State) : Out :=
  run (.steer g d a) (.b g) (fun x =>
    match d with
    | .o n => x.pushTok n (x.stopOf a) ((x.get a).setWidth 32) (if x.c then .a1 else .a0)
    | _ => x) s

/-- Move the head of the chosen arm of IA and dequeue it (R75). -/
def Ex.merge (x : Ex) (d a : Opnd) : Ex :=
  let y := x.move d a
  if y.ok then { y with cx := y.cx.deq y.br y.g.ia y.arm } else y

/-- `merge` (R75): the control token picks the arm. -/
def execMerge (g : BGuard) (d a : Opnd) (s : State) : Out := run (.merge g d a) (.b g) (fun x => x.merge d a) s

/-- `merge.any` (R75): the arm whose head arrived first. -/
def execMergeAny (g : BGuard) (d a : Opnd) (s : State) : Out := run (.mergeAny g d a) (.b g) (fun x => x.merge d a) s

/-- `gate` (R76). -/
def execGate (g : BGuard) (d a : Opnd) (s : State) : Out :=
  run (.gate g d a) (.b g) (fun x => if x.c then x.move d a else x) s

/-- `kget` (R76). -/
def execKget (g : BGuard) (d : Opnd) (s : State) : Out := run (.kget g d) (.b g) (fun x => x.putBit d x.c) s

/-- `kput` (R76). -/
def execKput (g : BGuard) (n : BitVec 2) (a : Opnd) (s : State) : Out :=
  run (.kput g n a) (.b g) (fun x => x.pushK n.toNat (x.pred a)) s

/-! ## Done, break, trap and mark (R77 to R79) -/

/-- `done` (R77). -/
def execDone (g : BGuard) (s : State) : Out :=
  run (.done g) (.b g) (fun x =>
    { x with cx := { x.cx with cst := x.cx.cst ||| 0x8000 }, sp := x.sp.phaseDone x.br.row x.br.col x.s.now }) s

/-- `break` (R78). -/
def execBrk (g : Guard) (n : BitVec 6) (s : State) : Out :=
  run (.brk g n) g (fun x => if x.breaksOn then x.raise (flt 15 (n.setWidth 64)) else x) s

/-- `trap` (R78). -/
def execTrap (g : Guard) (n : BitVec 6) (a : Opnd) (s : State) : Out :=
  run (.trap g n a) g (fun x => x.raise (flt 14 (n.setWidth 64 <<< 32 ||| ((x.get a).setWidth 32).setWidth 64))) s

/-- `mark` (R79): its record is written at the commit (R412). -/
def execMark (g : Guard) (n : BitVec 6) (a : Opnd) (s : State) : Out :=
  run (.mark g n a) g (fun x =>
    if x.marksOn then
      let r := x.traceRecord n (x.get a)
      { x with sp := x.sp.modLive fun b => { b with trace := b.trace ++ [(x.at_, r)] } }
    else x) s

/-! ## Tags, seams and dequeue (R80 to R82) -/

/-- `sett` (R80). -/
def execSett (g : BGuard) (n : BitVec 3) (a : Opnd) (s : State) : Out :=
  run (.sett g n a) (.b g) (fun x =>
    let v := x.get a
    { x with cx := { x.cx with ovr := x.cx.ovr.set n.toNat (if v.getLsbD 2 then some (v.setWidth 2) else none) } }) s

/-- `seam oN` (R81). -/
def execSeamO (g : BGuard) (n : BitVec 3) (s : State) : Out :=
  run (.seamO g n) (.b g) (fun x => { x with cx := x.cx.seam n.toNat }) s

/-- `seam jN` (R81). -/
def execSeamJ (g : BGuard) (n : BitVec 2) (s : State) : Out :=
  run (.seamJ g n) (.b g) (fun x => { x with cx := x.cx.seam (8 + n.toNat) }) s

/-- `seam.all` (R81). -/
def execSeamAll (g : BGuard) (s : State) : Out := run (.seamAll g) (.b g) (fun x => { x with cx := x.cx.seamEvery }) s

/-- `deq` (R82). -/
def execDeq (g : BGuard) (a b : Opnd) (s : State) : Out := run (.deq g a b) (.b g) (fun x => x) s

/-! ## Inspecting queues (R83, R84) -/

/-- `peekt` (R83). -/
def execPeekt (g : BGuard) (d a : Opnd) (s : State) : Out :=
  run (.peekt g d a) (.b g) (fun x =>
    let v : Nat := match a with
      | .i n | .iDeq n =>
        (match x.head n with
          | some (t, _, _) => t.stop.toNat * 64 + t.tag.toNat * 16 + (if t.stop then t.pay.toNat % 16 else 0)
          | none => 0)
      | _ => 0
    x.put d (BitVec.ofNat 64 v)) s

/-- `qstat` (R84). -/
def execQstat (g : BGuard) (q : QSel) (d : Opnd) (s : State) : Out :=
  run (.qstat g q d) (.b g) (fun x => x.put d (BitVec.ofNat 64 (x.cx0.qCount q))) s

/-! ## Routes and bindings (R85, R86) -/

/-- The spur that a handle of a selector names: 0 is the agent's own; outside system mode only spurs of its domain and
its descendants may be named (R85, R92). A handle of no spur that is placed names none (log 128, DEDUCED). -/
def Ex.named (x : Ex) (h : BitVec 32) : Option Spur :=
  if h = 0 || h = x.sp.handle then some x.sp
  else
    match x.s.spur? h with
    | some o => if o.placed && (x.sys || x.s.under x.sp.dom o.dom) then some o else none
    | none => none

/-- A route entry an image may hold (R58, R71, R285, R318). -/
def Image.entryOk (m : Image) (v : W32) : Bool :=
  let row := (rtRow v).toNat
  let col := (rtCol v).toNat
  v.extractLsb' 5 8 == 0 &&
  (if entKd v = 0 then decide (row < m.hd.ht) && decide (col < m.hd.wd)
   else entKd v == 1 && row == 0 && !(decide (0x19 ≤ col) && decide (col ≤ 0x1F)) &&
     (!(decide (0x20 ≤ col) && decide (col ≤ 0xEF)) || m.ports.any fun p => p.p == rtCol v && !p.isIn))

/-- A channel binding an image may hold (R56, R71). -/
def Image.bindOk (m : Image) (v : W32) : Bool :=
  v.extractLsb' 0 17 == 0 && decide (bindFmt v ≤ 12) && (!bindV v || decide ((bindCtx v).toNat < m.hd.ctx))

/-- The bindings of a brick give each queue one binding or a pair (R71, check code 17). -/
def pairsOk (l : List W32) : Bool :=
  let l := l.filter bindV
  l.all fun v =>
    let same := l.filter fun w => bindCtx w == bindCtx v && bindQ w == bindQ v
    same.length ≤ 1 || (same.length == 2 && same.all bindPr && !((same.map bindAr).all (· == bindAr v)))

/-- `routea.step` (R85). -/
def execRouteaStep (g : BGuard) (d : Opnd) (s : State) : Out :=
  run (.routeaStep g d) (.b g) (fun x =>
    match d with
    | .o n => x.pushOut n .step .both
    | _ => x) s

/-- Hold a request of the round (R66, R344). -/
def Ex.request (x : Ex) (r : Request) : Ex := { x with sp := x.sp.modLive fun b => { b with reqs := b.reqs ++ [r] } }

/-- `routea.set` (R85): the write commits with the round. A nonzero B[63:32] is an overrun too (log 127, DEDUCED). -/
def execRouteaSet (g : Guard) (a b : Opnd) (s : State) : Out :=
  run (.routeaSet g a b) g (fun x =>
    let va := x.get a
    let vb := x.get b
    let bad := x.raise (overrun 10 va)
    match x.named (if x.isB then 0 else va.extractLsb' 32 32) with
    | none => bad
    | some o =>
      let tag := bitsOf va.toNat 2 6
      let phase := bitsOf va.toNat 0 2
      let n := (nth o.img.routes tag []).length
      if va.extractLsb' 8 24 != 0 || vb.extractLsb' 32 32 != 0 || decide (o.img.routes.length ≤ tag) || decide (n ≤ phase) ||
          !o.img.entryOk (vb.setWidth 32) then bad
      else x.request (.route o.handle tag phase (vb.setWidth 32))) s

/-- The bindings that check 17 of `vcbind` looks at (R86): those of a brick as its staged writes and those held in the round
would leave them (log 129, DESIGN CHOICE). -/
def Ex.bindings (x : Ex) (o : Spur) (k : Brick) : List W32 :=
  let held := x.sp.live.reqs.filterMap fun r => match r with
    | .vcbind h row col vc v => if h == o.handle && row == k.row && col == k.col then some (vc, v) else none
    | _ => none
  (k.staged ++ held).foldl (fun l w => l.set w.1 w.2) k.vc

/-- `vcbind` (R86): the binding is staged when the round commits. -/
def execVcbind (g : Guard) (a b : Opnd) (s : State) : Out :=
  run (.vcbind g a b) g (fun x =>
    let va := x.get a
    let vb := x.get b
    let v : W32 := vb.setWidth 32
    let bad := x.raise (overrun 10 va)
    let row := if x.isB then x.br.row else va.extractLsb' 24 8
    let col := if x.isB then x.br.col else va.extractLsb' 16 8
    let vc := bitsOf va.toNat 0 5
    let rsv := if x.isB then va.extractLsb' 5 59 == 0 else va.extractLsb' 5 11 == 0
    match x.named (if x.isB then 0 else va.extractLsb' 32 32) with
    | none => bad
    | some o =>
      match o.live.brick? row col with
      | none => bad
      | some k =>
        if !rsv || vb.extractLsb' 32 32 != 0 || !o.img.bindOk v || !pairsOk ((x.bindings o k).set vc v) then bad
        else x.request (.vcbind o.handle row col vc v)) s

end Sys2Proof.Machine
end

