-- ==== Sys2Proof/Machine/Loader.lean ====
section
/-! DEFINITION. Images as their bytes give them, and the checks of the loader (R46, R71, R145, R190, R197, R211, R301,
R310 to R316, R404). -/

namespace Sys2Proof.Machine

open Sys2Proof

/-! ## The words of an image (R310, R312) -/

/-- Word `i` of an image as a number. -/
def wAt (ws : List W64) (i : Nat) : Nat := (nth ws i 0).toNat

/-- The resource header (R310). -/
def headerOf (ws : List W64) : Header where
  sys := bitsOf (wAt ws 0) 63 1 == 1
  co := bitsOf (wAt ws 0) 62 1 == 1
  wd := bitsOf (wAt ws 0) 48 8
  ht := bitsOf (wAt ws 0) 40 8
  ctx := bitsOf (wAt ws 0) 36 4
  slt := bitsOf (wAt ws 0) 31 5
  bnk := bitsOf (wAt ws 0) 28 3
  vcs := bitsOf (wAt ws 0) 22 6
  bar := bitsOf (wAt ws 0) 8 8
  lch := bitsOf (wAt ws 0) 0 8
  vlt := wAt ws 1 % 2 ^ 17
  stw := wAt ws 2

/-- The header's reserved bits are zero and its fields lie in their ranges (R310, R315). -/
def headerOk (ws : List W64) : Bool :=
  let h := headerOf ws
  bitsOf (wAt ws 0) 56 6 == 0 && bitsOf (wAt ws 0) 16 6 == 0 && decide (1 ≤ h.wd) && decide (h.wd ≤ 128) &&
    decide (1 ≤ h.ht) && decide (h.ht ≤ 96) && decide (1 ≤ h.ctx) && decide (h.ctx ≤ 8) && decide (h.slt ≤ 16) &&
    decide (1 ≤ h.bnk) && decide (h.bnk ≤ 4) && decide (h.vcs ≤ 32) && decide (wAt ws 1 ≤ 65536) && wAt ws 3 == 0

/-- Words of one record of the table that directory word `i` names (R312, R313, R404, R251). -/
def recWords (i : Nat) : Nat :=
  match i with
  | 1 => 17 | 2 => 71 | 3 => 3 | 4 => 2 | 6 => 4 | _ => 1

/-- The offset of table `i`. -/
def tabOff (ws : List W64) (i : Nat) : Nat := bitsOf (wAt ws (4 + i)) 0 32

/-- The count of table `i`. -/
def tabCnt (ws : List W64) (i : Nat) : Nat := bitsOf (wAt ws (4 + i)) 32 32

/-- The image length (R312). -/
def imgLen (ws : List W64) : Nat := wAt ws 4

/-- The most records a table may hold (R312). -/
def tabMax (h : Header) (i : Nat) : Nat :=
  match i with
  | 1 => h.wd * h.ht | 2 => h.wd * h.ht * h.ctx | 3 => 64 | 7 => 8 | 8 => 208 | _ => 2 ^ 32

/-- The image directory holds no reserved value, and its tables lie within the image (R312, R315). -/
def dirOk (ws : List W64) : Bool :=
  let h := headerOf ws
  decide (imgLen ws < 2 ^ 32) && imgLen ws % 8 == 0 && decide (128 ≤ imgLen ws) &&
    ((upTo 9).all fun k =>
      let i := k + 1
      (tabCnt ws i == 0 && tabOff ws i == 0) || (tabCnt ws i != 0 && tabOff ws i % 8 == 0 &&
        decide (tabOff ws i + 8 * recWords i * tabCnt ws i ≤ imgLen ws) && decide (tabCnt ws i ≤ tabMax h i))) &&
    decide (64 ≤ bitsOf (wAt ws 14) 0 13) && decide (bitsOf (wAt ws 14) 0 13 ≤ 4096) && bitsOf (wAt ws 14) 13 3 == 0 &&
    decide (bitsOf (wAt ws 14) 16 3 ≤ 4) && bitsOf (wAt ws 14) 22 42 == 0 && wAt ws 15 == 0

/-- The records of table `i`. -/
def recsOf (ws : List W64) (i : Nat) : List (List W64) :=
  (upTo (tabCnt ws i)).map fun j => (ws.drop (tabOff ws i / 8 + recWords i * j)).take (recWords i)

/-- The halves of words, the low one first. -/
def halves (l : List W64) : List W32 := l.flatMap fun w => [w.extractLsb' 0 32, w.extractLsb' 32 32]

/-- A node-table entry (R404). -/
def nodeRecOf (r : List W64) : NodeRec :=
  let b := bytesOf r
  let at_ (n : Nat) : Nat := (nth b n 0).toNat
  let isSeq := at_ 9 == 1
  { isSeq := isSeq, row := at_ 10, col := at_ 11, ctx := at_ 12,
    ent := ⟨if isSeq then ofBytes ((b.drop 10).take 4) else at_ 13, BitVec.ofNat 32 (ofBytes (b.take 4)),
      (b.drop 5).take (min (at_ 4) 4)⟩ }

/-- A brick record (R313). -/
def brickRecOf (r : List W64) : BrickRec := ⟨bitsOf (wAt r 0) 0 8, bitsOf (wAt r 0) 8 8, halves ((r.drop 1).take 16)⟩

/-- A context record (R313), with the node-table entries of its slots. -/
def ctxRecOf (nodes : List NodeRec) (r : List W64) : CtxRec :=
  let row := bitsOf (wAt r 0) 0 8
  let col := bitsOf (wAt r 0) 8 8
  let ctx := bitsOf (wAt r 0) 16 3
  { row := row, col := col, ctx := ctx,
    cfg :=
      { sv := (nth r 0 0).extractLsb' 24 16
        slots := (r.drop 1).take 16
        regs := (upTo 4).flatMap fun b => halves ((r.drop (17 + 9 * b)).take 8)
        preds := (upTo 4).map fun b => (nth r (25 + 9 * b) 0).extractLsb' 0 8
        win := (r.drop 53).take 4
        obind := halves ((r.drop 57).take 6)
        grout := halves ((r.drop 63).take 8)
        rm := (nth r 0 0).extractLsb' 19 3
        me := (nth r 0 0).getLsbD 22
        be := (nth r 0 0).getLsbD 23
        nodes := (nodes.filter fun n => !n.isSeq && n.row == row && n.col == col && n.ctx == ctx).map (·.ent)
        vc := [] } }

/-- A route record (R313). -/
def routeOf (r : List W64) : List W32 := (halves (r.drop 1)).take (bitsOf (wAt r 0) 8 2 + 1)

/-- A footprint record (R313). -/
def footOf (r : List W64) : Foot :=
  ⟨(nth r 0 0).extractLsb' 0 32, bitsOf (wAt r 0) 32 8, bitsOf (wAt r 0) 40 8, wAt r 1, wAt r 2⟩

/-- A section record (R313). -/
def sectionOf (r : List W64) : Section :=
  let w := wAt r 0
  ⟨bitsOf w 0 3, bitsOf w 8 8, bitsOf w 16 8, bitsOf w 24 8, bitsOf w 32 8⟩

/-- A port record (R313). -/
def portOf (r : List W64) : PortDecl :=
  let w := nth r 0 0
  ⟨w.extractLsb' 0 8, w.getLsbD 8, w.extractLsb' 16 8, w.extractLsb' 24 8, w.extractLsb' 32 5⟩

/-- An image as its words give it. -/
def imageOf (addr : W64) (ws : List W64) : Image :=
  let nodes := (recsOf ws 4).map nodeRecOf
  let w10 := wAt ws 14
  { addr := addr, hd := headerOf ws, len := imgLen ws
    bricks := (recsOf ws 1).map brickRecOf
    ctxs := (recsOf ws 2).map (ctxRecOf nodes)
    routes := (recsOf ws 3).map routeOf
    nodes := nodes
    attrs := (recsOf ws 5).map fun r => ⟨(nth r 0 0).extractLsb' 0 32, bitsOf (wAt r 0) 32 16, bitsOf (wAt r 0) 48 16⟩
    foots := (recsOf ws 6).map footOf
    sections := (recsOf ws 7).map sectionOf
    ports := (recsOf ws 8).map portOf
    seqOff := tabOff ws 9
    seq := (recsOf ws 9).map fun r => nth r 0 0
    rlen := bitsOf w10 0 13
    trm := BitVec.ofNat 3 (bitsOf w10 16 3)
    bg := bitsOf w10 19 1 == 1
    tbe := bitsOf w10 20 1 == 1
    tme := bitsOf w10 21 1 == 1 }

/-- The stow record size (R311). -/
def stowSize (h : Header) : Nat := 4096 + h.wd * h.ht * (65536 + 20480 + 6144 * h.ctx)

/-! ## Refusals (R46, R322) -/

/-- A refusal of the loader, as the result word of completion status 3 carries it. -/
structure Refused where
  code : Nat
  slot : Nat
  noSlot : Bool
  ctx : Nat
  row : Nat
  col : Nat
  node : W32
  deriving DecidableEq, Repr

/-- The result word of a refusal (R322). -/
def Refused.word (r : Refused) : W64 :=
  BitVec.ofNat 64 (r.code * 2 ^ 56 + r.slot % 16 * 2 ^ 52 + (if r.noSlot then 2 ^ 51 else 0) + r.ctx % 8 * 2 ^ 48 +
    r.row % 256 * 2 ^ 40 + r.col % 256 * 2 ^ 32 + r.node.toNat)

/-- One failed check: its refusal, and for a structure the directory word and the record it stands in. -/
structure LoadFail where
  r : Refused
  dir : Nat
  rec_ : Nat
  deriving DecidableEq, Repr

/-- A failed check of a structure. -/
def structFail (code ctx row col dir rec_ : Nat) : LoadFail := ⟨⟨code, 0, true, ctx, row, col, 0xFFFFFFFF⟩, dir, rec_⟩

/-- The refusal of bytes that form no image (R315). -/
def noImage : Refused := ⟨28, 0, true, 0, 0, 0, 0xFFFFFFFF⟩

/-- Slot failures in their order: context, slot, row, column, then code (R46). -/
def slotKey (f : LoadFail) : List Nat := [f.r.ctx, f.r.slot, f.r.row, f.r.col, f.r.code]

/-- The reported failure of one check: slots before structures (R46). -/
def pickOne (l : List LoadFail) : Option Refused :=
  match leastBy slotKey (l.filter fun f => !f.r.noSlot) with
  | some f => some f.r
  | none => (leastBy (fun f => [f.dir, f.rec_]) (l.filter fun f => f.r.noSlot)).map (·.r)

/-- The reported failure among those of the checks of one word, and then check by check (R46, R315). -/
def pickFail (l : List LoadFail) (codes : List Nat) : Option Refused :=
  (pickOne (l.filter fun f => decide (f.r.code ≤ 12))).or (codes.findSome? fun c => pickOne (l.filter fun f => f.r.code == c))

/-! ## What the checks look at -/

/-- Records with their indices. -/
def indexed (l : List α) : List (α × Nat) := l.zip (upTo l.length)

/-- One slot of an image: where it stands, its checks, and its instruction where its fields give one. -/
structure SlotD where
  c : CtxRec
  n : Nat
  codes : List Nat
  instr : Option Instr
  guard : BGuard
  node : W32
  deriving DecidableEq, Repr

/-- The node of a slot of a context record. -/
def CtxRec.nodeOf (c : CtxRec) (n : Nat) : W32 := match c.cfg.nodes.find? fun e => e.key == n with | some e => e.node | none => 0xFFFFFFFF

/-- The slots of an image that its SV bits declare (R313). -/
def Image.slotsD (m : Image) : List SlotD :=
  m.ctxs.flatMap fun c => ((upTo 16).filter fun n => c.cfg.sv.getLsbD n).map fun n =>
    let w := nth c.cfg.slots n 0
    match decodeRaw .brick w with
    | .error e => ⟨c, n, [e.code], none, BGuard.ofBits (w.extractLsb' 32 32), c.nodeOf n⟩
    | .ok (l, i) =>
      ⟨c, n, (l.filter (·.1)).map fun x => x.2.code, some i, BGuard.ofBits (w.extractLsb' 32 32), c.nodeOf n⟩

/-- The valid bindings of a context of a brick. -/
def Image.binds (m : Image) (row col ctx : Nat) : List W32 :=
  match m.bricks.find? fun b => b.row == row && b.col == col with
  | some b => b.vc.filter fun v => bindV v && (bindCtx v).toNat == ctx
  | none => []

/-- Queue `q` of a context is paired (R56). -/
def Image.pairedQ (m : Image) (c : CtxRec) (q : BitVec 3) : Bool :=
  let l := (m.binds c.row c.col c.ctx).filter fun v => bindQ v == q && bindPr v
  l.any (bindAr ·) && l.any fun v => !bindAr v

/-- Queue `q` of a context is bound (R56). -/
def Image.boundQ (m : Image) (c : CtxRec) (q : BitVec 3) : Bool :=
  ((m.binds c.row c.col c.ctx).any fun v => bindQ v == q) ||
    (c.cfg.obind.take 8).any fun o => entV o && entKd o == 2 && outLq o == q

/-- The output binding of `oN`. -/
def CtxRec.out (c : CtxRec) (n : BitVec 3) : W32 := nth c.cfg.obind n.toNat 0

/-- The grout entries of `jN`. -/
def CtxRec.grout (c : CtxRec) (n : Nat) : List W32 := (c.cfg.grout.drop (4 * n)).take 4

/-- The output is split (R57). -/
def isSplit (o : W32) : Bool := entV o && entKd o == 1

/-- The entries of the routes of an output (R57, R58). -/
def Image.outEnts (m : Image) (o : W32) : List W32 :=
  if !entV o then []
  else if entKd o = 0 then nth m.routes (outT0 o).toNat []
  else if entKd o = 1 then nth m.routes (outT0 o).toNat [] ++ nth m.routes (outT1 o).toNat []
  else []

/-- An entry ends at a command port in a range (R285). -/
def atPort (lo hi : Nat) (e : W32) : Bool := entV e && entKd e == 1 && decide (lo ≤ (rtCol e).toNat) && decide ((rtCol e).toNat ≤ hi)

/-- The command ports of an engine instruction (R285, R301). -/
def cmdPorts : Instr → Option (Nat × Nat)
  | .hod .. => some (0, 7)
  | .isq .. | .probe .. | .unpin .. => some (8, 0x17)
  | .coll .. => some (0x18, 0x18)
  | _ => none

/-! ## Checks of a slot against its image (R71, R190, R301, R315) -/

/-- The instruction is an ordered or unordered merge. -/
def isMerge : Instr → Bool
  | .merge .. | .mergeAny .. => true
  | _ => false

/-- The context field of a channel binding set. -/
def bindInto (v : W32) (i : BitVec 3) : W32 := (v &&& ~~~0x70000000#32) ||| (i.zeroExtend 32 <<< 28)

/-- Where a context image is loaded: its section, the context entry, and the spur as it stands (R105). -/
structure LoadAt where
  sec : Section
  entry : BitVec 3
  live : Body
  deriving DecidableEq, Repr

/-- A context of the spur is one that the image configures. -/
def LoadAt.takes (p : LoadAt) (k : Ctx) : Bool := p.sec.has k.row k.col && k.idx == p.entry

/-- A context record at its place in the spur (R105). -/
def LoadAt.ctxRec (p : LoadAt) (c : CtxRec) : CtxRec :=
  { c with row := p.sec.row + c.row, col := p.sec.col + c.col, ctx := p.entry.toNat }

/-- The channel table that a brick of the section will have: the valid bindings of its record over its own (R105). -/
def LoadAt.brickRec (p : LoadAt) (m : Image) (b : Brick) : BrickRec :=
  let r : List W32 := match m.bricks.find? fun r => p.sec.row + r.row == b.row.toNat && p.sec.col + r.col == b.col.toNat with
    | some r => r.vc
    | none => []
  ⟨b.row.toNat, b.col.toNat, (indexed b.vc).map fun (v, n) => if bindV (nth r n 0) then bindInto (nth r n 0) p.entry else v⟩

/-- An image as its spur will hold it: that of a launch as it is, a context image at its place, with the bindings its bricks
keep and the routes of the spur (R105). -/
def Image.placed (m sp : Image) : Option LoadAt → Image
  | none => m
  | some p =>
    { m with
      bricks := (p.live.bricks.filter fun b => p.sec.has b.row b.col).map (p.brickRec m)
      ctxs := m.ctxs.map p.ctxRec
      routes := sp.routes }

/-- A slot at its place in the spur. -/
def SlotD.placed (x : SlotD) : Option LoadAt → SlotD
  | none => x
  | some p => { x with c := p.ctxRec x.c }

/-- The grout entries of an image, and of the contexts of the spur that it leaves as they are. -/
def Image.grouts (m : Image) (at_ : Option LoadAt) : List W32 :=
  (m.ctxs.flatMap (·.cfg.grout)) ++
    match at_ with
    | none => []
    | some p => (p.live.ctxs.filter fun k => !p.takes k).flatMap (·.grout)

/-- Check 18: paired queues (R71), which a `qstat` may name no more than a guard may. -/
def pairFail (m : Image) (x : SlotD) (i : Instr) : Bool :=
  let g := x.guard
  (g.ibe && !g.ck && m.pairedQ x.c g.ib) ||
    (match i with | .qstat _ (.i n) _ => m.pairedQ x.c n | _ => false) ||
    (if isMerge i then !(g.iae && m.pairedQ x.c g.ia) else g.iae && m.pairedQ x.c g.ia)

/-- Check 19: split outputs (R71, R211). -/
def splitFail (x : SlotD) (i : Instr) : Bool :=
  match i with
  | .steer .. | .part .. => !(x.guard.oe && isSplit (x.c.out x.guard.oq))
  | .routeaStep .. => false
  | _ => (match dstOf i with | some (.o n) => isSplit (x.c.out n) | _ => false)

/-- Check 22: control outputs without a destination, and queues that the context does not bind (R71); `grouts` are the grout
entries that may bind a control queue (DEDUCED, log 33). -/
def queueFail (m : Image) (grouts : List W32) (x : SlotD) (i : Instr) : Bool :=
  match i with
  | .kput _ n _ => !((x.c.grout n.toNat).any entV)
  | .qstat _ (.i n) _ => !m.boundQ x.c n
  | .qstat _ (.o n) _ => !entV (x.c.out n)
  | .qstat _ (.k n) _ => !(grouts.any fun e => entV e && (grRow e).toNat == x.c.row &&
      (grCol e).toNat == x.c.col && (grCtx e).toNat == x.c.ctx && grK e == n)
  | .qstat _ (.j n) _ => !((x.c.grout n.toNat).any entV)
  | _ => false

/-- Check 27: engine commands and the outputs that carry them (R301). -/
def engineFail (sp : Image) (x : SlotD) (i : Instr) : Bool :=
  match cmdPorts i, dstOf i with
  | some (lo, hi), some (.o n) =>
    let o := x.c.out n
    !(entV o && entKd o == 0 && !(sp.outEnts o).isEmpty && (sp.outEnts o).all (atPort lo hi))
  | none, some (.o n) => (sp.outEnts (x.c.out n)).any (atPort 0 0x18)
  | _, _ => false

/-- An image contains `mbind` (R190). -/
def Image.hasMbind (m : Image) : Bool :=
  m.slotsD.any fun x => match x.instr with | some (.mbind ..) => true | _ => false

/-- Every failing check of a slot. `sp` is the image of its spur, whose routes its outputs name (R105) and whose extents an
`mbind` keeps to (R190); its queues are those it has at its place in the spur. -/
def slotFails (m sp : Image) (at_ : Option LoadAt) (x : SlotD) : List LoadFail :=
  let g := x.guard
  let pm := m.placed sp at_
  let y := x.placed at_
  let more : List (Bool × Nat) :=
    (match x.instr with
      | some i => [(pairFail pm y i, 18), (splitFail x i, 19), (queueFail pm (m.grouts at_) y i, 22), (engineFail sp x i, 27),
          ((match i with | .mbind .. => decide (32 < sp.hd.wd) || decide (32 < sp.hd.ht) | _ => false), 24)]
      | none => []) ++ [(decide (m.hd.slt ≤ x.n), 29), (!g.iae && decide (m.hd.bnk ≤ g.tg.toNat), 29)]
  (x.codes ++ (more.filter (·.1)).map (·.2)).map fun c => ⟨⟨c, x.n, false, x.c.ctx, x.c.row, x.c.col, x.node⟩, 0, 0⟩

/-! ## Checks of structures -/

/-- Check 16 of an output binding (R57, R61): `jN` bindings stay invalid. -/
def outFail (sp : Image) (n : Nat) (v : W32) : Bool :=
  v.extractLsb' 0 14 != 0 || entKd v == 3 || (entKd v != 1 && outT1 v != 0) || (entV v && (decide (8 ≤ n) ||
    (decide (entKd v ≤ 1) && decide (sp.routes.length ≤ (outT0 v).toNat)) ||
    (entKd v == 1 && decide (sp.routes.length ≤ (outT1 v).toNat))))

/-- Check 16 of a grout entry (R61). -/
def groutFail (sp : Image) (e : W32) : Bool :=
  e.extractLsb' 0 10 != 0 || (entV e && (decide (sp.hd.ht ≤ (grRow e).toNat) || decide (sp.hd.wd ≤ (grCol e).toNat) ||
    decide (sp.hd.ctx ≤ (grCtx e).toNat)))

/-- Check 16 of a window (R230). -/
def winFail (w : W64) : Bool := w.extractLsb' 57 6 != 0 || (w.getLsbD 63 && w.extractLsb' 0 57 != 0)

/-- Checks 16 and 17 (R71, R97, R230); check 16 of a binding reports the context that the binding names (DEDUCED, log 151). -/
def bindFails (m sp : Image) : List LoadFail :=
  ((indexed m.bricks).flatMap fun (b, j) =>
    (b.vc.filterMap fun v => if m.bindOk v then none else some (structFail 16 (bindCtx v).toNat b.row b.col 1 j)) ++
      ((upTo 8).filterMap fun c =>
        if pairsOk (b.vc.filter fun v => (bindCtx v).toNat == c) then none else some (structFail 17 c b.row b.col 1 j))) ++
  ((indexed m.ctxs).filterMap fun (c, j) =>
    if ((indexed c.cfg.obind).any fun x => outFail sp x.2 x.1) || c.cfg.grout.any (groutFail sp) || c.cfg.win.any winFail then
      some (structFail 16 c.ctx c.row c.col 2 j)
    else none) ++
  ((indexed m.routes).filterMap fun (r, j) => if r.all m.entryOk then none else some (structFail 16 0 0 0 3 j)) ++
  (indexed m.sections).filterMap fun (x, j) =>
    if decide (1 ≤ x.w) && decide (1 ≤ x.h) && decide (x.row + x.h ≤ m.hd.ht) && decide (x.col + x.w ≤ m.hd.wd) then none
    else some (structFail 16 0 0 0 7 j)

/-- A record holds a nonzero reserved bit or a field outside its range (R313, R404). -/
def recFail (i j : Nat) (r : List W64) : Bool :=
  let w := wAt r 0
  match i with
  | 1 => w ≥ 2 ^ 16
  | 2 => w ≥ 2 ^ 40 || decide (4 < bitsOf w 19 3) ||
      ((upTo 16).any fun n => bitsOf w (24 + n) 1 == 0 && wAt r (1 + n) != 0) ||
      (upTo 4).any fun b => wAt r (25 + 9 * b) ≥ 256
  | 3 => bitsOf w 0 6 != j || bitsOf w 6 2 != 0 || w ≥ 2 ^ 10 ||
      ((halves (r.drop 1)).drop (bitsOf w 8 2 + 1)).any (· != 0)
  | 4 => decide (1 < bitsOf (wAt r 1) 8 8) || bitsOf (wAt r 1) 48 16 != 0
  | 6 => decide (2 < bitsOf w 32 8) || decide (5 < bitsOf w 40 8) || bitsOf w 48 16 != 0 || wAt r 3 != 0
  | 7 => bitsOf w 3 5 != 0 || w ≥ 2 ^ 40
  | 8 => bitsOf w 0 8 < 0x20 || decide (0xEF < bitsOf w 0 8) || bitsOf w 9 7 != 0 || w ≥ 2 ^ 37 ||
      (bitsOf w 8 1 == 0 && bitsOf w 16 21 != 0)
  | _ => false

/-- The place a record names, for its failures. -/
def recPlace (i : Nat) (r : List W64) : Nat × Nat × Nat :=
  let w := wAt r 0
  match i with
  | 1 => (0, bitsOf w 0 8, bitsOf w 8 8)
  | 2 => (bitsOf w 16 3, bitsOf w 0 8, bitsOf w 8 8)
  | _ => (0, 0, 0)

/-- The key of a node-table entry (R404). -/
def NodeRec.key (n : NodeRec) : List Nat := if n.isSeq then [1, n.ent.key] else [0, n.row, n.col, n.ctx, n.ent.key]

/-- Check 28 of the records (R313, R315, R404). -/
def recFails (m : Image) (ws : List W64) : List LoadFail :=
  ((upTo 9).flatMap fun k =>
    (indexed (recsOf ws (k + 1))).filterMap fun (r, j) =>
      let p := recPlace (k + 1) r
      if recFail (k + 1) j r then some (structFail 28 p.1 p.2.1 p.2.2 (k + 1) j) else none) ++
  (indexed m.nodes).filterMap fun (n, j) =>
    if (m.nodes.take j).any fun o => o.key == n.key then some (structFail 28 0 0 0 4 j) else none

/-- Check 29 of structures: uses beyond the header (R315). A binding reports context 0 (DEDUCED, log 151), and a node-table
entry and an `in` port context, row and column 0 (DEDUCED, log 103). -/
def useFails (m : Image) : List LoadFail :=
  ((indexed m.bricks).filterMap fun (b, j) =>
    if decide (m.hd.ht ≤ b.row) || decide (m.hd.wd ≤ b.col) || ((m.bricks.take j).any fun o => o.row == b.row && o.col == b.col) ||
        (b.vc.drop m.hd.vcs).any bindV then some (structFail 29 0 b.row b.col 1 j) else none) ++
  ((indexed m.ctxs).filterMap fun (c, j) =>
    if decide (m.hd.ht ≤ c.row) || decide (m.hd.wd ≤ c.col) || decide (m.hd.ctx ≤ c.ctx) ||
        ((m.ctxs.take j).any fun o => o.row == c.row && o.col == c.col && o.ctx == c.ctx) ||
        (c.cfg.regs.drop (16 * m.hd.bnk)).any (· != 0) || (c.cfg.preds.drop m.hd.bnk).any (· != 0) then
      some (structFail 29 c.ctx c.row c.col 2 j) else none) ++
  ((indexed m.nodes).filterMap fun (n, j) =>
    if !n.isSeq && (decide (m.hd.ht ≤ n.row) || decide (m.hd.wd ≤ n.col) || decide (m.hd.ctx ≤ n.ctx) ||
        decide (m.hd.slt ≤ n.ent.key)) then some (structFail 29 0 0 0 4 j) else none) ++
  ((indexed m.ports).filterMap fun (p, j) =>
    if ((m.ports.take j).any fun o => o.p == p.p) ||
        (p.isIn && (decide (m.hd.ht ≤ p.row.toNat) || decide (m.hd.wd ≤ p.col.toNat))) then some (structFail 29 0 0 0 8 j)
    else none) ++
  (indexed m.seq).filterMap fun (w, j) =>
    match decode .seq w with
    | .ok (.yield ..) =>
      if m.hd.co then none
      else some ⟨⟨29, 0, true, 0, 0, 0, match seqNodeEnt m.nodes j with | some e => e.node | none => 0xFFFFFFFF⟩, 9, j⟩
    | _ => none

/-- Check 33: loop indices (R404). -/
def loopFails (m : Image) (ws : List W64) : List LoadFail :=
  ((indexed (recsOf ws 4)).zip m.nodes).filterMap fun ((r, j), n) =>
    let bad := decide (4 < bitsOf (wAt r 0) 32 8) || n.ent.loops.any fun c => decide ((if n.isSeq then 0x20 else 0x10) ≤ c.toNat)
    if !bad then none
    else if n.isSeq then some ⟨⟨33, 0, true, 0, 0, 0, n.ent.node⟩, 4, j⟩
    else some ⟨⟨33, n.ent.key, false, n.ctx, n.row, n.col, n.ent.node⟩, 0, 0⟩

/-- The checks of an image of a launch, or of a context image with where it is loaded, up to R315 (R105). -/
def imageFails (m sp : Image) (ws : List W64) (sysMade : Bool) (at_ : Option LoadAt) : List LoadFail :=
  m.slotsD.flatMap (slotFails m sp at_) ++ bindFails m sp ++ recFails m ws ++ useFails m ++
    (if m.hd.stw != 0 && decide (m.hd.stw < stowSize m.hd) then [structFail 30 0 0 0 0 0] else []) ++
    (if m.hd.sys && !sysMade then [structFail 31 0 0 0 0 0] else []) ++
    match at_ with
    | none => []
    | some p =>
      (if decide (p.sec.w < m.hd.wd) || decide (p.sec.h < m.hd.ht) || m.hd.ctx != 1 then [structFail 29 0 0 0 0 0] else []) ++
      (if m.routes.isEmpty && m.sections.isEmpty && m.ports.isEmpty && m.seq.isEmpty then [] else [structFail 28 0 0 0 3 0])

end Sys2Proof.Machine
end

