-- ==== Sys2Proof/Machine/Graph.lean ====
section
/-! DEFINITION. The token graph of an image (R353), counted capacity and the rule of ordered merges (R354, R358), and
memory nodes, their footprints and races (R251 to R253). -/

namespace Sys2Proof.Machine

open Sys2Proof

/-! ## Queues and vertices -/

/-- A queue that an edge enters: an input queue, or one arm of a paired one, or a control queue. -/
structure QAt where
  row : Nat
  col : Nat
  ctx : Nat
  q : Nat
  arm : Option Bool
  ctl : Bool
  deriving DecidableEq, Repr

/-- A vertex of the token graph: a source graph node, or a slot that has none. -/
inductive Vx where
  | node (n : W32)
  | slot (row col ctx n : Nat)
  deriving DecidableEq, Repr

/-- The vertex of a slot (R353). -/
def SlotD.vx (x : SlotD) : Vx := if x.node = 0xFFFFFFFF then .slot x.c.row x.c.col x.c.ctx x.n else .node x.node

/-- Segments between two bricks (R354). -/
def segments (r0 c0 r1 c1 : Nat) : Nat := Nat.max 1 ((r0 - r1) + (r1 - r0) + (c0 - c1) + (c1 - c0))

/-- One edge of the graph: the output it leaves by (0 to 7 `o`, 8 to 11 `j`), its arm of a split output, its key among
routes, its counted tokens, and the queue it enters. -/
structure Edge where
  row : Nat
  col : Nat
  ctx : Nat
  out : Nat
  arm : Option Bool
  key : Nat
  cap : Nat
  dest : QAt
  deriving DecidableEq, Repr

/-- The queue that a channel delivers to (R56). -/
def Image.chanTo (m : Image) (row col vc : Nat) : Option QAt :=
  match m.bricks.find? fun b => b.row == row && b.col == col with
  | none => none
  | some b =>
    let v := nth b.vc vc 0
    if bindV v then some ⟨row, col, (bindCtx v).toNat, (bindQ v).toNat, if bindPr v then some (bindAr v) else none, false⟩ else none

/-- The edges of one output queue (R57, R58). -/
def Image.outEdges (m : Image) (c : CtxRec) (n : Nat) : List Edge :=
  let o := nth c.cfg.obind n 0
  let route (arm : Option Bool) (t : BitVec 6) : List Edge :=
    (indexed (nth m.routes t.toNat [])).filterMap fun (e, ph) =>
      if entV e && entKd e == 0 then
        (m.chanTo (rtRow e).toNat (rtCol e).toNat (rtVc e).toNat).map fun q =>
          ⟨c.row, c.col, c.ctx, n, arm, 4 * t.toNat + ph,
            Config.mortarSegment * segments c.row c.col (rtRow e).toNat (rtCol e).toNat, q⟩
      else none
  if !entV o then []
  else if entKd o = 2 then [⟨c.row, c.col, c.ctx, n, none, 256, 0, ⟨c.row, c.col, c.ctx, (outLq o).toNat, none, false⟩⟩]
  else if entKd o = 0 then route none (outT0 o)
  else route (some false) (outT0 o) ++ route (some true) (outT1 o)

/-- The edges of one control output (R61). -/
def CtxRec.groutEdges (c : CtxRec) (n : Nat) : List Edge :=
  (indexed (c.grout n)).filterMap fun (e, k) =>
    if entV e then
      some ⟨c.row, c.col, c.ctx, 8 + n, none, k, Config.groutSegment * segments c.row c.col (grRow e).toNat (grCol e).toNat,
        ⟨(grRow e).toNat, (grCol e).toNat, (grCtx e).toNat, (grK e).toNat, none, true⟩⟩
    else none

/-- Every edge of an image. -/
def Image.edges (m : Image) : List Edge :=
  m.ctxs.flatMap fun c => ((upTo 8).flatMap fun n => m.outEdges c n) ++ (upTo 4).flatMap c.groutEdges

/-- The outputs that a slot writes: its guard's OQ, and the control output of a `kput`. -/
def SlotD.outs (x : SlotD) : List Nat :=
  (if x.guard.oe then [x.guard.oq.toNat] else []) ++
    match x.instr with
    | some (.kput _ n _) => [8 + n.toNat]
    | _ => []

/-- The queues that a slot names as IA, IB or control queue (R353): both arms of a paired one. -/
def SlotD.ins (m : Image) (x : SlotD) : List QAt :=
  let q (n : BitVec 3) : List QAt :=
    if m.pairedQ x.c n then [some false, some true].map fun a => ⟨x.c.row, x.c.col, x.c.ctx, n.toNat, a, false⟩
    else [⟨x.c.row, x.c.col, x.c.ctx, n.toNat, none, false⟩]
  (if x.guard.iae then q x.guard.ia else []) ++
    if !x.guard.ibe then []
    else if x.guard.ck then [⟨x.c.row, x.c.col, x.c.ctx, x.guard.ib.toNat, none, true⟩]
    else q x.guard.ib

/-- A slot stands in the context that an edge leaves, and writes its output. -/
def SlotD.writes (x : SlotD) (e : Edge) : Bool :=
  x.c.row == e.row && x.c.col == e.col && x.c.ctx == e.ctx && x.outs.contains e.out

/-- The declared hold of a vertex (R355). -/
def Image.hold (m : Image) : Vx → Nat
  | .node n => (match m.attrs.find? fun a => a.node == n with | some a => a.hold | none => 0)
  | .slot .. => 0

/-- The graph of an image, ready for its walks. -/
structure TGraph where
  m : Image
  slots : List SlotD
  edges : List Edge
  deriving DecidableEq, Repr

/-- The graph of an image (R353). -/
def Image.graph (m : Image) : TGraph := ⟨m, m.slotsD, m.edges⟩

/-- The queues that the slots of a vertex name. -/
def TGraph.insOf (t : TGraph) (v : Vx) : List QAt := dedup ((t.slots.filter fun x => x.vx == v).flatMap fun x => x.ins t.m)

/-! ## Ordered merges (R358) -/

/-- A member of a set of paths: a route, a queue or a node. -/
inductive Part where
  | edge (e : Edge)
  | inq (q : QAt)
  | outq (row col ctx n : Nat)
  | vx (v : Vx)
  deriving DecidableEq, Repr

/-- The counted tokens of a member (R354). -/
def TGraph.capOf (t : TGraph) : Part → Nat
  | .edge e => e.cap
  | .inq q => if q.ctl then 8 else if q.arm.isSome then 2 else 4
  | .outq _ _ _ n => if 8 ≤ n then 8 else 2
  | .vx v => t.m.hold v

/-- The vertices that write the output an edge leaves by. -/
def TGraph.writers (t : TGraph) (e : Edge) : List Vx := dedup ((t.slots.filter fun x => x.writes e).map (·.vx))

/-- The vertices that read a queue. -/
def TGraph.readers (t : TGraph) (q : QAt) : List Vx := dedup ((t.slots.filter fun y => (y.ins t.m).contains q).map (·.vx))

/-- Everything reachable over `next` from a list; `fuel` bounds what is visited. -/
def reachBy {α : Type} [BEq α] (next : α → List α) : Nat → List α → List α → List α
  | 0, _, seen => seen
  | fuel + 1, todo, seen =>
    match todo with
    | [] => seen
    | v :: r =>
      let new := (dedup (next v)).filter fun u => !seen.contains u
      reachBy next fuel (r ++ new) (seen ++ new)

/-- The vertices that edges lead to from a vertex. -/
def TGraph.fedBy (t : TGraph) (v : Vx) : List Vx :=
  reachBy (fun u => (t.edges.filter fun e => (t.writers e).contains u).flatMap fun e => t.readers e.dest)
    (t.slots.length + 1) [v] []

/-- An `in` port delivers to a queue: an edge from another spur enters it (R353). -/
def Image.portInto (m : Image) (q : QAt) : Bool :=
  m.ports.any fun p => p.isIn && m.chanTo p.row.toNat p.col.toNat p.vc.toNat == some q

/-- A path into an arm of a paired queue: the arm of the steer's split output that it starts at, or none where it starts
elsewhere, and its routes, queues and nodes. -/
abbrev APath := Option Bool × List Part

/-- Every path back along the edges of R353 from a queue, no vertex twice, to the output of a steer or to where else it starts:
another edge of the steer's vertex, an edge from another spur, or a vertex that nothing of the steer (`fed`) comes to. -/
def TGraph.armPaths (t : TGraph) (st : SlotD) (fed : List Vx) : Nat → List Vx → QAt → List Part → List APath
  | 0, _, _, acc => [(none, acc)]
  | fuel + 1, seen, q, acc =>
    let acc := .inq q :: acc
    (if t.m.portInto q then [(none, acc)] else []) ++
    (t.edges.filter fun e => e.dest == q).flatMap fun e =>
      let acc := .edge e :: acc
      ((t.writers e).filter fun v => !seen.contains v).flatMap fun v =>
        if v == st.vx then [(if st.writes e then e.arm else none, acc)]
        else
          let acc := .vx v :: .outq e.row e.col e.ctx e.out :: acc
          let l := (t.insOf v).flatMap fun q => t.armPaths st fed fuel (v :: seen) q acc
          if fed.contains v then l else (none, acc) :: l

/-- Where every path into an arm of a merge's paired queue starts at that arm of the steer's output: the counted
capacity of the arm (R358). -/
def TGraph.armCap (t : TGraph) (st x : SlotD) (a : Bool) : Option Nat :=
  let l := t.armPaths st (t.fedBy st.vx) (t.slots.length + 1) [x.vx]
    ⟨x.c.row, x.c.col, x.c.ctx, x.guard.ia.toNat, some a, false⟩ []
  if l.isEmpty || l.any (fun p => p.1 != some a) then none
  else some ((dedup (l.flatMap (·.2))).foldl (fun n p => n + t.capOf p) 0)

/-- A control output with the counted tokens of one path from it (R358). -/
abbrev KPath := (Nat × Nat × Nat × Nat) × Nat

/-- Every path back from a control queue over relay nodes, no vertex twice: the control outputs they start at, and the
counted tokens of each. -/
def TGraph.ctlPaths (t : TGraph) : Nat → List Vx → QAt → Nat → List KPath
  | 0, _, _, _ => []
  | fuel + 1, seen, q, acc =>
    (t.edges.filter fun e => e.dest == q).flatMap fun e =>
      let cap := acc + 8 + e.cap
      let vs := (t.writers e).filter fun v => !seen.contains v
      if vs.isEmpty then []
      else ((e.row, e.col, e.ctx, e.out), cap) :: vs.flatMap fun v =>
        ((t.insOf v).filter (·.ctl)).flatMap fun q => t.ctlPaths fuel (v :: seen) q (cap + 8 + t.m.hold v)

/-- The control paths into the control queue of a slot. -/
def TGraph.ctlInto (t : TGraph) (x : SlotD) : List KPath :=
  t.ctlPaths (t.slots.length + 1) [x.vx] ⟨x.c.row, x.c.col, x.c.ctx, x.guard.ib.toNat, none, true⟩ 0

/-- The merge of a slot meets the rule of R358. -/
def TGraph.mergeOk (t : TGraph) (x : SlotD) : Bool :=
  let steers := t.slots.filter fun s => match s.instr with | some (.steer ..) => true | _ => false
  match steers.filterMap fun s => match t.armCap s x false, t.armCap s x true with | some a, some b => some (s, Nat.max a b) | _, _ => none with
  | [(s, cap)] =>
    let ks := t.ctlInto s
    let km := (t.ctlInto x).filter fun k => ks.any fun l => l.1 == k.1
    !km.isEmpty && km.all fun k => decide (cap ≤ k.2)
  | _ => false

/-- Check 32 (R358), on the graph of the image as its spur will hold it. -/
def mergeFails (m sp : Image) (at_ : Option LoadAt) : List LoadFail :=
  let t := (m.placed sp at_).graph
  m.slotsD.filterMap fun x => match x.instr with
    | some (.merge ..) =>
      if t.mergeOk (x.placed at_) then none else some ⟨⟨32, x.n, false, x.c.ctx, x.c.row, x.c.col, x.node⟩, 0, 0⟩
    | _ => none

/-- The codes of the checks in their order (R46, R71, R145, R197, R211, R301, R315, R358, R404). -/
def loadCodes : List Nat := [16, 17, 18, 19, 20, 21, 22, 23, 24, 25, 27, 28, 29, 30, 31, 32, 33]

/-- Check an image whole, but for races: its header and directory first (R315). `co` is what its entry says of CO. -/
def checkImage (ws : List W64) (m sp : Image) (sysMade : Bool) (co : Option Bool) (at_ : Option LoadAt) : Option Refused :=
  if !headerOk ws || !dirOk ws || (match co with | some c => m.hd.co != c | none => false) then some noImage
  else pickFail (imageFails m sp ws sysMade at_ ++ mergeFails m sp at_ ++ loopFails m ws) loadCodes

/-! ## Memory nodes and races (R251 to R253) -/

/-- The kind of a memory instruction's access: 0 read, 1 write, 2 sync (R251). -/
def memKind : Instr → Option Nat
  | .ldv .. | .ldg .. => some 0
  | .stv .. | .stg .. => some 1
  | .ldp .. | .stp .. | .clrp .. | .amoadd .. | .amoand .. | .amoor .. | .amoxor .. | .amomin .. | .amomax .. | .amominu ..
  | .amomaxu .. | .amoswap .. | .amofadd .. | .cas .. => some 2
  | _ => none

/-- A range of a memory node: the leaf whose vault it lies in, or none for virtual memory, its bounds and its kind. -/
structure MRange where
  vault : Option Nat
  lo : Nat
  hi : Nat
  kind : Nat
  deriving DecidableEq, Repr

/-- A memory node of a leaf: its ranges, and its slot of the lowest context and slot index for a report (R253). -/
structure MNode where
  leaf : Nat
  node : W32
  ranges : List MRange
  at_ : Option SlotD
  deriving DecidableEq, Repr

/-- Ranges of a window for a footprint line or a default declaration (R251). -/
def winRange (leaf : Nat) (w : W64) (off len kind : Nat) : List MRange :=
  if w = 0 then []
  else if w.getLsbD 63 then [⟨some leaf, off, off + len, kind⟩]
  else [⟨none, w.toNat + off, Nat.min (w.toNat + off + len) (2 ^ 57), kind⟩]

/-- The ranges a node declares, or reaches where it declares none (R251). -/
def nodeRanges (m : Image) (leaf : Nat) (n : W32) (xs : List SlotD) (inSeq : Bool) (kinds : List Nat) : List MRange :=
  let wins (k : Nat) : List W64 := xs.map fun x => nth x.c.cfg.win k 0
  let lines := m.foots.filter fun f => f.node == n
  if !lines.isEmpty then
    lines.flatMap fun f =>
      if f.space = 4 then [⟨some leaf, f.off, f.off + f.len, f.kind⟩]
      else if f.space = 5 then [⟨none, f.off, f.off + f.len, f.kind⟩]
      else (wins f.space).flatMap fun w => winRange leaf w f.off f.len f.kind
  else
    kinds.flatMap fun k =>
      (if m.hd.vlt = 0 then [] else (upTo 256).map fun b => ⟨some leaf, 65536 * b, 65536 * b + m.hd.vlt, k⟩) ++
      (if inSeq then [⟨none, 0, 2 ^ 57, k⟩] else []) ++
      (upTo 4).flatMap fun j => ((wins j).filter fun w => !w.getLsbD 63).flatMap fun w => winRange leaf w 0 (2 ^ 32) k

/-- The memory instructions among the sequencer words, with their nodes. -/
def seqMem (m : Image) : List (W32 × Nat) :=
  (indexed m.seq).filterMap fun (w, j) =>
    match decode .seq w, seqNodeEnt m.nodes j with
    | .ok i, some e => (memKind i).map fun k => (e.node, k)
    | _, _ => none

/-- The memory nodes of a leaf (R251). -/
def memNodes (leaf : Nat) (m : Image) : List MNode :=
  let all := m.slotsD
  let xs := all.filter fun x => x.node != 0xFFFFFFFF && (match x.instr with | some i => (memKind i).isSome | none => false)
  let sq := seqMem m
  (dedup (xs.map (·.node) ++ sq.map (·.1))).map fun n =>
    let mine := xs.filter fun x => x.node == n
    let kinds := dedup ((mine.filterMap fun x => x.instr.bind memKind) ++ (sq.filter fun k => k.1 == n).map (·.2))
    ⟨leaf, n, nodeRanges m leaf n mine (sq.any fun k => k.1 == n) kinds,
      leastBy (fun x => [x.c.ctx, x.n, x.c.row, x.c.col]) (all.filter fun x => x.node == n)⟩

/-- A write range of one overlaps a range of the other (R252). -/
def clash (a b : MNode) : Bool :=
  a.ranges.any fun x => b.ranges.any fun y =>
    x.vault == y.vault && decide (x.lo < y.hi) && decide (y.lo < x.hi) && (x.kind == 1 || y.kind == 1)

/-- An edge between leaves: the leaf and the `out` port it leaves by, and the leaf and the `in` port it enters by. -/
structure NestEdge where
  from_ : Nat
  outP : BitVec 8
  to_ : Nat
  inP : BitVec 8
  deriving DecidableEq, Repr

/-- The successors of a vertex of a leaf: over its own edges, and over the edges of the nest (R252, R353). -/
def succs (ts : List TGraph) (es : List NestEdge) (v : Nat × Vx) : List (Nat × Vx) :=
  match ts[v.1]? with
  | none => []
  | some t =>
    let xs := t.slots.filter fun x => x.vx == v.2
    let own := (t.edges.filter fun e => xs.any (·.writes e)).flatMap fun e =>
      (t.readers e.dest).map fun y => (v.1, y)
    let reaches (p : BitVec 8) : Bool := xs.any fun x => x.guard.oe && (t.m.outEnts (x.c.out x.guard.oq)).any fun e =>
      entV e && entKd e == 1 && rtCol e == p
    let far := (es.filter fun e => e.from_ == v.1 && reaches e.outP).flatMap fun e =>
      match ts[e.to_]? with
      | none => []
      | some u =>
        match u.m.ports.find? fun p => p.isIn && p.p == e.inP with
        | none => []
        | some p =>
          match u.m.chanTo p.row.toNat p.col.toNat p.vc.toNat with
          | none => []
          | some q => (u.readers q).map fun y => (e.to_, y)
    dedup (own ++ far)

/-- The racing pairs of the first `n` of a list of leaves in ascending order, the node of lower number first in each
(R252, R253); a leaf past them only carries paths. -/
def racePairs (n : Nat) (ms : List Image) (es : List NestEdge) : List (MNode × MNode) :=
  let ts := ms.map Image.graph
  let ns := (indexed (ms.take n)).flatMap fun (m, j) => memNodes j m
  let fuel := (ts.foldl (fun k t => k + t.slots.length) 0) + 1
  let from_ (a : MNode) : List (Nat × Vx) := reachBy (succs ts es) fuel [(a.leaf, .node a.node)] []
  let pairs := (indexed ns).flatMap fun (a, j) => (ns.drop (j + 1)).filterMap fun b =>
    if clash a b && !(from_ a).contains (b.leaf, .node b.node) && !(from_ b).contains (a.leaf, .node a.node) then
      some (if b.node < a.node then (b, a) else (a, b))
    else none
  sortBy (fun p : MNode × MNode => [p.1.node.toNat, p.2.node.toNat, p.1.leaf, p.2.leaf]) pairs

/-- The refusal of a race (R253). -/
def raceRefused (a : MNode) : Refused :=
  match a.at_ with
  | some x => ⟨26, x.n, false, x.c.ctx, x.c.row, x.c.col, a.node⟩
  | none => ⟨26, 0, true, 0, 0, 0, a.node⟩

end Sys2Proof.Machine
end

