-- ==== Sys2Proof/Machine/Nests.lean ====
section
/-! DEFINITION. Nests of callables: read from the callable table, with the images of their leaves, their rectangles,
their ports and the edges of their pipes (R325, R335, R338). -/

namespace Sys2Proof.Machine

open Sys2Proof

/-! ## Reading a nest and its images (R338) -/

/-- Read a nest from entry `id` on; `fuel` is the levels left and `path` the entries above. An entry at fault gives its
id (R338, R390); bits of an entry that R308 has zero are ignored (DESIGN CHOICE, log 141). -/
def readNest (massif d : Nat) : Nat → List Nat → Nat → State → State × Except Nat Nest
  | 0, _, id, s => (s, .error id)
  | fuel + 1, path, id, s =>
    if id = 0 || path.contains id then (s, .error id)
    else
      match readTab s massif d id with
      | (s, none) => (s, .error id)
      | (s, some ws) =>
        let k := entKind ws
        let w1 := nth ws 1 0
        let par := (nth ws 2 0).toNat
        let hq := if bitsOf (nth ws 0 0).toNat 59 1 = 1 then some (bitsOf (nth ws 0 0).toNat 44 12) else none
        let a := bitsOf w1.toNat 0 12
        let two (f : Nest → Nest → Nest) : State × Except Nat Nest :=
          match readNest massif d fuel (id :: path) a s with
          | (s, .error e) => (s, .error e)
          | (s, .ok x) =>
            match readNest massif d fuel (id :: path) (bitsOf w1.toNat 16 12) s with
            | (s, .error e) => (s, .error e)
            | (s, .ok y) => (s, .ok (f x y))
        let one (f : Nest → Nest) : State × Except Nat Nest :=
          match readNest massif d fuel (id :: path) a s with
          | (s, .error e) => (s, .error e)
          | (s, .ok x) => (s, .ok (f x))
        if k = 1 then (s, .ok (.leaf id w1 false))
        else if k = 2 then (s, .ok (.leaf id w1 true))
        else if k = 3 then two (.seq id hq)
        else if k = 4 then two (.par id hq)
        else if k = 5 then two (.pipe id hq)
        else if k = 6 then one (.farm id hq (farmPol s d id) (bitsOf par 8 5) (bitsOf par 0 8 + 1))
        else if k = 7 then one (.loop id hq (bitsOf par 0 5))
        else (s, .error id)

/-- Levels a nest may have (R338). -/
def nestLevels : Nat := 16

/-- The leaves of a nest in their order: the image's address and whether the entry is a coroutine. A farm's body counts
once. -/
def Nest.leaves : Nest → List (W64 × Bool)
  | .leaf _ a co => [(a, co)]
  | .seq _ _ a b | .par _ _ a b | .pipe _ _ a b => a.leaves ++ b.leaves
  | .farm _ _ _ _ _ a | .loop _ _ _ a => a.leaves

/-- The leaves of a nest with every replica of its farms (R374). -/
def Nest.count : Nest → Nat
  | .leaf .. => 1
  | .seq _ _ a b | .par _ _ a b | .pipe _ _ a b => a.count + b.count
  | .farm _ _ _ _ r a => r * a.count
  | .loop _ _ _ a => a.count

/-- The id of the entry at a nest's root. -/
def Nest.entry : Nest → Nat
  | .leaf id .. | .seq id .. | .par id .. | .pipe id .. | .farm id .. | .loop id .. => id

/-- The handler queue a composite names (R336). -/
def Nest.hq : Nest → Option Nat
  | .leaf .. => none
  | .seq _ hq .. | .par _ hq .. | .pipe _ hq .. | .farm _ hq .. | .loop _ hq .. => hq

/-- Read the words of an image: its header, its directory, and the rest where they are sound; what its header was read as, and
the whole, none where bytes of it cannot be read (R309, R315). -/
def readImage (s : State) (d : DevAt) (addr : W64) : State × Option (List W64) × Option (List W64) :=
  if addr.toNat % 64 != 0 then (s, none, none)
  else
    match devGet s d .fetch addr.toNat 4 with
    | (s, .error _) => (s, none, none)
    | (s, .ok h) =>
      match devGet s d .fetch (addr.toNat + 32) 12 with
      | (s, .error _) => (s, some h, none)
      | (s, .ok dir) =>
        let hw := h ++ dir
        if !headerOk hw || !dirOk hw then (s, some h, some hw)
        else
          match devGet s d .fetch (addr.toNat + 128) (imgLen hw / 8 - 16) with
          | (s, .error _) => (s, some h, none)
          | (s, .ok tl) => (s, some h, some (hw ++ tl))

/-- An image read with the words it came from, whether its header was read, and what its entry says of CO. -/
structure ReadImg where
  head : Bool
  ws : Option (List W64)
  img : Image
  co : Bool
  deriving DecidableEq, Repr

/-- Read the images of leaves. -/
def readImages (d : DevAt) : List (W64 × Bool) → State → State × List ReadImg
  | [], s => (s, [])
  | (a, co) :: r, s =>
    let (s, hw, ws) := readImage s d a
    let (s, l) := readImages d r s
    (s, ⟨hw.isSome, ws, imageOf a (ws.getD (hw.getD [])), co⟩ :: l)

/-- The header and directory of an image are sound, and its CO is its entry's (code 28, R315). -/
def ReadImg.sound (r : ReadImg) : Bool :=
  match r.ws with
  | some ws => headerOk ws && dirOk ws && r.img.hd.co == r.co
  | none => false

/-- The port table of an image is sound as well (code 28, R313). -/
def ReadImg.portsSound (r : ReadImg) : Bool :=
  match r.ws with
  | some ws => r.sound && (indexed (recsOf ws 8)).all fun x => !recFail 8 x.2 x.1
  | none => false

/-! ## Rectangles (R325) -/

/-- The rectangle of an image. -/
def Image.rect (m : Image) : Rect := ⟨m.hd.wd, m.hd.ht, m.hd.ctx, m.hd.vlt, m.hasMbind⟩

/-- Bricks of a rectangle. -/
def Rect.bricks (r : Rect) : Nat := r.wd * r.ht

/-- The total of a list of rectangles. -/
def sumRects (f : Rect → Nat) (l : List Rect) : Nat := l.foldl (fun n r => n + f r) 0

/-- The larger of two lists: more bricks, then more contexts, then the first (R325). -/
def largerOf (a b : List Rect) : List Rect :=
  let ctxs (r : Rect) : Nat := r.bricks * r.ctx
  if sumRects Rect.bricks a < sumRects Rect.bricks b then b
  else if sumRects Rect.bricks b < sumRects Rect.bricks a then a
  else if sumRects ctxs a < sumRects ctxs b then b else a

/-- A list fits within another (R325). -/
def fitsWithin (x y : List Rect) : Bool :=
  decide (x.length ≤ y.length) && (x.zip y).all fun p =>
    decide (p.1.wd ≤ p.2.wd) && decide (p.1.ht ≤ p.2.ht) && decide (p.1.ctx ≤ p.2.ctx)

/-- The list that a sequence holds: its larger member's, each rectangle in one block where either member's asks for that
(R190, R325). -/
def seqRects (a b : List Rect) : List Rect :=
  let l := largerOf a b
  let o := if l == a then b else a
  (l.zip (upTo l.length)).map fun x => { x.1 with block := x.1.block || (nth o x.2 x.1).block }

/-- The rectangles of a nest whose leaves have these images (R325). -/
def Nest.rects : Nest → List Image → List Rect
  | .leaf .., l => (l.take 1).map Image.rect
  | .par _ _ a b, l | .pipe _ _ a b, l => a.rects (l.take a.leaves.length) ++ b.rects (l.drop a.leaves.length)
  | .seq _ _ a b, l => seqRects (a.rects (l.take a.leaves.length)) (b.rects (l.drop a.leaves.length))
  | .farm _ _ _ _ r a, l => (List.replicate r (a.rects l)).flatMap fun x => x
  | .loop _ _ _ a, l => a.rects l

/-- The smaller member's list of a sequence fits within the larger's (R325). -/
def seqFits (a b : List Rect) : Bool :=
  if largerOf a b == a then fitsWithin b a else fitsWithin a b

/-! ## Ports and edges (R335) -/

/-- A port of a nest: its number, its direction, and the leaf that declares it. -/
structure NPort where
  p : BitVec 8
  isIn : Bool
  leaf : Nat
  deriving DecidableEq, Repr

/-- The ports of a pipe that its members wire to one another. -/
def pipedPorts (a b : List NPort) : List (BitVec 8) :=
  (a.filter fun x => !x.isIn && b.any fun y => y.isIn && y.p == x.p).map (·.p)

/-- The ports of a nest, its first leaf numbered `j`, and the edges of its pipes. -/
def Nest.ports : Nest → List Image → Nat → List NPort × List NestEdge
  | .leaf .., l, j => ((l.take 1).flatMap fun m => m.ports.map fun p => ⟨p.p, p.isIn, j⟩, [])
  | .par _ _ a b, l, j | .seq _ _ a b, l, j =>
    let x := a.ports (l.take a.leaves.length) j
    let y := b.ports (l.drop a.leaves.length) (j + a.leaves.length)
    (x.1 ++ y.1, x.2 ++ y.2)
  | .pipe _ _ a b, l, j =>
    let x := a.ports (l.take a.leaves.length) j
    let y := b.ports (l.drop a.leaves.length) (j + a.leaves.length)
    let ps := pipedPorts x.1 y.1
    let es := (x.1.filter fun o => !o.isIn && ps.contains o.p).flatMap fun o =>
      (y.1.filter fun i => i.isIn && i.p == o.p).map fun i => (⟨o.leaf, o.p, i.leaf, i.p⟩ : NestEdge)
    ((x.1.filter fun o => o.isIn || !ps.contains o.p) ++ (y.1.filter fun i => !i.isIn || !ps.contains i.p),
      x.2 ++ y.2 ++ es)
  | .farm _ _ _ _ _ a, l, j | .loop _ _ _ a, l, j => a.ports l j

/-- Ports of two members meet in a conflict (R335): for a sequence, one number in two directions; for the others, one
number twice. -/
def portsClash (seq : Bool) (a b : List NPort) : Bool :=
  a.any fun x => b.any fun y => x.p == y.p && (!seq || x.isIn != y.isIn)

/-- The members of a builder have a port conflict (R335, R348). -/
def buildClash (kind : Nat) (a b : List NPort) : Bool :=
  if kind = 3 then portsClash true a b
  else if kind = 5 then
    let ps := pipedPorts a b
    portsClash false (a.filter fun o => o.isIn || !ps.contains o.p) (b.filter fun i => !i.isIn || !ps.contains i.p)
  else portsClash false a b

end Sys2Proof.Machine
end

