-- ==== Sys2Proof/Machine/MemInstr.lean ====
section
/-! DEFINITION. Loads, stores, presence accesses, atomics and fences (R229 to R262). The model performs every access in
the order of its steps, which is one of the orders the rules allow (log 3). -/

namespace Sys2Proof.Machine

open Sys2Proof

/-! ## Loads and stores (R256) -/

/-- Bytes of an access size. -/
def sizeOf : Size → Nat
  | .w => 4 | .h => 2 | .b => 1

/-- A bank access of `ldb` and `stb`: aligned and within the bank (R231, R262). -/
def Ex.bankOff (x : Ex) (t n : Nat) : Ex × Nat :=
  if t % n != 0 then (x.raise (flt 8 (BitVec.ofNat 64 t)), t)
  else if 65536 < t + n then (x.raise (overrun 1 (BitVec.ofNat 64 t)), t)
  else (x, t)

/-- `ldb` (R256). -/
def execLdb (g : BGuard) (sz : Size) (d a b : Opnd) (s : State) : Out :=
  run (.ldb g sz d a b) (.b g) (fun x =>
    let (x, t) := x.bankOff (x.sum (.b g) a b) (sizeOf sz)
    x.deliver d (BitVec.ofNat 64 (readNat x.br.bank t (sizeOf sz))) none) s

/-- `stb` (R256). -/
def execStb (g : BGuard) (sz : Size) (v a b : Opnd) (s : State) : Out :=
  run (.stb g sz v a b) (.b g) (fun x =>
    let data := x.nat v
    let (x, t) := x.bankOff (x.sum (.b g) a b) (sizeOf sz)
    if x.ok then x.bankStore x.br.row x.br.col t (toBytes (sizeOf sz) data) else x) s

/-- A load at a target, by a memory node (R254, R256). -/
def Ex.loadAt (x : Ex) (tg : Target1) (n : Nat) (d : Opnd) : Ex :=
  let (x, p) := x.place tg n n .read none
  let x := if x.ok then x.footCheck 0 n p else x
  x.deliver d (BitVec.ofNat 64 (ofBytes (x.bytesAt p n))) (p.range n)

/-- A store at a target, by a memory node (R249, R254, R256). -/
def Ex.storeAt (x : Ex) (tg : Target1) (n : Nat) (v : Nat) : Ex :=
  let (x, p) := x.place tg n n .write (some false)
  let x := if x.ok then x.footCheck 1 n p else x
  x.hold .store p (toBytes n v)

/-- `ldv` (R256). -/
def execLdv (g : Guard) (sz : Size) (d a b : Opnd) (s : State) : Out :=
  run (.ldv g sz d a b) g (fun x => x.loadAt (.vault (x.sum g a b)) (sizeOf sz) d) s

/-- `stv` (R256). -/
def execStv (g : Guard) (sz : Size) (v a b : Opnd) (s : State) : Out :=
  run (.stv g sz v a b) g (fun x => x.storeAt (.vault (x.sum g a b)) (sizeOf sz) (x.nat v)) s

/-- `ldg` (R256). -/
def execLdg (g : Guard) (sz : Size) (w : BitVec 2) (d a b : Opnd) (s : State) : Out :=
  run (.ldg g sz w d a b) g (fun x => x.loadAt (x.window w (x.sum g a b)) (sizeOf sz) d) s

/-- `stg` (R256). -/
def execStg (g : Guard) (sz : Size) (w : BitVec 2) (v a b : Opnd) (s : State) : Out :=
  run (.stg g sz w v a b) g (fun x => x.storeAt (x.window w (x.sum g a b)) (sizeOf sz) (x.nat v)) s

/-- `pref` (R258): no architectural effect. -/
def execPref (g : Guard) (w : BitVec 2) (a b : Opnd) (s : State) : Out := run (.pref g w a b) g (fun x => x) s

/-! ## Presence words (R245 to R249, R257) -/

/-- The presence word at a place is full for the agent's spur (R246, R247). -/
def Ex.fullAt (x : Ex) (p : Place1) : Bool :=
  match p with
  | .phys _ pa => x.globalFull pa
  | .bank r c off _ => (match x.brickAt r c with | some b => b.full.contains off | none => false)

/-- Another spur's uncommitted round fills the word (R247). -/
def Ex.filling (x : Ex) (p : Place1) : Bool :=
  match p with
  | .phys _ pa => x.otherFill pa
  | .bank .. => false

/-- The address a fault reports for a place. -/
def Place1.addr : Place1 → Nat
  | .phys va _ => va
  | .bank _ _ _ v => v

/-- Change the side-band bits of a bank of the spur. -/
def Ex.modFull (x : Ex) (row col : BitVec 8) (f : List Nat → List Nat) : Ex :=
  let mark (k : Brick) : Brick := { k with full := f k.full }
  if x.isB && x.br.row == row && x.br.col == col then { x with br := mark x.br }
  else { x with sp := x.sp.modLive fun b => { b with bricks := updFirst (fun k => k.row == row && k.col == col) mark b.bricks } }

/-- `ldp` (R246): a word that is not full and visible defers the read. -/
def execLdp (g : Guard) (w : BitVec 2) (d a b : Opnd) (s : State) : Out :=
  run (.ldp g w d a b) g (fun x =>
    let (x, p) := x.place (x.window w (x.sum g a b)) 4 4 .read (some true)
    let x := if x.ok then x.footCheck 2 4 p else x
    if !x.ok then x
    else if x.fullAt p then x.put d (BitVec.ofNat 64 (ofBytes (x.bytesAt p 4)))
    else x.defers d p) s

/-- `stp` (R247). -/
def execStp (g : Guard) (w : BitVec 2) (v a b : Opnd) (s : State) : Out :=
  run (.stp g w v a b) g (fun x =>
    let data := x.nat v
    let (x, p) := x.place (x.window w (x.sum g a b)) 4 4 .write (some true)
    let x := if x.ok then x.footCheck 2 4 p else x
    if !x.ok then x
    else if x.fullAt p then x.raise (flt 6 (BitVec.ofNat 64 (Place1.addr p)))
    else if x.filling p then x.stall
    else
      let y := x.hold .stp p (toBytes 4 data)
      if !y.ok then y
      else
        let y := y.fillOwn p (BitVec.ofNat 64 (data % 2 ^ 32))
        match p with
        | .bank r c off _ => y.modFull r c fun l => setFull l off
        | .phys .. => y) s

/-- `clrp` (R248, R257): words become zero and empty. -/
def execClrp (g : Guard) (w : BitVec 2) (v a b : Opnd) (s : State) : Out :=
  run (.clrp g w v a b) g (fun x =>
    let k := x.nat v % 2 ^ 32
    let t := x.sum g a b
    let tg := x.window w t
    let ea := match tg with
      | .virt va => va
      | .vault t => t
      | .unset _ => t
    if tg == .unset w || ea % 4 != 0 then (x.place tg 4 4 .write (some true)).1
    else if k < 1 ∨ 1024 < k then x.raise (overrun 11 (BitVec.ofNat 64 k))
    else if ea / 4096 ≠ (ea + 4 * k - 1) / 4096 then x.raise (overrun 11 (BitVec.ofNat 64 ea))
    else
      let (x, p) := x.place tg 4 (4 * k) .write (some true)
      let x := if x.ok then x.footCheck 2 (4 * k) p else x
      let y := x.hold .clrp p (zeros (4 * k))
      match p with
      | .bank r c off _ => if y.ok then y.modFull r c fun l => l.filter fun o => !(decide (off ≤ o) && decide (o < off + 4 * k)) else y
      | .phys .. => y) s

/-! ## Atomics (R235, R259, R260) -/

/-- The register a field of an atomic names. -/
def Ex.amoReg (x : Ex) (n : BitVec 4) : Opnd := if x.isB then .d n else .g (n.setWidth 5)

/-- A held write of any round touches the bytes of a place (R235). -/
def Ex.heldThere (x : Ex) (p : Place1) (n : Nat) : Bool :=
  match p with
  | .phys _ pa =>
    (x.s.spurs.any fun o => o.handle != x.sp.handle && o.live.held.any fun h => h.bank.isNone && overlap pa n h.pa h.bytes.length) ||
      x.sp.live.held.any fun h => h.bank.isNone && overlap pa n h.pa h.bytes.length
  | .bank r c off _ => x.sp.live.held.any fun h => h.bank == some (r, c) && overlap off n h.pa h.bytes.length

/-- Perform a write at a place at once, for every agent and beyond voiding (R234, R235). -/
def Ex.perform (x : Ex) (p : Place1) (bytes : List Byte) : Ex :=
  match p with
  | .phys _ pa => { x with s := x.s.physWrite (writerOf x.who x.sys) pa bytes }
  | .bank r c off _ =>
    let mark (k : Brick) : Brick := { k with bank := writeBytes k.bank off bytes }
    let sp := x.sp.modBoth fun b => { b with bricks := updFirst (fun k => k.row == r && k.col == c) mark b.bricks }
    { x with sp := sp, br := if x.isB && x.br.row == r && x.br.col == c then mark x.br else x.br }

/-- The slot that fires, or the word that the thread stands at: what a recorded result is recorded for (R235). -/
def Ex.atomPlace (x : Ex) : W64 := if x.isB then x.slot.setWidth 64 else x.th.pc

/-- How many results the round has recorded for the slot or word. -/
def Ex.atomNo (x : Ex) : Nat := ((if x.isB then x.cx.atomAt else x.th.atomAt).filter (· == x.atomPlace)).length

/-- Count a recorded result. -/
def Ex.nextAtom (x : Ex) : Ex :=
  let p := x.atomPlace
  if x.isB then { x with cx := { x.cx with atomAt := x.cx.atomAt ++ [p] } }
  else { x with th := { x.th with atomAt := x.th.atomAt ++ [p] } }

/-- What the device kept of this firing of the slot or word, from an earlier execution of the round (R235, R344). -/
def Ex.recorded (x : Ex) : Option AtomRec :=
  x.sp.atoms.find? fun r => r.who == x.who && r.at_ == x.atomPlace && r.n == x.atomNo

/-- Keep a result for the round's re-execution (R235, R344). -/
def Ex.record (x : Ex) (v : W64) (req : Option Request) : Ex :=
  { x with sp := { x.sp with atoms := x.sp.atoms ++ [(⟨x.who, x.atomPlace, x.atomNo, v, req⟩ : AtomRec)] } }.nextAtom

/-- An atomic (R260): `f old` is the new value, or none where nothing is written; `fl old` are its flags. -/
def Ex.atomic (x : Ex) (w : BitVec 2) (n : Nat) (d a : BitVec 4) (g : Guard) (f : Nat → Option Nat)
    (fl : Nat → BitVec 8) : Ex :=
  match x.recorded with
  | some r => ((x.flags (fl r.val.toNat)).put (x.amoReg d) r.val).nextAtom
  | none =>
    let (x, p) := x.place (x.window w (x.sum g (x.amoReg a) .z)) n n .rw (some false)
    let x := if x.ok then x.footCheck 2 n p else x
    if !x.ok then x
    else if x.heldThere p n then x.stall
    else
      let old := ofBytes (x.bytesAt p n)
      let x := match f old with
        | some v => x.perform p (toBytes n v)
        | none => x
      ((x.flags (fl old)).put (x.amoReg d) (BitVec.ofNat 64 old)).record (BitVec.ofNat 64 old) none

/-- Bytes of an atomic that is not `amofadd` (R259). -/
def amoW (g : Guard) : Nat :=
  match g with
  | .b _ => 4
  | .s _ => 8

/-- An `amo` on patterns of its width (R259). -/
def Ex.amo (x : Ex) (g : Guard) (w : BitVec 2) (d a b : BitVec 4) (f : (m : Nat) → BitVec m → BitVec m → BitVec m) : Ex :=
  let m := 8 * amoW g
  let v := x.nat (x.amoReg b)
  x.atomic w (amoW g) d a g (fun old => some (f m (BitVec.ofNat m old) (BitVec.ofNat m v)).toNat) fun _ => 0

/-- `amoadd` (R259, R260). -/
def execAmoadd (g : Guard) (ord : AOrd) (sc : Scope) (w : BitVec 2) (d a b : BitVec 4) (s : State) : Out :=
  run (.amoadd g ord sc w d a b) g (fun x => x.amo g w d a b fun _ u v => u + v) s

/-- `amoand` (R259, R260). -/
def execAmoand (g : Guard) (ord : AOrd) (sc : Scope) (w : BitVec 2) (d a b : BitVec 4) (s : State) : Out :=
  run (.amoand g ord sc w d a b) g (fun x => x.amo g w d a b fun _ u v => u &&& v) s

/-- `amoor` (R259, R260). -/
def execAmoor (g : Guard) (ord : AOrd) (sc : Scope) (w : BitVec 2) (d a b : BitVec 4) (s : State) : Out :=
  run (.amoor g ord sc w d a b) g (fun x => x.amo g w d a b fun _ u v => u ||| v) s

/-- `amoxor` (R259, R260). -/
def execAmoxor (g : Guard) (ord : AOrd) (sc : Scope) (w : BitVec 2) (d a b : BitVec 4) (s : State) : Out :=
  run (.amoxor g ord sc w d a b) g (fun x => x.amo g w d a b fun _ u v => u ^^^ v) s

/-- `amomin` (R259, R260). -/
def execAmomin (g : Guard) (ord : AOrd) (sc : Scope) (w : BitVec 2) (d a b : BitVec 4) (s : State) : Out :=
  run (.amomin g ord sc w d a b) g (fun x => x.amo g w d a b fun _ u v => if v.slt u then v else u) s

/-- `amomax` (R259, R260). -/
def execAmomax (g : Guard) (ord : AOrd) (sc : Scope) (w : BitVec 2) (d a b : BitVec 4) (s : State) : Out :=
  run (.amomax g ord sc w d a b) g (fun x => x.amo g w d a b fun _ u v => if u.slt v then v else u) s

/-- `amominu` (R259, R260). -/
def execAmominu (g : Guard) (ord : AOrd) (sc : Scope) (w : BitVec 2) (d a b : BitVec 4) (s : State) : Out :=
  run (.amominu g ord sc w d a b) g (fun x => x.amo g w d a b fun _ u v => if v.ult u then v else u) s

/-- `amomaxu` (R259, R260). -/
def execAmomaxu (g : Guard) (ord : AOrd) (sc : Scope) (w : BitVec 2) (d a b : BitVec 4) (s : State) : Out :=
  run (.amomaxu g ord sc w d a b) g (fun x => x.amo g w d a b fun _ u v => if u.ult v then v else u) s

/-- `amoswap` (R259, R260). -/
def execAmoswap (g : Guard) (ord : AOrd) (sc : Scope) (w : BitVec 2) (d a b : BitVec 4) (s : State) : Out :=
  run (.amoswap g ord sc w d a b) g (fun x => x.amo g w d a b fun _ _ v => v) s

/-- `amofadd` (R259, R260). -/
def execAmofadd (g : Guard) (ord : AOrd) (sc : Scope) (w : BitVec 2) (d a b : BitVec 4) (s : State) : Out :=
  run (.amofadd g ord sc w d a b) g (fun x =>
    let v := fp32.read (x.nat (x.amoReg b))
    x.atomic w 4 d a g (fun old => some (addV fp32 0 0 (fp32.read old) v).code) fun old =>
      (addV fp32 0 0 (fp32.read old) v).fl) s

/-- `cas` (R244, R260). -/
def execCas (g : Guard) (ord : AOrd) (sc : Scope) (w : BitVec 2) (d a b : BitVec 4) (s : State) : Out :=
  run (.cas g ord sc w d a b) g (fun x =>
    let n := amoW g
    let want := x.nat (x.amoReg d) % 256 ^ n
    let v := x.nat (x.amoReg b) % 256 ^ n
    x.atomic w n d a g (fun old => if old = want then some v else none) fun _ => 0) s

/-! ## Fences -/

/-- `fence` (R261): its order is that of the steps (log 3); the release condition is `ready`'s (R241). -/
def execFence (g : Guard) (ord : FOrd) (sc : Scope) (s : State) : Out := run (.fence g ord sc) g (fun x => x) s

end Sys2Proof.Machine
end

