-- ==== Sys2Proof/Machine/TransInstr.lean ====
section
/-! DEFINITION. Invalidation, migration and the fence of translations (R276 to R283). -/

namespace Sys2Proof.Machine

open Sys2Proof

/-! ## tlbinv (R278) -/

/-- The size code of a page size (R265, R276). -/
def sizeCode (c : BitVec 3) : Nat :=
  match c.toNat with
  | 0 => 2 ^ 12 | 1 => 2 ^ 16 | 2 => 2 ^ 21 | 3 => 2 ^ 25 | 4 => 2 ^ 30 | 5 => 2 ^ 34 | 6 => 2 ^ 39 | _ => 2 ^ 43

/-- Hold an invalidation or migration in the round (R277). -/
def Ex.holdInv (x : Ex) (v : HeldInv) : Ex :=
  if x.ok then { x with sp := x.sp.modLive fun b => { b with invs := b.invs ++ [v] } } else x

/-- `tlbinv` of a range (R278). -/
def execTlbinv (g : SGuard) (allas : Bool) (sz : BitVec 3) (a b : Opnd) (s : State) : Out :=
  run (.tlbinv g allas sz a b) (.s g) (fun x =>
    let va := x.nat a
    let vb := x.get b
    let n := bitsOf vb.toNat 0 32
    let u := sizeCode sz
    if va % u != 0 then x.raise (flt 8 (BitVec.ofNat 64 va))
    else if n < 1 ∨ bitsOf vb.toNat 32 16 ≠ 0 ∨ (allas ∧ bitsOf vb.toNat 48 16 ≠ 0) then x.raise (overrun 3 vb)
    else if 2 ^ 57 < va + n * u then x.raise (overrun 3 (BitVec.ofNat 64 va))
    else x.holdInv (.inv allas (bitsOf vb.toNat 48 16) va (va + n * u))) s

/-- `tlbinv.space` (R278). -/
def execTlbinvSpace (g : SGuard) (allas : Bool) (a b : Opnd) (s : State) : Out :=
  run (.tlbinvSpace g allas a b) (.s g) (fun x =>
    let vb := x.get b
    if bitsOf vb.toNat 0 48 ≠ 0 ∨ (allas ∧ bitsOf vb.toNat 48 16 ≠ 0) then x.raise (overrun 3 vb)
    else x.holdInv (.inv allas (bitsOf vb.toNat 48 16) 0 (2 ^ 57))) s

/-! ## tlbsync (R279) -/

/-- A pin set holds a page of a range (R279). -/
def PinSet.holds (p : PinSet) (all : Bool) (asid lo hi : Nat) : Bool :=
  p.pages.any fun g => (all || g.1 == asid) && decide (g.2.1 < hi) && decide (lo < g.2.1 + g.2.2.1)

/-- The ranges of memory that a spur's loads and deferred presence reads have still to return from (R279). -/
def Spur.loads (sp : Spur) : List Reach :=
  let of (load : Option PendLoad) (defer : Option Deferred) : List Reach :=
    (load.toList ++ (defer.map (·.load)).toList).filterMap (·.range)
  of sp.live.th.load sp.live.th.defer ++ sp.live.ctxs.flatMap fun k => of k.load k.defer

/-- A load of a spur of a range, or a deferred presence read, whose value is still to return (R279). -/
def Spur.loadIn (sp : Spur) (all : Bool) (asid lo hi : Nat) : Bool :=
  (all || sp.asid == asid) && sp.loads.any fun r => decide (r.va < hi) && decide (lo < r.va + r.n)

/-- Every load of a range has returned (R279). -/
def State.loadFree (s : State) (all : Bool) (asid lo hi : Nat) : Bool := s.spurs.all fun sp => !sp.loadIn all asid lo hi

/-- A stale round of a spur holds a write of a range, which its void drains (R279). -/
def Spur.staleIn (sp : Spur) (all : Bool) (asid lo hi : Nat) : Bool :=
  sp.stale && sp.live.held.any fun h => h.inRange all asid lo hi

/-- The accesses of a posted operation's range have drained (R279): no stale round still holds a write of it, and every
load of it has returned. -/
def State.accessesOver (s : State) (p : Posted) : Bool :=
  let (all, asid, lo, hi) := p.kind.range
  (s.spurs.all fun sp => !sp.staleIn all asid lo hi) && s.loadFree all asid lo hi

/-- A pin set holds a page of a posted operation's range (R279). -/
def State.pinsHold (s : State) (p : Posted) : Bool :=
  let (all, asid, lo, hi) := p.kind.range
  s.pins.any fun q => q.holds all asid lo hi

/-- A posted operation is complete and drained (R279): it is over, the accesses of its range have drained, and no pin set
holds a page of it. -/
def State.drained (s : State) (p : Posted) : Bool := p.isOver && s.accessesOver p && !s.pinsHold p

/-- The drain of a posted operation is outstanding (R365): it waits for more than the holders of pins (log 84, DEDUCED). -/
def State.draining (s : State) (p : Posted) : Bool :=
  if p.isOver then !s.accessesOver p
  else match p.kind with
    | .inv .. => true
    | .migr .. => !s.pinsHold p

/-- A drain of a spur's is outstanding (R365). -/
def State.drainsFor (s : State) (h : Handle) : Bool := s.posted.any fun p => p.by_ == h && s.draining p

/-- `tlbsync` (R279): it waits for its own round's held operations to be posted, and for every posted one. The count it
answers begins behind the postings that the last one counted, which a void takes back with the thread (R95). -/
def execTlbsync (g : SGuard) (d : Opnd) (s : State) : Out :=
  run (.tlbsync g d) (.s g) (fun x =>
    let mine := x.s.posted.filter fun p => p.by_ == x.sp.handle
    if !x.sp.live.invs.isEmpty || !(mine.all x.s.drained) then x.stall
    else
      let n := (mine.filter fun p => p.gone && decide (x.th.synced ≤ p.id)).length
      { x with th := { x.th with synced := x.s.posted.length } }.put d (BitVec.ofNat 64 n)) s

/-! ## migr (R280) -/

/-- The walk of `migr` (R268, R280): that of a read by system software, which sets A of the leaf (log 101). -/
def Ex.migrWalk (x : Ex) (asid va : Nat) : State × Except TFault Leaf :=
  match x.s.leaf asid va with
  | .error f => (x.s, .error f)
  | .ok l =>
    if !permits ⟨.read, false, none⟩ l.ent then (x.s, .error ⟨.permission, l.level, l.ent, l.addr⟩)
    else (setAD x.s ⟨bedrock x.sp.massif, asid, l.level, entTag l.level l.ent va, l.ent, l.addr⟩ va .read, .ok l)

/-- `migr` (R280): its operands are checked at once, and the migration is posted when the round commits. -/
def execMigr (g : SGuard) (v a b : Opnd) (s : State) : Out :=
  run (.migr g v a b) (.s g) (fun x =>
    let vv := x.get v
    let asid := bitsOf vv.toNat 0 16
    let va := x.nat a
    let fr := x.nat b
    let fault (f : TFault) :=
      if f.kind == .lost then x.lose 3 (BitVec.ofNat 64 f.addr) else x.raise ⟨7, BitVec.ofNat 64 va, tBody asid va .read f false, none⟩
    if vv.extractLsb' 16 48 != 0 then x.raise (overrun 3 vv)
    else
      match x.migrWalk asid va with
      | (_, .error f) => fault f
      | (s, .ok l) =>
        let x := { x with s := s }
        if va % l.size != 0 then x.raise (flt 8 (BitVec.ofNat 64 va))
        else if fr % l.size != 0 then x.raise (flt 8 (BitVec.ofNat 64 fr))
        else if !(tierMem fr && tierMem (fr + l.size - 1)) then fault ⟨.table, l.level, l.ent, l.addr⟩
        else x.holdInv (.migr asid va fr l.size)) s

/-- `fencex` (R283): its order is that of the steps (log 3); the release condition is `ready`'s (R241). -/
def execFencex (g : Guard) (ord : FOrd) (sc : Scope) (s : State) : Out := run (.fencex g ord sc) g (fun x => x) s

end Sys2Proof.Machine
end

