-- ==== Sys2Proof/Machine/Trigger.lean ====
section
/-! DEFINITION. What a turn lets happen: the trigger stage of a brick chooses a slot (R63), a thread fetches its word
(R26, R47, R99), and passing time, writes from outside and evictions. -/

namespace Sys2Proof.Machine

open Sys2Proof

/-- The spur's bricks may fire and its thread may issue: it runs, its round has cycles left, the pager owes it nothing,
it is its turn among the sharers of its bricks (R93, R94, R274, R330, R334), and no move that it asked for is still to be
performed at the mark it stands at (R351). -/
def State.active (s : State) (sp : Spur) : Bool :=
  sp.life == .running && !sp.final && !sp.paging && !sp.moveLeft && decide (s.now - sp.roundAt < sp.rlenNow) && s.runsNow sp

/-- The wave of a brick's ridge has opened (R422): a launch on more than 64 ridges opens them 16 by 16; a ridge that is none
of the launch's, onto which a spur has moved, has no wave to wait for. -/
def Spur.waveOpen (sp : Spur) (row col : BitVec 8) : Bool :=
  let r := sp.ridge row.toNat col.toNat
  !sp.waves.ridges.contains r || decide ((sp.waves.ridges.filter (· < r)).length / 16 < sp.waves.opened)

/-- What the trigger stage sees of a slot. -/
structure SlotView where
  eligible : Bool
  guard : Bool
  keptBack : Bool
  deriving DecidableEq, Repr

/-- Look at slot `n` (R63): whether it is eligible, whether its guard holds, and whether the release condition alone
keeps it back (R241). -/
def slotView (s : State) (c : CtxAt) (k : Ctx) (n : Nat) : SlotView :=
  if !k.valid n then ⟨false, false, false⟩
  else
    match k.instr? n with
    | none => ⟨false, false, false⟩
    | some i =>
      match guardOf i with
      | some (.b g) =>
        match enterB s c (BitVec.ofNat 4 n) i g with
        | none => ⟨false, false, false⟩
        | some x =>
          let gh := guardHolds g x
          let clear := { x with cx0 := { x.cx0 with stored := false } }
          ⟨gh && ready i x, gh, gh && releases i && k.stored && ready i clear⟩
      | _ => ⟨false, false, false⟩

/-- The rule of the trigger stage (R63): the overdue slot of lowest index, else the eligible one of lowest index, and
the pass counts after it. -/
def choose (el : List Nat) (pass : List Nat) : Option Nat × List Nat :=
  let pass := (pass.zip (upTo 16)).map fun pn => if el.contains pn.2 then pn.1 else 0
  match el with
  | [] => (none, pass)
  | e :: _ =>
    let w := ((el.filter fun n => nth pass n 0 == 15).head?).getD e
    (some w, (pass.zip (upTo 16)).map fun pn =>
      if el.contains pn.2 then (if pn.2 = w then 0 else min (pn.1 + 1) 15) else pn.1)

/-- The slots that satisfy a test, as a set. -/
def slotSet (p : Nat → Bool) : BitVec 16 := (upTo 16).foldl (fun a n => if p n then a ||| (1#16 <<< n) else a) 0

/-- The slot whose firing comes next in a brick, and the machine as the trigger stage leaves it (R63, R235, R241); a deferred
read waits for its word to be filled, at the place where it was translated (R246, R306). -/
def trigger (s : State) (b : BrickAt) (squashed : Nat) : State × Option (CtxAt × BitVec 4 × Instr) :=
  match s.spur? b.h with
  | none => (s, none)
  | some sp =>
    match sp.live.brick? b.row b.col with
    | none => (s, none)
    | some br =>
      let c : CtxAt := ⟨b.h, b.row, b.col, br.active⟩
      match sp.live.ctx? b.row b.col br.active with
      | none => (s, none)
      | some k =>
        if !s.active sp || !sp.waveOpen b.row b.col || !k.conf || k.dn || k.load.isSome || k.defer.isSome then (s, none)
        else
          match k.wait with
          | some n => (s, (k.instr? n.toNat).map fun i => (c, n, i))
          | none =>
            let barred := if k.barred = 0 then 0 else k.barred &&& slotSet fun n => (slotView s c k n).guard
            let k := { k with barred := barred }
            let s := s.setSpur (sp.modLive fun a => a.setCtx k)
            let views := (upTo 16).map fun n => slotView s c k n
            let keptNow := slotSet fun n => (nth views n ⟨false, false, false⟩).keptBack
            let el := (upTo 16).filter fun n => (nth views n ⟨false, false, false⟩).eligible
            let (w, pass) := choose el k.pass
            let k' := { k with pass := pass, passWas := k.pass, kept := k.kept ||| keptNow,
                               bsq := k.bsq + BitVec.ofNat 32 squashed }
            (s.setSpur (sp.modLive fun a => a.setCtx k'),
              w.bind fun n => (k.instr? n).map fun i => (c, BitVec.ofNat 4 n, i))

/-- What a thread's turn finds: nothing to issue, a fault of the fetch or of the word, or the word's instruction. -/
inductive Fetch where
  | none
  | fault (f : Flt)
  | word (i : Instr)
  deriving DecidableEq, Repr

/-- Fetch the word at `pc` (R99, R270), waiting while a migration holds its page (R280) or where it stays bad (R409), and read
it (R47): a reserved encoding, one that fails a check of 1 to 14, faults whatever its guard; a word that fails a later check
faults where its guard holds, and else only advances `pc` (R39). While a deferred read of the thread waits for its word,
nothing is fetched (R246, R306). -/
def fetch (s : State) (h : Handle) : State × Fetch :=
  match enterS s h with
  | none => (s, .none)
  | some x =>
    if !s.active x.sp || !x.th.hasSeq || x.th.retd || x.th.load.isSome || x.th.defer.isSome then (s, .none)
    else
      let (x, pa) := x.translate x.th.pc.toNat .fetch none
      let x := x.readGood x.th.pc.toNat pa 8
      match x.fault with
      | some f => (x.s, .fault f)
      | none =>
        if x.wait then (x.s, .none)
        else
        let w := BitVec.ofNat 64 (ofBytes (x.physBytes pa 8))
        match decode .seq w with
        | .ok i => (x.s, .word i)
        | .error e =>
          if e.code < 15 || sGuardHolds (SGuard.ofBits (w.extractLsb' 32 32)) x.th then
            (x.s, .fault (undefAt w x.th.pc e.code))
          else ({ x with th := { x.th with pc := x.th.pc + 8 }, sp := x.sp.busy x.s.now }.back, .none)

/-- A fault of a fetch is precise at the word (R99). -/
def fetchFault (s : State) (h : Handle) (f : Flt) : State :=
  match enterS s h with
  | none => s
  | some x => leaveS h (x.raise f)

/-- Fabric cycles pass (R2); the spurs whose drains are outstanding are busy in them (R365). -/
def State.pass (s : State) (dt : Nat) : State :=
  let t : State := { s with now := s.now + dt }
  { t with spurs := s.spurs.map fun sp => if s.drainsFor sp.handle then t.busied sp else sp }

/-- Another agent writes memory (R233): a summit core, the host, a CXL device or another package. -/
def outsideWrite (s : State) (pa : Nat) (bytes : List Byte) : State :=
  if isCtlSpace pa then s else ({ s with mem := writeBytes s.mem pa bytes } : State).rewritten pa bytes.length

/-- A flit of a span arrives from another package, where its channel leads to a port here and has room (R393). -/
def saddleFlit (s : State) (pkg : BitVec 5) (p : BitVec 8) (dst : End) (f : Flit) : State :=
  match s.wires.find? fun w => w.src == .saddle pkg p && w.dst == dst with
  | none => s
  | some w =>
    match f with
    | .tok _ | .hdr _ | .seam => if w.buf.length < Config.dataPort && !s.severed w then s.modWire w (· ++ [f]) else s
    | .step | .cmd _ => s

/-- The saddle link takes the oldest flit of a span's channel, where the other package has room (R393). -/
def saddleLeave (s : State) (src : End) (pkg : BitVec 5) (p : BitVec 8) : State :=
  match s.wires.find? fun w => w.src == src && w.dst == .saddle pkg p with
  | some w => if s.severed w then s else s.modWire w (·.drop 1)
  | none => s

/-- The turn of the next step: the head of the agenda, or what the schedule brings; and the state without it. -/
def nextTurn (s : State) : Turn × State :=
  match s.agenda with
  | t :: r => (t, { s with agenda := r, tick := s.tick + 1, heldUp := false })
  | [] => (schedule s.tick, { s with tick := s.tick + 1, heldUp := false })

/-- A turn in which a device access meets a page whose translations a migration holds waits: nothing of it has happened yet
(R280, log 150). -/
def orWait (s : State) : Out → Out
  | .next t => .next (if t.heldUp then s else t)
  | o => o

/-- After a fatal stop only a reset or a loss of power moves the package, and the management port answers (R418,
R429). -/
def movesStopped : Instr → Bool
  | .warmReset | .powerLoss | .attestationRequest _ => true
  | _ => false

end Sys2Proof.Machine
end

