-- ==== Sys2Proof/Machine/Areas.lean ====
section
/-! DEFINITION. Area: what stands where, what a budget and a stow region still take, and the masons' rules of placement
(R23, R87, R324 to R333, R372, R373, R421). -/

namespace Sys2Proof.Machine

open Sys2Proof

/-! ## What stands where -/

/-- The rectangle of a spur. -/
def Spur.rect (sp : Spur) : Rect := sp.img.rect

/-- The area of a spur. -/
def Spur.ownArea (sp : Spur) : Area := ⟨sp.site, sp.host, sp.rect, false⟩

/-- The area a spur stands in: its own, or the one that a sequence or loop holds for it (R335). -/
def State.standing (s : State) (sp : Spur) : Area :=
  match sp.area with
  | none => sp.ownArea
  | some (i, k) =>
    match (s.comps.find? fun c => c.handle == i).bind fun c => c.areas[k]? with
    | some a => a
    | none => sp.ownArea

/-- Every area in use with its domain: those of placed spurs, and those that sequences and loops hold (R335). -/
def State.areas (s : State) : List (Nat × Area) :=
  ((s.spurs.filter fun x => x.placed && x.area.isNone).map fun x => (x.dom, x.ownArea)) ++
    s.comps.flatMap fun c => (c.areas.filter fun a => !a.away).map fun a => (c.dom, a)

/-- Two areas share a brick. -/
def Area.hits (a b : Area) : Bool :=
  a.site.massif == b.site.massif && overlap a.site.row a.rect.ht b.site.row b.rect.ht &&
    overlap a.site.col a.rect.wd b.site.col b.rect.wd

/-- An area covers a brick of a massif. -/
def Area.covers (a : Area) (massif row col : Nat) : Bool :=
  a.site.massif == massif && decide (a.site.row ≤ row) && decide (row < a.site.row + a.rect.ht) &&
    decide (a.site.col ≤ col) && decide (col < a.site.col + a.rect.wd)

/-- The bricks of an area. -/
def Area.bricks (a : Area) : List Nat :=
  (cells a.rect.ht a.rect.wd).map fun rc => brickNo a.site.massif (a.site.row + rc.1) (a.site.col + rc.2)

/-- The home ridge of an area (R87). -/
def Area.home (a : Area) : Nat := ridgeOf a.site.massif a.site.row a.site.col

/-- Context entries of a brick in use. -/
def ctxsAt (occ : List Area) (massif row col : Nat) : Nat :=
  (occ.filter fun a => a.covers massif row col).foldl (fun n a => n + a.rect.ctx) 0

/-- A thread is free on the home ridge of an area (R87). -/
def threadFree (occ : List Area) (a : Area) : Bool :=
  decide ((occ.filter fun x => x.home == a.home).length < Config.threadsPerRidge)

/-- Bricks that hold no context of any spur, on powered ridges: of the package, or of one massif (R328, R352, R421). -/
def State.freeBricks (s : State) (massif : Option Nat) : Nat :=
  let occ := s.areas.map (·.2)
  let ms := match massif with | some m => [m] | none => upTo Config.massifs
  ms.foldl (fun n m => n + ((cells Config.massifRows Config.massifCols).filter fun rc =>
    decide (ridgeOf m rc.1 rc.2 < s.powered) && !(occ.any fun a => a.covers m rc.1 rc.2)).length) 0

/-! ## Budgets (R333, R372, R380) -/

/-- Bricks, context entries and vault bytes. -/
structure Use where
  bricks : Nat
  ctxs : Nat
  vault : Nat
  deriving DecidableEq, Repr

/-- The use of a rectangle on free bricks. -/
def Rect.use (r : Rect) : Use := ⟨r.bricks, r.bricks * r.ctx, r.bricks * r.vlt⟩

/-- The use of a guest rectangle: its context entries (R333, R372). -/
def Rect.guestUse (r : Rect) : Use := ⟨0, r.bricks * r.ctx, 0⟩

/-- Two uses together. -/
def Use.plus (a b : Use) : Use := ⟨a.bricks + b.bricks, a.ctxs + b.ctxs, a.vault + b.vault⟩

/-- What the areas of a domain and its descendants use. -/
def State.used (s : State) (d : Nat) : Use :=
  (s.areas.filter fun x => s.under d x.1).foldl
    (fun u x => u.plus (if x.2.host.isSome then x.2.rect.guestUse else x.2.rect.use)) ⟨0, 0, 0⟩

/-- A use fits the part of every budget above a domain that is not in use (R372, R380). -/
def State.roomFor (s : State) (d : Nat) (u : Use) : Bool :=
  (s.chain d).all fun e =>
    match s.dom? e with
    | none => false
    | some y =>
      let v := (s.used e).plus u
      decide (v.bricks ≤ y.brkb) && decide (v.ctxs ≤ y.ctxb) && decide (v.vault ≤ y.vltb)

/-- A use fits every whole budget above a domain (R23). -/
def State.wholeFor (s : State) (d : Nat) (u : Use) : Bool :=
  (s.chain d).all fun e =>
    match s.dom? e with
    | none => false
    | some y => decide (u.bricks ≤ y.brkb) && decide (u.ctxs ≤ y.ctxb) && decide (u.vault ≤ y.vltb)

/-- The pool of pending launches, or a budget of them, is full for a domain (R340, R380). -/
def State.poolFull (s : State) (d : Nat) : Bool :=
  decide (Config.launchPool ≤ (s.claims.filter (·.fromPool)).length) ||
    (s.chain d).any fun e =>
      match s.dom? e with
      | none => false
      | some y => decide (y.lchb ≤ s.launchesUsed e)

/-! ## Stow regions (R332) -/

/-- Runs of units taken in the stow region that a domain uses: their addresses and lengths. -/
def State.runs (s : State) (y : Dom) : List (Nat × Nat) :=
  (s.spurs.filter fun x => match s.dom? x.dom with | some z => z.stowOf == y.stowOf | none => false).flatMap fun x =>
    x.stowAt.toList ++ x.foldAt.toList

/-- Units of a number of bytes. -/
def unitsOf (bytes : Nat) : Nat := (bytes + 4095) / 4096

/-- The lowest address at which a stow region has `n` free units beside the runs given (R332). -/
def takeRun (y : Dom) (runs : List (Nat × Nat)) (n : Nat) : Option Nat :=
  let ok (a : Nat) : Bool :=
    decide (y.stb ≤ a) && decide (a + 4096 * n ≤ y.stb + y.stl) && !(runs.any fun r => overlap a (4096 * n) r.1 (4096 * r.2))
  let ends := (runs.map fun r => r.1 + 4096 * r.2).filter ok
  if ok y.stb then some y.stb else leastBy (fun a => [a]) ends

/-- A run for the stow record of a spur (R311, R332). -/
def State.stowRun (s : State) (sp : Spur) : Option (Nat × Nat) :=
  match sp.stowAt with
  | some r => some r
  | none =>
    (s.dom? sp.dom).bind fun y =>
      let n := unitsOf (stowSize sp.img.hd)
      (takeRun y (s.runs y) n).map fun a => (a, n)

/-- Units that a guest's set-aside bank images take (R330). -/
def Rect.bankUnits (r : Rect) : Nat := 16 * r.bricks

/-! ## Placing one rectangle -/

/-- A placement under way: areas in use, those it has laid on free bricks by their index, all it has laid, the runs of
units it takes, and what it uses. -/
structure Laid where
  occ : List Area
  free : List (Nat × Area)
  done : List Area
  runs : List (Nat × Nat)
  use : Use
  deriving DecidableEq, Repr

/-- A placement that has laid nothing. -/
def State.layStart (s : State) (d : Nat) : Laid :=
  ⟨s.areas.map (·.2), [], [], (match s.dom? d with | some y => s.runs y | none => []), ⟨0, 0, 0⟩⟩

/-- A rectangle lies within its massif, and within one block of 2 × 2 ridges where it must (R190, R324). -/
def Area.within (a : Area) : Bool :=
  decide (a.site.massif < Config.massifs) && decide (a.site.row + a.rect.ht ≤ Config.massifRows) &&
    decide (a.site.col + a.rect.wd ≤ Config.massifCols) &&
    (!a.rect.block || (a.site.row / 32 == (a.site.row + a.rect.ht - 1) / 32 && a.site.col / 32 == (a.site.col + a.rect.wd - 1) / 32))

/-- The ridges of an area are among the first `powered` (R421). -/
def Area.powered (a : Area) (powered : Nat) : Bool :=
  decide (ridgeOf a.site.massif (a.site.row + a.rect.ht - 1) (a.site.col + a.rect.wd - 1) < powered)

/-- An area may be laid on free bricks: `avoid` are areas reserved against it (R328, R329). -/
def Laid.freeOk (l : Laid) (powered : Nat) (avoid : List Area) (a : Area) : Bool :=
  a.within && a.powered powered && !(l.occ.any a.hits) && !(avoid.any a.hits) && threadFree l.occ a

/-- Lay an area on free bricks. -/
def Laid.addFree (l : Laid) (a : Area) : Laid :=
  { l with occ := a :: l.occ, free := l.free ++ [(l.done.length, a)], done := l.done ++ [a], use := l.use.plus a.rect.use }

/-- Lay a guest. -/
def Laid.addGuest (l : Laid) (a : Area) (run : Nat × Nat) : Laid :=
  { l with occ := a :: l.occ, done := l.done ++ [a], runs := run :: l.runs, use := l.use.plus a.rect.guestUse }

/-- Some site of the package admits a rectangle. -/
def anySite (r : Rect) (p : Site → Bool) : Bool :=
  (upTo Config.massifs).any fun m => (upTo (Config.massifRows + 1 - r.ht)).any fun row =>
    (upTo (Config.massifCols + 1 - r.wd)).any fun col => p ⟨m, row, col⟩

/-- The rectangle at a site on free bricks. -/
def Rect.at_ (r : Rect) (site : Site) : Area := ⟨site, none, r, false⟩

/-- Free area and budget allow a rectangle on free bricks (R372, R373). -/
def State.freeFor (s : State) (d : Nat) (avoid : List Area) (l : Laid) (r : Rect) : Bool :=
  s.roomFor d (l.use.plus r.use) && anySite r fun site => l.freeOk s.powered avoid (r.at_ site)

/-- The lowest row and then column of a host's rectangle at which a guest finds its context entries and a thread
(R373). -/
def Laid.guestSpot (l : Laid) (avoid : List Area) (r : Rect) (h : Handle) (host : Area) : Option Area :=
  ((cells (host.rect.ht + 1 - r.ht) (host.rect.wd + 1 - r.wd)).map fun rc =>
    (⟨⟨host.site.massif, host.site.row + rc.1, host.site.col + rc.2⟩, some h, r, false⟩ : Area)).find? fun a =>
      a.within && threadFree l.occ a && !(avoid.any a.hits) && (cells r.ht r.wd).all fun rc =>
        decide (ctxsAt l.occ a.site.massif (a.site.row + rc.1) (a.site.col + rc.2) + r.ctx ≤ Config.contextsPerBrick)

/-- The placed spurs of a domain that stand on free bricks of their own, in order of placement (R328, R373). -/
def State.hosts (s : State) (d : Nat) : List Spur :=
  sortBy (fun x => [x.placedAt]) (s.spurs.filter fun x => x.placed && x.dom == d && x.host.isNone)

/-- Where a host's guest rectangle goes: the place, the area and its run of units. The handle of a host of the same claim
is not known yet and stands as its index (R330, R373). -/
def State.guestFor (s : State) (d : Nat) (avoid : List Area) (l : Laid) (r : Rect) : Option (Place × Area × (Nat × Nat)) :=
  (s.dom? d).bind fun y =>
    (takeRun y l.runs r.bankUnits).bind fun run =>
      match l.free.findSome? fun x => (l.guestSpot avoid r (BitVec.ofNat 32 x.1) x.2).map fun a => (x, a) with
      | some (x, a) => some (.guestOf x.1 (a.site.row - x.2.site.row) (a.site.col - x.2.site.col), a, (run, r.bankUnits))
      | none =>
        (s.hosts d).findSome? fun h => (l.guestSpot avoid r h.handle (s.standing h)).map fun a =>
          (.guest h.handle (a.site.row - h.site.row) (a.site.col - h.site.col), a, (run, r.bankUnits))

/-! ## Placing a claim (R328, R373) -/

/-- No site can help a list of rectangles: its first that has no budget for free bricks has none as a guest either, or no
units. -/
def State.hopeless (s : State) (d : Nat) (guests : Bool) : List Rect → Use → List (Nat × Nat) → Bool
  | [], _, _ => false
  | r :: rest, u, runs =>
    if s.roomFor d (u.plus r.use) then false
    else if !guests || !s.roomFor d (u.plus r.guestUse) then true
    else
      match (s.dom? d).bind fun y => takeRun y runs r.bankUnits with
      | none => true
      | some run => s.hopeless d guests rest (u.plus r.guestUse) ((run, r.bankUnits) :: runs)

/-- A list of rectangles can be laid: on free bricks, and with `guests` each on free bricks while free area and budget
allow and otherwise as a guest (R328 steps 1 and 2, R373). -/
def State.layFits (s : State) (d : Nat) (guests : Bool) (avoid : List Area) : List Rect → Laid → Bool
  | [], _ => true
  | r :: rest, l =>
    if s.freeFor d avoid l r then
      !s.hopeless d guests rest (l.use.plus r.use) l.runs && anySite r fun site => l.freeOk s.powered avoid (r.at_ site) && s.layFits d guests avoid rest (l.addFree (r.at_ site))
    else if !guests || !s.roomFor d (l.use.plus r.guestUse) then false
    else
      match s.guestFor d avoid l r with
      | none => false
      | some (_, a, run) => s.layFits d guests avoid rest (l.addGuest a run)

/-- Lay a list of rectangles at the places named; none where the rules do not admit them. -/
def State.layGiven (s : State) (d : Nat) (guests : Bool) (avoid : List Area) : List (Rect × Place) → Laid → Option Laid
  | [], l => some l
  | (r, .free m row col) :: rest, l =>
    let a := r.at_ ⟨m.toNat, row, col⟩
    if s.roomFor d (l.use.plus r.use) && l.freeOk s.powered avoid a then s.layGiven d guests avoid rest (l.addFree a) else none
  | (r, p) :: rest, l =>
    if !guests || s.freeFor d avoid l r || !s.roomFor d (l.use.plus r.guestUse) then none
    else
      match s.guestFor d avoid l r with
      | none => none
      | some (q, a, run) => if q = p then s.layGiven d guests avoid rest (l.addGuest a run) else none

/-- Rectangles can be placed in an empty, fully powered package (R23). -/
def fitsEmpty : List Rect → Laid → Bool
  | [], _ => true
  | r :: rest, l => anySite r fun site => l.freeOk Config.ridges [] (r.at_ site) && fitsEmpty rest (l.addFree (r.at_ site))

/-! ## Waits at `waitc`, and stowable spurs (R331) -/

/-- The view of a spur's thread at the word it stands at, where that word can be read. -/
def threadAt (s : State) (h : Handle) : Option (Ex × Instr) :=
  match enterS s h with
  | none => none
  | some x =>
    if !x.th.hasSeq || x.th.retd then none
    else
      let (y, pa) := x.translate x.th.pc.toNat .fetch none
      if !y.ok || y.badAt pa 8 then none
      else
        match decode .seq (BitVec.ofNat 64 (ofBytes (y.physBytes pa 8))) with
        | .ok i => some (x, i)
        | .error _ => none

/-- The handle a `waitc` waits for: one whose barrier is armed. -/
def Ex.waitsFor (x : Ex) (a : Opnd) : Option Handle :=
  match x.barAt a with
  | some (_, b) => if b.st == .armed then some b.h else none
  | none => none

/-- The handle that an instruction of an agent waits for at `waitc`. -/
def Ex.waitcOf (x : Ex) : Instr → Option Handle
  | .waitc g _ _ a | .waitcS g _ a =>
    let holds := match g with
      | .b gd => guardHolds gd x
      | .s gd => sGuardHolds gd x.th
    if holds then x.waitsFor a else none
  | _ => none

/-- The handles that the agents of a spur wait for at `waitc`. -/
def State.waitcs (s : State) (sp : Spur) : List Handle :=
  (match threadAt s sp.handle with
    | some (x, i) => (x.waitcOf i).toList
    | none => []) ++
  sp.live.bricks.flatMap fun b =>
    match sp.live.ctx? b.row b.col b.active with
    | none => []
    | some k =>
      ((upTo 16).filter k.valid).filterMap fun n =>
        match k.instr? n with
        | some i =>
          (match guardOf i with
            | some (.b g) => (enterB s ⟨sp.handle, b.row, b.col, b.active⟩ (BitVec.ofNat 4 n) i g).bind fun x => x.waitcOf i
            | _ => none)
        | none => none

/-- A spur is stowable by the masons (R331, R406). -/
def State.stowable (s : State) (sp : Spur) : Bool :=
  sp.life == .yielded || (sp.life == .running && !sp.final &&
    (sp.img.hd.stw != 0 || sp.deferred || !(s.waitcs sp).isEmpty))

/-- The effective priority of a domain. -/
def State.prio (s : State) (d : Nat) : Nat := match s.dom? d with | some y => y.pri | none => 0

end Sys2Proof.Machine
end

