-- ==== Sys2Proof/Machine/Calls.lean ====
section
/-! DEFINITION. Calls, coroutines, builders, and the moves a spur asks for (R340 to R352). Each is performed at its
firing, and its request leaves with the round (R344). -/

namespace Sys2Proof.Machine

open Sys2Proof

/-! ## Performing (R344) -/

/-- Arm a barrier that is free (R321). -/
def Ex.armBar (x : Ex) (n : Nat) (h : Handle) : Ex :=
  { x with sp := { x.sp with bars := upd x.sp.bars n fun b => if b.st == .free then ⟨.armed, h, 0, 0⟩ else b } }

/-- The barrier of the spur that a target names. -/
def targetBar (t : Target) (h : Handle) : Option Nat :=
  match t with
  | .barrier p n => if p == h then some n else none
  | _ => none

/-- The target of an instance that the spur launched. -/
def State.targetOf (s : State) (h : Handle) : Target :=
  match s.claims.find? fun c => c.handle == h with
  | some c => c.target
  | none => (match s.spur? h with | some o => o.target | none => .none)

/-- Arm the barrier of an instance that the spur launched or resumes (R321). -/
def Ex.armFor (x : Ex) (h : Handle) : Ex :=
  match targetBar (x.s.targetOf h) x.sp.handle with
  | some n => x.armBar n h
  | none => x

/-- Hold what a performed instruction asks for. -/
def Ex.ask (x : Ex) : Option Request → Ex
  | some (.launch h) => (x.armFor h).request (.launch h)
  | some (.resume h v) => (x.armFor h).request (.resume h v)
  | some r => x.request r
  | none => x

/-- Perform once: `f` gives the view after it, the value recorded and the request; a re-executed firing writes the
recorded value and asks again (R344). -/
def Ex.once (x : Ex) (d : Opnd) (f : Ex → Ex × W64 × Option Request) : Ex :=
  match x.recorded with
  | some r => ((x.ask r.req).put d r.val).nextAtom
  | none =>
    let (y, v, q) := f x
    let z := (y.ask q).put d v
    if !y.ok then y else if z.ok then z.record v q else { x with fault := z.fault }

/-- The predicate of `call` and `apply` says whether D holds a handle's status (R345). -/
def Ex.putP (x : Ex) (p : Option (BitVec 3)) (v : Bool) : Ex :=
  match p with
  | some n => if x.ok then x.putPred n v else x
  | none => x

/-! ## Launches (R319, R320, R345) -/

/-- A binding descriptor (R320). -/
structure BindDesc where
  arg : W64
  kind : Nat
  idx : Nat
  rsv : Bool
  ports : List (BitVec 8 × BitVec 8)
  deriving DecidableEq, Repr

/-- A descriptor from its four words. -/
def bindDescOf (ws : List W64) : BindDesc :=
  let w1 := (nth ws 1 0).toNat
  let half (i : Nat) : Nat := bitsOf (nth ws (2 + i / 4) 0).toNat (16 * (i % 4)) 16
  { arg := nth ws 0 0, kind := bitsOf w1 14 2, idx := bitsOf w1 0 12, rsv := bitsOf w1 12 2 != 0 || bitsOf w1 16 48 != 0,
    ports := (upTo 8).map fun i => (BitVec.ofNat 8 (half i / 256), BitVec.ofNat 8 (half i % 256)) }

/-- Read a descriptor: at an own bank offset, or with plain loads (R345). -/
def Ex.readBind (x : Ex) (b : Nat) : Ex × BindDesc :=
  let none_ := bindDescOf []
  if b % 32 != 0 then (x.raise (flt 8 (BitVec.ofNat 64 b)), none_)
  else if x.isB then
    if 65536 < b + 32 then (x.raise (overrun 1 (BitVec.ofNat 64 b)), none_)
    else (x, bindDescOf (wordsOf 4 (readBytes x.br.bank b 32)))
  else
    let (x, ws) := x.loadWords b 4
    (x, bindDescOf ws)

/-- The domain's DQN (R378). -/
def Ex.dqn (x : Ex) : Nat := match x.s.dom? x.sp.dom with | some y => y.dqn | none => 0

/-- The target a descriptor names (R320, R321), or its overrun. -/
def Ex.bindTarget (x : Ex) (va : Nat) (b : BindDesc) : Except Flt Target :=
  if b.rsv || b.kind == 3 || (b.kind == 1 && decide (x.dqn ≤ b.idx)) then .error (overrun 7 (BitVec.ofNat 64 va))
  else if b.kind = 0 then .ok .none
  else if b.kind = 1 then .ok (.queue x.sp.dom b.idx)
  else
    match x.sp.bars[b.idx]? with
    | some r => if r.st == .free then .ok (.barrier x.sp.handle b.idx) else .error (overrun 5 (BitVec.ofNat 64 b.idx))
    | none => .error (overrun 5 (BitVec.ofNat 64 b.idx))

/-- A claim that has just been formed. -/
def Claim.fresh (id dom entry : Nat) (h : Handle) : Claim where
  id := id
  kind := .launch
  st := .held
  dom := dom
  entry := entry
  arg := 0
  target := .none
  ports := []
  parent := none
  sysMade := false
  handle := h
  fromPool := false
  queue := none
  span := none
  nest := none
  bad := 0
  imgs := []
  rects := []
  no := 0
  prio := 0
  passed := 0
  reserve := none
  since := 0

/-- A nest as it is read: the nest, and the entry at fault where it cannot be read (R338). -/
def nestParts : Except Nat Nest → Option Nest × Nat
  | .ok n => (some n, 0)
  | .error e => (none, e)

/-- Launch entry `id`: the nest is read, a handle and a pool entry are taken, and USE rises by 1 (R309, R340, R345). -/
def Ex.launch (x : Ex) (id : Nat) (b : BindDesc) (t : Target) : Ex × Handle :=
  let (s, n) := readNest x.sp.massif x.sp.dom nestLevels [] id x.s
  let (s, h) := s.newHandle
  let s := addUse s x.sp.massif x.sp.dom id 1
  let c : Claim := { Claim.fresh s.nextClaim x.sp.dom id h with
    arg := b.arg, target := t, ports := b.ports, parent := some x.sp.handle, sysMade := x.sys, fromPool := true,
    nest := (nestParts n).1, bad := (nestParts n).2 }
  ({ x with
      s := { s with claims := s.claims ++ [c], nextClaim := s.nextClaim + 1 }
      sp := { x.sp with launches := x.sp.launches ++ [h], deferred := false } }, h)

/-- `call` and `apply` as they are performed, the entry kinds from `kinds` (R345). -/
def Ex.callOnce (kinds : List Nat) (a b : Opnd) (x : Ex) : Ex × W64 × Option Request :=
  let id := bitsOf (x.nat a) 0 12
  if id = 0 then (x, 2, none)
  else
    let (s, ws) := readTab x.s x.sp.massif x.sp.dom id
    let x := { x with s := s }
    if !(match ws with | some ws => kinds.contains (entKind ws) | none => false) then (x, 2, none)
    else if x.s.poolFull x.sp.dom then ({ x with sp := { x.sp with deferred := true } }, 1, none)
    else
      let va := x.nat b
      let (x, bd) := x.readBind va
      if !x.ok then (x, 0, none)
      else
        match x.bindTarget va bd with
        | .error f => (x.raise f, 0, none)
        | .ok t =>
          if x.sp.img.hd.lch ≤ x.sp.launches.length then
            (x.raise (overrun 6 (BitVec.ofNat 64 (x.sp.launches.length + 1))), 0, none)
          else
            let (x, h) := x.launch id bd t
            (x, h.zeroExtend 64, some (.launch h))

/-- `call` and `apply` with their predicate: it says that D holds a status (R345). -/
def Ex.callWith (x : Ex) (kinds : List Nat) (p : Option (BitVec 3)) (d a b : Opnd) : Ex :=
  let v := x.get a
  if v.extractLsb' 12 19 != 0 then x.raise (overrun 3 v)
  else
    match x.recorded with
    | some r => (x.once d fun y => y.callOnce kinds a b).putP p (!r.val.getLsbD 31)
    | none =>
      let y := x.once d fun y => y.callOnce kinds a b
      y.putP p (match y.sp.atoms.getLast? with | some r => !r.val.getLsbD 31 | none => false)

/-- `call` (R345). -/
def execCall (g : Guard) (p : Option (BitVec 3)) (d a b : Opnd) (s : State) : Out :=
  run (.call g p d a b) g (fun x => x.callWith [1, 2] p d a b) s

/-- `apply` (R345). -/
def execApply (g : Guard) (p : Option (BitVec 3)) (d a b : Opnd) (s : State) : Out :=
  run (.apply g p d a b) g (fun x => x.callWith [1, 2, 3, 4, 5, 6, 7] p d a b) s

/-! ## Return, yield and resume (R346, R347) -/

/-- `ret` (R346): it takes effect at the mark, and a thread issues nothing after it. -/
def execRet (g : Guard) (a : Opnd) (s : State) : Out :=
  run (.ret g a) g (fun x =>
    let v := x.get a
    let x := { x with sp := x.sp.modLive fun b => { b with rets := b.rets ++ [(x.who, v)] } }
    if x.isB then x else { x with th := { x.th with retd := true } }) s

/-- `yield` (R347). -/
def execYield (g : Guard) (a : Opnd) (s : State) : Out :=
  run (.yield g a) g (fun x =>
    let v := x.get a
    { x with sp := (x.sp.modLive fun b => { b with yld := some v }), th := { x.th with retd := true } }) s

/-- The handle of a coroutine that the spur launched: one placed, or one whose claim is pending (R347). -/
def Ex.ownCoroutine (x : Ex) (h : Handle) : Bool :=
  (x.s.spurs.any fun o => o.handle == h && o.parent == some x.sp.handle && o.img.hd.co) ||
    x.s.claims.any fun c => c.handle == h && c.parent == some x.sp.handle && c.kind == .launch &&
      (match c.nest with | some (.leaf _ _ co) => co | _ => false)

/-- A coroutine has yielded and no request resumes it (R347). -/
def Ex.yielded (x : Ex) (h : Handle) : Bool :=
  (x.s.spurs.any fun o => o.handle == h && (o.life == .yielded || (o.life == .stowed && o.wasYielded))) &&
    !(x.sp.live.reqs.any fun r => match r with | .resume k _ => k == h | _ => false) &&
    !x.sp.atoms.any fun r => match r.req with | some (.resume k _) => k == h | _ => false

/-- The barrier that a target of the spur names is free. -/
def Ex.barFree (x : Ex) (h : Handle) : Bool :=
  match targetBar (x.s.targetOf h) x.sp.handle with
  | some n => (match x.sp.bars[n]? with | some b => b.st == .free | none => true)
  | none => true

/-- `resume` (R347). -/
def execResume (g : Guard) (d a b : Opnd) (s : State) : Out :=
  run (.resume g d a b) g (fun x =>
    let h : Handle := (x.get a).setWidth 32
    let v := x.get b
    x.once d fun x =>
      if (x.get a).extractLsb' 32 32 != 0 || !x.ownCoroutine h then (x, 2, none)
      else if !x.yielded h then (x, 1, none)
      else if !x.barFree h then (x, 3, none)
      else (x, 0, some (.resume h v))) s

/-! ## Builders (R348) -/

/-- A builder's fields (R348): `key` admits KB, `px` the values of PX, and `one` has no member b. -/
def buildBad (va vb : W64) (one key : Bool) (px : Nat → Bool) : Bool :=
  va.extractLsb' 12 4 != 0 || va.extractLsb' 32 32 != 0 || (one && va.extractLsb' 16 12 != 0) ||
    vb.extractLsb' 28 3 != 0 || vb.extractLsb' 13 3 != 0 || (!key && vb.extractLsb' 8 5 != 0) || !px (bitsOf vb.toNat 0 8)

/-- The lowest free entry of a domain's table among `n` from `id` on, as memory holds it; none with the status of R348. -/
def findFree (massif d : Nat) : Nat → Nat → State → State × Except W64 Nat
  | 0, _, s => (s, .error 1)
  | n + 1, id, s =>
    match readRaw s massif d id with
    | (s, none) => (s, .error 2)
    | (s, some ws) => if nth ws 0 0 = 0 then (s, .ok id) else findFree massif d n (id + 1) s

/-- The words of a composite entry (R308). -/
def entryWords (kind : Nat) (va vb : W64) (one : Bool) : List W64 :=
  let b := if one then 0 else bitsOf va.toNat 16 12
  [BitVec.ofNat 64 (kind * 2 ^ 60 + bitsOf vb.toNat 31 1 * 2 ^ 59 + bitsOf vb.toNat 16 12 * 2 ^ 44),
    BitVec.ofNat 64 (bitsOf va.toNat 0 12 + b * 2 ^ 16), BitVec.ofNat 64 (bitsOf vb.toNat 0 32), 0]

/-- Why a builder does not take its members (R348): a sequence that does not fit, as its leaves' headers tell, images that
cannot be read or are not sound, or ports in conflict, in this order. -/
def memberStatus (kind : Nat) (ns : List Nest) (imgs : List (List ReadImg)) : Option W64 :=
  let ims (i : Nat) : List Image := (nth imgs i []).map (·.img)
  let a := nth ns 0 (.leaf 0 0 false)
  let known := imgs.all fun l => l.all (·.head)
  if known && kind == 3 && !seqFits (a.rects (ims 0)) ((nth ns 1 a).rects (ims 1)) then some 3
  else if !(imgs.all fun l => l.all ReadImg.portsSound) then some 6
  else if ns.length == 2 && buildClash kind (a.ports (ims 0) 0).1 ((nth ns 1 a).ports (ims 1) 0).1 then some 4
  else none

/-- Read the nests of members, as deep as a table's entries can nest: a builder sets no level limit (R348). -/
def readMembers (massif d : Nat) : List Nat → State → State × Option (List Nest)
  | [], s => (s, some [])
  | id :: r, s =>
    match readNest massif d 4096 [] id s with
    | (s, .error _) => (s, none)
    | (s, .ok n) =>
      let (s, l) := readMembers massif d r s
      (s, l.map (n :: ·))

/-- Read the images of each member of a list. -/
def readAllImages (d : DevAt) : List Nest → State → State × List (List ReadImg)
  | [], s => (s, [])
  | n :: r, s =>
    let (s, l) := readImages d n.leaves s
    let (s, m) := readAllImages d r s
    (s, l :: m)

/-- A builder as it is performed (R309, R348). -/
def Ex.buildOnce (kind : Nat) (pol : BitVec 2) (one key : Bool) (px : Nat → Bool) (va vb : W64) (x : Ex) :
    Ex × W64 × Option Request :=
  let ids := bitsOf va.toNat 0 12 :: (if one then [] else [bitsOf va.toNat 16 12])
  if buildBad va vb one key px then (x, 5, none)
  else
    match readMembers x.sp.massif x.sp.dom ids x.s, x.s.dom? x.sp.dom with
    | (s, some ns), some y =>
      let (s, imgs) := readAllImages ⟨x.sp.massif, x.sp.dom, y.asid⟩ ns s
      match memberStatus kind ns imgs with
      | some v => ({ x with s := s }, v, none)
      | none =>
        match findFree x.sp.massif x.sp.dom 4095 1 s with
        | (s, .error v) => ({ x with s := s }, v, none)
        | (s, .ok id) =>
          let at_ := y.ctb + 32 * id
          match takeEntry s x.sp.massif x.sp.dom ⟨x.sp.handle, y.asid, at_, entryWords kind va vb one, pol, false⟩ with
          | (s, false) => ({ x with s := s }, 1, none)
          | (s, true) => ({ x with s := s }, BitVec.ofNat 64 (0x80000000 + id), some (.table at_))
    | (s, _), _ => ({ x with s := s }, 2, none)

/-- A builder of two members. -/
def Ex.build2 (x : Ex) (kind : Nat) (d a b : Opnd) : Ex :=
  let va := x.get a
  let vb := x.get b
  x.once d (Ex.buildOnce kind 0 false false (· == 0) va vb)

/-- `cseq` (R348). -/
def execCseq (g : Guard) (d a b : Opnd) (s : State) : Out := run (.cseq g d a b) g (fun x => x.build2 3 d a b) s

/-- `cpar` (R348). -/
def execCpar (g : Guard) (d a b : Opnd) (s : State) : Out := run (.cpar g d a b) g (fun x => x.build2 4 d a b) s

/-- `cpipe` (R348). -/
def execCpipe (g : Guard) (d a b : Opnd) (s : State) : Out := run (.cpipe g d a b) g (fun x => x.build2 5 d a b) s

/-- A farm's policy as its entry keeps it. -/
def farmCode : FarmPol → BitVec 2
  | .rr => 0
  | .tag => 1
  | .key => 2

/-- `cfarm` (R348). -/
def execCfarm (g : Guard) (pol : FarmPol) (d a b : Opnd) (s : State) : Out :=
  run (.cfarm g pol d a b) g (fun x =>
    let va := x.get a
    let vb := x.get b
    x.once d (Ex.buildOnce 6 (farmCode pol) true (pol == .key) (fun _ => true) va vb)) s

/-- `cloop` (R348). -/
def execCloop (g : Guard) (d a b : Opnd) (s : State) : Out :=
  run (.cloop g d a b) g (fun x =>
    let va := x.get a
    let vb := x.get b
    x.once d (Ex.buildOnce 7 0 true false (fun p => decide (p < 32)) va vb)) s

/-- `cfree` (R349). -/
def execCfree (g : Guard) (d a : Opnd) (s : State) : Out :=
  run (.cfree g d a) g (fun x =>
    let id := bitsOf (x.nat a) 0 12
    x.once d fun x =>
      if id = 0 then (x, 2, none)
      else
        match readTab x.s x.sp.massif x.sp.dom id, x.s.dom? x.sp.dom with
        | (s, some ws), some y =>
          let x := { x with s := s }
          if nth ws 0 0 = 0 then (x, 2, none)
          else if bitsOf (nth ws 0 0).toNat 0 32 != 0 then (x, 1, none)
          else
            let at_ := y.ctb + 32 * id
            let e : TabEnt := ⟨x.sp.handle, y.asid, at_, ws, 0, true⟩
            ({ x with s := { s with taken := s.taken ++ [e] } }, 0, some (.cfree at_ (entMembers ws)))
        | (s, _), _ => ({ x with s := s }, 2, none)) s

/-! ## `waitc` (R350) -/

/-- The barrier holds the handle of A, or the overrun. -/
def Ex.barrierOf (x : Ex) (a : Opnd) : Except Flt (Nat × Barrier) :=
  match x.barAt a with
  | some r => .ok r
  | none => .error (overrun 5 (x.get a))

/-- `waitc` collects a completion (R317, R321, R350). -/
def execWaitc (g : Guard) (p : Option (BitVec 3)) (d a : Opnd) (s : State) : Out :=
  run (.waitc g p d a) g (fun x =>
    match x.barrierOf a with
    | .error f => x.raise f
    | .ok (n, b) =>
      let x := { x with sp := { x.sp with
        bars := x.sp.bars.set n ⟨.free, 0, 0, 0⟩
        launches := x.sp.launches.erase b.h
        collected := x.sp.collected ++ [(n, b)] } }
      (x.put d b.result).putP p (b.status != 0)) s

/-- `waitc.s` (R350): the barrier stays complete. -/
def execWaitcS (g : Guard) (d a : Opnd) (s : State) : Out :=
  run (.waitcS g d a) g (fun x =>
    match x.barrierOf a with
    | .error f => x.raise f
    | .ok (_, b) => x.put d (b.status.zeroExtend 64)) s

/-! ## Moves a spur asks for (R351) -/

/-- Where a spur would stand as a guest on a host (R351, R373). -/
def State.foldSpot (s : State) (sp host : Spur) : Option Area :=
  let l := s.layStart sp.dom
  let a := s.standing sp
  Laid.guestSpot { l with occ := l.occ.erase a } [] a.rect host.handle (s.standing host)

/-- The hosts that a fold may take: the one named, or every one of the domain. -/
def State.foldHosts (s : State) (sp : Spur) (host : Option Handle) : List Spur :=
  (s.hosts sp.dom).filter fun o => o.handle != sp.handle && (match host with | some h => o.handle == h | none => true)

/-- `fold` (R351). -/
def execFold (g : Guard) (d a : Opnd) (s : State) : Out :=
  run (.fold g d a) g (fun x =>
    let v := x.get a
    let h : Option Handle := if a == .z then none else some (v.setWidth 32)
    x.once d fun x =>
      let good := h.isNone || (v.extractLsb' 32 32 == 0 &&
        x.s.spurs.any fun o => some o.handle == h && o.dom == x.sp.dom && o.life != .ended)
      if !good then (x, 2, none)
      else if (x.s.foldHosts x.sp h).any fun o => (x.s.foldSpot x.sp o).isSome then (x, 0, some (.fold h))
      else (x, 1, none)) s

/-- `stow` (R332, R351): the units are reserved at the firing. -/
def execStow (g : Guard) (d a : Opnd) (s : State) : Out :=
  run (.stow g d a) g (fun x =>
    let bar : Option (Option Nat) :=
      if a == .z then some none
      else match x.barrierOf a with
        | .ok (n, _) => some (some n)
        | .error _ => none
    x.once d fun x =>
      match bar with
      | none => (x, 2, none)
      | some n =>
        match x.s.stowRun x.sp with
        | none => (x, 1, none)
        | some r => ({ x with sp := { x.sp with stowAt := some r } }, 0, some (.stow n))) s

/-! ## `cquery` (R352) -/

/-- The free entries of a domain's table among `n` from `id` on; one that cannot be read counts as free (R309). -/
def countFree (massif d : Nat) : Nat → Nat → State → State × Nat
  | 0, _, s => (s, 0)
  | n + 1, id, s =>
    let (s, ws) := readTab s massif d id
    let (s, k) := countFree massif d n (id + 1) s
    (s, if nth (ws.getD []) 0 0 = 0 then k + 1 else k)

/-- The count that a selector names (R352); selector 4 counts what it reads of the table. -/
def Ex.query (x : Ex) (free : Nat) (n : Nat) : Option Nat :=
  let left (f : Dom → Nat) (u : Use → Nat) : Nat :=
    match x.s.dom? x.sp.dom with
    | some y => f y - u (x.s.used y.budgetOf)
    | none => 0
  match n with
  | 0 => some (x.s.freeBricks none)
  | 1 => some (x.s.freeBricks (some x.sp.massif))
  | 2 => some (x.s.claims.filter fun c => c.st == .pending).length
  | 3 => some (Config.launchPool - (x.s.claims.filter (·.fromPool)).length)
  | 4 => some free
  | 5 => some (left Dom.brkb Use.bricks)
  | 6 => some (left Dom.ctxb Use.ctxs)
  | _ => none

/-- `cquery` (R352). -/
def execCquery (g : Guard) (d a : Opnd) (s : State) : Out :=
  run (.cquery g d a) g (fun x =>
    let v := x.get a
    let (s, free) := if v == 4 then countFree x.sp.massif x.sp.dom 4095 1 x.s else (x.s, 0)
    let x := { x with s := s }
    match (if v.extractLsb' 4 60 == 0 then x.query free v.toNat else none) with
    | some n => x.put d (BitVec.ofNat 64 (min n (2 ^ x.w - 1)))
    | none => x.raise (overrun 12 v)) s

end Sys2Proof.Machine
end

