-- ==== Sys2Proof/Machine/Start.lean ====
section
/-! DEFINITION. Fresh spurs: what a claim grant and a start barrier give a spur, its bricks, contexts and thread (R53,
R89, R93). -/

namespace Sys2Proof.Machine

open Sys2Proof

/-- A resource header that asks for nothing. -/
def Header.blank : Header := ⟨false, false, 1, 1, 1, 0, 1, 0, 0, 0, 0, 0⟩

/-- An image without contents. -/
def Image.blank : Image where
  addr := 0
  hd := Header.blank
  len := 0
  bricks := []
  ctxs := []
  routes := []
  nodes := []
  attrs := []
  foots := []
  sections := []
  ports := []
  seqOff := 0
  seq := []
  rlen := 256
  trm := 0
  bg := false
  tbe := false
  tme := false

/-- The status register of a thread at its start (R89, R90): RM, BE, ME and SM from the image. -/
def startSst (m : Image) : W64 :=
  BitVec.ofNat 64 (m.trm.toNat * 2 ^ 8 + (if m.tbe then 2 ^ 12 else 0) + (if m.tme then 2 ^ 13 else 0) +
    (if m.hd.sys then 2 ^ 16 else 0))

/-- A thread as its spur's start barrier opens (R89, R91). -/
def Thread.start (m : Image) (h : Handle) (arg : W64) (sve : W64) : Thread where
  hasSeq := !m.seq.isEmpty
  g := (List.replicate 32 (0 : W64)).set 1 (h.zeroExtend 64) |>.set 2 arg
  f := 0
  pc := m.addr + BitVec.ofNat 64 m.seqOff
  sst := startSst m
  epc := 0
  ecause := 0
  evec := sve
  rlen := m.rlen
  rsn := 0
  steps := []
  synced := 0
  load := none
  defer := none
  stored := false
  atomAt := []
  retd := false
  mdc := 0

/-- A route in phase 0, entered with its first entry (R59). -/
def Route.start (ents : List W32) : Route := ⟨ents, 0, nth ents 0 0, !entV (nth ents 0 0), []⟩

/-- The configuration that names nothing: no valid slot, every register zero (R105). -/
def CtxCfg.blank : CtxCfg where
  sv := 0
  slots := List.replicate 16 0
  regs := List.replicate 64 0
  preds := List.replicate 4 0
  win := List.replicate 4 0
  obind := List.replicate 12 0
  grout := List.replicate 16 0
  rm := 0
  me := false
  be := false
  nodes := []
  vc := []

/-- The context entries of a brick: those of the image's records configured, the others within CTX without a
configuration (R312, R313). -/
def brickCtxs (m : Image) (row col : Nat) : List Ctx :=
  (upTo m.hd.ctx).map fun i =>
    let k := Ctx.blank (BitVec.ofNat 8 row) (BitVec.ofNat 8 col) (BitVec.ofNat 3 i)
    match m.ctxs.find? fun r => r.row == row && r.col == col && r.ctx == i with
    | some r => k.install r.cfg
    | none => k

/-- A brick of a granted spur: its bindings from its record, its bank from the physical brick (R383). -/
def startBrick (m : Image) (bank : List Host.Cell) (row col : Nat) : Brick :=
  { Brick.blank (BitVec.ofNat 8 row) (BitVec.ofNat 8 col) with
    bank := bank
    vc := match m.bricks.find? fun r => r.row == row && r.col == col with
      | some r => r.vc
      | none => List.replicate 32 0 }

/-- A body as the start barrier opens: `bank` gives the bank of each brick. -/
def Body.start (m : Image) (th : Thread) (bank : Nat → Nat → List Host.Cell) : Body where
  bricks := (cells m.hd.ht m.hd.wd).map fun rc => startBrick m (bank rc.1 rc.2) rc.1 rc.2
  ctxs := (cells m.hd.ht m.hd.wd).flatMap fun rc => brickCtxs m rc.1 rc.2
  th := th
  routes := m.routes.map Route.start
  paths := []
  edge := []
  portDig := []
  held := []
  invs := []
  cmds := []
  recs := []
  trace := []
  reqs := []
  rets := []
  yld := none

/-- The declared ports with zero digests (R414). -/
def Image.digs (m : Image) : List (BitVec 8 × W64) := (m.ports.filter (·.isIn)).map fun p => (p.p, 0)

/-- The sections of an image; one that declares none has section 0 (R97). -/
def Image.sects (m : Image) : List Section := if m.sections.isEmpty then [⟨0, 0, 0, m.hd.wd, m.hd.ht⟩] else m.sections

/-- A spur of an image that has just been granted its bricks (R334). -/
def Spur.granted (m : Image) (h : Handle) (dom asid : Nat) (site : Site) (b : Body) (now : Nat) : Spur where
  handle := h
  dom := dom
  asid := asid
  seed := 0
  qnt := 0
  hq := none
  img := m
  arg := 0
  target := .none
  parent := none
  entry := 0
  life := .loading
  site := site
  host := none
  area := none
  claim := none
  live := { b with portDig := m.digs }
  start := { b with portDig := m.digs }
  causes := []
  stale := false
  retry := false
  badNow := []
  retried := []
  tries := 0
  rnd := 0
  roundAt := now
  rlenNow := m.rlen
  openedAt := now
  awayFrom := 0
  lastBusy := now
  inactive := false
  dead := none
  atoms := []
  delivered := []
  collected := []
  bars := List.replicate m.hd.bar ⟨.free, 0, 0, 0⟩
  launches := []
  gates := []
  kept := none
  final := false
  result := 0
  sStop := false
  sFault := none
  paging := false
  sysMade := false
  move := none
  stowAt := none
  stowWait := none
  foldAt := none
  wasYielded := false
  placedAt := now
  spared := none
  waves := ⟨[], 0, 1⟩
  phases := m.sects.map fun x => ⟨x.n, 0, now, none, none, none, none, 0⟩
  linkDown := none
  deferred := false

end Sys2Proof.Machine
end

