-- ==== Sys2Proof/Machine/Placing.lean ====
section
/-! DEFINITION. Placing a nest on granted areas: bricks and their banks (R383), the sharers of a host (R330), the spurs of
leaves, the composites above them, and the wires between their ports (R335, R338, R374). -/

namespace Sys2Proof.Machine

open Sys2Proof

/-! ## Bricks and their banks (R383) -/

/-- The bank of a brick that no spur has in place. -/
def State.bankOf (s : State) (b : Nat) : List Host.Cell :=
  match s.banks.find? fun x => x.1 == b with
  | some x => x.2
  | none => []

/-- Leave a bank in a brick. -/
def State.putBank (s : State) (b : Nat) (m : List Host.Cell) : State :=
  { s with banks := if m.isEmpty then s.banks.filter fun x => x.1 != b else insertKey (·.1) (b, m) s.banks }

/-- The tile table of a brick, as those who have left it made it (R181, log 122). -/
def State.tilesOf (s : State) (b : Nat) : List Slot × List Acc :=
  match s.tiles.find? fun x => x.1 == b with
  | some x => x.2
  | none => (List.replicate 4 Slot.blank, List.replicate 3 Acc.blank)

/-- A spur leaves the entries that its contexts own in the tile tables of its bricks: only `orelease` gives one up (R181,
R182). -/
def State.leaveTiles (s : State) (sp : Spur) : State :=
  sp.live.bricks.foldl (fun s k =>
    let k := k.settle
    let b := sp.brickNo k.row.toNat k.col.toNat
    let t := s.tilesOf b
    let sl := (k.slots.zip t.1).map fun x => if x.1.owner.isSome then x.1 else x.2
    let ac := (k.accs.zip t.2).map fun x => if x.1.owner.isSome then x.1 else x.2
    if sl.any (·.owner.isSome) || ac.any (·.owner.isSome) then { s with tiles := insertKey (·.1) (b, sl, ac) s.tiles } else s) s

/-- A brick goes to a domain: its bank and tile table are zeroed where another domain held it last (R383). -/
def State.takeBrick (s : State) (d b : Nat) : State :=
  let mine := s.lastOwner.any fun x => x.1 == b && x.2 == d
  { s with
    banks := if mine then s.banks else s.banks.filter fun x => x.1 != b
    tiles := if mine then s.tiles else s.tiles.filter fun x => x.1 != b
    lastOwner := insertKey (·.1) (b, d) s.lastOwner
    owners := insertKey (·.1) (b, d) s.owners }

/-- The bricks of an area go to a domain; those under a guest are its host's domain's already. -/
def State.takeArea (s : State) (d : Nat) (a : Area) : State :=
  if a.host.isSome then s else a.bricks.foldl (fun s b => s.takeBrick d b) s

/-- Bricks that no area covers any more have no owner (R383). -/
def State.reown (s : State) : State :=
  let occ := s.areas.map (·.2)
  { s with owners := s.owners.filter fun x => occ.any fun a => a.bricks.contains x.1 }

/-- A spur leaves its banks in its bricks; a guest's image goes with it (R330). -/
def State.saveBanks (s : State) (sp : Spur) : State :=
  if sp.host.isSome then s
  else sp.live.bricks.foldl (fun s k => s.putBank (sp.brickNo k.row.toNat k.col.toNat) k.bank) s

/-! ## Sharers (R330) -/

/-- The rectangle on free bricks that an area stands on: itself, or its host's. -/
def State.hostArea (s : State) (a : Area) : Area :=
  match s.areas.find? fun x => x.2.host.isNone && x.2.covers a.site.massif a.site.row a.site.col with
  | some x => x.2
  | none => a

/-- A spur joins the sharers of the bricks it stands on: a guest behind them, a host before them. Until its turn comes its
cycles do not count (R330, R365). -/
def joinGroup (s : State) (h : Handle) : State :=
  match s.spur? h with
  | none => s
  | some sp =>
    let s := s.modSpur h fun x => { x with awayFrom := s.now }
    let base := s.hostArea sp.ownArea
    let others := (s.spurs.filter fun o => o.placed && o.handle != h && o.ownArea.hits base).map (·.handle)
    let guest := sp.host.isSome
    if others.isEmpty then s
    else if s.groups.any fun g => g.members.any others.contains then
      { s with groups := updFirst (fun g => g.members.any others.contains) (fun g =>
          if guest then { g with members := g.members ++ [h] } else ⟨h :: g.members, g.turn + 1⟩) s.groups }
    else { s with groups := s.groups ++ [if guest then (⟨others ++ [h], 0⟩ : Group) else ⟨h :: others, 1⟩] }

/-! ## Leaves and composites (R335, R338) -/

/-- The bricks of a body with the tile tables they are granted with. -/
def Body.tiled (b : Body) (tab : Nat → Nat → Option (List Slot × List Acc)) : Body :=
  { b with bricks := b.bricks.map fun k =>
      match tab k.row.toNat k.col.toNat with
      | some t => { k with slots := t.1, accs := t.2 }
      | none => k }

/-- What every part of a launch shares: its claim's number, its domain and parent, who made it, and its argument; `same`
gives every leaf the argument as it is (R335, R374). -/
structure Launch where
  claim : Nat
  dom : Nat
  parent : Option Handle
  sysMade : Bool
  arg : W64
  same : Bool
  deriving DecidableEq, Repr

/-- Where a part goes: its areas with the units of those that are guests, the held area they lie in, and the index of its
first leaf. -/
structure Spot where
  areas : List (Area × Option (Nat × Nat))
  held : Option (Handle × Nat)
  leaf : Nat
  deriving DecidableEq, Repr

/-- The part of a spot from an area and a leaf on. -/
def Spot.from_ (p : Spot) (n leaf : Nat) : Spot :=
  ⟨p.areas.drop n, p.held.map fun x => (x.1, x.2 + n), p.leaf + leaf⟩

/-- What a part is to the instance above it: its handle, its target and the entry whose use it counts for. -/
structure Role where
  h : Handle
  target : Target
  entry : Nat
  deriving DecidableEq, Repr

/-- The spur that stands on free bricks where a guest is placed, or the handle that its area names. -/
def State.hostAt (s : State) (a : Area) : Option Handle :=
  a.host.map fun x =>
    match s.spurs.find? fun o => o.placed && o.host.isNone && (s.standing o).covers a.site.massif a.site.row a.site.col with
    | some o => o.handle
    | none => x

/-- Place a leaf and load its image (R53, R383): a guest's banks start as zeros, and its entries of the tile table are
none of those there (R205), while a host gets those left in its bricks with their owners' numbers (DEDUCED, log 122). -/
def putLeaf (s : State) (l : Launch) (m : Image) (p : Spot) (r : Role) : State :=
  match p.areas with
  | [] => s
  | (a, run) :: _ =>
    let bank (row col : Nat) : List Host.Cell :=
      if a.host.isSome then [] else s.bankOf (brickNo a.site.massif (a.site.row + row) (a.site.col + col))
    let tab (row col : Nat) : Option (List Slot × List Acc) :=
      if a.host.isSome then none else some (s.tilesOf (brickNo a.site.massif (a.site.row + row) (a.site.col + col)))
    let arg := if l.same then l.arg else l.arg + BitVec.ofNat 64 (64 * p.leaf)
    let sp : Spur := { Spur.granted m r.h l.dom 0 a.site ((Body.start m (Thread.start m r.h arg 0) bank).tiled tab) s.now with
      arg := arg, target := r.target, parent := l.parent, entry := r.entry, host := s.hostAt a, area := p.held,
      claim := some l.claim, foldAt := run, sysMade := l.sysMade }
    let tiles := if a.host.isSome then s.tiles else s.tiles.filter fun x => !sp.brickNos.contains x.1
    joinGroup { s with spurs := s.spurs ++ [sp], tiles := tiles } r.h

/-- Put a composite with its members' handles. -/
def putComp (s : State) (l : Launch) (n : Nest) (imgs : List Image) (p : Spot) (r : Role) (hs : List Handle)
    (areas : List Area) : State :=
  { s with comps := s.comps ++ [{
      handle := r.h, dom := l.dom, entry := r.entry, nest := n, imgs := imgs, hq := n.hq, target := r.target,
      members := hs.map fun h => (⟨h, false, 0, 0⟩ : Member), second := false, arg := l.arg, base := p.leaf,
      parent := l.parent, sysMade := l.sysMade, inFrom := [], outFrom := [], areas := areas, area := p.held,
      claim := some l.claim, waves := none }] }

/-- Add wires. -/
def State.addWires (s : State) (l : List (End × End)) : State :=
  { s with wires := s.wires ++ l.map fun x => (⟨x.1, x.2, []⟩ : Wire) }

/-- The ports of a pipe's first member that its second takes, end to end (R335). -/
def pipePairs (a b : List PortEnd) : List (PortEnd × PortEnd) :=
  (a.filter fun x => !x.isIn).filterMap fun x => (b.find? fun y => y.isIn && y.p == x.p).map fun y => (x, y)

/-- The ports of bank gates (R285). -/
def gatePorts : List (BitVec 8) := (upTo 16).map fun n => BitVec.ofNat 8 (0xF0 + n)

/-- New handles. -/
def newHandles : Nat → State → State × List Handle
  | 0, s => (s, [])
  | n + 1, s =>
    let (s, h) := s.newHandle
    let (s, l) := newHandles n s
    (s, h :: l)

/-- The area that a sequence or loop holds: that of one around it, else its own. -/
def Spot.hold (p : Spot) (h : Handle) : Spot := { p with held := p.held.or (some (h, 0)) }

/-- The areas that a sequence or loop holds itself. -/
def Spot.ownAreas (p : Spot) : List Area := if p.held.isSome then [] else p.areas.map (·.1)

/-- Place a nest, depth first and left to right (R338, steps 3 to 5), with the ends of its ports. -/
def placeNest (l : Launch) : Nest → List Image → Spot → Role → State → State × List PortEnd
  | .leaf .., imgs, p, r, s =>
    match imgs with
    | [] => (s, [])
    | m :: _ => (putLeaf s l m p r, m.ports.map fun d => ⟨d.p, d.isIn, .spur r.h d.p⟩)
  | .par id hq a b, imgs, p, r, s =>
    let ia := imgs.take a.leaves.length
    let ib := imgs.drop a.leaves.length
    let (s, hs) := newHandles 2 s
    let s := putComp s l (.par id hq a b) imgs p r hs []
    let (s, x) := placeNest l a ia p ⟨nth hs 0 0, .member r.h 0, 0⟩ s
    let (s, y) := placeNest l b ib (p.from_ (a.rects ia).length a.count) ⟨nth hs 1 0, .member r.h 1, 0⟩ s
    (s, x ++ y)
  | .pipe id hq a b, imgs, p, r, s =>
    let ia := imgs.take a.leaves.length
    let ib := imgs.drop a.leaves.length
    let (s, hs) := newHandles 2 s
    let s := putComp s l (.pipe id hq a b) imgs p r hs []
    let (s, x) := placeNest l a ia p ⟨nth hs 0 0, .member r.h 0, 0⟩ s
    let (s, y) := placeNest l b ib (p.from_ (a.rects ia).length a.count) ⟨nth hs 1 0, .member r.h 1, 0⟩ s
    let pairs := pipePairs x y
    let s := s.addWires (pairs.map (fun e => (e.1.end_, e.2.end_)) ++
      gatePorts.map fun g => (End.spur (nth hs 0 0) g, End.gate (nth hs 1 0)))
    (s, (x.filter fun e => !(pairs.map (·.1)).contains e) ++ y.filter fun e => !(pairs.map (·.2)).contains e)
  | .seq id hq a b, imgs, p, r, s =>
    let ia := imgs.take a.leaves.length
    let ib := imgs.drop a.leaves.length
    let (s, hs) := newHandles 1 s
    let s := putComp s l (.seq id hq a b) imgs p r (hs ++ [0]) p.ownAreas
    let (s, x) := placeNest l a ia (p.hold r.h) ⟨nth hs 0 0, .member r.h 0, 0⟩ s
    let later := (b.ports ib 0).1.filter fun d => !(x.any fun e => e.p == d.p)
    (s, x ++ later.map fun d => (⟨d.p, d.isIn, .spur r.h d.p⟩ : PortEnd))
  | .loop id hq c a, imgs, p, r, s =>
    let (s, hs) := newHandles 1 s
    let s := putComp s l (.loop id hq c a) imgs p r hs p.ownAreas
    placeNest l a imgs (p.hold r.h) ⟨nth hs 0 0, .member r.h 0, 0⟩ s
  | .farm id hq pol kb n a, imgs, p, r, s =>
    let (s, hs) := newHandles n s
    let s := putComp s l (.farm id hq pol kb n a) imgs p r hs []
    let w := (a.rects imgs).length
    let (s, ends) := (upTo n).foldl (fun (x : State × List (List PortEnd)) j =>
      let (s, e) := placeNest l a imgs (p.from_ (j * w) (j * a.count)) ⟨nth hs j 0, .member r.h j, 0⟩ x.1
      (s, x.2 ++ [e])) (s, [])
    let wires := ends.flatMap fun l => l.map fun e =>
      if e.isIn then (End.farm r.h e.p, e.end_) else (e.end_, End.farm r.h e.p)
    (s.addWires wires, (nth ends 0 []).map fun e => { e with end_ := .farm r.h e.p })

/-! ## Opening (R21, R89, R232, R381, R422) -/

/-- A spur enters running as its start barrier opens, with the fields of its domain that it keeps (R381); the presence
bits of its vault bytes are empty (R232). Its first configuration is in effect (R112). -/
def Spur.opened (sp : Spur) (y : Dom) (hq : Option (Nat × Nat)) (w : Waves) (now : Nat) : Spur :=
  let sp := sp.modLive fun b => { b with
    th := { b.th with evec := BitVec.ofNat 64 y.sve }
    bricks := b.bricks.map fun k => { k with full := k.full.filter fun a => decide (sp.img.hd.vlt ≤ a) } }
  { sp with asid := y.asid, seed := y.seed, qnt := y.qnt, hq := hq, life := .running, openedAt := now, lastBusy := now, awayFrom := now,
            waves := w,
            phases := sp.phases.map fun (p : Phase) => { p with loaded := some now } }.openRound now

/-- The ridges of a launch in ascending order, those of the areas that its sequences and loops hold among them, where it
spans more than 64 (R422). -/
def State.waveRidges (s : State) (claim : Nat) : List Nat :=
  let held := (s.comps.filter fun c => c.claim == some claim).flatMap (·.areas)
  let l := sortBy (fun n => [n]) (dedup ((s.spurs.filter fun x => x.claim == some claim).flatMap Spur.ridges ++
    held.flatMap fun a => a.bricks.map (· / 256)))
  if 64 < l.length then l else []

/-- The waves of a launch: those its start barrier has begun with, or the first of them now (R422). -/
def State.wavesOf (s : State) (claim : Nat) : Waves :=
  ((s.comps.filter fun c => c.claim == some claim).findSome? (·.waves)).getD ⟨s.waveRidges claim, s.now, 1⟩

/-- Put the waves of a launch: its spurs keep them, and its composites for the members still to be placed (R422). -/
def State.setWaves (s : State) (claim : Option Nat) (w : Waves) : State :=
  let spur (x : Spur) : Spur := if x.claim == claim then { x with waves := w } else x
  let comp (c : Comp) : Comp := if c.claim == claim then { c with waves := some w } else c
  { s with spurs := s.spurs.map spur, comps := s.comps.map comp }

/-- Every loading spur of a launch enters running; its waves begin, or go on for a member placed later. -/
def openLaunch (s : State) (claim : Nat) : State :=
  let w := s.wavesOf claim
  let s := s.setWaves (some claim) w
  let hs := (s.spurs.filter fun x => x.claim == some claim && x.life == .loading).map (·.handle)
  hs.foldl (fun s h =>
    match s.spur? h with
    | none => s
    | some sp =>
      match s.dom? sp.dom with
      | none => s
      | some y => claimTurn (s.setSpur (sp.opened y (s.handlerQ sp.dom) w s.now)) h) s

end Sys2Proof.Machine
end

