-- ==== Sys2Proof/Machine/Ends.lean ====
section
/-! DEFINITION. Ends: what a spur or a composite leaves when it ends, and the completions that follow up its nest (R24,
R321, R322, R334, R335, R346). -/

namespace Sys2Proof.Machine

open Sys2Proof

/-! ## The wires of an instance that ends (R318, R335) -/

/-- The second member of a sequence declares a port. -/
def Nest.laterPort (n : Nest) (imgs : List Image) (p : BitVec 8) : Bool :=
  match n with
  | .seq _ _ a b => (b.ports (imgs.drop a.leaves.length) 0).1.any (·.p == p)
  | .leaf .. | .par .. | .pipe .. | .farm .. | .loop .. => false

/-- The sequence or loop around a member that will place the port again, for which its wires wait (R335). -/
def heir (s : State) (p : BitVec 8) : Nat → Target → Option Handle
  | 0, _ => none
  | n + 1, .member i k =>
    match s.comps.find? fun c => c.handle == i with
    | none => none
    | some c =>
      match c.nest with
      | .loop .. => some i
      | .seq .. => if k = 0 && c.nest.laterPort c.imgs p then some i else heir s p n c.target
      | .leaf .. | .par .. | .pipe .. | .farm .. => heir s p n c.target
  | _ + 1, _ => none

/-- An end of an instance that ends waits for its heir, where it has one. -/
def State.bequeath (s : State) (h : Handle) (t : Target) (e : End) : End :=
  match e with
  | .spur g p | .farm g p =>
    if g == h && decide (p < 0xF0) then (match heir s p 16 t with | some i => .spur i p | none => e) else e
  | .job .. | .gate .. | .saddle .. => e

/-- The wires of an instance that ends. -/
def retireEnds (s : State) (h : Handle) (t : Target) : State :=
  { s with wires := s.wires.map fun w => { w with src := s.bequeath h t w.src, dst := s.bequeath h t w.dst } }

/-- The instance and the port of an end. -/
def End.at_ : End → Handle × BitVec 8
  | .spur h p | .farm h p | .job h p => (h, p)
  | .gate h => (h, 0)
  | .saddle _ p => (0, p)

/-- The remote party of a wire to or from another package (R394). -/
def Wire.remote (w : Wire) : Option Remote :=
  match w.src, w.dst with
  | .saddle k q, e | e, .saddle k q => some ⟨k, q, e.at_.1, e.at_.2⟩
  | _, _ => none

/-- The wire leads to a farm's collector. -/
def Wire.toFarm (w : Wire) : Bool := match w.dst with | .farm .. => true | .spur .. | .job .. | .gate .. | .saddle .. => false

/-- A spur's open round holds what it took of a wire (R400). -/
def State.holdsOf (s : State) (w : Wire) : Bool :=
  s.spurs.any fun sp => sp.delivered.any fun x => w.dst == .spur sp.handle x.1

/-- Wires that lead nowhere hold nothing, and those that nothing leaves on any more go (R318); a wire stays while a round
that may be voided holds what it took of it (R400), and a collector keeps its replicas' wires in their order. The reports of
remote parties go with their wires (R394). -/
def State.tidy (s : State) : State :=
  let ws := (s.wires.map fun w => if s.liveEnd w.dst then w else { w with buf := [] }).filter fun w =>
    s.liveEnd w.src || !w.buf.isEmpty || (w.toFarm && s.liveEnd w.dst) || s.holdsOf w
  { s with wires := ws, farIdle := s.farIdle.filter fun r => ws.any fun w => w.remote == some r }

/-! ## Composites (R335) -/

/-! ## Links (R394) -/

/-- The spurs that a wire's flits come from, through the farms on their way. -/
def State.sendersOf (s : State) : Nat → End → List Handle
  | 0, _ => []
  | n + 1, e =>
    match e with
    | .spur h _ => [h]
    | .farm .. => (s.wires.filter fun w => w.dst == e).flatMap fun w => s.sendersOf n w.src
    | .gate _ | .job .. | .saddle .. => []

/-- The spurs that a wire's flits go to, through the farms on their way. -/
def State.receiversOf (s : State) : Nat → End → List Handle
  | 0, _ => []
  | n + 1, e =>
    match e with
    | .spur h _ => [h]
    | .gate h => (s.spurs.filter fun x => (gateNames s true 16 x.handle).contains h).map (·.handle)
    | .farm .. => (s.wires.filter fun w => w.src == e).flatMap fun w => s.receiversOf n w.dst
    | .job .. | .saddle .. => []

/-- The spurs that send or receive on a channel. -/
def State.usersOf (s : State) (w : Wire) : List Handle := s.sendersOf 17 w.src ++ s.receiversOf 17 w.dst

/-- Spurs take their link-failure fault at their next mark: those of `mine` that use a channel which a link of `down` carries
(R394). -/
def State.failLinks (s : State) (down : BitVec 8 → Bool) (mine : Handle → Bool) : State :=
  s.wires.foldl (fun s w =>
    match (s.linksOf w).find? fun l => down l.1 with
    | some l => ((s.usersOf w).filter mine).foldl (fun s h => s.modSpur h fun sp => { sp with linkDown := some l }) s
    | none => s) s

/-! ## What an instance completes with -/

/-- What a composite completes with: its status and result, once its members say so. -/
def Comp.outcome (c : Comp) : Option (Nat × W64) :=
  let bad := c.members.any fun m => m.ended && m.status == 2
  let all := c.members.all (·.ended)
  let last : W64 := match c.members.getLast? with | some m => m.result | none => 0
  match c.nest with
  | .leaf .. => none
  | .seq .. => if bad then some (2, 0) else if c.second && all then some (0, last) else none
  | .par .. | .farm .. => if !all then none else if bad then some (2, 0) else some (0, 0)
  | .pipe .. => if !all then none else if bad then some (2, 0) else some (0, last)
  | .loop _ _ bit _ => if !all then none else if bad then some (2, 0) else if last.getLsbD bit then some (0, last) else none

/-- Composites that are complete end, from the target of an instance that has ended upwards. -/
def compUp (massif : Nat) : Nat → Target → State → State
  | n + 1, .member i _, s =>
    match s.comps.find? fun c => c.handle == i with
    | none => s
    | some c =>
      match c.outcome with
      | none => s
      | some (st, r) =>
        let s := retireEnds s i c.target
        let s := ({ s with comps := s.comps.filter fun c => c.handle != i }.reown).tidy
        let s := decUse s massif c.dom c.entry
        compUp massif n c.target (s.complete c.target i c.dom st r)
  | _, _, s => s

/-! ## Spurs (R334, R346) -/

/-- What a spur performed in a round that never committed is dropped: its launches, and the entries its builders took
(R344). -/
def dropHeld (s : State) (sp : Spur) : State :=
  let held := s.claims.filter fun c => c.st == .held && c.parent == some sp.handle
  let s := held.foldl (fun s c => decUse s sp.massif c.dom c.entry) s
  dropTaken { s with claims := s.claims.filter fun c => !(c.st == .held && c.parent == some sp.handle) } sp.massif sp.dom
    sp.handle

/-- A spur ends: it leaves its bricks, contexts, thread and units, and then its completion is written (R24). -/
def finishSpur (s : State) (sp : Spur) (status : Nat) (result : W64) : State :=
  let h := sp.handle
  let s := dropHeld s sp
  let s := if sp.placed then (s.saveBanks sp).leaveTiles sp else s
  let s := retireEnds (leaveGroup s h) h sp.target
  let s := ({ s with spurs := s.spurs.filter fun x => x.handle != h,
                     claims := s.claims.filter fun c => c.kind != ClaimKind.resume h }.reown).tidy
  let s := decUse s sp.massif sp.dom sp.entry
  compUp sp.massif 17 sp.target (s.complete sp.target h sp.dom status result)

/-- The barriers of a spur that still wait for a completion (R346). -/
def Spur.armed (sp : Spur) : Bool := sp.bars.any fun b => b.st == .armed

/-- `SPUR_END` (R305, R334, R346, R408, R411): a spur whose final round is over, or that is retired by a handler or because
its stow record is lost. -/
def execSpurEnd (h : Handle) (s : State) : Out :=
  .next <| match s.spur? h with
    | none => s
    | some sp =>
      if !sp.final || s.jobsOf h then s
      else if sp.life == .stopped || sp.life == .stowed then finishSpur s sp 2 0
      else if sp.armed then s
      else finishSpur s sp 0 sp.result

/-! ## Members placed again (R335) -/

/-- The ends of a member that has been placed take the wires that waited for it. -/
def repoint (s : State) (i : Handle) (ps : List PortEnd) : State :=
  let fix (e : End) : End :=
    match e with
    | .spur g p => if g == i then (match ps.find? fun x => x.p == p with | some x => x.end_ | none => e) else e
    | .farm .. | .job .. | .gate .. | .saddle .. => e
  { s with wires := s.wires.map fun w => { w with src := fix w.src, dst := fix w.dst } }

/-- Units for the guests among areas (R330). -/
def guestRuns (s : State) (d : Nat) (l : List Area) : Option (List (Area × Option (Nat × Nat))) :=
  match s.dom? d with
  | none => none
  | some y =>
    (l.foldl (fun (o : Option (List (Nat × Nat) × List (Area × Option (Nat × Nat)))) a =>
      o.bind fun x =>
        if a.host.isNone then some (x.1, x.2 ++ [(a, none)])
        else (takeRun y x.1 a.rect.bankUnits).map fun at_ =>
          ((at_, a.rect.bankUnits) :: x.1, x.2 ++ [(a, some (at_, a.rect.bankUnits))])) (some (s.runs y, []))).map (·.2)

/-- Place a member of a sequence or loop in the area held for it, as a part of its launch with the waves of that (R422), and
open it: every leaf's `g2` is the result of the member before it. -/
def placeMember (s : State) (c : Comp) (n : Nest) (imgs : List Image) (k : Nat) (arg : W64) (f : Comp → Handle → Comp) :
    State :=
  let owner := c.area.getD (c.handle, 0)
  let areas := match s.comps.find? fun x => x.handle == owner.1 with | some x => x.areas.drop owner.2 | none => []
  match guestRuns s c.dom (areas.take (n.rects imgs).length) with
  | none => s
  | some as =>
    let id := c.claim.getD s.nextClaim
    let (s, h) := s.newHandle
    let s := { s with comps := updFirst (fun x => x.handle == c.handle) (fun x => f x h) s.comps }
    let (s, ps) := placeNest ⟨id, c.dom, c.parent, c.sysMade, arg, true⟩ n imgs ⟨as, some owner, c.base⟩
      ⟨h, .member c.handle k, 0⟩ s
    openLaunch (repoint s c.handle ps) id

/-- `SEQUENCE_SECOND_PLACE` (R335). -/
def execSequenceSecondPlace (i : Handle) (s : State) : Out :=
  .next <| match s.comps.find? fun c => c.handle == i with
    | none => s
    | some c =>
      match c.nest, c.members with
      | .seq _ _ a b, m :: _ =>
        if c.second || !m.ended || m.status == 2 || (s.dom? c.dom).isNone then s
        else placeMember s c b (c.imgs.drop a.leaves.length) 1 m.result fun c h =>
          { c with second := true, members := c.members.take 1 ++ [⟨h, false, 0, 0⟩] }
      | _, _ => s

/-- `LOOP_BODY_RESTART` (R53, R335). -/
def execLoopBodyRestart (i : Handle) (s : State) : Out :=
  .next <| match s.comps.find? fun c => c.handle == i with
    | none => s
    | some c =>
      match c.nest, c.members with
      | .loop _ _ bit a, m :: _ =>
        if !m.ended || m.status == 2 || m.result.getLsbD bit || (s.dom? c.dom).isNone then s
        else placeMember s c a c.imgs 0 m.result fun c h => { c with members := [⟨h, false, 0, 0⟩] }
      | _, _ => s

/-! ## Farms (R337) -/

/-- A farm's position at a port. -/
def farmPos (l : List (BitVec 8 × Nat × List Nat)) (p : BitVec 8) : Nat × List Nat :=
  match l.find? fun x => x.1 == p with
  | some x => x.2
  | none => (0, [])

/-- Put a farm's position at a port. -/
def putFarmPos (l : List (BitVec 8 × Nat × List Nat)) (p : BitVec 8) (v : Nat × List Nat) : List (BitVec 8 × Nat × List Nat) :=
  (p, v) :: l.filter fun x => x.1 != p

/-- Where a farm sends a flit (R337): to one replica, or to every one. A header or seam marker goes to every one. -/
def farmRoute (pol : BitVec 2) (kb n cur : Nat) : Flit → Option Nat
  | .tok t =>
    if t.stop then (if pol = 0 && t.pay.extractLsb' 0 4 == 0 then some cur else none)
    else if pol = 0 then some cur
    else if pol = 1 then some (t.tag.toNat % n)
    else some ((t.pay.toNat / 2 ^ kb) % n)
  | .hdr _ | .seam | .step | .cmd _ => none

/-- The flit ends a fibre of the round-robin policy (R337). -/
def Flit.endsFibre : Flit → Bool
  | .tok t => t.stop && t.pay.extractLsb' 0 4 == 0
  | .hdr _ | .seam | .step | .cmd _ => false

/-- A flit that a farm collects from every replica and passes once (R337): a stop token, but for the level-0 stops of the
round-robin policy, or a seam marker. -/
def Flit.joined (pol : BitVec 2) : Flit → Bool
  | .tok t => t.stop && !(pol == 0 && t.pay.extractLsb' 0 4 == 0)
  | .seam => true
  | .hdr _ | .step | .cmd _ => false

/-- A wire takes one more flit; one that leads nowhere discards it. -/
def Wire.room (w : Wire) : Bool := decide (w.buf.length < Config.dataPort)

/-- A distributor passes the head of an `in` port to replica `r` (R337). -/
def farmIn (s : State) (c : Comp) (pol : BitVec 2) (kb n : Nat) (p : BitVec 8) (r : Nat) : State :=
  let outs := s.wires.filter fun w => w.src == .farm c.handle p && w.far
  match s.wires.find? fun w => w.dst == .farm c.handle p && !w.buf.isEmpty && w.src != .farm c.handle p, outs[r]? with
  | some w, some o =>
    let f := (w.buf.head?).getD .step
    let (cur, had) := farmPos c.inFrom p
    let send (s : State) : State := if s.liveEnd o.dst then s.modWire o (· ++ [f]) else s
    let put (s : State) (v : Nat × List Nat) : State :=
      { s with comps := updFirst (fun x => x.handle == c.handle) (fun x => { x with inFrom := putFarmPos x.inFrom p v }) s.comps }
    if !o.room then s
    else
      match farmRoute pol kb n cur f with
      | some d =>
        if d != r then s
        else put (send (s.modWire w (·.drop 1))) (if pol = 0 && f.endsFibre then (cur + 1) % n else cur, [])
      | none =>
        if had.contains r then s
        else if had.length + 1 = n then put (send (s.modWire w (·.drop 1))) (cur, [])
        else put (send s) (cur, r :: had)
  | _, _ => s

/-- A collector takes the head of an `out` port from replica `r` (R337). -/
def farmOut (s : State) (c : Comp) (pol : BitVec 2) (n : Nat) (p : BitVec 8) (r : Nat) : State :=
  let ins := s.wires.filter fun w => w.dst == .farm c.handle p && w.src != .farm c.handle p
  match ins[r]? with
  | none => s
  | some w =>
    match w.buf with
    | [] => s
    | f :: _ =>
      let (cur, sent) := farmPos c.outFrom p
      let outs := s.wiresFrom (.farm c.handle p)
      let full := outs.any (!·.room)
      let send (s : State) : State := s.putWires outs f
      let put (s : State) (v : Nat × List Nat) : State :=
        { s with comps := updFirst (fun x => x.handle == c.handle) (fun x => { x with outFrom := putFarmPos x.outFrom p v }) s.comps }
      if sent.contains r then s
      else if f.joined pol then
        if sent.length + 1 = n then (if full then s else put (send (s.modWire w (·.drop 1))) (cur, []))
        else put (s.modWire w (·.drop 1)) (cur, r :: sent)
      else if full || (pol == 0 && r != cur) then s
      else put (send (s.modWire w (·.drop 1))) (if pol = 0 && f.endsFibre then (cur + 1) % n else cur, sent)

/-- `FARM_DISTRIBUTION` (R337). -/
def execFarmDistribution (i : Handle) (out : Bool) (p : BitVec 8) (r : Nat) (s : State) : Out :=
  .next <| match s.comps.find? fun c => c.handle == i with
    | none => s
    | some c =>
      match c.nest with
      | .farm _ _ pol kb n _ => if out then farmOut s c pol n p r else farmIn s c pol kb n p r
      | .leaf .. | .seq .. | .par .. | .pipe .. | .loop .. => s

end Sys2Proof.Machine
end

