-- ==== Sys2Proof/Machine/Stream.lean ====
section
/-! DEFINITION. Stream arithmetic (R163 to R173): opening and closing ports, beats over lanes, masks, fixed reduction
trees and scans. Random values are drawn lane by lane (R121). -/

namespace Sys2Proof.Machine

open Sys2Proof

/-! ## Ports (R164) -/

/-- Detach descriptor `n` from every port and attach it to port `p` (R164). -/
def Ctx.attach (k : Ctx) (p : Nat) (n : BitVec 2) : Ctx :=
  { k with att := (k.att.map fun o => if o == some n then none else o).set p (some n) }

/-- `sopen` (R164): the ports that A and B name advance by what they read, before the descriptor is written. -/
def execSopen (g : BGuard) (port : Port) (n : BitVec 2) (a b : Opnd) (s : State) : Out :=
  run (.sopen g port n a b) (.b g) (fun x =>
    let va := x.nat a
    let vb := x.nat b
    let fmt := bitsOf vb 16 4
    if va % 4 != 0 then x.raise (overrun 7 (x.get a))
    else if bitsOf vb 20 12 != 0 || fmt > 12 then x.raise (overrun 7 (x.get b))
    else
      let c := bitsOf vb 0 16
      let de : Desc := ⟨BitVec.ofNat 16 va, BitVec.ofNat 16 (va / 2 ^ 16), BitVec.ofNat 4 fmt, if c = 0 then 65536 else c, 0⟩
      let x := x.ports [a, b]
      { x with cx := { x.cx with sd := x.cx.sd.set n.toNat de }.attach (Port.idx port) n }) s

/-- `sopen.re` (R164). -/
def execSopenRe (g : BGuard) (port : Port) (n : BitVec 2) (s : State) : Out :=
  run (.sopenRe g port n) (.b g) (fun x =>
    if (nth x.cx0.sd n.toNat Desc.none).count = 0 then x.raise (overrun 7 (n.setWidth 64))
    else { x with cx := x.cx.attach (Port.idx port) n }) s

/-- `sclose` (R164): D is written while the descriptor is still attached. -/
def execSclose (g : BGuard) (port : Port) (d : Opnd) (s : State) : Out :=
  run (.sclose g port d) (.b g) (fun x =>
    let p := Port.idx port
    let v := match x.cx0.descOf p with
      | some (_, e) => e.count - e.pos
      | none => 0
    let x := x.put d (BitVec.ofNat 64 v)
    { x with cx := { x.cx with att := x.cx.att.set p none } }) s

/-! ## Beats (R165 to R168) -/

/-- The port format a lane format asks for (R168). -/
def vCode : VFmt → Nat
  | .f32 => 2 | .bf16 => 3 | .f16 => 4 | .i8 => 12

/-- The lane format of a scalar format. -/
def vOf : FFmt → VFmt
  | .f32 => .f32 | .bf16 => .bf16 | .f16 => .f16

/-- The floating-point format of a lane format; eight-bit lanes have none. -/
def vFp : VFmt → Option FpFmt
  | .f32 => some fp32 | .bf16 => some Machine.bf16 | .f16 => some fp16 | .i8 => none

/-- The index of a vector operand's port. -/
def vPort : Opnd → Option Nat
  | .sa => some 0
  | .sb => some 1
  | _ => none

/-- A format-mismatch fault of a stream instruction (R168, R173): its detail is the slot's index. -/
def Ex.fmtFault (x : Ex) : Ex := x.raise (flt 4 (x.slot.setWidth 64))

/-- The lanes of an operand in one beat (R165, R167): a vector operand's elements, or a scalar broadcast. -/
def Ex.lane (x : Ex) (n : Nat) (o : Opnd) : List Nat :=
  match vPort o with
  | some p => x.cx0.elems x.br p n
  | none => List.replicate n (x.nat o)

/-- Advance every port in a list by a beat. -/
def Ex.advanceAll (x : Ex) (n : Nat) (l : List Nat) : Ex := { x with cx := l.foldl (fun k p => k.advance p n) x.cx }

/-- Compute over lanes in ascending order. -/
def Ex.each (x : Ex) (f : Ex → α → Ex × Nat) : List α → Ex × List Nat
  | [] => (x, [])
  | a :: r =>
    let (x, v) := f x a
    let (x, l) := x.each f r
    (x, v :: l)

/-- One beat of an instruction in a lane format: its ports carry the format, `f` computes its results from the number of
lanes, the ports it reads advance, and `out` takes the results (R165, R168). -/
def Ex.beat (x : Ex) (i : Instr) (v : VFmt) (f : Ex → Nat → Ex × List Nat) (out : Ex → List Nat → Ex) : Ex :=
  let ps := vecPorts i
  if (ps ++ if laneSw i then [2] else []).any fun p => x.cx0.portFmt p != some (vCode v) then x.fmtFault
  else
    let n := beatLen i x.cx0 (vLanes v)
    let (x, l) := f x n
    out (x.advanceAll n ps) l

/-- A lane-wise instruction of one operand (R169). -/
def Ex.lanes1 (x : Ex) (i : Instr) (v : VFmt) (a : Opnd) (f : Ex → Nat → Ex × Nat) : Ex :=
  x.beat i v (fun x n => x.each f (x.lane n a)) Ex.putSw

/-- A lane-wise instruction of two operands (R169). -/
def Ex.lanes2 (x : Ex) (i : Instr) (v : VFmt) (a b : Opnd) (f : Ex → Nat × Nat → Ex × Nat) : Ex :=
  x.beat i v (fun x n => x.each f ((x.lane n a).zip (x.lane n b))) Ex.putSw

/-- A rounded lane of one value. -/
def lane1 (rm : Rm) (f : FpFmt) (op : FpFmt → Nat → Nat → Fv → Res) (x : Ex) (a : Nat) : Ex × Nat :=
  x.rounded (x.mode rm) fun m r => op f m r (f.read a)

/-- A rounded lane of two values. -/
def lane2 (rm : Rm) (f : FpFmt) (op : FpFmt → Nat → Nat → Fv → Fv → Res) (x : Ex) (p : Nat × Nat) : Ex × Nat :=
  x.rounded (x.mode rm) fun m r => op f m r (f.read p.1) (f.read p.2)

/-- A fused lane: the product of the first two values and the third (R169). -/
def lane3 (rm : Rm) (f : FpFmt) (x : Ex) (p : Nat × Nat × Nat) : Ex × Nat :=
  x.rounded (x.mode rm) fun m r => fmaV f m r (f.read p.1) (f.read p.2.1) (f.read p.2.2)

/-- A lane that needs no rounding. -/
def lanePlain (x : Ex) (r : Res) : Ex × Nat := (x.flags r.fl, r.code)

/-- An eight-bit lane as a signed number. -/
def i8 (v : Nat) : Int := signed 8 v

/-- An addition or subtraction in any lane format (R169). -/
def laneSum (rm : Rm) (v : VFmt) (sub : Bool) (x : Ex) (p : Nat × Nat) : Ex × Nat :=
  match vFp v with
  | some f => lane2 rm f (if sub then subV else addV) x p
  | none => (x, wrapNat 8 (if sub then i8 p.1 - i8 p.2 else i8 p.1 + i8 p.2))

/-- A minimum or maximum in any lane format (R169). -/
def laneMinMax (v : VFmt) (big num : Bool) (x : Ex) (p : Nat × Nat) : Ex × Nat :=
  match vFp v with
  | some f => lanePlain x (minmaxV f big num p.1 p.2)
  | none => (x, wrapNat 8 (if big then max (i8 p.1) (i8 p.2) else min (i8 p.1) (i8 p.2)))

/-- An absolute value or negation in any lane format (R169). -/
def laneSign (v : VFmt) (neg : Bool) (x : Ex) (a : Nat) : Ex × Nat :=
  (x, match vFp v with
    | some f => signOp f neg a
    | none => wrapNat 8 (if neg then -i8 a else ((i8 a).natAbs : Int)))

/-! ## Lane-wise meanings -/

/-- `vadd` (R169). -/
def execVadd (g : BGuard) (fmt : VFmt) (rm : Rm) (a b : Opnd) (s : State) : Out :=
  run (.vadd g fmt rm a b) (.b g) (fun x => x.lanes2 (.vadd g fmt rm a b) fmt a b (laneSum rm fmt false)) s

/-- `vsub` (R169). -/
def execVsub (g : BGuard) (fmt : VFmt) (rm : Rm) (a b : Opnd) (s : State) : Out :=
  run (.vsub g fmt rm a b) (.b g) (fun x => x.lanes2 (.vsub g fmt rm a b) fmt a b (laneSum rm fmt true)) s

/-- `vmul` (R169). -/
def execVmul (g : BGuard) (fmt : FFmt) (rm : Rm) (a b : Opnd) (s : State) : Out :=
  run (.vmul g fmt rm a b) (.b g) (fun x => x.lanes2 (.vmul g fmt rm a b) (vOf fmt) a b (lane2 rm (fmtOf fmt) mulV)) s

/-- `vfma` (R169): sa · sb + A. -/
def execVfma (g : BGuard) (fmt : FFmt) (rm : Rm) (a : Opnd) (s : State) : Out :=
  run (.vfma g fmt rm a) (.b g) (fun x => x.beat (.vfma g fmt rm a) (vOf fmt)
    (fun x n => x.each (lane3 rm (fmtOf fmt)) ((x.lane n .sa).zip ((x.lane n .sb).zip (x.lane n a)))) Ex.putSw) s

/-- `vaxpy` (R169): A · sa + sb. -/
def execVaxpy (g : BGuard) (fmt : FFmt) (rm : Rm) (a : Opnd) (s : State) : Out :=
  run (.vaxpy g fmt rm a) (.b g) (fun x => x.beat (.vaxpy g fmt rm a) (vOf fmt)
    (fun x n => x.each (lane3 rm (fmtOf fmt)) ((x.lane n a).zip ((x.lane n .sa).zip (x.lane n .sb)))) Ex.putSw) s

/-- `vmin` (R169). -/
def execVmin (g : BGuard) (fmt : VFmt) (num : Bool) (a b : Opnd) (s : State) : Out :=
  run (.vmin g fmt num a b) (.b g) (fun x => x.lanes2 (.vmin g fmt num a b) fmt a b (laneMinMax fmt false num)) s

/-- `vmax` (R169). -/
def execVmax (g : BGuard) (fmt : VFmt) (num : Bool) (a b : Opnd) (s : State) : Out :=
  run (.vmax g fmt num a b) (.b g) (fun x => x.lanes2 (.vmax g fmt num a b) fmt a b (laneMinMax fmt true num)) s

/-- `vabs` (R169). -/
def execVabs (g : BGuard) (fmt : VFmt) (a : Opnd) (s : State) : Out :=
  run (.vabs g fmt a) (.b g) (fun x => x.lanes1 (.vabs g fmt a) fmt a (laneSign fmt false)) s

/-- `vneg` (R169). -/
def execVneg (g : BGuard) (fmt : VFmt) (a : Opnd) (s : State) : Out :=
  run (.vneg g fmt a) (.b g) (fun x => x.lanes1 (.vneg g fmt a) fmt a (laneSign fmt true)) s

/-- The lane mask of the firing's bank (R160). -/
def Ex.mask (x : Ex) : W64 := nth x.cx0.lm x.bank.toNat 0

/-- `vsel` (R169). -/
def execVsel (g : BGuard) (fmt : VFmt) (a b : Opnd) (s : State) : Out :=
  run (.vsel g fmt a b) (.b g) (fun x => x.beat (.vsel g fmt a b) fmt
    (fun x n => (x, (((x.lane n a).zip (x.lane n b)).zip (upTo n)).map fun pl =>
      if x.mask.getLsbD pl.2 then pl.1.1 else pl.1.2)) Ex.putSw) s

/-- One test of `vcmp` (R170). -/
def laneCmp (v : VFmt) (c : FCond) (x : Ex) (p : Nat × Nat) : Ex × Nat :=
  match vFp v with
  | some f =>
    let (t, fl) := cmpF c (f.read p.1) (f.read p.2)
    (x.flags fl, t.toNat)
  | none =>
    (x, Bool.toNat (match c with
      | .eq => i8 p.1 == i8 p.2
      | .lt => decide (i8 p.1 < i8 p.2)
      | .le => decide (i8 p.1 ≤ i8 p.2)
      | .un => false))

/-- The bits of a mask from its lanes, lane 0 lowest. -/
def maskOf : List Nat → Nat
  | [] => 0
  | b :: r => b % 2 + 2 * maskOf r

/-- `vcmp` (R170). -/
def execVcmp (g : BGuard) (fmt : VFmt) (cond : FCond) (d a b : Opnd) (s : State) : Out :=
  run (.vcmp g fmt cond d a b) (.b g) (fun x => x.beat (.vcmp g fmt cond d a b) fmt
    (fun x n => x.each (laneCmp fmt cond) ((x.lane n a).zip (x.lane n b)))
    (fun x l => { x with cx := { x.cx with lm := x.cx.lm.set x.bank.toNat (BitVec.ofNat 64 (maskOf l)) } }.put d
      (BitVec.ofNat 64 (l.foldl (· + ·) 0)))) s

/-! ## Reductions (R171) -/

/-- One level of the tree at distance `t`: `v[l] := op(v[l], v[l + t])` for every `l` a multiple of `2t` with
`l + t < n`, in ascending order. -/
def Ex.level (x : Ex) (op : Ex → Nat → Nat → Ex × Nat) (t : Nat) : List Nat → List Nat → Ex × List Nat
  | [], v => (x, v)
  | l :: r, v =>
    if l % (2 * t) = 0 ∧ l + t < v.length then
      let (x, y) := op x (nth v l 0) (nth v (l + t) 0)
      x.level op t r (v.set l y)
    else x.level op t r v

/-- The fixed pairwise tree (R171). Seven levels cover every beat. -/
def Ex.tree (x : Ex) (op : Ex → Nat → Nat → Ex × Nat) (v : List Nat) : Ex × Nat :=
  let (x, v) := [1, 2, 4, 8, 16, 32, 64].foldl (fun (a : Ex × List Nat) t =>
    if t < v.length then a.1.level op t (upTo v.length) a.2 else a) (x, v)
  (x, nth v 0 0)

/-- Combine a beat by the tree, and the tree's value into register D (R171). -/
def Ex.reduce (x : Ex) (i : Instr) (v : VFmt) (d a : Opnd) (lift : Ex → Nat → Ex × Nat)
    (op : Ex → Nat → Nat → Ex × Nat) : Ex :=
  let old := x.nat d
  x.beat i v (fun x n => x.each lift (x.lane n a)) fun x l =>
    let (x, t) := x.tree op l
    let (x, y) := op x old t
    x.put d (BitVec.ofNat 64 y)

/-- A lane widened exactly to FP32, or an eight-bit lane as a 32-bit integer (R171). -/
def liftLane (v : VFmt) (x : Ex) (a : Nat) : Ex × Nat :=
  match v, vFp v with
  | .f32, _ => (x, a % 2 ^ 32)
  | _, some f => lanePlain x (roundV fp32 0 0 (f.read a))
  | _, none => (x, wrapNat 32 (i8 a))

/-- An addition of a reduction (R171). -/
def redSum (rm : Rm) (v : VFmt) (x : Ex) (a b : Nat) : Ex × Nat :=
  match vFp v with
  | some _ => lane2 rm fp32 addV x (a, b)
  | none => (x, (a + b) % 2 ^ 32)

/-- A maximum of a reduction (R171). -/
def redMax (v : VFmt) (num : Bool) (x : Ex) (a b : Nat) : Ex × Nat :=
  match vFp v with
  | some _ => lanePlain x (minmaxV fp32 true num a b)
  | none => (x, wrapNat 32 (max (signed 32 a) (signed 32 b)))

/-- A maximum of absolute values (R171); a signalling NaN sets NV (R117). -/
def redAmax (x : Ex) (a b : Nat) : Ex × Nat :=
  let nv : BitVec 8 := if (fp32.read a).sig || (fp32.read b).sig then flNV else 0
  lanePlain (x.flags nv) (minmaxV fp32 true false (signOp fp32 false a) (signOp fp32 false b))

/-- `vredsum` (R171). -/
def execVredsum (g : BGuard) (fmt : VFmt) (rm : Rm) (d a : Opnd) (s : State) : Out :=
  run (.vredsum g fmt rm d a) (.b g) (fun x =>
    x.reduce (.vredsum g fmt rm d a) fmt d a (liftLane fmt) (redSum rm fmt)) s

/-- `vredmax` (R171). -/
def execVredmax (g : BGuard) (fmt : VFmt) (num : Bool) (d a : Opnd) (s : State) : Out :=
  run (.vredmax g fmt num d a) (.b g) (fun x =>
    x.reduce (.vredmax g fmt num d a) fmt d a (liftLane fmt) (redMax fmt num)) s

/-- `vamax` (R171). -/
def execVamax (g : BGuard) (fmt : FFmt) (d a : Opnd) (s : State) : Out :=
  run (.vamax g fmt d a) (.b g) (fun x => x.reduce (.vamax g fmt d a) (vOf fmt) d a (liftLane (vOf fmt)) redAmax) s

/-! ## The scan (R172) -/

/-- One step of the scan at distance `t`, from lane `l` on: `w` holds the values before the step. -/
def Ex.scanStep (x : Ex) (f : FpFmt) (rm : Rm) (t : Nat) (w : List Nat) : List Nat → Ex × List Nat
  | [] => (x, [])
  | l :: r =>
    let (x, y) := if l < t then (x, nth w l 0) else lane2 rm f addV x (nth w (l - t) 0, nth w l 0)
    let (x, ys) := x.scanStep f rm t w r
    (x, y :: ys)

/-- The inclusive prefix of a beat from a carry (R172). -/
def Ex.scan (x : Ex) (f : FpFmt) (rm : Rm) (c : Nat) (v : List Nat) : Ex × List Nat :=
  let (x, v) := [1, 2, 4, 8, 16, 32].foldl (fun (a : Ex × List Nat) t =>
    if t < v.length then a.1.scanStep f rm t a.2 (upTo v.length) else a) (x, v)
  x.each (lane2 rm f addV) (v.map fun y => (c, y))

/-- `vscan` (R172). -/
def execVscan (g : BGuard) (fmt : FFmt) (rm : Rm) (a b : Opnd) (s : State) : Out :=
  run (.vscan g fmt rm a b) (.b g) (fun x => x.beat (.vscan g fmt rm a b) (vOf fmt)
    (fun x n => x.scan (fmtOf fmt) rm (x.nat b) (x.lane n a))
    (fun x l => (x.putSw l).put b (BitVec.ofNat 64 (l.getLastD 0)))) s

/-- `vexp2` (R169). -/
def execVexp2 (g : BGuard) (fmt : FFmt) (rm : Rm) (a : Opnd) (s : State) : Out :=
  run (.vexp2 g fmt rm a) (.b g) (fun x => x.lanes1 (.vexp2 g fmt rm a) (vOf fmt) a (lane1 rm (fmtOf fmt) exp2V)) s

/-- `vrsq` (R169). -/
def execVrsq (g : BGuard) (fmt : FFmt) (rm : Rm) (a : Opnd) (s : State) : Out :=
  run (.vrsq g fmt rm a) (.b g) (fun x => x.lanes1 (.vrsq g fmt rm a) (vOf fmt) a (lane1 rm (fmtOf fmt) rsqV)) s

/-! ## Conversions between ports (R173) -/

/-- The conversion code of a port format (R42, R173). -/
def portCvt : Nat → Option CFmt
  | 1 => some .i32 | 2 => some .f32 | 3 => some .bf16 | 4 => some .f16 | 5 => some .e4m3 | 6 => some .e5m2
  | 11 => some .i16 | 12 => some .i8 | _ => none

/-- The floating-point format of a port format that quantisation reads or writes (R173). -/
def portFp : Nat → Option FpFmt
  | 2 => some fp32 | 3 => some Machine.bf16 | 4 => some fp16 | _ => none

/-- The block-scaled format of a port format (R173). -/
def portK : Nat → Option KFmt
  | 7 => some .k8 | 8 => some .k4 | 9 => some .k16 | _ => none

/-- One beat that takes its formats from its ports (R173). -/
def Ex.convert (x : Ex) (i : Instr) (a : Opnd) (f : Nat → Nat → Option (Ex → Nat → Ex × Nat)) : Ex :=
  let p := (vPort a).getD 0
  let src := (x.cx0.portFmt p).getD 0
  match f src ((x.cx0.portFmt 2).getD 0) with
  | none => x.fmtFault
  | some op =>
    let n := beatLen i x.cx0 (cvtLanes src)
    let (x, l) := x.each op (x.lane n a)
    (x.advanceAll n [p]).putSw l

/-- `vcvt` (R173). -/
def execVcvt (g : BGuard) (rm : Rm) (a : Opnd) (s : State) : Out :=
  run (.vcvt g rm a) (.b g) (fun x => x.convert (.vcvt g rm a) a fun p q =>
    match portCvt p, portCvt q with
    | some cf, some ct => some fun x v => x.rounded (x.mode rm) fun m r => cvtV cf ct 32 v m r
    | _, _ => none) s

/-- `vqnt` (R173). -/
def execVqnt (g : BGuard) (a b : Opnd) (s : State) : Out :=
  run (.vqnt g a b) (.b g) (fun x =>
    let sc := x.nat b
    x.convert (.vqnt g a b) a fun p q =>
      match portFp p, portK q with
      | some f, some k => some fun x v =>
          let (c, fl) := qntV k (f.read v) sc
          (x.flags fl, kCode k c)
      | _, _ => none) s

/-- `vdqnt` (R173). -/
def execVdqnt (g : BGuard) (rm : Rm) (a b : Opnd) (s : State) : Out :=
  run (.vdqnt g rm a b) (.b g) (fun x =>
    let sc := x.nat b
    x.convert (.vdqnt g rm a b) a fun p q =>
      match portK p, portFp q with
      | some k, some f => some fun x v => x.rounded (x.mode rm) fun m r => dqntV f m r k v sc
      | _, _ => none) s

end Sys2Proof.Machine
end

