-- ==== Sys2Proof/Machine/Engines.lean ====
section
/-! DEFINITION. Engine commands and jobs (R222 to R225, R285 to R304, R441, R442): issue, acceptance, footprints, the
probe pass, gathers and scatters, hods, collectives and completion. -/

namespace Sys2Proof.Machine

open Sys2Proof

/-! ## The instructions (R286, R301 to R304) -/

/-- The card address of a command (R286). -/
def Ex.cardAddr (x : Ex) (w : BitVec 2) (a : Opnd) : Ex × W64 :=
  if !x.isB then (x, x.get a)
  else
    let v := nth x.cx0.win w.toNat 0
    if v = 0 || v.getLsbD 63 then (x.raise (overrun 2 (w.setWidth 64)), 0) else (x, v + x.get a)

/-- Form a command and hold it in the round (R286, R302). -/
def Ex.command (x : Ex) (cls : JobCls) (w : BitVec 2) (d a : Opnd) : Ex :=
  let (x, card) := x.cardAddr w a
  if !x.ok then x
  else
    let c (n : BitVec 3) : Cmd := ⟨x.s.tick, n, cls, card, x.who, x.node, x.sp.dom, x.sp.asid, x.sys, x.sp.massif⟩
    match d with
    | .o n => x.pushOut n (.cmd (c n)) .a0
    | .e n => { x with sp := x.sp.modLive fun b => { b with cmds := b.cmds ++ [(n, c n)] } }
    | _ => x

/-- `hod` (R302). -/
def execHod (g : Guard) (w : BitVec 2) (d a : Opnd) (s : State) : Out := run (.hod g w d a) g (fun x => x.command .hod w d a) s

/-- `coll` (R302). -/
def execColl (g : Guard) (w : BitVec 2) (d a : Opnd) (s : State) : Out := run (.coll g w d a) g (fun x => x.command .coll w d a) s

/-- `isq` (R302). -/
def execIsq (g : Guard) (w : BitVec 2) (d a : Opnd) (s : State) : Out := run (.isq g w d a) g (fun x => x.command .isq w d a) s

/-- `probe` (R302). -/
def execProbe (g : Guard) (w : BitVec 2) (d a : Opnd) (s : State) : Out :=
  run (.probe g w d a) g (fun x => x.command .probe w d a) s

/-- `unpin` (R302). -/
def execUnpin (g : Guard) (w : BitVec 2) (d a : Opnd) (s : State) : Out :=
  run (.unpin g w d a) g (fun x => x.command .unpin w d a) s

/-- `jobwait` (R303). -/
def execJobwait (g : Guard) (w : BitVec 2) (d a : Opnd) (s : State) : Out :=
  run (.jobwait g w d a) g (fun x =>
    let (x, card) := x.cardAddr w a
    if !x.ok then x
    else if x.outstanding.contains card then x.stall
    else
      let (x, st) := x.loadVirt (card.toNat + 48) 8
      if !x.ok then x
      else
        let (x, v) := x.loadVirt st 4
        if x.ok then x.put d (BitVec.ofNat 64 v) else x) s

/-- `fencee` (R304): its order is that of the steps (log 3). -/
def execFencee (g : Guard) (ord : EOrd) (sc : Scope) (s : State) : Out := run (.fencee g ord sc) g (fun x => x) s

/-! ## Finding and changing jobs -/

/-- The job of a number. -/
def State.job? (s : State) (j : Nat) : Option Job := s.jobs.find? fun x => x.id == j

/-- Put a job back. -/
def State.setJob (s : State) (j : Job) : State := { s with jobs := updFirst (fun x => x.id == j.id) (fun _ => j) s.jobs }

/-- The translation unit of a job. -/
def Job.unit (j : Job) : CacheUnit :=
  match j.engine with
  | .ise m n => .ise m n
  | .hod m _ => .bedrock m
  | .coll => bedrock j.cmd.massif

/-- A job stops with a code, an element or row and a value (R293). -/
def Job.fail (j : Job) (code n : Nat) (v : W64) : Job := { j with code := code, errN := n, value := v, out := [] }

/-- What a job asks of a page (R270): it is a user agent unless its issuer is system software. -/
def Job.need (j : Job) (acc : AccK) : Need := ⟨acc, !j.cmd.sys, none⟩

/-- What a read of a job asks of its page. -/
def Job.needR (j : Job) : Need := j.need .read

/-- The code of a job whose walk ends in a fault; data lost has its own (R293, R409). -/
def TFault.jobCode (f : TFault) (n : Nat) : Nat := if f.kind == .lost then 9 else n

/-- The pager has still to do with a fault of a job (R274). -/
def State.paged (s : State) (j : Job) : Bool := s.pagerToks.any fun t => t.who == .job j.id

/-- A not-present fault of a job goes to the pager, once (R274). -/
def State.pageJob (s : State) (j : Job) (va : Nat) (acc : AccK) (f : TFault) : State :=
  if s.paged j then s
  else { s with pagerQ := s.pagerQ ++ [⟨.job j.id, ⟨j.cmd.asid, va, acc.code, f.level, f.addr⟩, j.cmd.massif, none⟩] }

/-! ## Ranges and regions (R288, R289) -/

/-- The first byte of `[a, a + n)` that no region with the flag holds; `fuel` bounds the regions crossed (R289). -/
def uncovered (l : List Region) (w : Bool) : Nat → Nat → Nat → Option Nat
  | _, _, 0 => none
  | 0, a, _ + 1 => some a
  | fuel + 1, a, n + 1 =>
    match l.find? fun r => (if w then r.w else r.r) && decide (r.base ≤ a) && decide (a < r.base + r.len) with
    | none => some a
    | some r => uncovered l w fuel (r.base + r.len) (n + 1 - (r.base + r.len - a))

/-- The first byte of a range outside the footprint. -/
def Job.outside (j : Job) (w : Bool) (a n : Nat) : Option Nat := uncovered j.foot w (j.foot.length + 1) a n

/-- Footprints of two jobs conflict: a W region of either overlaps any region of the other (R290). -/
def conflict (a b : List Region) : Bool :=
  a.any fun x => b.any fun y => (x.w || y.w) && overlap x.base x.len y.base y.len

/-- The regions of a footprint list (R288); none where it holds a reserved value. -/
def regionsOf (l : List W64) : Option (List Region) :=
  let w (i : Nat) : Nat := (nth l i 0).toNat
  let n := w 0 % 32 + 1
  let rs := (upTo n).map fun j =>
    (⟨bitsOf (w (2 + 2 * j)) 63 1 == 1, bitsOf (w (2 + 2 * j)) 62 1 == 1, bitsOf (w (2 + 2 * j)) 0 57, w (3 + 2 * j)⟩ : Region)
  if w 0 < 32 && w 1 == 0 && (upTo n).all (fun j => bitsOf (w (2 + 2 * j)) 57 5 == 0) &&
      rs.all fun r => (r.w || r.r) && decide (1 ≤ r.len) && decide (r.len < 2 ^ 57) && decide (r.base + r.len ≤ 2 ^ 57) then some rs
  else none

/-! ## Cards -/

/-- A data port number (R285). -/
def isData (p : Nat) : Bool := decide (0x20 ≤ p) && decide (p ≤ 0xEF)

/-- An ISE card holds no reserved value and fits its command (R222). -/
def Job.iseOk (j : Job) : Bool :=
  let fits := match j.cmd.cls with
    | .isq => j.kind == 1 || j.kind == 2
    | .probe => j.kind == 3
    | .unpin => j.kind == 4
    | .hod | .coll => false
  if j.kind = 4 then fits && j.w 0 == 4 && [1, 2, 3, 4, 7].all fun i => j.w i == 0
  else
    let e := bitsOf (j.w 0) 12 4
    fits && decide (1 ≤ j.count) && bitsOf (j.w 0) 16 16 == 0 && bitsOf (j.w 0) 4 4 == 0 && decide (bitsOf (j.w 0) 10 2 ≤ 1) &&
      bitsOf (j.w 0) 8 2 != 3 && decide (2 ≤ e) && decide (e ≤ 8) && bitsOf (j.w 3) 48 16 == 0 && decide (j.port ≤ 255) &&
      (j.two || j.w 4 == 0)

/-- A signed byte stride of a hod card: the high or the low half of a word. -/
def Job.stride (j : Job) (w : Nat) (hi : Bool) : Int := signed 32 (if hi then j.w w / 2 ^ 32 else j.w w)

/-- How a hod converts one element: its result in the destination format and its flags (R294). -/
def hodConv (sf df rm scale : Nat) : Option (Nat → Res) :=
  if sf = df then (if sf ≤ 12 then some fun v => .plain v else none)
  else
    match portCvt sf, portCvt df with
    | some cf, some ct => some fun v => cvtV cf ct 32 v rm 0
    | _, _ =>
      match portFp sf, portK df, portK sf, portFp df with
      | some f, some k, _, _ => some fun v => let (q, fl) := qntV k (f.read v) scale; ⟨kCode k q, fl, false⟩
      | _, _, some k, some f => some fun v => dqntV f rm 0 k v scale
      | _, _, _, _ => none

/-- The conversion of a hod card. -/
def Job.conv (j : Job) : Option (Nat → Res) := hodConv j.sfmt j.dfmt (bitsOf (j.w 2) 60 3) (bitsOf (j.w 0) 0 8)

/-- A hod card holds no reserved value (R294); beside the port of dst the bits are zero as beside that of src (DESIGN CHOICE, log
157). -/
def Job.hodOk (j : Job) : Bool :=
  let (c0, c1, c2) := j.counts
  decide (1 ≤ c0) && decide (1 ≤ c1) && decide (1 ≤ c2) && bitsOf (j.w 1) 57 5 == 0 && bitsOf (j.w 2) 57 3 == 0 &&
    decide (bitsOf (j.w 2) 60 3 ≤ 3) && j.conv.isSome && !(j.sp && j.dp) &&
    (!j.fl || (!j.sp && j.sfmt == 0 && j.dfmt == 0 && decide (j.src < 2 ^ 32))) &&
    (if j.sp then isData j.src else j.fl || j.src % 4 == 0) && (if j.dp then isData j.dst else j.dst % 4 == 0) &&
    [j.stride 3 true, j.stride 3 false, j.stride 4 true, j.stride 4 false].all fun x => x % 4 == 0

/-- A `coll` card holds no reserved value (R296); the op of an all-gather is 0 (DESIGN CHOICE, log 158). -/
def Job.collOk (j : Job) (pkg : BitVec 5) : Bool :=
  let op := bitsOf (j.w 0) 12 4
  let fmt := bitsOf (j.w 0) 8 4
  let mask := j.w 4
  decide (1 ≤ j.count) && bitsOf (j.w 0) 16 16 == 0 && bitsOf (j.w 0) 4 4 == 0 && (j.kind == 9 || j.kind == 10) &&
    (if j.kind = 9 then decide (op ≤ 2) else op == 0) && (fmt == 1 || fmt == 2 || (fmt == 10 && op == 0)) &&
    bitsOf (j.w 3) 0 32 == 0 && decide (mask < 2 ^ 32) && j.w 5 == 0 && bitsOf mask pkg.toNat 1 == 1 &&
    decide (2 ≤ onesCount (BitVec.ofNat 32 mask) 32)

/-- The card is accepted (R288). -/
def Job.cardOk (j : Job) (pkg : BitVec 5) : Bool :=
  j.w 6 % 16 == 0 &&
  match j.cmd.cls with
  | .hod => j.hodOk
  | .coll => j.collOk pkg
  | .isq | .probe | .unpin => j.iseOk

/-- The pin-set handle a card names. -/
def Job.pinHandle (j : Job) : Nat := match j.cmd.cls with | .coll => 0 | _ => j.w 5

/-! ## Rows of a hod -/

/-- Words of a row in a format. -/
def rowWords (f n : Nat) : Nat := (n + perTok f - 1) / perTok f

/-- The number of rows of a hod (R295). -/
def Job.rows (j : Job) : Nat := j.counts.2.1 * j.counts.2.2

/-- The source and destination addresses of row `n` (R295). -/
def Job.rowAt (j : Job) (n : Nat) : Nat × Nat :=
  let i1 : Int := ((n % j.counts.2.1 : Nat) : Int)
  let i2 : Int := ((n / j.counts.2.1 : Nat) : Int)
  let at_ (a : Nat) (s1 s2 : Int) : Nat := ((a : Int) + i1 * s1 + i2 * s2).emod (2 ^ 64) |>.toNat
  (at_ j.src (j.stride 3 true) (j.stride 3 false), at_ j.dst (j.stride 4 true) (j.stride 4 false))

/-- Bytes a row reads and writes in memory. -/
def Job.rowBytes (j : Job) : Nat × Nat :=
  (if j.sp || j.fl then 0 else 4 * rowWords j.sfmt j.counts.1, if j.dp then 0 else 4 * rowWords j.dfmt j.counts.1)

/-- The first byte of a hod outside its footprint, row by row from `n` on, reads before writes (R289). -/
def Job.hodOutside (j : Job) : Nat → Nat → Option Nat
  | 0, _ => none
  | k + 1, n =>
    let (a, b) := j.rowAt n
    match j.outside false a j.rowBytes.1, j.outside true b j.rowBytes.2 with
    | some x, _ => some x
    | none, some x => some x
    | none, none => j.hodOutside k (n + 1)

/-- The number of participants of a collective, and the rank of a package (R296). -/
def rankOf (mask pkg : Nat) : Nat := onesCount (BitVec.ofNat 32 (mask % 2 ^ pkg)) 32

/-- The first byte of a job outside its footprint that acceptance can tell (R289). -/
def Job.violation (j : Job) : Option Nat :=
  match j.cmd.cls with
  | .hod => j.hodOutside j.rows 0
  | .coll =>
    let n := 4 * j.count
    match j.outside false (j.w 1) n with
    | some x => some x
    | none => j.outside true (j.w 2) (if j.kind = 9 then n else n * onesCount (BitVec.ofNat 32 (j.w 4)) 32)
  | .isq | .probe | .unpin => none

/-! ## Acceptance (R288) -/

/-- A job as its command gives it. -/
def Job.new (e : EnginePort) (c : Cmd) : Job where
  id := c.no
  engine := e
  cmd := c
  card := []
  foot := []
  st := .accepted
  passed := false
  n := 0
  code := 0
  errN := 0
  value := 0
  flags := 0
  toks := []
  out := []
  idx := []
  formed := false
  drop := false

/-- The pieces of a range by the 4 KiB pages that they lie on; `fuel` bounds them. -/
def piecesFrom : Nat → Nat → Nat → List (Nat × Nat)
  | 0, _, _ => []
  | k + 1, va, n =>
    if n = 0 then []
    else
      let m := min n (4096 - va % 4096)
      (va, m) :: piecesFrom k (va + m) (n - m)

/-- The pieces of `n` bytes from `va` on, one for each page (R265). -/
def piecesOf (va n : Nat) : List (Nat × Nat) := piecesFrom (n / 4096 + 2) va n

/-- The bytes of pieces of physical memory. -/
def State.pieceBytes (s : State) (l : List (Nat × Nat)) : List Byte := l.flatMap fun p => s.physRead p.1 p.2

/-- Write bytes for a job to pieces of physical memory, in their order. -/
def writePieces (s : State) : List (Nat × Nat) → List Byte → State
  | [], _ => s
  | (pa, n) :: l, b => writePieces (s.physWrite .fabric pa (b.take n)) l (b.drop n)

/-- `n` words cut from bytes, 4 at a time. -/
def words32 : Nat → List Byte → List W32
  | 0, _ => []
  | n + 1, l => BitVec.ofNat 32 (ofBytes (l.take 4)) :: words32 n (l.drop 4)

/-- The bytes of words of 32 bits. -/
def bytes32 (l : List W32) : List Byte := l.flatMap fun w => toBytes 4 w.toNat

/-- Where the pieces of a range lie, each read by a plain read of the job's that waits for a migration of its page (R280), or
the fault of the first that faults. -/
def Job.readPieces (j : Job) : List (Nat × Nat) → State → State × Except DevFault (List (Nat × Nat))
  | [], s => (s, .ok [])
  | (va, n) :: l, s =>
    match translate (s.holdFor j.cmd.asid va) j.unit j.cmd.asid va j.needR with
    | (s, .error f) => (s, .error ⟨va, f⟩)
    | (s, .ok (pa, _)) =>
      match j.readPieces l s with
      | (s, .error e) => (s, .error e)
      | (s, .ok r) => (s, .ok ((pa, n) :: r))

/-- Read `n` words of 8 bytes of a card or list for a job (R288). -/
def Job.read (j : Job) (s : State) (va n : Nat) : State × Except DevFault (List W64) :=
  match j.readPieces (piecesOf va (8 * n)) s with
  | (s, .error e) => (s, .error e)
  | (s, .ok l) => (s, .ok (wordsOf n (s.pieceBytes l)))

/-- Words of 8 bytes that a job reads hold one that stays bad (R409). -/
def Job.spoilt (j : Job) (s : State) (va n : Nat) : Bool :=
  match j.readPieces (piecesOf va (8 * n)) s with
  | (s, .ok l) => s.spoilt l
  | (_, .error _) => false

/-- Take a command off its port. -/
def State.takeCmd (s : State) (no : Nat) : State := { s with cmdq := s.cmdq.filter fun c => c.2.no != no }

/-- A job enters its domain's stream, and its command leaves its port (R290). -/
def State.enterJob (s : State) (j : Job) : State := { (s.takeCmd j.id) with jobs := s.jobs ++ [j] }

/-- A read of acceptance faulted: not present waits for the pager with the command still at its port, and any other
fault completes the job with code 8 (R274, R288). -/
def acceptFault (s : State) (j : Job) (e : DevFault) : State :=
  if e.f.kind == .notPresent then s.pageJob j e.va .read e.f else s.enterJob (j.fail (e.f.jobCode 8) 0 (BitVec.ofNat 64 e.va))

/-- The checks of a job whose card and list have been read (R288, R289, R294): the set a card names is one that a probe
kept, never a job's own (R224); an `unpin` with pins = 0 names none and completes with code 0 (DESIGN CHOICE, log 147). The
value of code 5 is the card address (R293 before R225: DEDUCED, log 155). -/
def Job.checked (j : Job) (s : State) (list : Option (List Region)) : Job :=
  if !j.cardOk s.pkg then j.fail 5 0 j.cmd.card
  else
    match list with
    | none => j.fail 5 0 j.cmd.card
    | some l =>
      let j := { j with foot := l }
      if j.pinHandle != 0 && !(s.pins.any fun p => p.h == j.pinHandle && p.job.isNone && !p.gone) then j.fail 6 0 0
      else
        match j.violation with
        | some a => j.fail 7 0 (BitVec.ofNat 64 a)
        | none => j

/-- The footprint list of a job whose card has been read, and the checks of both (R288); a misaligned card address is code 5
whatever its list (DESIGN CHOICE, log 156). -/
def acceptList (s : State) (j : Job) : State :=
  let fp := j.w 7
  if j.cmd.card.toNat % 64 != 0 then s.enterJob (j.fail 5 0 j.cmd.card)
  else if fp = 0 && j.cmd.cls == .unpin then s.enterJob (j.checked s (some []))
  else if fp = 0 || fp % 16 != 0 then s.enterJob (j.fail 5 0 j.cmd.card)
  else
    match j.read s fp 1 with
    | (s, .error e) => acceptFault s j e
    | (s, .ok l) =>
      let n := 2 + 2 * ((nth l 0 0).toNat % 32 + 1)
      match j.read s fp n with
      | (s, .error e) => acceptFault s j e
      | (s, .ok l) =>
        if j.spoilt s fp n then s.enterJob (j.fail 9 0 (BitVec.ofNat 64 fp))
        else s.enterJob (j.checked s (if j.cmd.cls == .unpin then none else regionsOf l))

/-- An engine accepts a command: it reads the card and the list before it checks them (R288). -/
def acceptJob (s : State) (j : Job) : State :=
  match j.read s j.cmd.card.toNat 8 with
  | (s, .error e) => acceptFault s j e
  | (s, .ok card) =>
    if j.spoilt s j.cmd.card.toNat 8 then s.enterJob (j.fail 9 0 j.cmd.card) else acceptList s { j with card := card }

/-- The engine of a command counts against the budget of ISE jobs. -/
def isIse : EnginePort → Bool
  | .ise .. => true
  | .hod .. | .coll => false

/-- The budgets of a domain and of every domain above it have room for one more job of an engine (R286, R380). -/
def State.jobFits (s : State) (e : EnginePort) (d : Nat) : Bool :=
  (s.chain d).all fun a =>
    match s.dom? a with
    | none => false
    | some y => decide (s.jobsUsed a (isIse e) < if isIse e then y.iseb else y.hodb)

/-- The command that an engine's port accepts next: the oldest whose budgets have room and that no earlier command of its
domain's stream waits before (R286, R290). -/
def State.nextCmd (s : State) (e : EnginePort) : Option Cmd :=
  (s.cmdq.find? fun c => c.1 == e && s.jobFits e c.2.dom &&
    s.cmdq.all fun k => k.2.dom != c.2.dom || decide (c.2.no ≤ k.2.no)).map (·.2)

/-- `JOB_ACCEPT` (R286, R288). -/
def execJobAccept (e : EnginePort) (s : State) : Out :=
  .next <| match s.nextCmd e with
    | some c => acceptJob s (Job.new e c)
    | none => s

/-- An earlier job of a domain's stream keeps a job back (R290). -/
def Job.holdsBack (k j : Job) : Bool := k.cmd.dom == j.cmd.dom && decide (k.id < j.id) && conflict k.foot j.foot

/-- Some earlier job of the domain's stream keeps a job back (R290). -/
def State.jobHeld (s : State) (j : Job) : Bool := s.jobs.any fun k => k.holdsBack j

/-- `JOB_START` (R290). -/
def execJobStart (n : Nat) (s : State) : Out :=
  .next <| match s.job? n with
    | some j => if j.st == .accepted && j.code == 0 && !s.jobHeld j then s.setJob { j with st := .running } else s
    | none => s

/-! ## Pages of a job -/

/-- The pin sets a job uses: the one its card names, and its own. -/
def State.jobPins (s : State) (j : Job) : List PinSet :=
  s.pins.filter fun p => (j.pinHandle != 0 && p.job.isNone && p.h == j.pinHandle) || p.job == some j.id

/-- Where a pinned page puts an address (R224). -/
def State.pinned (s : State) (j : Job) (va : Nat) : Option Nat :=
  (s.jobPins j).findSome? fun p => p.pages.findSome? fun g =>
    if g.1 == j.cmd.asid && g.2.1 ≤ va && va < g.2.1 + g.2.2.1 then some (g.2.2.2 + (va - g.2.1)) else none

/-- What the pages of an access led to: the physical pieces of its bytes, or the code and the address of what went wrong
(R293). -/
inductive Pages where
  | ok (l : List (Nat × Nat))
  | wait
  | bad (code va : Nat)
  deriving DecidableEq, Repr

/-- A piece and those after it: a read of one that holds a bad word goes no further (R409). -/
def Pages.cons (s : State) (nd : Need) (va pa n : Nat) : Pages → Pages
  | .ok r => if nd.acc != .write && s.spoilt [(pa, n)] then .bad 9 va else .ok ((pa, n) :: r)
  | .wait => .wait
  | .bad c a => .bad c a

/-- The physical pieces of a job's bytes: those of pinned pages without a walk (R295), and the others once no migration
holds them (R280). -/
def Job.places (j : Job) (nd : Need) : List (Nat × Nat) → State → State × Pages
  | [], s => (s, .ok [])
  | (va, n) :: l, s =>
    match s.pinned j va with
    | some pa =>
      let (s, r) := j.places nd l s
      (s, r.cons s nd va pa n)
    | none =>
      if s.migrHolds j.cmd.asid va then (s, .wait)
      else match translate s j.unit j.cmd.asid va nd with
      | (s, .error f) => if f.kind == .notPresent then (s.pageJob j va nd.acc f, .wait) else (s, .bad (f.jobCode 8) va)
      | (s, .ok (pa, _)) =>
        let (s, r) := j.places nd l s
        (s, r.cons s nd va pa n)

/-- The element or row that a job has reached where an access at an address goes wrong (R293): of a collective, the element
at the address; in a probe pass, the element that the pass has come to. -/
def Job.reached (j : Job) (va : Nat) : Nat :=
  match j.cmd.cls with
  | .hod | .unpin => j.n
  | .coll =>
    if j.w 1 ≤ va ∧ va < j.w 1 + 4 * j.count then (va - j.w 1) / 4 else (va - j.w 2) / 4 % j.count
  | .isq | .probe =>
    if j.passed then j.n else j.errN

/-! ## Data ports of a job (R285) -/

/-- The flits of a job go on to an inbound port of its spur as far as the port's buffer has room; where the spur does not
declare the port, nothing takes them (R285, R318). -/
def State.jobFlush (s : State) (j : Job) (p : Nat) : State × Job :=
  let h := AgentId.handle j.cmd.who
  let q := BitVec.ofNat 8 p
  let declared := match s.spur? h with
    | none => false
    | some sp => sp.img.ports.any fun d => d.isIn && d.p == q
  if !declared then (s, { j with out := [] })
  else
    let w : Wire := ⟨.job h q, .spur h q, []⟩
    let s := if s.wires.any fun x => x.src == w.src then s else { s with wires := s.wires ++ [w] }
    let used := match s.wires.find? fun x => x.src == w.src with | some x => x.buf.length | none => 0
    let m := Config.dataPort - used
    ({ s with wires := updFirst (fun x => x.src == w.src) (fun x => { x with buf := x.buf ++ j.out.take m }) s.wires },
      { j with out := j.out.drop m })

/-- A job sends what it holds for a port; the row or element is over when all of it has gone. -/
def State.jobSends (s : State) (j : Job) (p : Nat) : State :=
  let (s, j) := s.jobFlush j p
  s.setJob (if j.out.isEmpty then { j with n := j.n + 1 } else j)

/-- The payloads of the first `n` data tokens and what stands after them; what else stands before those is discarded, not
counted: the rule of a hod (R295), taken for a scatter and for indices that come as tokens too (DESIGN CHOICE, log 146). -/
def takePays : Nat → List Flit → List W32 × List Flit
  | 0, l => ([], l)
  | _ + 1, [] => ([], [])
  | n + 1, .tok t :: l =>
    if t.stop then takePays (n + 1) l
    else
      let r := takePays n l
      (t.pay :: r.1, r.2)
  | n + 1, _ :: l => takePays (n + 1) l

/-- Take tokens that wait for a job at an outbound port of its spur, until it holds `n` (R285, R295). -/
def State.jobTake (s : State) (j : Job) (p n : Nat) : State × Job :=
  let dst : End := .job (AgentId.handle j.cmd.who) (BitVec.ofNat 8 p)
  match s.wires.find? fun w => w.dst == dst with
  | none => (s, j)
  | some w =>
    let r := takePays (n - j.toks.length) w.buf
    ({ s with wires := updFirst (fun w => w.dst == dst) (fun w => { w with buf := r.2 }) s.wires }, { j with toks := j.toks ++ r.1 })

/-- A data token as an engine sends it, with tag 0, since no bank's firing sends it (DESIGN CHOICE, log 143). -/
def dataTok (v : W32) : Flit := .tok ⟨false, 0, v⟩

/-- A stop token as an engine sends it. -/
def stopTok (l : Nat) : Flit := .tok ⟨true, 0, BitVec.ofNat 32 l⟩

/-! ## Hods (R295) -/

/-- The words a row becomes, and its flags. -/
def Job.convert (j : Job) (ws : List W32) : List W32 × BitVec 8 :=
  if j.sfmt = j.dfmt then (ws, 0)
  else
    match j.conv with
    | none => (ws, 0)
    | some f =>
      let rs := (upTo j.counts.1).map fun e => f (elAt j.sfmt (nth ws (e / perTok j.sfmt) 0).toNat (e % perTok j.sfmt))
      let k := perTok j.dfmt
      ((upTo (rowWords j.dfmt j.counts.1)).map fun i => BitVec.ofNat 32 (packEls j.dfmt (((rs.drop (k * i)).take k).map (·.code))),
        rs.foldl (fun z r => z ||| r.fl) 0)

/-- A row's words leave for memory, or for the port with the stop token after the last row (R295). -/
def Job.rowOut (j : Job) (s : State) (l : List (Nat × Nat)) (ws : List W32) : State :=
  if j.dp then
    let last := if j.n + 1 == j.rows then [stopTok 0] else []
    s.jobSends { j with out := ws.map dataTok ++ last } j.dst
  else (writePieces s l (bytes32 ws)).setJob { j with n := j.n + 1 }

/-- One row: its pages first, then its reads and its writes; tokens of a row that are still to be sent go first. -/
def hodStep (s : State) (j : Job) : State :=
  let (a, b) := j.rowAt j.n
  if !j.out.isEmpty then s.jobSends j j.dst
  else
    match j.places j.needR (piecesOf a j.rowBytes.1) s with
    | (s, .wait) => s
    | (s, .bad c va) => s.setJob (j.fail c j.n (BitVec.ofNat 64 va))
    | (s, .ok ra) =>
      match j.places (j.need .write) (piecesOf b j.rowBytes.2) s with
      | (s, .wait) => s
      | (s, .bad c va) => s.setJob (j.fail c j.n (BitVec.ofNat 64 va))
      | (s, .ok wa) =>
        let need := rowWords j.sfmt j.counts.1
        let (s, j) := if j.sp then s.jobTake j j.src need else (s, j)
        if j.sp && decide (j.toks.length < need) then s.setJob j
        else
          let ws := if j.fl then List.replicate j.counts.1 (BitVec.ofNat 32 j.src)
            else if j.sp then j.toks else words32 need (s.pieceBytes ra)
          let (os, fl) := j.convert ws
          Job.rowOut { j with flags := j.flags ||| fl, toks := [] } s wa os

/-- `HOD_ROW` (R295); a job waits while the pager has still to do with a fault of it (R274). -/
def execHodRow (n : Nat) (s : State) : Out :=
  .next <| match s.job? n with
    | some j => if j.st == .running && j.cmd.cls == .hod && j.code == 0 && decide (j.n < j.rows) && !s.paged j then hodStep s j else s
    | none => s

/-! ## ISE jobs (R223, R224) -/

/-- Read `n` bytes for a job at an address, byte by byte, in a footprint's R regions. -/
inductive GotVal where
  | ok (v : Nat)
  | wait
  | bad (code va : Nat)
  | out (va : Nat)
  deriving DecidableEq, Repr

/-- Read an unsigned value of `n` bytes for a job (R223). -/
def Job.readVal (j : Job) (va n : Nat) (s : State) : State × GotVal :=
  match j.outside false va n with
  | some a => (s, .out a)
  | none =>
    let rec go : Nat → Nat → State → State × GotVal
      | 0, _, s => (s, .ok 0)
      | k + 1, a, s =>
        if s.migrHolds j.cmd.asid a then (s, .wait)
        else match translate s j.unit j.cmd.asid a j.needR with
        | (s, .error f) => if f.kind == .notPresent then (s.pageJob j a .read f, .wait) else (s, .bad (f.jobCode 2) a)
        | (s, .ok (pa, _)) =>
          if s.spoilt [(pa, 1)] then (s, .bad 9 a)
          else
          match go k (a + 1) s with
          | (s, .ok v) => (s, .ok ((s.physByte pa).toNat + 256 * v))
          | r => r
    go n va s

/-- The indices that tokens carry, lowest word first (R222, log 12). -/
def tokIdx (iw : Nat) : List W32 → List W64
  | [] => []
  | [a] => if iw = 8 then [] else [BitVec.ofNat 64 (a.toNat % 256 ^ iw)]
  | a :: b :: r =>
    if iw = 8 then BitVec.ofNat 64 (a.toNat + 2 ^ 32 * b.toNat) :: tokIdx iw r
    else BitVec.ofNat 64 (a.toNat % 256 ^ iw) :: tokIdx iw (b :: r)

/-- Tokens that carry one index. -/
def Job.idxToks (j : Job) : Nat := if j.iw = 8 then 2 else 1

/-- Where an element lies, or why it cannot be told (R223). -/
inductive Place2 where
  | at_ (va : Nat)
  | code (c : Nat) (va : Nat)
  | wait
  deriving DecidableEq, Repr

/-- The address of element `n` of an ISE job: its index from the list or from the tokens kept (R223). An index at or above
bound gives the address it would have led to (R225; DESIGN CHOICE, log 93). -/
def Job.element (j : Job) (n : Nat) (s : State) : State × Place2 :=
  let (s, i) := if j.w 1 = 0 then (s, GotVal.ok (nth j.idx n 0).toNat) else j.readVal ((j.w 1 + j.iw * n) % 2 ^ 64) j.iw s
  match i with
  | .wait => (s, .wait)
  | .bad c va => (s, .code c va)
  | .out va => (s, .code 7 va)
  | .ok i =>
    let va := (j.w 2 + i * (if j.two then j.iw else j.esz)) % 2 ^ 64
    if j.bound ≤ i then (s, .code 1 va)
    else if !j.two then (s, .at_ va)
    else
      match j.readVal va j.iw s with
      | (s, .wait) => (s, .wait)
      | (s, .bad c va) => (s, .code c va)
      | (s, .out va) => (s, .code 7 va)
      | (s, .ok k) =>
        let va := (j.w 4 + k * j.esz) % 2 ^ 64
        (s, if j.bound ≤ k then .code 1 va else .at_ va)

/-- What the probe pass asks of the pages of an element (R224): a gather reads, a scatter writes, and a probe asks what
the footprint's regions declare (log 13). -/
def Job.elemNeed (j : Job) (va : Nat) : Need :=
  let inW := (j.outside true va j.esz).isNone
  let inR := (j.outside false va j.esz).isNone
  match j.kind with
  | 1 => j.needR
  | 2 => j.need .write
  | _ => if inW && inR then j.need .rw else if inW then j.need .write else j.needR

/-- The first byte of an element outside the footprint (R289). -/
def Job.elemOut (j : Job) (va : Nat) : Option Nat :=
  match j.kind with
  | 1 => j.outside false va j.esz
  | 2 => j.outside true va j.esz
  | _ => if (j.outside true va j.esz).isNone then none else j.outside false va j.esz

/-- Pages of a pass so far: the state, and the pages it has pinned. -/
structure Pass where
  s : State
  pages : List (Nat × Nat × Nat × Nat)
  deriving DecidableEq, Repr

/-- How a pass over one element ended. -/
inductive PassRes where
  | ok
  | wait
  | fail (code : Nat) (v : Nat)
  deriving DecidableEq, Repr

/-- An address is already pinned by the set the card names. -/
def namedPin (j : Job) (s : State) (va : Nat) : Bool :=
  j.pinHandle != 0 && (s.pins.filter fun q => q.job.isNone && q.h == j.pinHandle).any fun q => q.pages.any fun g =>
    g.1 == j.cmd.asid && decide (g.2.1 ≤ va) && decide (va < g.2.1 + g.2.2.1)

/-- Pin the pages of the pieces of an element (R224). -/
def pinBytes (j : Job) (nd : Need) : List (Nat × Nat) → Pass → Pass × PassRes
  | [], p => (p, .ok)
  | (va, _) :: l, p =>
    if namedPin j p.s va || p.pages.any (fun g => g.2.1 ≤ va && va < g.2.1 + g.2.2.1) then pinBytes j nd l p
    else if p.s.moving j.cmd.asid va then (p, .wait)
    else
      match translate p.s j.unit j.cmd.asid va nd with
      | (s, .error f) =>
        if f.kind == .notPresent then (⟨s.pageJob j va nd.acc f, p.pages⟩, .wait) else (⟨s, p.pages⟩, .fail (f.jobCode 2) va)
      | (s, .ok (pa, _)) =>
        let size := match s.cachedLeaf j.unit j.cmd.asid va with
          | some c => leafSize c.level c.ent
          | none => 4096
        if p.pages.length ≥ Config.pinLimit then (⟨s, p.pages⟩, .fail 3 0)
        else pinBytes j nd l ⟨s, p.pages ++ [(j.cmd.asid, va / size * size, size, pa - va % size)]⟩

/-- The pass over elements `n` and on (R224). -/
def probeFrom (j : Job) : Nat → Nat → Pass → Pass × PassRes × Nat
  | 0, n, p => (p, .ok, n)
  | k + 1, n, p =>
    match j.element n p.s with
    | (s, .wait) => (⟨s, p.pages⟩, .wait, n)
    | (s, .code c va) => (⟨s, p.pages⟩, .fail c va, n)
    | (s, .at_ va) =>
      match j.elemOut va with
      | some a => (⟨s, p.pages⟩, .fail 7 a, n)
      | none =>
        match pinBytes j (j.elemNeed va) (piecesOf va j.esz) ⟨s, p.pages⟩ with
        | (p, .ok) => probeFrom j k (n + 1) p
        | (p, r) => (p, r, n)

/-- Take a handle for a new pin set: a free value, moved on past 0 and the live ones (R224, log 4). -/
def pinHandleFrom (l : List Nat) : Nat → Nat → Nat
  | 0, v => v
  | n + 1, v => if v = 0 || l.contains v then pinHandleFrom l n ((v + 1) % 2 ^ 64) else v

/-- A new pin set of a spur's (R224). -/
def State.newPins (s : State) (job : Option Nat) (who : Handle) (pages : List (Nat × Nat × Nat × Nat)) : State × Nat :=
  let l := s.pins.map (·.h)
  let h := pinHandleFrom l (l.length + 1) (Config.freePin s.nextPin).toNat
  ({ s with pins := s.pins ++ [⟨h, job, who, false, pages⟩], nextPin := s.nextPin + 1 }, h)

/-- The pages that a job has pinned itself (R224). -/
def State.ownPins (s : State) (j : Job) : List (Nat × Nat × Nat × Nat) :=
  match s.pins.find? fun p => p.job == some j.id with
  | some p => p.pages
  | none => []

/-- A job's own pin set holds these pages (R224). -/
def State.keepPins (s : State) (j : Job) (pages : List (Nat × Nat × Nat × Nat)) : State :=
  if s.pins.any fun p => p.job == some j.id then
    { s with pins := updFirst (fun p => p.job == some j.id) (fun p => { p with pages := pages }) s.pins }
  else (s.newPins (some j.id) (AgentId.handle j.cmd.who) pages).1

/-- The pins that a job took itself are released (R224). -/
def State.dropPins (s : State) (j : Job) : State := { s with pins := s.pins.filter fun p => !(p.job == some j.id) }

/-- A `probe` keeps its pins as a new set: the state, and the set's handle (R224). -/
def State.giveSet (s : State) (j : Job) : State × Nat :=
  ({ s with pins := updFirst (fun p => p.job == some j.id) (fun p => { p with job := none }) s.pins },
    match s.pins.find? fun p => p.job == some j.id with | some p => p.h | none => 0)

/-- Keep the index tokens that have arrived (R222). -/
def State.takeIdx (s : State) (j : Job) : State × Job :=
  if j.w 1 != 0 then (s, j)
  else
    let n := (j.count - j.idx.length) * j.idxToks
    let (s, j) := s.jobTake j j.port n
    let m := j.toks.length / j.idxToks * j.idxToks
    (s, { j with idx := j.idx ++ tokIdx j.iw (j.toks.take m), toks := j.toks.drop m })

/-- `ISE_PROBE_PASS` (R224): a pass that waits keeps the pins it has taken, and goes on from the element it has reached once
the pager has done with its fault; one that fails releases them. -/
def execIseProbePass (n : Nat) (s : State) : Out :=
  .next <| match s.job? n with
    | none => s
    | some j =>
      if !(j.st == .running && j.code == 0 && !j.passed && (j.cmd.cls == .isq || j.cmd.cls == .probe)) || s.paged j then s
      else
        let (s, j) := s.takeIdx j
        if j.w 1 = 0 && decide (j.idx.length < j.count) then s.setJob j
        else
          match probeFrom j (j.count - j.errN) j.errN ⟨s, s.ownPins j⟩ with
          | (p, .wait, m) => (p.s.keepPins j p.pages).setJob { j with errN := m }
          | (p, .fail c v, m) => (p.s.dropPins j).setJob
              (j.fail c (if c = 7 then 0 else m) (if c = 2 || c = 7 || c = 9 then BitVec.ofNat 64 v else 0))
          | (p, .ok, _) =>
            let s := p.s.keepPins j p.pages
            if j.cmd.cls == .probe then
              let (s, h) := s.giveSet j
              s.setJob { j with passed := true, errN := 0, value := BitVec.ofNat 64 h }
            else s.setJob { j with passed := true, errN := 0, value := 0 }

/-- The physical pieces of an element on pinned pages, or the first address on a page that is not pinned (R225). -/
def pinnedPieces (s : State) (j : Job) : List (Nat × Nat) → Except Nat (List (Nat × Nat))
  | [] => .ok []
  | (va, n) :: l =>
    match s.pinned j va with
    | none => .error va
    | some pa => (pinnedPieces s j l).map ((pa, n) :: ·)

/-- The job stops at an element whose page is not pinned; a gather sends a stop token of level 15 (R225). -/
def iseStop (s : State) (j : Job) (va : Nat) : State :=
  let j := j.fail 4 j.n (BitVec.ofNat 64 va)
  if j.kind = 1 then s.jobSends { j with out := [stopTok 15] } j.port else s.setJob j

/-- Move one element of a gather or scatter (R223). -/
def iseMove (s : State) (j : Job) (va : Nat) : State :=
  let k := j.esz / 4
  match pinnedPieces s j (piecesOf va j.esz) with
  | .error a => iseStop s j a
  | .ok l =>
    if j.kind = 1 then
      let last := if j.n + 1 == j.count then [stopTok 0] else []
      if s.spoilt l then s.setJob (j.fail 9 j.n (BitVec.ofNat 64 va))
      else s.jobSends { j with out := (words32 k (s.pieceBytes l)).map dataTok ++ last } j.port
    else
      let (s, j) := s.jobTake j j.port k
      if j.toks.length < k then s.setJob j
      else (writePieces s l (bytes32 j.toks)).setJob { j with n := j.n + 1, toks := [] }

/-- `ISE_ELEMENT_MOVE` (R223, R225): the index is read again; tokens of an element that are still to be sent go first. -/
def execIseElementMove (n : Nat) (s : State) : Out :=
  .next <| match s.job? n with
    | none => s
    | some j =>
      if !(j.st == .running && j.passed && j.cmd.cls == .isq) then s
      else if !j.out.isEmpty then s.jobSends j j.port
      else if j.code != 0 || decide (j.count ≤ j.n) || s.paged j then s
      else
        match j.element j.n s with
        | (s, .wait) => s
        | (s, .code 2 va) => s.setJob (j.fail 8 j.n (BitVec.ofNat 64 va))
        | (s, .code 9 va) => s.setJob (j.fail 9 j.n (BitVec.ofNat 64 va))
        | (s, .code _ va) => iseStop s j va
        | (s, .at_ va) => iseMove s j va

/-! ## Collectives (R297, R298) -/

/-- One element of a reduction, with its flags (R298). -/
def collOp (op fmt : Nat) (a b : W32) : Res :=
  match fmt with
  | 2 => (match op with
    | 0 => addV fp32 0 0 (fp32.read a.toNat) (fp32.read b.toNat)
    | 1 => minmaxV fp32 true false a.toNat b.toNat
    | _ => minmaxV fp32 false false a.toNat b.toNat)
  | 10 =>
    let (t, f1) := triRead a.toNat
    let (u, f2) := triRead b.toNat
    ⟨triWord (triOp (· + ·) t u), f1 ||| f2, false⟩
  | _ => .plain (match op with
    | 0 => (a + b).toNat
    | 1 => (if a.slt b then b else a).toNat
    | _ => (if b.slt a then b else a).toNat)

/-- Reduce the participants' elements in ascending rank (R298). -/
def reduceAll (op fmt : Nat) : List W32 → List (List W32) → List W32 × BitVec 8
  | v, [] => (v, 0)
  | v, x :: r =>
    let ys := (v.zip x).map fun p => collOp op fmt p.1 p.2
    let (out, fl) := reduceAll op fmt (ys.map fun y => BitVec.ofNat 32 y.code) r
    (out, fl ||| ys.foldl (fun z y => z ||| y.fl) 0)

/-- The data of a participant in a collective, in rank order (R296): this package's own is `own`. -/
def rankData (mask pkg : Nat) (own : List W32) (l : List CollPart) : List (List W32) :=
  ((upTo 32).filter fun k => bitsOf mask k 1 == 1).map fun k =>
    if k = pkg then own else ((l.find? fun c => c.pkg.toNat == k).map (·.data)).getD []

/-- The parts name every other participant once. -/
def partsOk (mask pkg : Nat) (l : List CollPart) : Bool :=
  (upTo 32).all fun k =>
    (l.filter fun c => c.pkg.toNat == k).length == (if bitsOf mask k 1 == 1 && k != pkg then 1 else 0)

/-- A collective has still to be formed with the partners' (R297). -/
def Job.unformed (j : Job) : Bool := j.cmd.cls == .coll && j.code == 0 && !j.formed

/-- The earliest accepted collective of a tag and mask runs first (R297), those that the acceptance refused left out of the count
(DEDUCED, log 159); the jobs stand in the order of acceptance. -/
def State.collFirst (s : State) (j : Job) : Bool :=
  match s.jobs.find? fun k => k.unformed && k.w 3 == j.w 3 && k.w 4 == j.w 4 with
  | some k => k.id == j.id
  | none => false

/-- The numbers of the collectives that wait only for their partners (R297): the pager owes them nothing, and the earlier
jobs that keep them back wait for their own partners. -/
def State.loneJobs (s : State) : List Nat :=
  s.jobs.foldl (fun l j =>
    if j.unformed && !s.paged j && s.jobs.all (fun k => !k.holdsBack j || l.contains k.id) then l ++ [j.id] else l) []

/-- A job waits only for its partners. -/
def State.alone (s : State) (j : Job) : Bool := s.loneJobs.contains j.id

/-- `COLLECTIVE_FORM` (R297, R298); at code 11 every word of dst keeps its old value (DEDUCED, log 95). -/
def execCollectiveForm (n : Nat) (others : List CollPart) (s : State) : Out :=
  .next <| match s.job? n with
    | none => s
    | some j =>
      let mask := j.w 4
      let pkg := s.pkg.toNat
      if !(j.st == .running && j.code == 0 && j.cmd.cls == .coll && !j.formed && s.collFirst j && partsOk mask pkg others) ||
          s.paged j then s
      else
        let lost := others.filter fun c => !c.reachable
        if !lost.isEmpty then
          s.setJob (j.fail 11 0 (BitVec.ofNat 64 (lost.foldl (fun m c => m + 2 ^ c.pkg.toNat) 0)))
        else if others.any fun c => c.kind.toNat != j.kind || c.op.toNat != bitsOf (j.w 0) 12 4 ||
            c.fmt.toNat != bitsOf (j.w 0) 8 4 || c.count != j.count || c.data.length != j.count then s.setJob (j.fail 10 0 0)
        else
          match j.places j.needR (piecesOf (j.w 1) (4 * j.count)) s with
          | (s, .wait) => s
          | (s, .bad c va) => s.setJob (j.fail c (j.reached va) (BitVec.ofNat 64 va))
          | (s, .ok ra) =>
            let xs := rankData mask pkg (words32 j.count (s.pieceBytes ra)) others
            let (out, fl) := if j.kind = 9 then
                (match xs with
                  | x :: r => reduceAll (bitsOf (j.w 0) 12 4) (bitsOf (j.w 0) 8 4) x r
                  | [] => ([], 0))
              else (xs.flatMap id, 0)
            match j.places (j.need .write) (piecesOf (j.w 2) (4 * out.length)) s with
            | (s, .wait) => s
            | (s, .bad c va) => s.setJob (j.fail c (j.reached va) (BitVec.ofNat 64 va))
            | (s, .ok wa) => (writePieces s wa (bytes32 out)).setJob { j with formed := true, flags := fl }

/-! ## Completion (R292, R293, R441, R442) -/

/-- The work of a job is over, and it has nothing left to send. -/
def Job.finished (j : Job) : Bool :=
  j.out.isEmpty && (j.code != 0 ||
    (j.st == .running &&
      match j.cmd.cls with
      | .hod => decide (j.rows ≤ j.n)
      | .coll => j.formed
      | .isq => j.passed && decide (j.count ≤ j.n)
      | .probe => j.passed
      | .unpin => true))

/-- The class and detail of the record of a code (R441). -/
def jobClass (j : Job) : Nat × W64 :=
  let card := j.cmd.card
  match j.code with
  | 5 => (2, (overrun 7 card).detail)
  | 6 => (2, (overrun 3 (BitVec.ofNat 64 j.pinHandle)).detail)
  | 7 => (9, card)
  | 8 => (7, j.value)
  | 9 => (11, j.value)
  | 10 => (2, (overrun 14 card).detail)
  | 11 => (12, 0xFF ||| (j.value <<< 32))
  | _ => (10, card)

/-- Send a record of a job to its domain's handler (R441). -/
def State.jobRecord (s : State) (j : Job) (cls : Nat) (detail : W64) (body : List Byte) : State :=
  let h := AgentId.handle j.cmd.who
  let rounds := match s.spur? h with | some sp => sp.rnd.toNat | none => 0
  s.postHandler (s.handlerQ j.cmd.dom) (record 3 cls detail h j.cmd.dom j.cmd.node 0xFE 0xFF rounds [] body)

/-- The engine body of a record (R403). -/
def Job.body (j : Job) : List Byte := toBytes 4 j.code ++ toBytes 4 j.errN ++ toBytes 8 j.value.toNat

/-- The record of a status record that cannot be written (R442). -/
def State.statusLost (s : State) (j : Job) (f : TFault) (noFrame : Bool) : State :=
  s.jobRecord j 7 (BitVec.ofNat 64 (j.w 6)) (tBody j.cmd.asid (j.w 6) .write f noFrame)

/-- The status record of a job (R225, R293). -/
def Job.status (j : Job) : List Byte :=
  [BitVec.ofNat 8 j.code, match j.cmd.cls with | .hod | .coll => j.flags | _ => 0] ++ zeros 2 ++ toBytes 4 j.errN ++
    toBytes 8 j.value.toNat

/-- Some other job of the engines uses the pages of a pin set. -/
def State.pinUsed (s : State) (j : Job) (p : PinSet) : Bool :=
  s.jobs.any fun k => k.id != j.id && k.cmd.cls != .unpin && k.pinHandle == p.h && k.code == 0

/-- Release the pins of a job, and the set an `unpin` names (R224); a set that jobs still use stays until they have
completed (R225). -/
def State.unpinFor (s : State) (j : Job) : State :=
  let frees (p : PinSet) : Bool := j.cmd.cls == .unpin && j.code == 0 && p.job.isNone && p.h == j.pinHandle
  { s with pins := (updIf frees (fun p => { p with gone := true }) s.pins).filter fun p =>
      !(p.job == some j.id) && !(p.gone && !s.pinUsed j p) }

/-- A job leaves: its record for a nonzero code, its pins released, and its command no longer outstanding. -/
def endJob (s : State) (j : Job) : State :=
  let s := if j.code = 0 then s else s.jobRecord j (jobClass j).1 (jobClass j).2 j.body
  let s := s.unpinFor j
  { s with jobs := s.jobs.filter fun k => k.id != j.id }.stir (AgentId.handle j.cmd.who)

/-- The place of the 16 bytes of a status record (R442), whose write waits for a migration of its page (R280). -/
def Job.statusAt (j : Job) (s : State) : State × Except TFault Nat :=
  match translate (s.holdFor j.cmd.asid (j.w 6)) j.unit j.cmd.asid (j.w 6) (j.need .write) with
  | (s, .error f) => (s, .error f)
  | (s, .ok (pa, _)) => (s, .ok pa)

/-- `JOB_COMPLETE` (R292, R293, R442): the status record is written after the data, with a release at system scope. -/
def execJobComplete (n : Nat) (s : State) : Out :=
  .next <| match s.job? n with
    | none => s
    | some j =>
      if !j.finished || s.paged j then s
      else if j.drop || j.card.isEmpty || j.w 6 % 16 != 0 then endJob s j
      else
        match j.statusAt s with
        | (s, .ok pa) => endJob (s.physWrite .fabric pa j.status) j
        | (s, .error f) =>
          if f.kind == .notPresent then s.pageJob j (j.w 6) .write f
          else endJob (s.statusLost j f false) j

/-- The pager gave up on a job's page (R224, R274, R288, R295, R442): the job fails where it stands, and releases the pins of
a probe pass; a status record that cannot be written is dropped, a page that a job which has failed no longer needs is let
be, and a job whose list cannot be read keeps its card. -/
def jobForward (s : State) (id va : Nat) (f : TFault) (noFrame : Bool) : State :=
  match s.job? id with
  | some j =>
    if j.finished then (if va = j.w 6 then (s.statusLost j f noFrame).setJob { j with drop := true } else s)
    else (if j.passed then s else s.dropPins j).setJob (j.fail (f.jobCode (if (j.cmd.cls == .isq || j.cmd.cls == .probe) && !j.passed then 2 else 8)) (j.reached va)
      (BitVec.ofNat 64 va))
  | none =>
    match s.cmdq.find? fun c => c.2.no == id with
    | some (e, c) =>
      let j := (Job.new e c).fail (f.jobCode 8) 0 (BitVec.ofNat 64 va)
      match j.read s c.card.toNat 8 with
      | (s, .ok card) => s.enterJob { j with card := card }
      | (s, .error _) => s.enterJob j
    | none => s

/-! ## Bank-ownership tokens (R299, R300) -/

/-- `BANK_TOKEN_RECEIPT` (R300). -/
def execBankTokenReceipt (h : Handle) (s : State) : Out :=
  .next <| match s.wires.find? fun w => ((gateNames s true 16 h).any fun i => w.dst == .gate i) && !w.buf.isEmpty, s.spur? h with
    | some w, some sp =>
      let s := { s with wires := updFirst (fun x => x.src == w.src && x.dst == w.dst) (fun x => { x with buf := x.buf.drop 1 }) s.wires }
      match w.buf.head? with
      | some (.tok t) =>
        let r := bitsOf t.pay.toNat 8 8
        let b := bitsOf t.pay.toNat 0 8
        if bitsOf t.pay.toNat 16 16 = 0 ∧ sp.brickNos.contains (256 * r + b) then
          s.setSpur { sp with gates := if sp.gates.contains (r, b) then sp.gates else sp.gates ++ [(r, b)] }
        else
          s.postHandler sp.hq (record 3 2 (overrun 1 (t.pay.setWidth 64)).detail h sp.dom 0xFFFFFFFF 0xFF 0xFF sp.rnd.toNat [] [])
      | _ => s
    | _, _ => s

end Sys2Proof.Machine
end

