-- ==== Sys2Proof/Machine/Matrix.lean ====
section
/-! DEFINITION. Residue matrix arithmetic (R181 to R203): the tile table, fills, the array, reconstruction, drains and
triads. Every instruction takes its whole effect at its firing (R185). -/

namespace Sys2Proof.Machine

open Sys2Proof

/-! ## Ownership and ranges -/

/-- A fault of the tile table: ownership or state (R182, R193, R198). -/
def Ex.tileFault (x : Ex) (e : Nat) : Ex := x.raise (overrun 8 (BitVec.ofNat 64 e))

/-- Go on where the firing context owns every slot and accumulator named; entries 4 to 6 are the accumulators (R181,
R182). -/
def Ex.owning (x : Ex) (sl ac : List Nat) (f : Ex → Ex) : Ex :=
  match sl.find? fun n => !x.br.ownsSlot x.cx0.idx n, ac.find? fun n => !x.br.ownsAcc x.cx0.idx n with
  | some n, _ => x.tileFault n
  | none, some n => x.tileFault (4 + n)
  | none, none => f x

/-- Go on where `len` bytes at a bank offset that is a multiple of `al` lie within the bank (R199). -/
def Ex.bankRange (x : Ex) (off len al : Nat) (f : Ex → Ex) : Ex :=
  if off % al != 0 || decide (65536 < off + len) then x.raise (overrun 1 (BitVec.ofNat 64 off)) else f x

/-- Change slot `n` of the firing's brick. -/
def Ex.modSlot (x : Ex) (n : Nat) (f : Slot → Slot) : Ex := { x with br := x.br.modSlot n f }

/-- Change accumulator `n` of the firing's brick. -/
def Ex.modAcc (x : Ex) (n : Nat) (f : Acc → Acc) : Ex := { x with br := x.br.modAcc n f }

/-! ## Contents (R186, R187) -/

/-- Elements of one line of a slot. -/
def lineLen : SFmt → Nat
  | .k4 => 128
  | .k8 | .k16h | .k16l => 64

/-- Bytes of one line in the bank. -/
def lineBytes : SFmt → Nat
  | .k8 | .k4 => 64
  | .k16h | .k16l => 128

/-- One element of a line, with the flag of its code (R187). -/
def lineEl (f : SFmt) (l : List Byte) (k : Nat) : Int × BitVec 8 :=
  match f with
  | .k8 => k8Read (nth l k 0).toNat
  | .k4 => k4Read ((nth l (k / 2) 0).toNat / 16 ^ (k % 2))
  | .k16h => k8Read (nth l (2 * k + 1) 0).toNat
  | .k16l => loRead (nth l (2 * k) 0).toNat

/-- Decode the lines of a slot from the bank, with the flags of their codes. -/
def slotLines (bank : List Host.Cell) (f : SFmt) (a : Nat) : List (List Int) × BitVec 8 :=
  let els := (upTo 32).map fun i =>
    let l := readBytes bank (a + lineBytes f * i) (lineBytes f)
    (upTo (lineLen f)).map (lineEl f l)
  (els.map fun l => l.map (·.1), (els.flatMap id).foldl (fun z p => z ||| p.2) 0)

/-- The words of an accumulator, zero where nothing was added (R181). -/
def Acc.tri (a : Acc) : List W32 := if a.words.isEmpty then List.replicate 1024 0 else a.words

/-- The integers of an accumulator (R138). -/
def Acc.ints (a : Acc) : List Int := a.tri.map fun w => crt3 (triRead w.toNat).1

/-! ## Claims, fills and bindings -/

/-- `oclaim` (R199). -/
def execOclaim (g : BGuard) (ms : BitVec 4) (xs : BitVec 3) (s : State) : Out :=
  run (.oclaim g ms xs) (.b g) (fun x =>
    let c := some x.cx0.idx
    let br := (maskBits 4 ms.toNat).foldl (fun b n => b.modSlot n fun t => { t with owner := c }) x.br
    { x with br := (maskBits 3 xs.toNat).foldl (fun b n => b.modAcc n fun t => { t with owner := c }) br }) s

/-- `orelease` (R199, R181); the tile count, which belongs to the context, stays (DEDUCED, log 154). -/
def execOrelease (g : BGuard) (ms : BitVec 4) (xs : BitVec 3) (s : State) : Out :=
  run (.orelease g ms xs) (.b g) (fun x =>
    x.owning (maskBits 4 ms.toNat) (maskBits 3 xs.toNat) fun x =>
      let br := (maskBits 4 ms.toNat).foldl (fun b n => b.modSlot n fun _ => Slot.blank) x.br
      { x with br := (maskBits 3 xs.toNat).foldl (fun b n => b.modAcc n fun _ => Acc.blank) br }) s

/-- `ofill.bank` (R183, R186, R187). -/
def execOfillBank (g : BGuard) (fmt : SFmt) (n : BitVec 2) (a b : Opnd) (s : State) : Out :=
  run (.ofillBank g fmt n a b) (.b g) (fun x =>
    x.owning [n.toNat] [] fun x => x.bankRange (x.nat a) (32 * lineBytes fmt) 64 fun x => x.bankRange (x.nat b) 32 4 fun x =>
      let (lines, fl) := slotLines x.br.bank fmt (x.nat a)
      let scales := readBytes x.br.bank (x.nat b) 32
      let fl := if scales.contains 0xFF then fl ||| flFMT else fl
      (x.flags fl).modSlot n.toNat fun t =>
        { t with st := .filling, bus := false, send := false, fmt := some fmt, lines := lines, scales := scales }) s

/-- `ofill.bus` (R183). -/
def execOfillBus (g : BGuard) (fmt : SFmt) (n : BitVec 2) (s : State) : Out :=
  run (.ofillBus g fmt n) (.b g) (fun x =>
    x.owning [n.toNat] [] fun x =>
      x.modSlot n.toNat fun t => { t with st := .filling, bus := true, send := false, fmt := some fmt }) s

/-- The code of a tile state (R200). -/
def TileSt.code : TileSt → Nat
  | .empty => 0 | .filling => 1 | .ready => 2 | .draining => 3

/-- The code of a slot format (R200). -/
def fmtCode : Option SFmt → Nat
  | some .k8 => 0 | some .k4 => 1 | some .k16h => 2 | some .k16l => 3 | none => 7

/-- The owner of a tile-table entry, and bits [7:4] and [1:0] of its status: its binding, format and state (R200). -/
def Brick.entry (b : Brick) (e : TileIdx) : Option (BitVec 3) × Nat :=
  let sl (n : Nat) := let t := b.slot n; (t.owner, t.st.code + 16 * fmtCode t.fmt + if t.bind.getLsbD 15 then 128 else 0)
  let ac (n : Nat) := let t := b.acc n; (t.owner, t.st.code + 16 * 7)
  match e with
  | .m0 => sl 0 | .m1 => sl 1 | .m2 => sl 2 | .m3 => sl 3 | .x0 => ac 0 | .x1 => ac 1 | .x2 => ac 2

/-- The status of a tile-table entry, whose owner may be a context of another spur that shares the brick (R200, R205). -/
def Ex.ostat (x : Ex) (e : TileIdx) : Nat :=
  match (x.br.entry e).1, x.sharers.find? fun b => (b.entry e).1.isSome with
  | some c, _ => (x.br.entry e).2 + if c = x.cx0.idx then 4 else 8
  | none, some b => (b.entry e).2 + 8
  | none, none => (x.br.entry e).2

/-- `ostat` (R200). -/
def execOstat (g : BGuard) (e : TileIdx) (d : Opnd) (s : State) : Out :=
  run (.ostat g e d) (.b g) (fun x => x.put d (BitVec.ofNat 64 (x.ostat e))) s

/-- The bricks of a spur on the same bus as a brick (R189). -/
def Body.onBus (b : Body) (col : Bool) (br : Brick) : List Brick :=
  b.bricks.filter fun k => if col then k.col == br.col else k.row == br.row

/-- Another slot of the spur is a valid sender for the identifier on the bus (R190). -/
def Ex.senderTaken (x : Ex) (n : Nat) (v : W32) : Bool :=
  (x.sp.live.onBus (v.getLsbD 13) x.br).any fun k =>
    (upTo 4).any fun m =>
      let t := k.slot m
      !(k.row == x.br.row && k.col == x.br.col && m == n) && t.sends && t.colBus == v.getLsbD 13 &&
        t.did == v.extractLsb' 0 8

/-- `mbind` (R188, R190, R201). A word with DIR = 0 is a receive binding whatever its V (log 121). -/
def execMbind (g : BGuard) (n : BitVec 2) (a : Opnd) (s : State) : Out :=
  run (.mbind g n a) (.b g) (fun x =>
    x.owning [n.toNat] [] fun x =>
      let v : W32 := (x.get a).setWidth 32
      let sends := v.getLsbD 15 && v.getLsbD 14
      if v.extractLsb' 16 16 != 0 || (!v.getLsbD 14 && v.extractLsb' 8 5 != 0) || (sends && x.senderTaken n.toNat v) then
        x.raise (overrun 10 (v.setWidth 64))
      else x.modSlot n.toNat fun t => { t with bind := v, bindNode := x.node }) s

/-- `mzero` (R201). -/
def execMzero (g : BGuard) (n : BitVec 2) (s : State) : Out :=
  run (.mzero g n) (.b g) (fun x => x.owning [] [n.toNat] fun x =>
    x.modAcc n.toNat fun t => { t with st := .empty, words := [], latch := none }) s

/-! ## The array (R191 to R193) -/

/-- The sum of products of two lines. -/
def dot : List Int → List Int → Int
  | a :: r, b :: t => a * b + dot r t
  | _, _ => 0

/-- What one target adds: its accumulator and its operand pairs. -/
structure MTarget where
  acc : Nat
  pairs : List (Nat × Nat)
  deriving DecidableEq, Repr

/-- The slot of a pair of a target that does not fit (R192): its format is not the one asked, or its scales are not those
of the target's first pair. -/
def unfit (b : Brick) (f : Nat → SFmt) (t : MTarget) (p : Nat × Nat) : Option Nat :=
  let q := t.pairs.headD p
  if (b.slot p.1).fmt != some (f p.1) then some p.1
  else if (b.slot p.2).fmt != some (f p.2) then some p.2
  else if (b.slot p.1).scales != (b.slot q.1).scales then some p.1
  else if (b.slot p.2).scales != (b.slot q.2).scales then some p.2
  else none

/-- The scales of a pair differ from those that its ready target has latched (R192). -/
def offPair (b : Brick) (t : MTarget) (p : Nat × Nat) : Bool :=
  match (b.acc t.acc).st, (b.acc t.acc).latch with
  | .ready, some l => ((b.slot p.1).scales, (b.slot p.2).scales) != l
  | _, _ => false

/-- The first fault among the targets and their pairs, in their order (R192): a slot that does not fit, or a target whose
scales differ. -/
def mmacFault (b : Brick) (f : Nat → SFmt) (l : List MTarget) : Option Flt :=
  l.findSome? fun t => t.pairs.findSome? fun p =>
    match unfit b f t p with
    | some n => some (flt 4 (BitVec.ofNat 64 n))
    | none => if offPair b t p then some (flt 3 (BitVec.ofNat 64 t.acc)) else none

/-- The integers one target gains, row by row (R191). -/
def gains (b : Brick) (t : MTarget) : List Int :=
  let one (p : Nat × Nat) : List Int := (b.slot p.1).lines.flatMap fun l => (b.slot p.2).lines.map (dot l)
  match t.pairs with
  | [p] => one p
  | p :: q :: _ => ((one p).zip (one q)).map fun x => x.1 + x.2
  | [] => []

/-- One target takes its sums (R192). -/
def Brick.gain (b : Brick) (t : MTarget) : Brick :=
  let latch := match t.pairs with
    | p :: _ => some ((b.slot p.1).scales, (b.slot p.2).scales)
    | [] => none
  b.modAcc t.acc fun a =>
    { a with
      st := .filling
      latch := if a.st == .ready then a.latch else latch
      words := ((a.ints.zip (gains b t)).map fun x => BitVec.ofNat 32 (trienc (x.1 + x.2))) }

/-- The firing of `mmac` (R192). -/
def Ex.mmac (x : Ex) (f : Nat → SFmt) (l : List MTarget) (last : Bool) : Ex :=
  let sl := dedup (l.flatMap fun t => t.pairs.flatMap fun p => [p.1, p.2])
  x.owning sl (l.map (·.acc)) fun x =>
    match sl.find? fun n => (x.br.slot n).st == .empty with
    | some n => x.tileFault n
    | none =>
      match mmacFault x.br f l with
      | some e => x.raise e
      | none =>
        let br := l.foldl Brick.gain x.br
        let br := sl.foldl (fun b n => b.modSlot n fun t => { t with st := .draining }) br
        { x with
          br := { br with passSlots := sl, passAccs := l.map (·.acc) }
          cx := if last then { x.cx with tcount := x.cx.tcount - 1 } else x.cx }

/-- `mmac.k8` (R192). -/
def execMmacK8 (g : BGuard) (last : Bool) (n p q : BitVec 2) (s : State) : Out :=
  run (.mmacK8 g last n p q) (.b g) (fun x => x.mmac (fun _ => .k8) [⟨n.toNat, [(p.toNat, q.toNat)]⟩] last) s

/-- `mmac.k4` (R192). -/
def execMmacK4 (g : BGuard) (last : Bool) (n p q : BitVec 2) (s : State) : Out :=
  run (.mmacK4 g last n p q) (.b g) (fun x => x.mmac (fun _ => .k4) [⟨n.toNat, [(p.toNat, q.toNat)]⟩] last) s

/-- `mmac.k16` (R192): even slots hold hi limbs and odd ones lo limbs. -/
def execMmacK16 (g : BGuard) (last : Bool) (p q : BitVec 2) (s : State) : Out :=
  run (.mmacK16 g last p q) (.b g) (fun x =>
    let a := p.toNat
    let b := q.toNat
    x.mmac (fun n => if n % 2 = 0 then .k16h else .k16l)
      [⟨0, [(a, b)]⟩, ⟨1, [(a, b + 1), (a + 1, b)]⟩, ⟨2, [(a + 1, b + 1)]⟩] last) s

/-! ## Reconstruction and drains (R194, R202) -/

/-- A read of an accumulator begins (R184). -/
def Ex.readTile (x : Ex) (n : Nat) : Ex := x.modAcc n fun t => { t with st := .draining, before := t.st }

/-- Write a list of words of `n` bytes to the firing's bank from an offset (R185). -/
def Ex.bankWords (x : Ex) (off n : Nat) (l : List Nat) : Ex :=
  x.bankStore x.br.row x.br.col off (l.flatMap (toBytes n))

/-- The integers that `mrecon` reads (R194). -/
def Brick.recon (b : Brick) (k16 : Bool) (n : Nat) : List Int :=
  if k16 then
    ((b.acc 0).ints.zip ((b.acc 1).ints.zip (b.acc 2).ints)).map fun x => x.1 * 2 ^ 14 + x.2.1 * 2 ^ 7 + x.2.2
  else (b.acc n).ints

/-- The exponents of the elements, row by row, and the flag of codes 0xFF (R194, R131). -/
def expsOf (l : Option (List (BitVec 8) × List (BitVec 8))) : List Int × BitVec 8 :=
  match l with
  | none => (List.replicate 1024 0, 0)
  | some (ra, cb) =>
    (ra.flatMap fun r => cb.map fun c => (e8m0 r.toNat).1 + (e8m0 c.toNat).1,
      if ra.contains 0xFF || cb.contains 0xFF then flFMT else 0)

/-- A read by `mrecon` (R194, R198): ownership, range and one latch among the ready tiles, and then its writes. -/
def Ex.recon (x : Ex) (k16 : Bool) (n : Nat) (off len : Nat) (f : Ex → List Int → List Int × BitVec 8 → Ex) : Ex :=
  let l := if k16 then [0, 1, 2] else [n]
  x.owning [] l fun x => x.bankRange off len 64 fun x =>
    let rdy := l.filter fun m => (x.br.acc m).st == .ready
    let latch := (rdy.head?).bind fun m => (x.br.acc m).latch
    match rdy.find? fun m => (x.br.acc m).latch != latch with
    | some m => x.raise (flt 3 (BitVec.ofNat 64 m))
    | none => l.foldl Ex.readTile (f x (x.br.recon k16 n) (expsOf latch))

/-- A reconstructed value as a floating-point value; zero is +0 (R194). -/
def reconV (w e : Int) : Fv := if w = 0 then .zero false else .fin (decide (w < 0)) w.natAbs e

/-- `mrecon.i64` (R194). -/
def execMreconI64 (g : BGuard) (k16 : Bool) (n : BitVec 2) (a : Opnd) (s : State) : Out :=
  run (.mreconI64 g k16 n a) (.b g) (fun x =>
    x.recon k16 n.toNat (x.nat a) 8192 fun x ws _ => x.bankWords (x.nat a) 8 (ws.map (wrapNat 64))) s

/-- `mrecon.f32` (R194). -/
def execMreconF32 (g : BGuard) (k16 : Bool) (n : BitVec 2) (a : Opnd) (s : State) : Out :=
  run (.mreconF32 g k16 n a) (.b g) (fun x =>
    x.recon k16 n.toNat (x.nat a) 4096 fun x ws es =>
      let rs := (ws.zip es.1).map fun p => roundV fp32 0 0 (reconV p.1 p.2)
      (x.flags (rs.foldl (fun z r => z ||| r.fl) es.2)).bankWords (x.nat a) 4 (rs.map (·.code))) s

/-- `mrecon.f32.add` (R194). -/
def execMreconF32Add (g : BGuard) (k16 : Bool) (n : BitVec 2) (a : Opnd) (s : State) : Out :=
  run (.mreconF32Add g k16 n a) (.b g) (fun x =>
    x.recon k16 n.toNat (x.nat a) 4096 fun x ws es =>
      let ys := (upTo 1024).map fun j => fp32.read (readNat x.br.bank (x.nat a + 4 * j) 4)
      let rs := (ys.zip (ws.zip es.1)).map fun p => addV fp32 0 0 p.1 (reconV p.2.1 p.2.2)
      (x.flags (rs.foldl (fun z r => z ||| r.fl) es.2)).bankWords (x.nat a) 4 (rs.map (·.code))) s

/-- A drain (R202). -/
def Ex.drain (x : Ex) (n off : Nat) (f : Acc → Acc) : Ex :=
  x.owning [] [n] fun x => x.bankRange off 4096 64 fun x =>
    ((x.bankWords off 4 ((x.br.acc n).tri.map (·.toNat))).readTile n).modAcc n f

/-- `mdrain` (R202). -/
def execMdrain (g : BGuard) (n : BitVec 2) (a : Opnd) (s : State) : Out :=
  run (.mdrain g n a) (.b g) (fun x => x.drain n.toNat (x.nat a) id) s

/-- `mdrain.z` (R202). -/
def execMdrainZ (g : BGuard) (n : BitVec 2) (a : Opnd) (s : State) : Out :=
  run (.mdrainZ g n a) (.b g) (fun x =>
    x.drain n.toNat (x.nat a) fun t => { t with before := .empty, words := [], latch := none }) s

/-! ## Triads (R203) -/

/-- `trienc` (R203). -/
def execTrienc (g : BGuard) (d a : Opnd) (s : State) : Out :=
  run (.trienc g d a) (.b g) (fun x => x.put d (BitVec.ofNat 64 (trienc (signed 32 (x.nat a))))) s

/-- `tridec` (R203). -/
def execTridec (g : BGuard) (d a : Opnd) (s : State) : Out :=
  run (.tridec g d a) (.b g) (fun x =>
    let (t, fl) := triRead (x.nat a)
    (x.flags fl).put d (BitVec.ofNat 64 (wrapNat 32 (crt3 t)))) s

/-- An operation channel by channel (R203). -/
def Ex.tri2 (x : Ex) (d a b : Opnd) (op : Nat → Nat → Nat) : Ex :=
  let (t, f1) := triRead (x.nat a)
  let (u, f2) := triRead (x.nat b)
  (x.flags (f1 ||| f2)).put d (BitVec.ofNat 64 (triWord (triOp op t u)))

/-- `triadd` (R203). -/
def execTriadd (g : BGuard) (d a b : Opnd) (s : State) : Out :=
  run (.triadd g d a b) (.b g) (fun x => x.tri2 d a b (· + ·)) s

/-- `trimul` (R203). -/
def execTrimul (g : BGuard) (d a b : Opnd) (s : State) : Out :=
  run (.trimul g d a b) (.b g) (fun x => x.tri2 d a b (· * ·)) s

end Sys2Proof.Machine
end

