-- ==== Sys2Proof/Machine/Network.lean ====
section
/-! DEFINITION. The network events: injection of outputs, step words, delivery of tokens, headers, seam markers and
control tokens (R51, R55 to R61, R67, R68, R318, R400, R414), and reconfiguration tokens (R105). A flit moves while its
spur is active. -/

namespace Sys2Proof.Machine

open Sys2Proof

/-! ## Delivery to a queue (R51, R55, R56, R67) -/

/-- An input queue takes a flit on one arm; a seam starts the next configuration's header at zero (R53, R55, R67). -/
def InQ.take (q : InQ) (a : Bool) (f : Flit) (now : Nat) : InQ :=
  let hdr (q : InQ) (h : W64) : InQ := if a then { q with hdr1 := h } else { q with hdr0 := h }
  match f with
  | .tok t => q.setSide a (q.side a ++ [.tok t (if a then q.hdr1 else q.hdr0) now])
  | .hdr h => hdr q h
  | .seam => hdr (q.setSide a (q.side a ++ [.seam])) 0
  | .step | .cmd _ => q

/-- The flit is a token. -/
def Flit.isTok : Flit → Bool
  | .tok _ => true
  | .hdr _ | .seam | .step | .cmd _ => false

/-- The flit is a header. -/
def Flit.isHdr : Flit → Bool
  | .hdr _ => true
  | .tok _ | .seam | .step | .cmd _ => false

/-- The flit is a seam marker. -/
def Flit.isSeam : Flit → Bool
  | .seam => true
  | .tok _ | .hdr _ | .step | .cmd _ => false

/-- The format code of a header (R41). -/
def hdrFmt (h : W64) : Nat := bitsOf h.toNat 36 4

/-- A guard names queue `q` as IA or IB (R42). -/
def namesQ (g : BGuard) (q : BitVec 3) : Bool := (g.iae && g.ia == q) || (g.ibe && !g.ck && g.ib == q)

/-- The slots of a context that name a queue, each with its node (R42, R404). -/
def Ctx.namers (k : Ctx) (q : BitVec 3) : List (W32 × Nat) :=
  ((upTo 16).filter k.valid).filterMap fun n =>
    match (k.instr? n).bind guardOf with
    | some (.b g) => if namesQ g q then some (k.nodeOf n, n) else none
    | _ => none

/-- The cause of a format mismatch at queue `q` of a context (R42). -/
def mismatch (k : Ctx) (q : BitVec 3) : Cause :=
  let at_ := leastBy (fun x : W32 × Nat => [x.1.toNat, x.2]) (k.namers q)
  { cls := 4, detail := q.zeroExtend 64, node := match at_ with | some x => x.1 | none => 0xFFFFFFFF,
    ctx := k.idx.zeroExtend 8, slot := match at_ with | some x => BitVec.ofNat 8 x.2 | none => 0xFF, loops := [],
    body := [], row := k.row, col := k.col, page := none }

/-- Queue `q` of a context takes a flit on arm `a`, with a binding's format where a binding leads there; none while it
has no room (R42, R50, R56). -/
def Spur.enqueue (sp : Spur) (br : Brick) (k : Ctx) (q : BitVec 3) (a : Bool) (fmt : Nat) (f : Flit) (now : Nat) :
    Option Spur :=
  let room := if paired br k.idx q then 2 else 4
  if f.isTok && decide (room ≤ tokCount ((k.inQ q).side a)) then none
  else
    let sp := sp.modLive fun b => b.setCtx { k with iq := upd k.iq q.toNat fun x => x.take a f now }
    match f with
    | .hdr h => some (if 13 ≤ hdrFmt h ∨ (fmt ≠ 0 ∧ hdrFmt h ≠ fmt) then sp.addCause (mismatch k q) else sp)
    | _ => some sp

/-- A flit arrives on channel `vc` of a brick: it waits without a valid binding, while its context is not active or has no
configuration, while its ridge's wave has not opened (R422), and while its queue is full (R51, R56); its digest is kept
(R414). -/
def Spur.arrive (sp : Spur) (row col : BitVec 8) (vc : Nat) (f : Flit) (now : Nat) : Option Spur :=
  match sp.live.brick? row col with
  | none => none
  | some br =>
    let b := nth br.vc vc 0
    match sp.live.ctx? row col (bindCtx b) with
    | none => none
    | some k =>
      if !bindV b || !k.conf || br.active != k.idx || !sp.waveOpen row col then none
      else
        (sp.enqueue br k (bindQ b) (paired br k.idx (bindQ b) && bindAr b) (bindFmt b) f now).map fun sp =>
          sp.modLive fun l => l.setBrick { br with dig := upd br.dig vc fun d => digest d f }

/-! ## Flows -/

/-- A flit travels to this channel. -/
def Fly.goesTo (x : Fly) (row col : BitVec 8) (vc : BitVec 5) : Bool :=
  rtRow x.ent == row && rtCol x.ent == col && rtVc x.ent == vc

/-- The declared `in` port (R318). -/
def Image.inPort (m : Image) (p : BitVec 8) : Option PortDecl := m.ports.find? fun d => d.isIn && d.p == p

/-- A wire that holds a flit for a port of a spur. -/
def Wire.feeds (w : Wire) (h : Handle) (p : BitVec 8) : Bool := w.dst == .spur h p && !w.buf.isEmpty

/-- Two paths of one control output lead to one place. -/
def GPath.same (a b : GPath) : Bool :=
  a.row == b.row && a.col == b.col && a.ctx == b.ctx && a.j == b.j && a.ent.extractLsb' 10 21 == b.ent.extractLsb' 10 21

/-- The path of grout entry `n` of a control output whose head arrives next: no older path of that output to the same
place holds anything (R61). -/
def Body.path? (b : Body) (c : CtxAt) (j n : BitVec 2) : Option GPath :=
  match b.paths.find? fun p => p.row == c.row && p.col == c.col && p.ctx == c.ctx && p.j == j && p.n == n with
  | some p => if (b.paths.find? p.same) == some p then some p else none
  | none => none

/-- Take the head off a path; a path that holds nothing is not kept. -/
def Body.dropPath (b : Body) (p : GPath) : Body :=
  { b with paths := (updFirst (· == p) (fun p => { p with bits := p.bits.drop 1 }) b.paths).filter fun p => !p.bits.isEmpty }

/-- The head of a grout path arrives at its control queue of 8 (R50, R51, R61). -/
def Spur.arriveK (sp : Spur) (p : GPath) (e : KEnt) : Option Spur :=
  match sp.live.brick? (grRow p.ent) (grCol p.ent), sp.live.ctx? (grRow p.ent) (grCol p.ent) (grCtx p.ent) with
  | some br, some k =>
    let q := (grK p.ent).toNat
    let full := match e with | .bit _ => decide (8 ≤ bitCount (nth k.kq q [])) | .seam => false
    if !k.conf || br.active != k.idx || full || !sp.waveOpen k.row k.col then none
    else some (sp.modLive fun b => (b.setCtx { k with kq := upd k.kq q (· ++ [e]) }).dropPath p)
  | _, _ => none

/-- The head flit of a flow arrives where it is one that `want` admits. -/
def deliverFlow (h : Handle) (f : FlowId) (want : Flit → Bool) (s : State) : State :=
  match s.spur? h with
  | none => s
  | some sp =>
    if !s.active sp then s
    else
      match f with
      | .route tag row col vc =>
        (match sp.live.routes[tag.toNat]? with
          | none => s
          | some r =>
            match r.fly.find? fun x => x.goesTo row col vc with
            | none => s
            | some x =>
              if !want x.flit then s
              else
                match sp.arrive row col vc.toNat x.flit s.now with
                | none => s
                | some sp =>
                  let cut (r : Route) : Route := { r with fly := r.fly.eraseP fun x => x.goesTo row col vc }
                  s.setSpur ((sp.modLive fun b => { b with routes := upd b.routes tag.toNat cut }).busy s.now))
      | .port p =>
        (match sp.img.inPort p, s.wires.find? fun w => w.feeds h p && !s.severed w with
          | some d, some w =>
            let x := (w.buf.head?).getD .step
            if !want x then s
            else
              match sp.arrive d.row d.col d.vc.toNat x s.now with
              | none => s
              | some sp =>
                let dig (l : List (BitVec 8 × W64)) := updFirst (fun y => y.1 == p) (fun y => (y.1, digest y.2 x)) l
                let sp := sp.modLive fun b => { b with portDig := dig b.portDig }
                let s := { s with wires := updFirst (· == w) (fun w => { w with buf := w.buf.drop 1 }) s.wires }
                s.setSpur ({ sp with delivered := sp.delivered ++ [(p, x)] }.busy s.now)
          | _, _ => s)
      | .grout c j n =>
        (match sp.live.path? c j n with
          | none => s
          | some p =>
            match p.bits with
            | .seam :: _ => if want .seam then (match sp.arriveK p .seam with | some sp => s.setSpur (sp.busy s.now) | none => s) else s
            | _ => s)

/-- `TOKEN_DELIVERY` (R51, R55, R56, R414). -/
def execTokenDelivery (h : Handle) (f : FlowId) (s : State) : Out := .next (deliverFlow h f Flit.isTok s)

/-- `HEADER_DELIVERY` (R42, R55, R414). -/
def execHeaderDelivery (h : Handle) (f : FlowId) (s : State) : Out := .next (deliverFlow h f Flit.isHdr s)

/-- `SEAM_MARKER_DELIVERY` (R67, R414). -/
def execSeamMarkerDelivery (h : Handle) (f : FlowId) (s : State) : Out := .next (deliverFlow h f Flit.isSeam s)

/-! ## Injection (R57 to R61, R354, R400) -/

/-- The context of an address, in a spur that is active, where it is its brick's active one (R51). -/
def State.working (s : State) (c : CtxAt) : Option (Spur × Brick × Ctx) :=
  match s.spur? c.h with
  | none => none
  | some sp =>
    match sp.live.brick? c.row c.col, sp.live.ctx? c.row c.col c.ctx with
    | some br, some k => if s.active sp && br.active == c.ctx && k.conf then some (sp, br, k) else none
    | _, _ => none

/-- The arms a flit still has to go down, by the kind of its output (R57, R74, R85, R221). -/
def owed (split : Bool) (e : OutEnt) : List Bool :=
  if !split then [false]
  else match e.arm with
    | .a0 => [false]
    | .a1 => [true]
    | .both => [false, true]

/-- The route tag of an arm of an output binding. -/
def armTag (o : W32) (a : Bool) : BitVec 6 := if a then outT1 o else outT0 o

/-- A data port has room for a token behind those of the edge hold (R285); one whose tokens are discarded has (R318). -/
def portRoom (s : State) (sp : Spur) (p : BitVec 8) : Bool :=
  let held := (sp.live.edge.filter fun e => e.port == p && e.flit.isTok).length
  match s.wireFrom (.spur sp.handle p) with
  | some w =>
    (match w.dst with
      | .job .. => !s.portWanted sp.handle p || decide (w.buf.length + held < Config.dataPort)
      | .spur .. | .farm .. | .gate .. | .saddle .. => (s.wiresFrom (.spur sp.handle p)).all fun w =>
          decide (w.buf.length + held < Config.dataPort))
  | none => !s.portWanted sp.handle p || decide (held < Config.dataPort)

/-- The route of a phase whose entry is valid has room for a flit of a brick: a mortar route for 4 tokens a segment, an
edge port for what the edge hold takes and for tokens also what the port behind it does (R59, R354, R400). -/
def routeRoom (s : State) (sp : Spur) (k : Ctx) (tag : BitVec 6) (r : Route) (f : Flit) : Bool :=
  let mine (x : Fly) : Bool :=
    x.row == k.row && x.col == k.col && x.flit.isTok && x.goesTo (rtRow r.ent) (rtCol r.ent) (rtVc r.ent)
  let mortar : Nat := Config.mortarSegment * segments k.row.toNat k.col.toNat (rtRow r.ent).toNat (rtCol r.ent).toNat
  entV r.ent &&
    if entKd r.ent = 1 then !sp.live.holdFull tag && (!f.isTok || portRoom s sp (rtCol r.ent))
    else !f.isTok || decide ((r.fly.filter mine).length < mortar)

/-- Send a flit along the phase in force of a route (R59, R400). -/
def Body.send (b : Body) (k : Ctx) (tag : BitVec 6) (r : Route) (f : Flit) : Body :=
  if entKd r.ent = 1 then { b with edge := b.edge ++ [⟨tag, rtCol r.ent, f⟩] }
  else { b with routes := b.routes.set tag.toNat { r with fly := r.fly ++ [⟨k.row, k.col, r.ent, f⟩] } }

/-- The head of output queue `n` goes down one arm where it can: the spur after it. -/
def sendArm (s : State) (k : Ctx) (o : W32) (e : OutEnt) (sp : Spur) (a : Bool) : Option Spur :=
  let tag := armTag o a
  match sp.live.routes[tag.toNat]? with
  | none => none
  | some r =>
    if !routeRoom s sp k tag r e.flit then none
    else
      match e.flit with
      | .step => some (sp.modLive fun b => { b with routes := b.routes.set tag.toNat r.advance })
      | f => some (sp.modLive fun b => b.send k tag r f)

/-- The head of output queue `n` of a context goes down every arm it can and still has to; it leaves the queue with the
last of them (R57, R74). -/
def sendHead (s : State) (c : CtxAt) (n : BitVec 3) (want : Flit → Bool) : State :=
  match s.working c with
  | none => s
  | some (sp, _, k) =>
    let o := nth k.obind n.toNat 0
    match k.outQ n with
    | [] => s
    | e :: rest =>
      if !entV o || entKd o == 2 || !want e.flit then s
      else
        let arms := owed (entKd o == 1) e
        let (sp, left) := arms.foldl (fun (x : Spur × List Bool) a =>
          match sendArm s k o e x.1 a with
          | some sp => (sp, x.2)
          | none => (x.1, x.2 ++ [a])) (sp, [])
        if left.length = arms.length then s
        else
          let q := if left.isEmpty then rest else { e with arm := if left == [true] then .a1 else .a0 } :: rest
          let sp := if e.flit.isTok then sp.phaseFill c.row c.col s.now else sp
          s.setSpur ((sp.modLive fun b => b.setCtx { k with oq := k.oq.set n.toNat q }).busy s.now)

/-- The flit is a step word. -/
def Flit.isStep : Flit → Bool
  | .step => true
  | .tok _ | .hdr _ | .seam | .cmd _ => false

/-- `OUTPUT_INJECTION` (R57 to R59, R400): tokens, headers, seam markers and commands. -/
def execOutputInjection (c : CtxAt) (o : BitVec 3) (s : State) : Out := .next (sendHead s c o fun f => !f.isStep)

/-- `STEP_WORD_FORWARD` (R59, R60, R85). -/
def execStepWordForward (c : CtxAt) (o : BitVec 3) (s : State) : Out := .next (sendHead s c o Flit.isStep)

/-- `LOOPBACK_DELIVERY` (R57): no binding is needed, a step word is discarded (R85), and a token ends the fill of a phase
(R112). -/
def execLoopbackDelivery (c : CtxAt) (o : BitVec 3) (s : State) : Out :=
  .next <| match s.working c with
    | none => s
    | some (sp, br, k) =>
      let b := nth k.obind o.toNat 0
      match k.outQ o with
      | [] => s
      | e :: rest =>
        if !entV b || entKd b != 2 then s
        else
          match sp.enqueue br { k with oq := k.oq.set o.toNat rest } (outLq b) false 0 e.flit s.now with
          | some sp =>
            let sp := if e.flit.isTok then sp.phaseFill c.row c.col s.now else sp
            s.setSpur (sp.busy s.now)
          | none => s

/-! ## Control tokens (R61) -/

/-- Put an entry on the path of a grout entry. -/
def Body.putPath (b : Body) (k : Ctx) (j n : Nat) (e : W32) (x : KEnt) : Body :=
  let p : GPath := ⟨k.row, k.col, k.idx, BitVec.ofNat 2 j, BitVec.ofNat 2 n, e, []⟩
  let hit (q : GPath) : Bool := { q with bits := [] } == p
  { b with paths := if b.paths.any hit then updFirst hit (fun q => { q with bits := q.bits ++ [x] }) b.paths
                    else b.paths ++ [{ p with bits := [x] }] }

/-- Bits on the path of a grout entry. -/
def Body.pathLen (b : Body) (k : Ctx) (j n : Nat) (e : W32) : Nat :=
  let p : GPath := ⟨k.row, k.col, k.idx, BitVec.ofNat 2 j, BitVec.ofNat 2 n, e, []⟩
  match b.paths.find? fun q => { q with bits := [] } == p with
  | some q => bitCount q.bits
  | none => 0

/-- The valid grout entries of a control output, with their numbers. -/
def Ctx.groutEnts (k : Ctx) (j : Nat) : List (Nat × W32) :=
  ((upTo 4).map fun n => (n, nth k.grout (4 * j + n) 0)).filter fun x => entV x.2

/-- The head of a control output leaves for all its destinations, where each has a free slot on its path (R61, R354);
it does not end the fill of a phase (DEDUCED, log 153). -/
def groutLeave (s : State) (c : CtxAt) (j : Nat) : State :=
  match s.working c with
  | none => s
  | some (sp, _, k) =>
    match nth k.jq j [] with
    | [] => s
    | e :: rest =>
      let ents := k.groutEnts j
      let room (x : Nat × W32) : Bool := decide (sp.live.pathLen k j x.1 x.2 <
        Config.groutSegment * segments k.row.toNat k.col.toNat (grRow x.2).toNat (grCol x.2).toNat)
      if ents.isEmpty || !(e == .seam || ents.all room) then s
      else
        let put (b : Body) : Body := ents.foldl (fun b x => b.putPath k j x.1 x.2 e) (b.setCtx { k with jq := k.jq.set j rest })
        s.setSpur ((sp.modLive put).busy s.now)

/-- `CONTROL_TOKEN_DELIVERY` (R61): the head of `j` leaves, or the oldest bit on a path arrives. -/
def execControlTokenDelivery (c : CtxAt) (j : BitVec 2) (arrive : Option (BitVec 2)) (s : State) : Out :=
  .next <| match arrive with
    | none => groutLeave s c j.toNat
    | some n =>
      match s.spur? c.h with
      | none => s
      | some sp =>
        if !s.active sp then s
        else
          match sp.live.path? c j n with
          | none => s
          | some p =>
            match p.bits with
            | .bit v :: _ => (match sp.arriveK p (.bit v) with | some sp => s.setSpur (sp.busy s.now) | none => s)
            | _ => s

/-! ## Reconfiguration (R68, R105) -/

/-- `SEAM_AUTO_APPEND` (R68): with the token arrived and every bound queue at its seam, the outputs are seamed. -/
def execSeamAutoAppend (c : CtxAt) (s : State) : Out :=
  .next <| match s.working c with
    | none => s
    | some (sp, br, k) =>
      match k.recon with
      | some r =>
        if r.arrived && k.seamsIn sp.live br && !k.allSeamed then
          s.setSpur (sp.modLive fun b => b.setCtx k.seamEvery)
        else s
      | none => s

/-- `RECONFIGURATION_TOKEN_ARRIVAL` (R105). -/
def execReconfigurationTokenArrival (c : CtxAt) (s : State) : Out :=
  .next <| match s.spur? c.h with
    | none => s
    | some sp =>
      if !s.active sp then s
      else
        s.setSpur (sp.modLive fun b => b.modCtx c fun k => { k with recon := k.recon.map fun r => { r with arrived := true } })

end Sys2Proof.Machine
end

