-- ==== Sys2Proof/Machine/Inside.lean ====
section
/-! DEFINITION. Events inside a spur: sequencer patterns (R100 to R102, R227, R299), the tile table (R183, R184, R189,
R191), waiting atomics and presence reads (R235, R246), and returning loads (R234). -/

namespace Sys2Proof.Machine

open Sys2Proof

/-! ## Sequencer patterns -/

/-- The view of a context outside any firing. -/
def enterCtx (s : State) (c : CtxAt) : Option Ex :=
  match s.spur? c.h with
  | none => none
  | some sp =>
    match sp.live.brick? c.row c.col, sp.live.ctx? c.row c.col c.ctx with
    | some br, some k =>
      some ⟨s, sp, .ctx c, 0, 0, false, false, BGuard.always, br, k, k, sp.live.th, none, false, none⟩
    | _, _ => none

/-- The cause of a pattern's fault: no slot fired (R101). -/
def Ex.patCause (x : Ex) (f : Flt) : Cause := { x.cause f with node := 0xFFFFFFFF, slot := 0xFF, loops := [] }

/-- The word at place `j` of a read pattern (R100, R101, R227). -/
def Ex.patRead (x : Ex) (q : Pattern) (j : Nat) : Ex × W32 :=
  let t := q.wordAt j
  if q.space = 2 then (x, BitVec.ofNat 32 (readNat x.br.bank (t.emod 65536).toNat 4))
  else
    let tg := if q.space = 1 then .vault (if t < 0 then 2 ^ 24 else t.toNat) else .virt (t.emod (2 ^ 64)).toNat
    let (x, p) := x.place tg 4 4 .read none
    (x, if x.ok then BitVec.ofNat 32 (ofBytes (x.bytesAt p 4)) else 0)

/-- Words of read patterns that wait in a port. -/
def Board.waiting (b : Board) : Nat := ((b.old ++ b.active.toList).map fun q => q.buf.length).foldl (· + ·) 0

/-- `STREAM_PATTERN_DELIVERY` (R100, R101, R161, R299): the active read pattern of a port without a descriptor delivers
its next word. A write pattern's words move at their firings (R234). -/
def execStreamPatternDelivery (c : CtxAt) (p : Port) (s : State) : Out :=
  .next <| match enterCtx s c with
    | none => s
    | some x =>
      let b := nth x.cx.board (Port.idx p) Board.idle
      match b.active with
      | none => s
      | some q =>
        if !s.active x.sp || !x.cx.conf || q.write || (nth x.cx.att (Port.idx p) none).isSome || q.words ≤ q.moved ||
            Config.streamPort ≤ b.waiting || !x.sp.gateOpen c.row c.col q then s
        else
          let (x, w) := x.patRead q q.moved
          match x.fault with
          | some f => x.s.modSpur c.h fun sp => sp.addCause (x.patCause f)
          | none =>
            if x.wait then x.s
            else
            let put (q : Pattern) : Pattern := { q with buf := q.buf ++ [w], moved := q.moved + 1 }
            { x with
              cx := { x.cx with board := upd x.cx.board (Port.idx p) fun b => { b with active := b.active.map put } }
              sp := x.sp.busy s.now }.back

/-- `STREAM_PATTERN_COMPLETE` (R102): a read pattern whose last word is delivered, or a write pattern whose last word is
taken; the next one becomes active. -/
def execStreamPatternComplete (c : CtxAt) (p : Port) (s : State) : Out :=
  .next <| match s.spur? c.h with
    | none => s
    | some sp =>
      if !s.active sp then s
      else
        match (sp.live.ctx? c.row c.col c.ctx).bind fun k => (nth k.board (Port.idx p) Board.idle).active with
        | none => s
        | some q =>
          if !(if q.write then decide (q.rows ≤ q.row) else decide (q.words ≤ q.moved)) then s
          else
            let turn (b : Board) : Board :=
              { old := b.old ++ (if !q.write && decide (q.row < q.rows) then [q] else []), active := b.pend.head?,
                pend := b.pend.drop 1 }
            s.setSpur ((sp.modLive fun b => b.modCtx c fun k => { k with board := upd k.board (Port.idx p) turn }).busy s.now)

/-! ## The tile table -/

/-- Change a brick of a spur that is active. -/
def State.modBrick (s : State) (b : BrickAt) (f : Brick → Brick) : State :=
  match s.spur? b.h with
  | none => s
  | some sp =>
    match sp.live.brick? b.row b.col with
    | some k => if s.active sp then s.setSpur (sp.modLive fun l => l.setBrick (f k)) else s
    | none => s

/-- `SLOT_FILL_COMPLETE` (R183). -/
def execSlotFillComplete (b : BrickAt) (m : BitVec 2) (s : State) : Out :=
  .next (s.modBrick b fun k => k.modSlot m.toNat Slot.filled)

/-- `ARRAY_PASS_COMPLETE` (R183, R184, R191). -/
def execArrayPassComplete (b : BrickAt) (s : State) : Out := .next (s.modBrick b Brick.passDone)

/-- `TILE_READ_COMPLETE` (R184). -/
def execTileReadComplete (b : BrickAt) (x : BitVec 2) (s : State) : Out :=
  .next (s.modBrick b fun k => k.modAcc x.toNat Acc.readDone)

/-- Change slot `m` of a brick of a body. -/
def Body.modSlotAt (b : Body) (k : Brick) (m : Nat) (f : Slot → Slot) : Body :=
  match b.brick? k.row k.col with
  | some k => b.setBrick (k.modSlot m f)
  | none => b

/-- `BUS_TRANSFER` (R189). -/
def execBusTransfer (h : Handle) (col : Bool) (n did : BitVec 8) (s : State) : Out :=
  .next <| match s.spur? h with
    | none => s
    | some sp =>
      match sp.live.transfer col n did with
      | some (x, dest) =>
        let t := x.2.2
        if !s.active sp then s
        else
          match misfits x dest with
          | c :: l => s.setSpur ((c :: l).foldl Spur.addCause sp)
          | [] =>
            let take (r : Slot) : Slot := { r with st := .ready, bus := false, lines := t.lines, scales := t.scales, fmt := t.fmt }
            let b := dest.foldl (fun b y => b.modSlotAt y.1 y.2.1 take) sp.live
            let b := b.modSlotAt x.1 x.2.1 fun r => { r with st := .ready, send := false }
            s.setSpur ({ sp with live := b }.busy s.now)
      | none => s

/-! ## Waits that end -/

/-- Try again the instruction that an agent waits at, where `f` knows it. -/
def retry (a : AgentId) (f : Instr → Option (State → Out)) (s : State) : Out :=
  match a with
  | .ctx c =>
    if ((s.ctx? c).bind (·.wait)).isNone then .next s
    else
      match trigger s c.brick 0 with
      | (t, some (d, n, i)) =>
        (match f i with
          | some g => if d = c then g { t with agent := .firing c n, late := false } else .next s
          | none => .next s)
      | (_, none) => .next s
  | .thread h =>
    match fetch s h with
    | (t, .word i) =>
      (match f i with
        | some g => g { t with agent := .thread h, late := false }
        | none => .next s)
    | _ => .next s

/-- The meaning of an atomic. -/
def atomicMeaning : Instr → Option (State → Out)
  | .amoadd g o sc w d a b => some (execAmoadd g o sc w d a b)
  | .amoand g o sc w d a b => some (execAmoand g o sc w d a b)
  | .amoor g o sc w d a b => some (execAmoor g o sc w d a b)
  | .amoxor g o sc w d a b => some (execAmoxor g o sc w d a b)
  | .amomin g o sc w d a b => some (execAmomin g o sc w d a b)
  | .amomax g o sc w d a b => some (execAmomax g o sc w d a b)
  | .amominu g o sc w d a b => some (execAmominu g o sc w d a b)
  | .amomaxu g o sc w d a b => some (execAmomaxu g o sc w d a b)
  | .amoswap g o sc w d a b => some (execAmoswap g o sc w d a b)
  | .amofadd g o sc w d a b => some (execAmofadd g o sc w d a b)
  | .cas g o sc w d a b => some (execCas g o sc w d a b)
  | _ => none

/-- The meaning of a presence read. -/
def ldpMeaning : Instr → Option (State → Out)
  | .ldp g w d a b => some (execLdp g w d a b)
  | _ => none

/-- `ATOMIC_PERFORM` (R235): the atomic that an agent waits at is tried. -/
def execAtomicPerform (a : AgentId) (s : State) : Out := retry a atomicMeaning s


/-- `LOAD_VALUE_RETURN` (R234). -/
def execLoadValueReturn (a : AgentId) (s : State) : Out :=
  .next <| match a with
    | .ctx c => landB s c
    | .thread h => landS s h

/-- A load of an agent has its value, and has still to take effect. -/
def State.loadOf (s : State) (a : AgentId) : Option PendLoad :=
  match a with
  | .ctx c => (s.ctx? c).bind (·.load)
  | .thread h => (s.thread? h).bind (·.load)

/-- `LDP_DEFERRED_COMPLETE` (R246): a deferred read whose word has been filled takes effect with the value it then had; one
that the table refused is tried again. -/
def execLdpDeferredComplete (a : AgentId) (s : State) : Out :=
  if (s.loadOf a).isSome then execLoadValueReturn a s else retry a ldpMeaning s

end Sys2Proof.Machine
end

