-- ==== Sys2Proof/Machine/Paging.lean ====
section
/-! DEFINITION. The pager and its free rings, invalidations and migrations that take effect, and the completion of a
waiting `tlbsync` (R271, R274, R275, R278 to R281). -/

namespace Sys2Proof.Machine

open Sys2Proof

/-! ## The pager (R274) -/

/-- A command queue becomes defunct, with its notice (R387, R443). -/
def State.makeDefunct (s : State) (q va reason : Nat) : State :=
  let d := s.qDesc q
  if d.df then s else (s.setDefunct q).notice d.dom 1 q 0 (toBytes 8 va ++ toBytes 1 reason)

/-- The pager forwards a fault that it cannot resolve (R269, R274): a spur stops, a stowed one once it is restored, a job
fails where it stands, and a command queue becomes defunct. -/
def State.forward (s : State) (t : FaultTok) (f : TFault) (noFrame : Bool) : State :=
  match t.who with
  | .job j => jobForward s j t.ask.va f noFrame
  | .lintel q => s.makeDefunct q t.ask.va 3
  | .device _ => s
  | .spur h =>
    match s.spur? h, t.cause with
    | some sp, some c =>
      if !sp.paging then s
      else
        let c : Cause := if f.kind == .lost then { c with cls := 11, detail := BitVec.ofNat 64 f.addr, body := 3 :: zeros 15 }
          else { c with body := tBody t.ask.asid t.ask.va (AccK.ofCode t.ask.acc) f noFrame }
        let c : Cause := { c with page := none }
        if sp.life == .stowed then s.setSpur { sp with paging := false, sFault := some c, sStop := c.ctx == 0xFF }
        else stopWith s { sp with paging := false } c (c.ctx == 0xFF)
    | _, _ => s

/-- The spur of a fault token has still to move at the mark its fault made (R96, R351). -/
def State.moveLeft (s : State) (t : FaultTok) : Bool :=
  match t.who with
  | .spur h => (match s.spur? h with | some sp => sp.moveLeft | none => false)
  | .job _ | .lintel _ | .device _ => false

/-- `PAGER_SERVICE` (R274): the oldest fault token passes its stages, and a fault that the pager cannot resolve goes on. -/
def execPagerService (s : State) : Out :=
  .next <|
    let s := match s.pagerFwd, s.pagerQ with
      | [], t :: r => ({ s with pagerQ := r } : State).serve t
      | _, _ => s
    match s.pagerFwd with
    | (t, f, noFrame) :: r => if s.moveLeft t then s else ({ s with pagerFwd := r } : State).forward t f noFrame
    | [] => s

/-- Some fault token of a spur is still with the pager. -/
def State.inPager (s : State) (h : Handle) : Bool := s.pagerToks.any fun t => t.who == .spur h

/-- `PAGER_ACKNOWLEDGE` (R274): the round is executed again once the pager owes the spur nothing. -/
def execPagerAcknowledge (s : State) : Out :=
  .next <| match s.pagerAck with
    | [] => s
    | t :: r =>
      let s := { s with pagerAck := r }
      match t.who with
      | .spur h =>
        if s.inPager h then s
        else s.modSpur h fun sp => if sp.paging then { ((sp.busy s.now).openRound s.now) with paging := false } else sp
      | .job j => (match s.job? j with
        | some j => s.stir (AgentId.handle j.cmd.who)
        | none => s)
      | .lintel _ | .device _ => s

/-! ## Invalidations and migrations (R271, R278, R280) -/

/-- A cached entry translates an address of a range, or stands on the walk path of one (R271, R278). -/
def CacheEnt.inRange (c : CacheEnt) (all : Bool) (asid lo hi : Nat) : Bool :=
  let span := 2 ^ (12 + 9 * c.level) * (if entBit c.ent 0 && entBit c.ent 1 && entBit c.ent 10 then 16 else 1)
  (all || c.asid == asid) && (c.level == 5 || overlap (c.tag * span) span lo (hi - lo))

/-- `INVALIDATION_EFFECT` (R278, R279): one cache removes what the range names. -/
def execInvalidationEffect (n : Nat) (u : CacheUnit) (s : State) : Out :=
  .next <| match s.posted.find? fun p => p.id == n with
    | none => s
    | some p =>
      match p.kind with
      | .migr .. => s
      | .inv all asid lo hi =>
        if !p.left.contains u then s
        else
          let left := p.left.filter (· != u)
          { s.stir p.by_ with
            caches := s.caches.filter fun c => !(c.unit_ == u && c.inRange all asid lo hi)
            posted := updFirst (fun p => p.id == n) (fun p => { p with left := left, isOver := left.isEmpty }) s.posted }

/-- Every earlier access to a page has drained: no round holds a write of it, and no load or deferred read of it is out
(R279, R280). -/
def State.heldFree (s : State) (asid lo hi : Nat) : Bool :=
  (s.spurs.all fun sp => !(sp.live.held.any fun h => h.inRange false asid lo hi)) && s.loadFree false asid lo hi

/-- `MIGRATION_PERFORM` (R280, R281): with a pin set on the page nothing happens yet; then every new translation of the page
is held and the rounds that hold writes of it are made stale, and when every earlier access has drained the page moves. -/
def execMigrationPerform (n : Nat) (s : State) : Out :=
  .next <| match s.posted.find? fun p => p.id == n with
    | none => s
    | some p =>
      match p.kind with
      | .inv .. => s
      | .migr asid va frame size ent addr =>
        if p.isOver || s.pins.any (fun q => q.holds false asid va (va + size)) then s
        else if !p.left.isEmpty then
          { (s.markStale false asid va (va + size)) with
            posted := updFirst (fun p => p.id == n) (fun p => { p with left := [] }) s.posted }
        else if !s.heldFree asid va (va + size) then s
        else
          let s := s.copyFrame (entFrame ent) frame size
          let e := (ent &&& ~~~0xFFFFFFFFFF000#64) ||| BitVec.ofNat 64 frame
          let s := s.putNat addr 8 e.toNat
          { s with
            caches := s.caches.filter fun c => !(entBit c.ent 0 && entBit c.ent 1 && c.inRange true asid va (va + size))
            posted := updFirst (fun p => p.id == n) (fun p => { p with isOver := true }) s.posted }

/-- `TLBSYNC_COMPLETE` (R279): the thread's waiting `tlbsync` is tried. -/
def execTlbsyncComplete (h : Handle) (s : State) : Out :=
  match fetch s h with
  | (t, .word (.tlbsync g d)) => execTlbsync g d { t with agent := .thread h, late := false }
  | _ => .next s

end Sys2Proof.Machine
end

