-- ==== Sys2Proof/Machine/Recovery.lean ====
section
/-! DEFINITION. A handler's actions (R407, R408), uncorrectable errors (R409), failed links (R394), the reload of the lintel
(R417), and the fatal stop with its dump (R418 to R420, R425). -/

namespace Sys2Proof.Machine

open Sys2Proof

/-! ## Handler actions (R407, R408) -/

/-- A write of `fax` that names a spur and an action. -/
def faxWord (h : Handle) (act : Nat) : W64 := BitVec.ofNat 64 (h.toNat * 2 ^ 32 + act * 2 ^ 28)

/-- `FAULT_ACTION_RESUME` (R408, action 1). -/
def execFaultActionResume (w : Writer) (h : Handle) (s : State) : Out := .next (writeFax s (unheld w) (faxWord h 1))

/-- `FAULT_ACTION_SKIP` (R408, action 2). -/
def execFaultActionSkip (w : Writer) (h : Handle) (s : State) : Out := .next (writeFax s (unheld w) (faxWord h 2))

/-- `FAULT_ACTION_RETIRE` (R408, action 3): the spur ends once its jobs have completed. -/
def execFaultActionRetire (w : Writer) (h : Handle) (s : State) : Out := .next (writeFax s (unheld w) (faxWord h 3))

/-- `FAULT_ACTION_BREAKS_OFF` (R408, action 4). -/
def execFaultActionBreaksOff (w : Writer) (h : Handle) (s : State) : Out := .next (writeFax s (unheld w) (faxWord h 4))

/-- `FAULT_ACTION_NODE_OFF` (R408, action 5). -/
def execFaultActionNodeOff (w : Writer) (h : Handle) (s : State) : Out := .next (writeFax s (unheld w) (faxWord h 5))

/-! ## Errors (R409) -/

/-- A data-lost cause: the space and the address (R401, R403). -/
def lostCause (space : BitVec 8) (addr : W64) : Cause :=
  ⟨11, addr, 0xFFFFFFFF, 0xFF, 0xFF, [], space :: zeros 15, 0, 0, none⟩

/-- The cause of data lost by a read of an agent: a firing's slot, a thread's word, or a context outside any firing (R402). -/
def readCause (s : State) (who : AgentId) (slot : Option (BitVec 4)) (space : BitVec 8) (addr : W64) : Cause :=
  let f := lostFlt space addr
  let x : Option Ex := match who, slot with
    | .thread h, _ => enterS s h
    | .ctx c, some n =>
      match ((s.ctx? c).bind fun k => k.instr? n.toNat).bind fun i => (guardOf i).map fun g => (i, g) with
      | some (i, .b g) => enterB s c n i g
      | _ => none
    | .ctx _, none => none
  match x, who with
  | some x, _ => x.cause f
  | none, .ctx c => (match enterCtx s c with | some x => x.patCause f | none => lostCause space addr)
  | none, .thread _ => lostCause space addr

/-- The round of a running spur meets an error. -/
def State.errorAt (s : State) (h : Handle) (f : Spur → Spur) : State :=
  s.modSpur h fun sp => if sp.life == .running && !sp.final then f sp else sp

/-- `UNCORRECTABLE_ERROR` (R409). -/
def execUncorrectableError (e : ErrSite) (s : State) : Out :=
  .next <| match e with
    | .read who slot space addr =>
      s.errorAt (AgentId.handle who) fun sp => sp.badRead space addr (readCause s who slot space addr)
    | .spurState h good => s.errorAt h fun sp => if good then { sp with retry := true } else sp.addCause (lostCause 4 0)
    | .heldWrite h => s.errorAt h fun sp => { sp with retry := true }
    | .engineRead j addr =>
      match s.job? j with
      | some k => if k.st == .running then s.setJob (k.fail 9 (k.reached addr.toNat) addr) else s
      | none => s

/-- `CORRECTED_ERROR` (R409): it is counted. -/
def execCorrectedError (s : State) : Out := .next { s with corrected := s.corrected + 1 }

/-- The space of a word that a scrub pass finds, and its address: a physical address, or of SRAM the offset in its bank behind the
number of the brick (R403, log 139). -/
def badPlace : BadWord → BitVec 8 × Nat
  | .mem pa => (3, pa)
  | .sram brick off => (0, 65536 * brick + off)

/-- `SCRUB` (R409): each uncorrectable word found is logged; one of memory stays bad until it is rewritten. -/
def execScrub (bad : List BadWord) (s : State) : Out :=
  let mark (l : List Nat) (b : BadWord) : List Nat := match b with | .mem a => insertKey id a l | .sram .. => l
  .next { s with
    badWords := bad.foldl mark s.badWords
    klog := s.klog ++ bad.map fun b => record 3 11 (BitVec.ofNat 64 (badPlace b).2) 0 0 0xFFFFFFFF 0xFF 0xFF 0 [] ((badPlace b).1 :: zeros 15) }

/-! ## Links (R394) -/

/-- `LINK_FAILURE` (R16, R394): every spur that sends or receives on a channel that the link carries takes its fault at its
next mark. -/
def execLinkFailure (link : BitVec 8) (s : State) : Out :=
  .next ({ s with links := insertKey BitVec.toNat link s.links }.failLinks (· == link) fun _ => true)

/-! ## The keystone core (R417 to R420) -/

/-- `LINTEL_RELOAD` (R417): the pager's pending fault tokens and the lintel's unpresented packets are replayed in their
order of arrival, and the spurs see only delay. -/
def execLintelReload (s : State) : Out := .next { s with gated := false }

/-- A section of the dump (R420): its type, entry count and length, and its entries. -/
def dumpPart (ty : Nat) (x : Nat × List Byte) : List Byte := toBytes 4 ty ++ toBytes 4 x.1 ++ toBytes 8 x.2.length ++ x.2

/-- A section of the dump from its entries. -/
def dumpOf (ty : Nat) (l : List (List Byte)) : List Byte := dumpPart ty (l.length, l.flatMap id)

/-- The state of a spur as the dump numbers it, in the order of R334 (log 125). -/
def Life.code : Life → Nat
  | .requested => 0 | .loading => 1 | .running => 2 | .yielded => 3 | .stowed => 4 | .stopped => 5 | .ended => 6

/-- A spur's entry of the dump: handle, domain, state, image address, round count, and the massif, row, column, height and
width of its rectangle (R420, log 125). -/
def Spur.dumped (sp : Spur) : List Byte :=
  toBytes 4 sp.handle.toNat ++ toBytes 2 sp.dom ++ toBytes 1 sp.life.code ++ zeros 1 ++ toBytes 8 sp.img.addr.toNat ++
    toBytes 8 sp.rnd.toNat ++
    [sp.site.massif, sp.site.row, sp.site.col, sp.img.hd.ht, sp.img.hd.wd].flatMap (toBytes 1) ++ zeros 3

/-- The entry of a placed spur's thread: ridge, its place among the threads there, `pc`, `sst`, `g0` to `g31` and the flags
(R420, log 125). -/
def Thread.dumped (t : Thread) (ridge n : Nat) : List Byte :=
  toBytes 4 ridge ++ toBytes 4 n ++ toBytes 8 t.pc.toNat ++ toBytes 8 t.sst.toNat ++
    (t.g.flatMap fun v => toBytes 8 v.toNat) ++ toBytes 1 t.f.toNat ++ zeros 7

/-- The entries of the threads (R420). -/
def dumpThreads (s : State) : List (List Byte) :=
  let l := s.spurs.filter fun x => x.placed && x.live.th.hasSeq
  (l.zip (upTo l.length)).map fun x =>
    x.1.live.th.dumped x.1.home (((l.take x.2).filter fun y => y.home == x.1.home).length)

/-- The entries of the queues: each command queue in use with its TAIL, the packets fetched and not presented, and its
descriptor, and each domain queue with its TAIL (R420, log 125). -/
def dumpQueues (s : State) : List (List Byte) :=
  (((upTo 4096).filter fun q => (s.qDesc q).v).map fun q =>
    toBytes 4 1 ++ toBytes 4 q ++ toBytes 4 (s.ctl.notify? q).tail.toNat ++
      toBytes 4 (s.fetched.filter fun p => p.q == q).length ++ readBytes s.mem (s.qAddr q) 64) ++
  (upTo 65536).flatMap fun d =>
    match s.dom? d with
    | none => []
    | some y => (upTo y.dqn).filterMap fun q =>
        match (devGet s ⟨0, d, y.asid⟩ .read (y.dqb + 32 * q) 4).2 with
        | .ok ws => some (toBytes 4 2 ++ toBytes 2 d ++ toBytes 2 q ++ toBytes 4 ((nth ws 2 0).toNat / 2 ^ 32) ++ zeros 4)
        | .error _ => none

/-- The number of a translation unit in the dump (log 125). -/
def unitCode : CacheUnit → Nat
  | .bedrock m => m.toNat
  | .lintel m => 4 + m.toNat
  | .ise m n => 8 + 16 * m.toNat + n.toNat

/-- A cached leaf's entry: unit, ASID, size code (R265), first virtual address and the one after the last, and frame (R420,
log 125). -/
def CacheEnt.dumped (c : CacheEnt) : List Byte :=
  let size := leafSize c.level c.ent
  toBytes 2 (unitCode c.unit_) ++ toBytes 2 c.asid ++ toBytes 1 (2 * c.level + if entBit c.ent 10 then 1 else 0) ++ zeros 3 ++
    toBytes 8 (c.tag * size) ++ toBytes 8 (c.tag * size + size) ++ toBytes 8 (entFrame c.ent)

/-- A flit in the dump, 16 bytes (log 125): its kind, tag and payload, and in the last 8 a header, a command's card, or the
header that a token carries. -/
def Flit.dumped (hdr : W64) : Flit → List Byte
  | .tok t => [if t.stop then 1 else 0, t.tag.zeroExtend 8] ++ zeros 2 ++ toBytes 4 t.pay.toNat ++ toBytes 8 hdr.toNat
  | .hdr h => toBytes 8 2 ++ toBytes 8 h.toNat
  | .seam => toBytes 8 3 ++ zeros 8
  | .step => toBytes 8 4 ++ zeros 8
  | .cmd c => [5, match c.cls with | .hod => 0 | .coll => 1 | .isq => 2 | .probe => 3 | .unpin => 4] ++ zeros 6 ++
      toBytes 8 c.card.toNat

/-- A queue's contents in the dump: their count and each entry (log 125). -/
def dumpQueue (l : List (List Byte)) : List Byte := toBytes 8 l.length ++ l.flatMap id

/-- An entry of an input queue in the dump. -/
def InEnt.dumped : InEnt → List Byte
  | .tok t h _ => (Flit.tok t).dumped h
  | .seam => Flit.seam.dumped 0

/-- An arm of an input queue in the dump: the header latched for it, and its entries (log 125). -/
def dumpArm (hdr : W64) (l : List InEnt) : List Byte := toBytes 8 hdr.toNat ++ dumpQueue (l.map InEnt.dumped)

/-- An entry of a control queue in the dump. -/
def KEnt.dumped : KEnt → List Byte
  | .bit b => toBytes 8 (if b then 1 else 0)
  | .seam => toBytes 8 3

/-- A context of a brick in the dump: its number, `cst`, and its queues (R420, log 125). -/
def Ctx.dumped (k : Ctx) : List Byte :=
  toBytes 4 k.idx.toNat ++ toBytes 4 k.cst.toNat ++
    (k.iq.flatMap fun q => dumpArm q.hdr0 q.arm0 ++ dumpArm q.hdr1 q.arm1) ++
    (k.kq.flatMap fun q => dumpQueue (q.map KEnt.dumped)) ++ (k.oq.flatMap fun q => dumpQueue (q.map (·.flit.dumped 0))) ++
    k.jq.flatMap fun q => dumpQueue (q.map KEnt.dumped)

/-- The entries of the bricks: owner, brick number, active context, and each context (R420, log 125). -/
def dumpBricks (s : State) : List (List Byte) :=
  (s.spurs.filter (·.placed)).flatMap fun sp => sp.live.bricks.map fun b =>
    let ks := sp.live.ctxs.filter fun k => k.row == b.row && k.col == b.col
    toBytes 4 sp.handle.toNat ++ toBytes 4 (sp.brickNo b.row.toNat b.col.toNat) ++ toBytes 4 b.active.toNat ++
      toBytes 4 ks.length ++ ks.flatMap Ctx.dumped

/-- The sections of the dump in their order, from the state as it stands at the stop (R420). -/
def dumpParts (s : State) : List Byte :=
  dumpOf 1 s.klog ++ dumpOf 2 (s.spurs.map Spur.dumped) ++ dumpOf 3 (dumpThreads s) ++ dumpOf 4 (dumpQueues s) ++
    dumpOf 5 ((s.caches.filter fun c => c.level != 5 && entBit c.ent 1).map CacheEnt.dumped) ++ dumpOf 6 (dumpBricks s)

/-- The dump with its header, cut at `len` bytes (R420). -/
def dumpBytes (s : State) (seq cause len : Nat) : List Byte :=
  let parts := dumpParts s
  let n := min len (64 + parts.length)
  (toBytes 8 (seq * 2 ^ 32 + cause * 2 ^ 16) ++ toBytes 8 s.now ++ toBytes 8 n ++ zeros 40 ++ parts).take n

/-- The device stops (R418): open rounds are abandoned with what they hold, and the dump is written where a region is
named (R419). -/
def fatal (cause : Nat) (s : State) : State :=
  if s.stopped then s
  else
    let base := s.ctl.fdb.toNat
    let len := bitsOf s.ctl.fdl.toNat 20 20 * 2 ^ 20
    let seq := bitsOf s.ctl.fds.toNat 32 32
    if base = 0 then
      { s with stopped := true, ctl := { s.ctl with fds := BitVec.ofNat 64 (seq * 2 ^ 32 + cause * 2 ^ 16) } }
    else
      let l := dumpBytes s (seq + 1) cause len
      let st := if len < 64 + (dumpParts s).length then 3 else 2
      { s with
        stopped := true
        mem := writeBytes s.mem base l
        ctl := { s.ctl with fds := BitVec.ofNat 64 ((seq + 1) * 2 ^ 32 + cause * 2 ^ 16 + st) }
        signals := s.signals ++ [.dump cause] }

/-- `FATAL_STOP` (R418, R419): only for the causes that R419 numbers. -/
def execFatalStop (cause : BitVec 16) (s : State) : Out :=
  .next (if 1 ≤ cause.toNat ∧ cause.toNat ≤ 4 then fatal cause.toNat s else s)

/-- `KEYSTONE_WATCHDOG_EXPIRY` (R418, R419: cause 3). -/
def execKeystoneWatchdogExpiry (s : State) : Out := .next (fatal 3 s)

/-- `THERMAL_EMERGENCY` (R425: cause 4). -/
def execThermalEmergency (s : State) : Out := .next (fatal 4 s)

end Sys2Proof.Machine
end

