-- ==== Sys2Proof/Machine/Health.lean ====
section
/-! DEFINITION. Power, health and boot (R421 to R429), resets (R418, R428), and the ports that show them (R395). -/

namespace Sys2Proof.Machine

open Sys2Proof

/-! ## Power and ageing (R421 to R426) -/

/-- `RIDGE_POWER_ON` (R421): the next ridge powers on, one every 2 microseconds. -/
def execRidgePowerOn (s : State) : Out :=
  .next (if s.powered < Config.ridges ∧ 2 * Config.cyclesPerUs * s.powered ≤ s.now then { s with powered := s.powered + 1 } else s)

/-- The throttle level after an adjustment (R423). -/
def throttle (level limit pwr tj : Nat) : Nat :=
  if limit < pwr ∨ 95 ≤ tj then min 15 (level + 1) else if pwr + 50 ≤ limit ∧ tj ≤ 90 then level - 1 else level

/-- `THROTTLE_ADJUST` (R423 to R425): the controller reads power and temperature, and sets the level; from 110 °C on the
device stops. -/
def execThrottleAdjust (pwr : BitVec 12) (tj : BitVec 8) (s : State) : Out :=
  .next <|
    let level := throttle (bitsOf s.ctl.pws.toNat 40 4) s.ctl.pwl.toNat pwr.toNat tj.toNat
    let s := { s with ctl := { s.ctl with pws := BitVec.ofNat 64 (level * 2 ^ 40 + tj.toNat * 2 ^ 32 + pwr.toNat) } }
    if 110 ≤ tj.toNat then fatal 4 s else s

/-- `AGEING_UPDATE` (R426). -/
def execAgeingUpdate (ridge : Nat) (life : BitVec 32) (slow : BitVec 16) (mrg : BitVec 8) (s : State) : Out :=
  .next <|
    let low := if life.toNat < 1000 then 1 else 0
    let v : W64 := BitVec.ofNat 64 (life.toNat * 2 ^ 32 + slow.toNat * 2 ^ 16 + mrg.toNat * 2 ^ 8 + low)
    { s with ctl := { s.ctl with agm := upd s.ctl.agm ridge fun _ => v } }

/-! ## Boot (R427, R428) -/

/-- A part of a firmware image. -/
def slice (l : List Byte) (lo hi : Nat) : List Byte := (l.take hi).drop lo

/-- The digest of a firmware image (R427). -/
def imageDigest (l : List Byte) : BitVec 512 := Config.shake256 (slice l 4096 (ofBytes (slice l 8 16)) ++ slice l 0 16)

/-- The security version of a firmware image. -/
def imageSvn (l : List Byte) : W32 := BitVec.ofNat 32 (ofBytes (slice l 4 8))

/-- Delxia accepts a firmware image (R427): signature, magic, and security version. -/
def imageGood (l : List Byte) (fuse : W32) : Bool :=
  Config.falconVerify (imageDigest l) (slice l 16 1552) && ofBytes (slice l 0 4) == 0x49375A4B &&
    decide (fuse.toNat ≤ (imageSvn l).toNat) && decide (16 ≤ l.length)

/-- `SECURE_BOOT` (R427, R428): the flash image is verified, measured and run, or the ROM loader takes over. -/
def execSecureBoot (s : State) : Out :=
  .next <|
    if s.boot != .off then s
    else if imageGood s.flash s.fuse then
      { s with boot := .booted, measurement := some (imageDigest s.flash), svn := imageSvn s.flash, fuse := imageSvn s.flash }
    else { s with boot := .loader }

/-- The package after a warm reset (R418, R429): memory, flash, fuses and the count of dumps since power-on stay. -/
def warm (s : State) : State :=
  { State.reset with
    tick := s.tick, pkg := s.pkg, mem := s.mem, full := s.full, badWords := s.badWords, issued := s.issued, flash := s.flash,
    fuse := s.fuse, resets := s.resets + 1,
    ctl := { Ctl.reset with fds := BitVec.ofNat 64 (bitsOf s.ctl.fds.toNat 32 32 * 2 ^ 32) } }

/-- `WARM_RESET` (R418). -/
def execWarmReset (s : State) : Out := .next (warm s)

/-- `POWER_LOSS` (R418, R428): only the flash and the fuses keep what they hold. -/
def execPowerLoss (s : State) : Out :=
  .next { State.reset with tick := s.tick, pkg := s.pkg, issued := s.issued, flash := s.flash, fuse := s.fuse }

/-- `ROM_LOADER_RECOVERY` (R428): a replacement that passes the checks is written to flash, and the package resets. -/
def execRomLoaderRecovery (img : List (BitVec 8)) (s : State) : Out :=
  .next (if s.boot == .loader && imageGood img s.fuse then warm { s with flash := img } else s)

/-! ## Ports (R395, R429) -/

/-- `ATTESTATION_REQUEST` (R429): the report reflects the state at the request. -/
def execAttestationRequest (nonce : BitVec 256) (s : State) : Out :=
  .next { s with reports := s.reports ++
    [⟨s.measurement, s.svn, s.fuse, nonce, s.unlocked, s.resets,
      Config.falconSign s.measurement s.svn s.fuse nonce s.unlocked s.resets⟩] }

/-- `DEBUG_UNLOCK` (R395, R429): a signed unlock holds until the next reset. -/
def execDebugUnlock (sig : List (BitVec 8)) (s : State) : Out :=
  .next (if Config.unlockVerify sig then { s with unlocked := true } else s)

/-- Physical addresses that reach the host's memory begin here (R15, R395). -/
def hostBase : Nat := 0x8000000000000

/-- A round holds a write to a range of host memory. -/
def Spur.holdsHost (sp : Spur) (base len : Nat) : Bool :=
  sp.live.held.any fun h => h.bank.isNone && overlap h.pa h.bytes.length (hostBase + base) len

/-- A load of a range of host memory, or a deferred presence read, has still to return. -/
def Spur.loadsHost (sp : Spur) (base len : Nat) : Bool := sp.loads.any fun r => overlap r.pa r.n (hostBase + base) len

/-- `ATS_INVALIDATION` (R279, R395): rounds that hold writes made under the removed translation become stale, and the
invalidation completes once none is left and every load made under it has returned. -/
def execAtsInvalidation (base len : Nat) (s : State) : Out :=
  .next (if s.spurs.any fun x => x.holdsHost base len || x.loadsHost base len then
      { s with spurs := s.spurs.map fun x => if x.holdsHost base len then { x with stale := true } else x }
    else { s with signals := s.signals ++ [.ats base len] })

end Sys2Proof.Machine
end

