-- ==== Sys2Proof/Machine/Lintel.lean ====
section
/-! DEFINITION. The lintels: notify writes, fetching and presenting packets, residence, teardown and gating (R22, R360,
R361, R385 to R393), the records of domain queues (R382), and writes of device control registers (R376, R440). -/

namespace Sys2Proof.Machine

open Sys2Proof

/-! ## Queues (R385 to R387) -/

/-- Packets that software has written and the lintel has not fetched. -/
def State.unfetched (s : State) (q : Nat) : Nat :=
  ((s.ctl.notify? q).tail.toNat + 2 ^ 32 - (s.qDesc q).head) % 2 ^ 32

/-- Why a queue becomes defunct as the lintel handles it (R387): its descriptor, its mapping, or its tail. -/
def State.queueFault (s : State) (q : Nat) : Option Nat :=
  let d := s.qDesc q
  if !d.ok then some 2
  else if !((s.pasid d.pasid).isSome && s.pasid d.pasid == (s.dom? d.dom).map (·.asid)) then some 0
  else if 2 ^ d.lgs < s.unfetched q then some 1
  else none

/-- The queue has a packet, fetched or in its ring. -/
def State.hasPacket (s : State) (q : Nat) : Bool :=
  (s.fetched.any fun p => p.q == q) || ((s.qDesc q).v && !(s.qDesc q).df && s.unfetched q != 0)

/-- The lintel handles a queue that was written (R387, R392): it clears the wake flag and checks the queue. A queue with
packets takes a resident slot where one is free (R360). Before the lintels are configured the flag stays (R427). -/
def lintelWake (s : State) (q : Nat) : State :=
  let n := s.ctl.notify? q
  if !n.wake || s.boot != .booted then s
  else
    let s := { s with ctl := s.ctl.setNotify { n with wake := false }, gated := false }
    match s.queueFault q with
    | some r => s.makeDefunct q 0 r
    | none =>
      if s.resident.any (fun r => r.q == q) || decide (Config.residentQueues ≤ s.resident.length) then s
      else { s with resident := s.resident ++ [⟨q, s.now⟩], leftAt := s.leftAt.filter fun x => x.1 != q }

/-- `NOTIFY_WRITE` (R387, R392): TAIL is stored, and the lintel wakes and handles the queue. -/
def execNotifyWrite (q : Nat) (tail : BitVec 32) (s : State) : Out :=
  .next (if q < 4096 then lintelWake (writeNotify s q tail) q else s)

/-- The massif whose lintel serves a queue (R387). -/
def lintelOf (q : Nat) : Nat := q % Config.massifs

/-- Read the words of a packet at virtual addresses (R270: the lintel is no user agent); one that stays bad fails the read
(R409, log 139). -/
def packetWords (u : CacheUnit) (asid : Nat) : Nat → Nat → State → State × Except DevFault (List W64)
  | 0, _, s => (s, .ok [])
  | n + 1, va, s =>
    match translate s u asid va ⟨.read, false, none⟩ with
    | (s, .error f) => (s, .error ⟨va, f⟩)
    | (s, .ok (pa, _)) =>
      if s.spoilt [(pa, 8)] then (s, .error ⟨va, ⟨.lost, 0xFF, 0, pa⟩⟩)
      else match packetWords u asid n (va + 8) s with
      | (s, .error e) => (s, .error e)
      | (s, .ok l) => (s, .ok (BitVec.ofNat 64 (s.physNat pa 8) :: l))

/-- `PACKET_FETCH` (R387, R427: the lintels work once they are configured): the packet at HEAD of a resident queue is
fetched. A not-present fault waits for the pager; any other makes the queue defunct. -/
def execPacketFetch (q : Nat) (s : State) : Out :=
  .next <|
    let s := lintelWake s q
    let d := s.qDesc q
    let waits := s.pagerToks.any fun t => t.who == .lintel q
    if s.boot != .booted || s.gated || waits || !d.v || d.df || s.unfetched q = 0 || !(s.resident.any fun r => r.q == q) then s
    else
      match s.queueFault q, s.pasid d.pasid with
      | some r, _ => s.makeDefunct q 0 r
      | none, none => s
      | none, some asid =>
        let va := d.ring + 64 * (d.head % 2 ^ d.lgs)
        if s.migrHolds asid va then s
        else match packetWords (.lintel (BitVec.ofNat 2 (lintelOf q))) asid 8 va s with
        | (s, .ok ws) => { s.setHead q (d.head + 1) with fetched := s.fetched ++ [⟨q, ws⟩] }
        | (s, .error e) =>
          if e.f.kind == .notPresent then
            { s with pagerQ := s.pagerQ ++ [⟨.lintel q, ⟨asid, e.va, AccK.read.code, e.f.level, e.f.addr⟩, lintelOf q, none⟩] }
          else s.makeDefunct q e.va 3

/-! ## Presenting (R22, R360, R388 to R390) -/

/-- The priority of a queue (R385). -/
def State.queuePrio (s : State) (q : Nat) : Nat := match s.dom? (s.qDesc q).dom with | some y => y.pri | none => 0

/-- A resident queue may present a packet: it has one, and the claim of its last one is not pending (R22). -/
def State.canPresent (s : State) (q : Nat) : Bool :=
  (s.fetched.any fun p => p.q == q) && !(s.presented.any fun x => x.1 == q)

/-- The resident slots of a lintel's queues that may present, with their queues. -/
def State.presenters (s : State) (massif : Nat) : List (Nat × Nat) :=
  ((upTo s.resident.length).zip (s.resident.map (·.q))).filter fun x => lintelOf x.2 == massif && s.canPresent x.2

/-- The slot behind the one that a lintel served last at a priority. -/
def State.slotAfter (s : State) (key : Nat) : Nat :=
  match s.served.find? fun x => x.1 == key with
  | some x => x.2
  | none => 0

/-- The queue whose packet a lintel takes next: of the highest priority, and of these the next in the order of slots
(R360). -/
def State.nextQueue (s : State) (massif : Nat) : Option (Nat × Nat) :=
  leastBy (fun (x : Nat × Nat) =>
    [15 - s.queuePrio x.2, if x.1 < s.slotAfter (4 * s.queuePrio x.2 + massif) then 1 else 0, x.1]) (s.presenters massif)

/-- A packet's fields (R388) hold no reserved value and no nonzero reserved bit; the mask of a span names this package
(R393). -/
def packetOk (pkg : BitVec 5) (ws : List W64) : Bool :=
  let w := nth ws 0 0
  let k := bitsOf w.toNat 60 4
  bitsOf w.toNat 45 15 == 0 && bitsOf w.toNat 12 20 == 0 && nth ws 7 0 == 0 &&
    (if k = 1 then (nth ws 2 0 == 0 && nth ws 3 0 == 0 && nth ws 4 0 == 0 && nth ws 5 0 == 0 && nth ws 6 0 == 0)
     else if k = 2 then (nth ws 2 0).getLsbD pkg.toNat &&
       ((ws.drop 3).take 4).all fun x => [x.extractLsb' 0 32, x.extractLsb' 32 32].all fun e =>
         e.extractLsb' 29 2 == 0 && e.extractLsb' 16 8 == 0
     else false)

/-- Where a packet completes (R389): its completion queue, or else a notice. -/
def State.packetTarget (s : State) (q : Nat) (ws : List W64) : Target :=
  let d := (s.qDesc q).dom
  let w := (nth ws 0 0).toNat
  match s.dom? d with
  | some y => if bitsOf w 44 1 = 1 ∧ bitsOf w 32 12 < y.dqn then .queue d (bitsOf w 32 12) else .notice d q
  | none => .notice d q

/-- The tag, mask and entries of a span packet (R388, R393). -/
def packetSpan (ws : List W64) : Option (BitVec 32 × BitVec 32 × List (BitVec 32)) :=
  let tm := nth ws 2 0
  if bitsOf (nth ws 0 0).toNat 60 4 = 2 then
    some (tm.extractLsb' 32 32, tm.extractLsb' 0 32,
      ((ws.drop 3).take 4).flatMap fun (x : W64) => [x.extractLsb' 0 32, x.extractLsb' 32 32])
  else none

/-- A packet that launches nothing completes (R389); one of a span waits to tell its partners, and completes with them
(R393). -/
def refusePacket (s : State) (q : Nat) (ws : List W64) (t : Target) (status : Nat) (result : W64) : State :=
  let d := (s.qDesc q).dom
  match packetSpan ws with
  | some (tag, mask, l) =>
    if mask.getLsbD s.pkg.toNat then
      let c : Claim := { Claim.fresh s.nextClaim d 0 0 with
        st := .refused, target := t, queue := some q, span := some (tag, mask, l) }
      { s with claims := s.claims ++ [c], nextClaim := s.nextClaim + 1 }
    else s.complete t 0 d status result
  | none => s.complete t 0 d status result

/-- A packet launches (R22, R316, R389, R393): a claim leaves for the masons. -/
def launchPacket (s : State) (q : Nat) (ws : List W64) (t : Target) : State :=
  let d := s.qDesc q
  let w := (nth ws 0 0).toNat
  let id := bitsOf w 0 12
  let m := lintelOf q
  let (s, n) := readNest m d.dom nestLevels [] id s
  let (s, h) := s.newHandle
  let s := addUse s m d.dom id 1
  let c : Claim := { Claim.fresh s.nextClaim d.dom id h with
    st := .sent, arg := nth ws 1 0, target := t, sysMade := d.sys, queue := some q, span := packetSpan ws,
    nest := (nestParts n).1, bad := (nestParts n).2 }
  { s with claims := s.claims ++ [c], nextClaim := s.nextClaim + 1, presented := s.presented ++ [(q, c.id)] }

/-- The next packet of a queue is taken up (R389): the domain, the fields and the callable are checked in this order. -/
def presentPacket (s : State) (q : Nat) (ws : List W64) : State :=
  let d := s.qDesc q
  let t := s.packetTarget q ws
  let id := bitsOf (nth ws 0 0).toNat 0 12
  match s.dom? d.dom with
  | none => refusePacket s q ws t 7 (BitVec.ofNat 64 d.dom)
  | some _ =>
    if !packetOk s.pkg ws then refusePacket s q ws t 8 0
    else
      let (s, e) := if id = 0 then (s, none) else readTab s (lintelOf q) d.dom id
      let known := match e with | some e => decide (1 ≤ entKind e) && decide (entKind e ≤ 7) | none => false
      if known then launchPacket s q ws t else refusePacket s q ws t 8 (BitVec.ofNat 64 id)

/-- `PACKET_PRESENT` (R22, R360, R389). -/
def execPacketPresent (q : Nat) (s : State) : Out :=
  .next <| match s.nextQueue (lintelOf q), s.fetched.find? fun p => p.q == q with
    | some (slot, n), some p =>
      if s.boot != .booted || s.gated || n != q then s
      else
        let key := 4 * s.queuePrio q + lintelOf q
        let s := { s with fetched := s.fetched.eraseP fun p => p.q == q,
                          served := (key, slot + 1) :: s.served.filter fun x => x.1 != key }
        presentPacket s q p.words
    | _, _ => s

/-! ## Residence (R361) -/

/-- The cycles of a microsecond count of a domain's quantum (R361, R378). -/
def State.residence (s : State) (q : Nat) : Nat :=
  Config.cyclesPerUs * (match s.dom? (s.qDesc q).dom with | some y => if y.qnt = 0 then 1000 else y.qnt | none => 1000)

/-- When a queue ceased to be resident; one that never was has waited longest. -/
def State.awaySince (s : State) (q : Nat) : Nat := match s.leftAt.find? fun x => x.1 == q with | some x => x.2 | none => 0

/-- The queues that are not resident and have packets. -/
def State.waiting (s : State) : List Nat :=
  (s.ctl.notify.map (·.q)).filter fun q => s.hasPacket q && !(s.resident.any fun r => r.q == q)

/-- `RESIDENT_QUEUE_CHANGE` (R361): a queue that waits, whose ring is empty, or that is at the end of a quantum gives its
slot to the queue of the highest priority that has waited longest. -/
def execResidentQueueChange (leaving entering : Nat) (s : State) : Out :=
  .next <| match s.resident.find? fun r => r.q == leaving with
    | none => s
    | some r =>
      let waits := s.presented.any fun x => x.1 == leaving
      let been := s.now - r.since
      let isOver := been != 0 && been % s.residence leaving == 0 && decide (s.queuePrio leaving ≤ s.queuePrio entering)
      let best := s.waiting.contains entering && !(s.waiting.any fun q =>
        lexLt [15 - s.queuePrio q, s.awaySince q] [15 - s.queuePrio entering, s.awaySince entering])
      if s.gated || !best || !(waits || s.unfetched leaving = 0 || isOver) then s
      else { s with resident := updFirst (fun x => x.q == leaving) (fun _ => ⟨entering, s.now⟩) s.resident,
                    leftAt := (leaving, s.now) :: s.leftAt.filter fun x => x.1 != leaving && x.1 != entering }

/-! ## Teardown (R391) -/

/-- `PASID_TEARDOWN` (R391, step 1): a write of `ptd`. -/
def execPasidTeardown (v : BitVec 64) (s : State) : Out := .next (writePtd s v)

/-- The status-9 record of a queue whose fetch was outstanding (R390, R391, step 2). -/
def goneRecord (s : State) (pasid : Nat) (x : Nat × Nat) : State :=
  let d := s.qDesc x.1
  match s.dom? d.dom with
  | none => s
  | some y =>
    if d.tv && decide (d.tq < y.dqn) then
      s.post d.dom d.tq (record16 (BitVec.ofNat 64 (pasid + x.2 * 2 ^ 32)) 0 d.dom 1 9)
    else s

/-- A held record is one of status 9. -/
def QRec.isGone (r : QRec) : Bool := r.bytes.length == 16 && r.bytes.getD 14 0 == 1 && r.bytes.getD 15 0 == 9

/-- `TEARDOWN_COMPLETE` (R391, steps 2 and 4): outstanding fetches complete with "address space gone" and their records
are queued; once those are written the PASID's entry is V = 0, and BSY clears. -/
def execTeardownComplete (s : State) : Out :=
  .next <| match s.teardown with
    | none => s
    | some t =>
      if !t.gone.isEmpty then
        let mine (f : FaultTok) : Bool := t.gone.any fun x => f.who == .lintel x.1
        let s := t.gone.foldl (fun s x => goneRecord s t.pasid x) s
        { s with teardown := some ⟨t.pasid, []⟩, pagerQ := s.pagerQ.filter fun f => !mine f,
                 pagerAck := s.pagerAck.filter fun f => !mine f,
                 pagerFwd := s.pagerFwd.filter fun f => !mine f.1 }
      else if s.recq.any QRec.isGone then s
      else
        let a := s.ctl.ptb.toNat / 2 ^ 23 * 2 ^ 23 % 2 ^ 52 + 8 * t.pasid
        let e := readNat s.mem a 8
        { s with
          mem := writeNat s.mem a 8 (e - bitsOf e 16 1 * 2 ^ 16)
          ctl := { s.ctl with ptd := s.ctl.ptd &&& ~~~0x80000000#64 }
          teardown := none }

/-! ## Domain queues (R382) -/

/-- A domain queue entry holds no reserved value and no nonzero reserved bit (R382). -/
def dqOk (ws : List W64) : Bool :=
  let w0 := (nth ws 0 0).toNat
  let w1 := (nth ws 1 0).toNat
  decide (w0 < 2 ^ 57) && w0 % 64 == 0 && bitsOf w1 5 3 == 0 && bitsOf w1 10 6 == 0 && decide (w1 < 2 ^ 26) &&
    bitsOf w1 8 2 != 3 && decide (1 ≤ bitsOf w1 0 5) && decide (bitsOf w1 0 5 ≤ 20) && nth ws 3 0 == 0

/-- Write the slots of a record, each of two words. -/
def writeSlots (d : DevAt) (base lgs tail : Nat) : Nat → List Byte → State → State × Bool
  | 0, _, s => (s, true)
  | n + 1, l, s =>
    match devPut s d (base + 16 * (tail % 2 ^ lgs)) (wordsOf 2 l) with
    | (s, some _) => (s, false)
    | (s, none) => writeSlots d base lgs (tail + 1) n (l.drop 16) s

/-- A record that cannot be written (R382, R443): a notice to the parent domain's handler, or for domain 0 to the keystone
core's log. -/
def State.undelivered (s : State) (r : QRec) : State :=
  let n := noticeBytes r.dom 3 r.q 0 (r.bytes.take 16)
  match s.dcbAddr r.dom with
  | none => s.postHandler (s.handlerQ 0) n
  | some a => if r.dom = 0 then { s with klog := s.klog ++ [n] } else s.postHandler (s.handlerQ (dcbWord s.mem a 0 % 2 ^ 16)) n

/-- Write a record into its queue: none while the queue cannot take it (R108, R382). -/
def writeRecord (s : State) (r : QRec) : Option State :=
  match s.dom? r.dom with
  | none => some (s.undelivered r)
  | some y =>
    if y.dqn ≤ r.q then some (s.undelivered r)
    else
      let at_ : DevAt := ⟨0, r.dom, y.asid⟩
      let va := y.dqb + 32 * r.q
      match devGet s at_ .read va 4 with
      | (s, .error _) => some (s.undelivered r)
      | (s, .ok ws) =>
        if !dqOk ws then some (s.undelivered r)
        else
          let w1 := (nth ws 1 0).toNat
          let w2 := (nth ws 2 0).toNat
          let lgs := bitsOf w1 0 5
          let tail := w2 / 2 ^ 32
          let used := (tail + 2 ^ 32 - w2 % 2 ^ 32) % 2 ^ 32
          let k := (r.bytes.length + 15) / 16
          if 2 ^ lgs < used + k then none
          else
            match writeSlots at_ (nth ws 0 0).toNat lgs tail k r.bytes s with
            | (s, false) => some (s.undelivered r)
            | (s, true) =>
              match devPut s at_ (va + 16) [BitVec.ofNat 64 ((tail + k) % 2 ^ 32 * 2 ^ 32 + w2 % 2 ^ 32)] with
              | (s, some _) => some (s.undelivered r)
              | (s, none) =>
                let sig := bitsOf w1 8 2
                let vec := bitsOf w1 16 10
                some { s with signals := s.signals ++ (if sig = 1 then [.summit vec] else if sig = 2 then [.msix y.fn vec] else []) }

/-- `DOMAIN_QUEUE_RECORD_WRITE` (R108, R382): the oldest held record of a queue is written, with its signal. -/
def execDomainQueueRecordWrite (d q : Nat) (s : State) : Out :=
  .next <| match s.recq.find? fun r => r.dom == d && r.q == q with
    | none => s
    | some r =>
      match writeRecord { s with recq := s.recq.eraseP fun x => x.dom == d && x.q == q } r with
      | some t => t
      | none => s

/-! ## Gating and registers -/

/-- `GATING_SEQUENCE` (R392): its last step samples the wake flags, and abandons the gating where one is set or a packet
is still to be fetched or presented. -/
def execGatingSequence (s : State) : Out :=
  .next (if (s.ctl.notify.any fun n => n.wake || s.hasPacket n.q) || !s.fetched.isEmpty then s else { s with gated := true })

/-- `REGISTER_WRITE` (R376, R440). -/
def execRegisterWrite (w : Writer) (addr : Nat) (v : BitVec 64) (s : State) : Out :=
  .next (if isCtlSpace addr && addr % 8 == 0 then ctlWrite s (unheld w) (addr - ctlBase) v else s)

end Sys2Proof.Machine
end

