-- ==== Sys2Proof/Machine/Moves.lean ====
section
/-! DEFINITION. The round mark with what follows its commit: fold and stow (R331, R332, R351, R410, R411), and the
restoring of a stowed spur. -/

namespace Sys2Proof.Machine

open Sys2Proof

/-! ## Areas that move -/

/-- Mark the area that a sequence or loop holds for a spur (R335). -/
def State.modHeld (s : State) (sp : Spur) (f : Area → Area) : State :=
  match sp.area with
  | none => s
  | some (i, k) => { s with comps := updFirst (fun c => c.handle == i) (fun c => { c with areas := upd c.areas k f }) s.comps }

/-- Bank-ownership tokens name bricks of the package: they keep to the spur's bricks where it moves (R299). -/
def Spur.moveGates (sp : Spur) (site : Site) : Spur :=
  let dest : Spur := { sp with site := site }
  { sp with gates := sp.gates.map fun g =>
      match (cells sp.img.hd.ht sp.img.hd.wd).find? fun rc => sp.brickNo rc.1 rc.2 == 256 * g.1 + g.2 with
      | some rc => (dest.brickNo rc.1 rc.2 / 256, dest.brickNo rc.1 rc.2 % 256)
      | none => g }

/-- A spur goes to a site, on free bricks or as a guest with units for its banks. -/
def Spur.goTo (sp : Spur) (a : Area) (host : Option Handle) (run : Option (Nat × Nat)) : Spur :=
  { sp.moveGates a.site with site := a.site, host := host, foldAt := run }

/-! ## Stow records (R410, R411) -/

/-- The first bytes of a stow record but for its check. -/
def stowHead (sp : Spur) (cause : Nat) : List Byte :=
  toBytes 4 sp.handle.toNat ++ toBytes 2 sp.dom ++ [BitVec.ofNat 8 cause, 0] ++ toBytes 8 sp.img.addr.toNat ++
    toBytes 8 sp.rnd.toNat

/-- What a stow record holds behind its check: zeros, and what the implementation lays out (R411). -/
def stowTail (n tick : Nat) : List Byte := (zeros 32 ++ (upTo (n - 64)).map fun i => Config.stowByte (tick + i)).take (n - 32)

/-- A stow record of `n` bytes (R411). -/
def stowRecord (sp : Spur) (cause n tick : Nat) : List Byte :=
  let head := stowHead sp cause
  let tail := stowTail n tick
  head ++ toBytes 8 (crcBytes 0 (head ++ tail)).toNat ++ tail

/-- A stow record passes its check (R411). -/
def stowCheck (ws : List W64) : Bool :=
  let l := bytesOf ws
  crcBytes 0 (l.take 24 ++ l.drop 32) == nth ws 3 0

/-- A claim for the resumption of a stowed spur (R331): made at once, or where its `stow` names a barrier that is armed,
only when that is complete (R351). -/
def resumeClaim (s : State) (sp : Spur) : Claim :=
  let waits : Bool := match sp.stowWait with
    | some n => (match sp.bars[n]? with | some b => b.st == .armed | none => false)
    | none => false
  { Claim.fresh s.nextClaim sp.dom 0 0 with
    kind := .resume sp.handle, st := if waits then .held else .pending, rects := [(s.standing sp).rect], no := s.nextClaim,
    prio := s.prio sp.dom, since := s.now }

/-- Write a spur's record in the units from `va` on (R331, R332, R411). One that cannot be written leaves the spur where it
is, with a notice (R443): it asks for no move any more, and one that was to be pre-empted is spared (R331). -/
def putStow (s : State) (sp : Spur) (cause va : Nat) : State × Bool :=
  let n := stowSize sp.img.hd
  match devPut s ⟨sp.massif, sp.dom, sp.asid⟩ va (wordsOf (n / 8) (stowRecord sp cause n s.tick)) with
  | (s, some e) =>
    let s := s.modSpur sp.handle fun x => { x.noMove with spared := if cause = 3 then some s.now else x.spared }
    (s.notice sp.dom 5 e.va sp.handle [], false)
  | (s, none) => ({ s with tick := s.tick + n }, true)

/-- Stow a spur: its record is written, its area freed, and its claim for resumption joins the pending order (R331,
R332). -/
def stowSpur (s : State) (sp : Spur) (cause : Nat) : State :=
  match s.stowRun sp with
  | none => s
  | some r =>
    match putStow s sp cause r.1 with
    | (s, false) => s
    | (s, true) =>
      let claim := resumeClaim s sp
      let s := leaveGroup (s.saveBanks sp) sp.handle
      let s := s.setSpur { sp with life := .stowed, wasYielded := sp.life == .yielded, stowAt := some r, foldAt := none,
                                   move := none, awayFrom := s.now }
      let s := (s.modHeld sp fun a => { a with away := true }).reown
      { s with claims := s.claims ++ [claim], nextClaim := s.nextClaim + 1 }

/-- A stowed spur is restored at an area (R331, R410): its phases do not count the time it was away (R112), and a fault that
the pager gave up on meanwhile stops it (R274). A record that fails its check restores nothing: a data-lost record goes out
and the spur is retired, once the jobs it issued have completed (R305, R408, R411). -/
def restoreSpur (s : State) (sp : Spur) (a : Area) (run : Option (Nat × Nat)) : State :=
  let at_ := match sp.stowAt with | some r => r.1 | none => 0
  let (s, ws) := devGet s ⟨sp.massif, sp.dom, sp.asid⟩ .read at_ (stowSize sp.img.hd / 8)
  let good := match ws with | .ok ws => stowCheck ws | .error _ => false
  if !good then
    let q := (compHandler s 64 sp.target).or sp.hq
    let s := s.postHandler q (record 3 11 (BitVec.ofNat 64 at_) sp.handle sp.dom 0xFFFFFFFF 0xFF 0xFF sp.rnd.toNat []
      (2 :: zeros 15))
    s.setSpur { sp with final := true, wasYielded := false, stowAt := none }
  else
    let s := s.takeArea sp.dom a
    let away := s.now - sp.awayFrom
    let later (t : Option Nat) : Option Nat := t.map (· + away)
    let sp := sp.goTo a (s.hostAt a) run
    let sp := { sp with
      life := if sp.wasYielded then .yielded else .running
      wasYielded := false, stowAt := none, stowWait := none, placedAt := s.now, lastBusy := s.now, awayFrom := s.now, inactive := false
      phases := sp.phases.map fun (p : Phase) => { p with begun := p.begun + away, loaded := later p.loaded, filled := later p.filled,
                                                          done := later p.done, drained := later p.drained } }
    let s := (s.setSpur (sp.openRound s.now)).modHeld sp fun x => { x with site := a.site, host := a.host, away := false }
    let s := claimTurn (joinGroup s sp.handle) sp.handle
    match sp.sFault, s.spur? sp.handle with
    | some c, some x => stopWith s x c x.sStop
    | _, _ => s

/-! ## The move a spur asked for (R351) -/

/-- A guest stands on a spur's bricks. -/
def State.hasGuests (s : State) (sp : Spur) : Bool :=
  sp.host.isNone && s.spurs.any fun o => o.placed && o.host.isSome && o.handle != sp.handle && o.ownArea.hits (s.standing sp)

/-- A fold at the mark: the spur moves onto a host that still has the room, or its request lapses (R351). Where its stow
region has units for it, the record of the move is written there (R410, R411, log 123). Entries of
the tile table that it owns go with it, also where a sharer there owns the same (log 133, DESIGN CHOICE). -/
def foldMove (s : State) (sp : Spur) (host : Option Handle) : State :=
  let lapse := s.setSpur sp.noMove
  if s.hasGuests sp then lapse
  else
    match (s.foldHosts sp host).findSome? fun o => s.foldSpot sp o, s.dom? sp.dom with
    | some a, some y =>
      (match takeRun y (s.runs y) a.rect.bankUnits with
        | none => lapse
        | some at_ =>
          let rec_ := (takeRun y ((at_, a.rect.bankUnits) :: s.runs y) (unitsOf (stowSize sp.img.hd))).map (putStow s sp 4)
          let (s, moved) := rec_.getD (s, true)
          if !moved then s
          else
          let s := leaveGroup (s.saveBanks sp) sp.handle
          let s := s.setSpur ((sp.noMove.goTo a (s.hostAt a) (some (at_, a.rect.bankUnits))).openRound s.now)
          let s := (s.modHeld sp fun x => { x with site := a.site, host := a.host }).reown
          claimTurn (joinGroup s sp.handle) sp.handle)
    | _, _ => lapse

/-- After the commit of a mark a spur's request to fold or stow is performed (R351, R410). -/
def performMove (s : State) (h : Handle) : State :=
  match s.spur? h with
  | none => s
  | some sp =>
    if sp.final || (sp.life != .running && sp.life != .yielded) then s
    else
      match sp.move with
      | some (.fold host) => foldMove s sp host
      | some (.stow wait) => stowSpur s { sp with stowWait := wait } 2
      | _ => s

/-- A spur's round mark is due (R93, R94): it runs, nothing holds its round open, and its round is long enough. -/
def State.markDue (s : State) (sp : Spur) : Bool :=
  sp.life == .running && !sp.final && !sp.paging && decide (sp.rlenNow ≤ s.now - sp.roundAt) && s.runsNow sp

/-- A spur passes its mark where it stands at one: the move that the mark of an S-form fault has left is performed before
anything else of the spur happens (R96, log 61), and else a mark that is due is made and its move performed (R351). -/
def passMark (s : State) (h : Handle) : State :=
  match s.spur? h with
  | none => s
  | some sp =>
    if sp.moveLeft then performMove s h
    else if s.markDue sp then performMove (roundMark s h none) h
    else s

/-- `ROUND_MARK` (R94, R351, R396). -/
def execRoundMark (h : Handle) (s : State) : Out := .next (passMark s h)

end Sys2Proof.Machine
end

