-- ==== Sys2Proof/Machine/Masons.lean ====
section
/-! DEFINITION. The masons: claims as they arrive, are checked, wait in order, reserve area and are granted whole (R23,
R326 to R333, R338, R362, R363, R372, R373, R393), and the start barrier (R21, R422). -/

namespace Sys2Proof.Machine

open Sys2Proof

/-! ## Claims -/

/-- The claim of a number. -/
def State.claim? (s : State) (c : Nat) : Option Claim := s.claims.find? fun x => x.id == c

/-- Put a claim back. -/
def State.setClaim (s : State) (c : Claim) : State := { s with claims := updFirst (fun x => x.id == c.id) (fun _ => c) s.claims }

/-- The massif whose unit reads for a claim: its caller's, or its lintel's (R309, R387). -/
def State.claimMassif (s : State) (c : Claim) : Nat :=
  match c.parent.bind s.spur?, c.queue with
  | some p, _ => p.massif
  | none, some q => q % Config.massifs
  | none, none => 0

/-- A launch completes without a grant: its pool entry is freed, its entry's use falls, and its completion is written; a
packet that launched nothing has no handle (R322, R334, R340, R345). -/
def endClaim (s : State) (c : Claim) (status : Nat) (result : W64) : State :=
  let h := if c.queue.isSome && (status == 7 || status == 8 || status == 10) then 0 else c.handle
  let m := s.claimMassif c
  let s := { s with claims := s.claims.filter fun x => x.id != c.id, presented := s.presented.filter fun x => x.2 != c.id }
  (decUse s m c.dom c.entry).complete c.target h c.dom status result

/-- A claim is refused; one of a span waits to tell its partners (R393). -/
def refuseClaim (s : State) (c : Claim) (status : Nat) (result : W64) : State :=
  if c.span.isSome then { s.setClaim { c with st := .refused } with presented := s.presented.filter fun x => x.2 != c.id }
  else endClaim s c status result

/-! ## Arrival (R327, R338) -/

/-- The first refusal of the images of a launch (R315, R338). -/
def imagesRefused (sysMade : Bool) (l : List ReadImg) : Option W64 :=
  l.findSome? fun r =>
    match r.ws with
    | none => some noImage.word
    | some ws => (checkImage ws r.img r.img sysMade (some r.co) none).map Refused.word

/-- A port entry is bad (R320): the callee does not declare its port, or the directions do not pair. An entry with callee
port 0 and a bank gate needs no declaration. -/
def portBad (callee : List NPort) (caller : Option Image) (e : BitVec 8 × BitVec 8) : Bool :=
  if e.1 = 0 then decide (e.2 < 0xF0) && e.2 != 0
  else
    match callee.find? fun p => p.p == e.1 with
    | none => true
    | some p =>
      match caller with
      | none => false
      | some m => !(m.ports.any fun d => d.p == e.2 && d.isIn != p.isIn)

/-- The index of the first bad port entry. -/
def firstBadPort (callee : List NPort) (caller : Option Image) (l : List (BitVec 8 × BitVec 8)) : Option Nat :=
  (upTo l.length).find? fun i => portBad callee caller (nth l i (0, 0))

/-- The local ports of a span's entries are not all declared `out` ports to a package of its mask (R393). -/
def linksBad (ports : List NPort) (mask : BitVec 32) (l : List (BitVec 32)) : Bool :=
  l.any fun e => e.getLsbD 31 && (!mask.getLsbD (e.extractLsb' 24 5).toNat ||
    !(ports.any fun p => !p.isIn && p.p == e.extractLsb' 8 8))

/-- The use of a list of rectangles on free bricks. -/
def usesOf (l : List Rect) : Use := l.foldl (fun u r => u.plus r.use) ⟨0, 0, 0⟩

/-- A race notice (R253, R402, R403). -/
def raceNotice (c : Claim) (a b : MNode) : List Byte :=
  let r := raceRefused a
  record 4 0 0 c.handle c.dom a.node (if r.noSlot then 0xFF else BitVec.ofNat 8 r.ctx)
    (if r.noSlot then 0xFF else BitVec.ofNat 8 r.slot) 0 [] (toBytes 4 b.node.toNat ++ zeros 12)

/-- A claim computed: checked against the budget and an empty package, and pending (R23, R325, R372); one that fails both checks
is over budget (DESIGN CHOICE, log 145). -/
def computeClaim (s : State) (c : Claim) (y : Dom) (imgs : List Image) (rects : List Rect) : State :=
  if !s.wholeFor c.dom (usesOf rects) then refuseClaim s c 4 0
  else if !fitsEmpty rects ⟨[], [], [], [], ⟨0, 0, 0⟩⟩ then refuseClaim s c 5 0
  else
    { s.setClaim { c with st := .pending, imgs := imgs, rects := rects, no := s.nextClaim, prio := y.pri, since := s.now } with
      nextClaim := s.nextClaim + 1 }

/-- The racing pairs of a launch (R252): its descriptor ports are edges to and from its caller, at every leaf that declares
the port, and the caller's image carries paths from one of them to another. -/
def launchRaces (s : State) (c : Claim) (imgs : List Image) (ports : List NPort) (edges : List NestEdge) :
    List (MNode × MNode) :=
  match c.parent.bind s.spur? with
  | none => racePairs imgs.length imgs edges
  | some p =>
    let wired := c.ports.flatMap fun e => (ports.filter fun x => x.p == e.1).map fun x =>
      if x.isIn then (⟨imgs.length, e.2, x.leaf, x.p⟩ : NestEdge) else ⟨x.leaf, x.p, imgs.length, e.2⟩
    racePairs imgs.length (imgs ++ [p.img]) (edges ++ wired)

/-- `CLAIM_ARRIVAL` (R46, R253, R327, R338, R358, R379): the launch is checked whole before its claim is computed. -/
def execClaimArrival (n : Nat) (s : State) : Out :=
  .next <| match s.claim? n with
    | none => s
    | some c =>
      if c.st != .sent then s
      else
        match s.dom? c.dom, c.nest with
        | none, _ => refuseClaim s c 7 (BitVec.ofNat 64 c.dom)
        | some _, none => refuseClaim s c 8 (BitVec.ofNat 64 c.bad)
        | some y, some nest =>
          let (s, rs) := readImages ⟨s.claimMassif c, c.dom, y.asid⟩ nest.leaves s
          match imagesRefused c.sysMade rs with
          | some w => refuseClaim s c 3 w
          | none =>
            let imgs := rs.map (·.img)
            let (ports, edges) := nest.ports imgs 0
            let races := launchRaces s c imgs ports edges
            match (if y.rp then none else races.head?) with
            | some (a, _) => refuseClaim s c 3 (raceRefused a).word
            | none =>
              let s := races.foldl (fun s p => s.postHandler (s.handlerQ c.dom) (raceNotice c p.1 p.2)) s
              let bad := match c.span with
                | some (_, mask, l) => if linksBad ports mask l then some 0 else none
                | none => firstBadPort ports ((c.parent.bind s.spur?).map (·.img)) c.ports
              match bad with
              | some i => refuseClaim s c 6 (BitVec.ofNat 64 i)
              | none => computeClaim s c y imgs (nest.rects imgs)

/-! ## The pending order (R327, R331) -/

/-- A claim that the masons scan: pending; the claim of a stowed spur that waits for a barrier is not made yet (R351). -/
def State.scanned (s : State) (c : Claim) : Bool :=
  c.st == .pending &&
    match c.kind with
    | .launch => true
    | .resume h => (s.spur? h).isSome

/-- The place of a claim in the pending order: priority, resumptions first, arrival. -/
def Claim.key (c : Claim) : List Nat := [15 - c.prio, if c.kind == .launch then 1 else 0, c.no]

/-- Reserved areas that a claim may not take: those of claims of its priority or above (R329). -/
def State.avoid (s : State) (c : Claim) : List Area :=
  (s.claims.filter fun x => x.id != c.id && decide (c.prio ≤ x.prio)).flatMap fun x =>
    match x.reserve with
    | some pl => (x.rects.zip pl).filterMap fun rp =>
        match rp.2 with
        | .free m row col => some (rp.1.at_ ⟨m.toNat, row, col⟩)
        | .guest .. | .guestOf .. => none
    | none => []

/-- A claim fits by steps 1 or 2 of R328, as it stands. -/
def State.fitsNow (s : State) (c : Claim) : Bool := s.layFits c.dom true (s.avoid c) c.rects (s.layStart c.dom)

/-- The machine without a spur's area, its record in the units named. -/
def State.goneAs (s : State) (sp : Spur) (r : Nat × Nat) : State :=
  (s.setSpur { sp with life := .stowed, stowAt := some r, foldAt := none }).modHeld sp fun a => { a with away := true }

/-- The spurs that step 3 may stow for a claim, in the masons' order (R328). -/
def State.candidates (s : State) (c : Claim) : List Spur :=
  sortBy (fun v => [s.prio v.dom, s.now - v.placedAt]) (s.spurs.filter fun v => s.stowable v && decide (s.prio v.dom ≤ c.prio))

/-- The victims of step 3: as many in order as the claim needs, each with units for its record (R328, R332). -/
def growVictims (c : Claim) : List Spur → State → Option (List Handle)
  | [], _ => none
  | v :: rest, s =>
    match s.stowRun v with
    | none => growVictims c rest s
    | some r =>
      let s := s.goneAs v r
      if s.fitsNow c then some [v.handle] else (growVictims c rest s).map (v.handle :: ·)

/-- The victims a claim needs. -/
def State.victimsFor (s : State) (c : Claim) : Option (List Handle) := growVictims c (s.candidates c) s

/-- A claim can be granted: by steps 1 or 2, or by step 3 (R328). -/
def State.grantable (s : State) (c : Claim) : Bool := s.fitsNow c || (s.victimsFor c).isSome

/-- No claim ahead of a claim can be granted (R327). -/
def State.isNext (s : State) (c : Claim) : Bool :=
  !(s.claims.any fun x => x.id != c.id && s.scanned x && lexLt x.key c.key && s.grantable x)

/-! ## Granting (R326, R328, R329, R338) -/

/-- Lay a claim at the places named, as the rules of R328 and R372 admit it; a reserving claim whose placement is free
stands there (R329). -/
def layClaim (s : State) (c : Claim) (pl : List Place) : Option Laid :=
  let guests := !(s.layFits c.dom false (s.avoid c) c.rects (s.layStart c.dom))
  let lay (pl : List Place) : Option Laid := s.layGiven c.dom guests (s.avoid c) (c.rects.zip pl) (s.layStart c.dom)
  if pl.length != c.rects.length then none
  else
    match c.reserve with
    | some r => if (lay r).isSome && r != pl then none else lay pl
    | none => lay pl

/-- The areas of a placement with the units of its guests. -/
def Laid.withRuns (l : Laid) : List (Area × Option (Nat × Nat)) :=
  let guests := (l.done.filter fun a => a.host.isSome).length
  let runs := (l.runs.take guests).reverse
  (l.done.foldl (fun (x : List (Area × Option (Nat × Nat)) × List (Nat × Nat)) a =>
    if a.host.isSome then (x.1 ++ [(a, x.2.head?)], x.2.drop 1) else (x.1 ++ [(a, none)], x.2)) ([], runs)).1

/-- A grant passes over the pending claims that arrived before it, and ends the reservations whose bricks it takes
(R329). -/
def passOver (s : State) (c : Claim) (areas : List Area) : State :=
  { s with claims := s.claims.map fun x =>
      let x := if x.id != c.id && x.st == .pending && decide (x.no < c.no) then { x with passed := x.passed + 1 } else x
      match x.reserve with
      | some pl =>
        let mine := (x.rects.zip pl).filterMap fun rp =>
          match rp.2 with
          | .free m row col => some (rp.1.at_ ⟨m.toNat, row, col⟩)
          | .guest .. | .guestOf .. => none
        if x.id != c.id && mine.any fun a => areas.any a.hits then { x with reserve := none } else x
      | none => x }

/-- The wires of a launch's descriptor ports (R320), and of a span's saddle ports: out as its entries name them, and in from
every partner (R393). -/
def claimWires (pkg : BitVec 5) (c : Claim) (ps : List PortEnd) : List (End × End) :=
  (match c.parent with
    | some h => c.ports.filterMap fun e =>
        if e.1 = 0 then (if e.2 = 0 then none else some (.spur h e.2, .gate c.handle))
        else (ps.find? fun x => x.p == e.1).map fun x => if x.isIn then (.spur h e.2, x.end_) else (x.end_, .spur h e.2)
    | none => []) ++
  (match c.span with
    | some (_, mask, l) =>
      ((l.filter (·.getLsbD 31)).filterMap fun e =>
        (ps.find? fun x => x.p == e.extractLsb' 8 8 && !x.isIn).map fun x => (x.end_, .saddle (e.extractLsb' 24 5) (e.extractLsb' 0 8))) ++
      (ps.filter (·.isIn)).flatMap fun x =>
        ((upTo 32).filter fun k => mask.getLsbD k && k != pkg.toNat).map fun k => (.saddle (BitVec.ofNat 5 k) x.p, x.end_)
    | none => [])

/-- Grant a launch whole (R326, R334, R338): its pool entry is freed, its areas are taken and loaded, its edges wired, and
its completion tree bound. -/
def grantLaunch (s : State) (c : Claim) (l : Laid) : State :=
  match c.nest with
  | none => s
  | some nest =>
    let s := passOver s c l.done
    let s := l.done.foldl (fun s a => s.takeArea c.dom a) s
    let (s, ps) := placeNest ⟨c.id, c.dom, c.parent, c.sysMade, c.arg, false⟩ nest c.imgs ⟨l.withRuns, none, 0⟩
      ⟨c.handle, c.target, c.entry⟩ s
    let s := s.addWires (claimWires s.pkg c ps)
    { s.setClaim { c with st := .granted, fromPool := false, reserve := none } with
      presented := s.presented.filter fun x => x.2 != c.id }

/-- Grant a resumption (R331): the spur is restored. -/
def grantResume (s : State) (c : Claim) (h : Handle) (l : Laid) : State :=
  let s := passOver s c l.done
  let s := { s with claims := s.claims.filter fun x => x.id != c.id }
  match s.spur? h, l.withRuns with
  | some sp, (a, run) :: _ => restoreSpur s sp a run
  | _, _ => s

/-- Grant a claim at the places named, where the rules admit them. -/
def grantAt (s : State) (c : Claim) (pl : List Place) : State :=
  match layClaim s c pl with
  | none => s
  | some l =>
    match c.kind with
    | .launch => grantLaunch s c l
    | .resume h => grantResume s c h l

/-- A spur stands at a mark: it has yielded, its round's length is over, or a sharer has its bricks (R330, R331). -/
def State.atMark (s : State) (sp : Spur) : Bool := sp.life == .yielded || s.markDue sp || !s.runsNow sp

/-- Stow a spur at its mark, after the commit (R331, R362): one whose round the mark voids waits for its next mark. What the
spur itself asked for at this mark comes first (R351), and a spur that it has moved is not stowed then. -/
def stowAtMark (s : State) (h : Handle) (cause : Nat) (still : State → Spur → Bool) : State :=
  match s.spur? h with
  | none => s
  | some sp =>
    let t := passMark s h
    match t.spur? h with
    | some x =>
      let committed := !s.markDue sp || x.rnd != sp.rnd
      if committed && x.life != .stowed && x.site == sp.site && still t x then stowSpur t x cause else t
    | none => t

/-- `CLAIM_GRANT` (R327, R328): a claim that no grantable claim stands ahead of is granted at the places named; step 3
stows its victims, each at a mark, and grants it on the area they free. -/
def execClaimGrant (n : Nat) (pl : List Place) (victims : List Handle) (s : State) : Out :=
  .next <| match s.claim? n with
    | none => s
    | some c =>
      if !s.scanned c || !s.isNext c then s
      else if s.fitsNow c then
        (if victims.isEmpty && c.kind == .launch then grantAt s c pl else s)
      else if s.victimsFor c != some victims || !(victims.all fun h => match s.spur? h with | some v => s.atMark v | none => false) then s
      else
        let s := victims.foldl (fun s h => stowAtMark s h 1 State.stowable) s
        if (victims.all fun h => match s.spur? h with | some v => v.life == .stowed | none => true) then
          (match s.claim? n with | some c => grantAt s c pl | none => s)
        else s

/-- `RESUMPTION` (R331, R410, R411): a stowed spur's claim is granted by steps 1 or 2, and it is restored. -/
def execResumption (n : Nat) (pl : List Place) (s : State) : Out :=
  .next <| match s.claim? n with
    | none => s
    | some c => if s.scanned c && s.isNext c && c.kind != .launch && s.fitsNow c then grantAt s c pl else s

/-- Places on bricks of the package, whether free or held by some spur, disjoint and in their massifs (R329). -/
def reservable (powered : Nat) : List (Rect × Place) → List Area → Bool
  | [], _ => true
  | (r, .free m row col) :: rest, l =>
    let a := r.at_ ⟨m.toNat, row, col⟩
    a.within && a.powered powered && !(l.any a.hits) && reservable powered rest (a :: l)
  | (_, _) :: _, _ => false

/-- `CLAIM_RESERVATION` (R329): a claim passed over 64 times reserves a placement, one claim of a priority at a time. -/
def execClaimReservation (n : Nat) (pl : List Place) (s : State) : Out :=
  .next <| match s.claim? n with
    | none => s
    | some c =>
      let taken := s.claims.any fun x => x.id != c.id && x.prio == c.prio && x.reserve.isSome
      if s.scanned c && decide (64 ≤ c.passed) && c.reserve.isNone && !taken && pl.length == c.rects.length &&
          reservable s.powered (c.rects.zip pl) [] then
        s.setClaim { c with reserve := some pl }
      else s

/-! ## Pre-emption (R362) -/

/-- A quantum in cycles (R361, R378). -/
def quantum (q : Nat) : Nat := Config.cyclesPerUs * (if q = 0 then 1000 else q)

/-- The quantum of a domain in cycles. -/
def State.quantumOf (s : State) (d : Nat) : Nat := match s.dom? d with | some y => quantum y.qnt | none => quantum 0

/-- A claim may pre-empt a spur (R362, R406): of another domain, of no higher priority, placed and running for a quantum of
its own, with units for its record; one whose pre-emption could not be recorded runs until its next quantum (R331). -/
def State.preemptible (s : State) (c : Claim) (v : Spur) : Bool :=
  (v.life == .running || v.life == .yielded) && !v.final && v.dom != c.dom && decide (s.prio v.dom ≤ c.prio) &&
    decide (quantum v.qnt ≤ s.now - v.placedAt) && (s.stowRun v).isSome &&
    (match v.spared with | some t => decide (quantum v.qnt ≤ s.now - t) | none => true)

/-- The spur that a claim pre-empts: of the lowest priority, and of these the one placed longest. -/
def State.preemptVictim (s : State) (c : Claim) : Option Spur :=
  leastBy (fun v : Spur => [s.prio v.dom, v.placedAt]) (s.spurs.filter (s.preemptible c))

/-- `PRE_EMPTION` (R362): a claim that has waited for a quantum of its domain stows a spur of another at its mark. -/
def execPreEmption (n : Nat) (victim : Handle) (s : State) : Out :=
  .next <| match s.claim? n with
    | none => s
    | some c =>
      match s.preemptVictim c with
      | none => s
      | some v =>
        if s.scanned c && decide (s.quantumOf c.dom ≤ s.now - c.since) && !s.grantable c && v.handle == victim && s.atMark v then
          stowAtMark s victim 3 fun s v => s.preemptible c v
        else s

/-! ## The start barrier (R21, R393, R422) -/

/-- `START_BARRIER_OPEN` (R21, R89, R334, R381): every part of a granted launch has acknowledged; for a span, every
partner has. -/
def execStartBarrierOpen (n : Nat) (s : State) : Out :=
  .next <| match s.claim? n with
    | none => s
    | some c =>
      let ready := if c.span.isSome then c.st == .formed else c.st == .granted
      if !ready || (s.dom? c.dom).isNone then s
      else openLaunch { s with claims := s.claims.filter fun x => x.id != c.id } c.id

/-- `LAUNCH_WAVE_OPEN` (R422): the next 16 ridges of a wide launch open, a microsecond after the wave before. -/
def execLaunchWaveOpen (h : Handle) (s : State) : Out :=
  .next <| match s.spur? h with
    | none => s
    | some sp =>
      let w := sp.waves
      if w.ridges.length ≤ 16 * w.opened || s.now - w.since < Config.cyclesPerUs * w.opened then s
      else s.setWaves sp.claim { w with opened := w.opened + 1 }

/-- Everything a granted launch placed is taken back (R393). -/
def revoke (s : State) (c : Claim) : State :=
  let s := (s.spurs.filter fun x => x.claim == some c.id).foldl (fun s x => leaveGroup ((s.saveBanks x).leaveTiles x) x.handle) s
  ({ s with spurs := s.spurs.filter fun x => x.claim != some c.id,
            comps := s.comps.filter fun x => x.claim != some c.id }.reown).tidy

/-- An end belongs to an instance of a launch. -/
def State.endOf (s : State) (c : Claim) (e : End) : Bool :=
  match e.handle with
  | some h => (s.spurs.any fun x => x.handle == h && x.claim == some c.id) ||
      s.comps.any fun x => x.handle == h && x.claim == some c.id
  | none => false

/-- A wire of a launch from another package. -/
def State.wireIn (s : State) (c : Claim) (w : Wire) : Option (BitVec 5 × BitVec 8) :=
  match w.src with
  | .saddle k p => if s.endOf c w.dst then some (k, p) else none
  | .spur .. | .farm .. | .job .. | .gate .. => none

/-- Of the wires of a span's launch from other packages, those stay whose partner's entries name their port (R393): a failure
so far counts for its spurs only where it is of a channel that they have (R394). -/
def State.keepNamed (s : State) (c : Claim) (named : List (BitVec 5 × BitVec 8)) : State :=
  let mine (h : Handle) : Bool := match s.spur? h with | some x => x.claim == some c.id | none => false
  let clear (x : Spur) : Spur := if x.claim == some c.id then { x with linkDown := none } else x
  { s with
    wires := s.wires.filter fun w => match s.wireIn c w with | some x => named.contains x | none => true
    spurs := s.spurs.map clear }.failLinks (fun l => s.links.contains l) mine

/-- `SPAN_FORMATION` (R393): every package of the mask has acknowledged or refused. With no refusal, and every port named a
declared `in` port here, the barrier may open; else every participant frees its area and completes with status 10, one whose claim is still pending as well. -/
def execSpanFormation (n : Nat) (ans : SpanAnswers) (s : State) : Out :=
  .next <| match s.claim? n with
    | none => s
    | some c =>
      match c.span with
      | none => s
      | some (_, mask, _) =>
        let own := 1#32 <<< s.pkg.toNat
        let good := c.st == .pending || (c.st == .granted && ans.named.all fun x => s.wires.any fun w => s.wireIn c w == some x)
        let no := (ans.refused &&& mask &&& ~~~own) ||| (if good then 0 else own)
        if c.st != .granted && c.st != .refused && !(c.st == .pending && no != 0) then s
        else if no = 0 then (s.keepNamed c ans.named).setClaim { c with st := .formed }
        else endClaim (revoke s c) c 10 (no.zeroExtend 64)

end Sys2Proof.Machine
end

