-- ==== Sys2Proof/Machine/Sequencer.lean ====
section
/-! DEFINITION. The sequencer's own instructions (R97 to R111) and `rddig` (R416). -/

namespace Sys2Proof.Machine

open Sys2Proof

/-! ## Branches (R99) -/

/-- Go to the word at the extension's offset (R39). -/
def Ex.jump (x : Ex) (g : SGuard) : Ex := { x with npc := some (x.th.pc + (sextX g.x <<< 3)) }

/-- The address of the next word. -/
def Ex.link (x : Ex) : W64 := x.th.pc + 8

/-- `br` (R99). -/
def execBr (g : SGuard) (s : State) : Out := run (.br g) (.s g) (fun x => x.jump g) s

/-- `bc` (R99). -/
def execBc (g : SGuard) (cond : Cond) (a b : Opnd) (s : State) : Out :=
  run (.bc g cond a b) (.s g) (fun x => if cmpInt cond (x.get a) (x.get b) then x.jump g else x) s

/-- `jal` (R99). -/
def execJal (g : SGuard) (d : Opnd) (s : State) : Out := run (.jal g d) (.s g) (fun x => (x.jump g).put d x.link) s

/-- `jr` (R99): A is read before D is written. -/
def execJr (g : SGuard) (d a : Opnd) (s : State) : Out :=
  run (.jr g d a) (.s g) (fun x =>
    let n := x.get a
    if n.extractLsb' 0 3 != 0 then x.raise (flt 8 n) else { x with npc := some n }.put d x.link) s

/-- `loop` (R99). -/
def execLoop (g : SGuard) (d : Opnd) (s : State) : Out :=
  run (.loop g d) (.s g) (fun x =>
    let v := x.get d - 1
    let y := x.put d v
    if v = 0 then y else y.jump g) s

/-! ## Brick selectors (R92) -/

/-- The spur a selector's handle names: its own for 0; another one only in system mode, under the thread's domain. -/
def Ex.spurOf (x : Ex) (h : BitVec 32) : Option Spur :=
  if h = 0 then some x.sp
  else if !x.sys then none
  else if h = x.sp.handle then some x.sp
  else
    match x.s.spur? h with
    | some o => if (o.placed || o.life == .stowed) && x.s.under x.sp.dom o.dom then some o else none
    | none => none

/-- What a selector names: a spur, and a context entry of it; `port` admits the port field of `scmd` (R92). -/
def Ex.select (x : Ex) (v : W64) (port : Bool) : Option (Spur × Ctx) :=
  let p := v.extractLsb' 19 2
  if v.extractLsb' 21 11 != 0 || (if port then p == 3 else p != 0) then none
  else
    (x.spurOf (v.extractLsb' 32 32)).bind fun o =>
      (o.live.ctx? (v.extractLsb' 0 8) (v.extractLsb' 8 8) (v.extractLsb' 16 3)).map fun k => (o, k)

/-- Change a context of the thread's own spur. -/
def Ex.modOwn (x : Ex) (c : CtxAt) (f : Ctx → Ctx) : Ex := { x with sp := x.sp.modLive fun b => b.modCtx c f }

/-! ## Stream records (R100 to R103) -/

/-- The pattern that a stream record describes (R100). -/
def patternOf (h : Handle) (ws : List W64) : Pattern :=
  let w (n : Nat) : W64 := nth ws n 0
  { by_ := h, base := (w 0).extractLsb' 0 57 |>.zeroExtend 64, space := (w 1).extractLsb' 54 2, write := (w 1).getLsbD 53,
    fmt := (w 1).extractLsb' 48 5, c0 := bitsOf (w 1).toNat 0 16, c1 := bitsOf (w 1).toNat 16 16,
    c2 := bitsOf (w 1).toNat 32 16, s1 := ((w 2).extractLsb' 0 32).toInt, s2 := ((w 2).extractLsb' 32 32).toInt,
    phase := (w 3).extractLsb' 0 4, row := 0, el := 0, moved := 0, buf := [] }

/-- A row of a pattern from a vault address on lies in declared vault bytes of bricks that a spur holds on a ridge
(R101, R232). -/
def Spur.vaultHas (o : Spur) (ridge : Nat) (q : Pattern) (t : Int) : Bool :=
  decide (0 ≤ t) && decide (t + 4 * q.rowWords ≤ 2 ^ 24) &&
    (q.rowBanks t).all fun b => o.brickNos.contains (256 * ridge + b.1) && decide (b.2 ≤ o.img.hd.vlt)

/-- The record's checks (R101). -/
def recordOk (ws : List W64) (o : Spur) (k : Ctx) (port : Nat) (q : Pattern) : Bool :=
  (nth ws 0 0).extractLsb' 57 7 == 0 && (nth ws 1 0).extractLsb' 56 8 == 0 && (nth ws 3 0).extractLsb' 4 60 == 0 &&
    q.space != 3 && decide (q.fmt.toNat ≤ 12) && q.c0 != 0 && q.c1 != 0 && q.c2 != 0 &&
    q.base.toNat % 4 == 0 && q.s1 % 4 == 0 && q.s2 % 4 == 0 && q.write == (port == 2) &&
    (if q.space = 1 then
      q.rowsOk fun t => o.vaultHas (o.ridge k.row.toNat k.col.toNat) q t
    else if q.space = 2 then
      q.rowsOk fun t => decide (0 ≤ t) && decide (t + 4 * q.rowWords ≤ 65536)
    else true)

/-- The patterns of a scoreboard that have not completed (R102). -/
def Board.open_ (b : Board) : List Pattern := (match b.active with | some q => [q] | none => []) ++ b.pend

/-- Enter a pattern in a context of another spur: in force at once, and kept in the round for a void to undo (R95). -/
def Ex.enterOther (x : Ex) (c : CtxAt) (port : Nat) (q : Pattern) : Ex :=
  { x with s := x.s.modSpur c.h fun y => y.modBoth fun b => b.modCtx c fun k => k.enter port q }.request (.scmd c port q)

/-- `scmd` (R100 to R102): the pattern is in force at once (R95). A bad selector is named before a misaligned record
address (log 120). -/
def execScmd (g : SGuard) (a b : Opnd) (s : State) : Out :=
  run (.scmd g a b) (.s g) (fun x =>
    let v := x.get a
    let va := x.nat b
    match x.select v true with
    | none => x.raise (overrun 3 v)
    | some (o, k) =>
      if va % 32 != 0 then x.raise (flt 8 (BitVec.ofNat 64 va))
      else
        let (x, ws) := x.loadWords va 4
        if !x.ok then x
        else
          let port := (v.extractLsb' 19 2).toNat
          let q := patternOf x.sp.handle ws
          let c : CtxAt := ⟨o.handle, k.row, k.col, k.idx⟩
          if !recordOk ws o k port q then x.raise (overrun 7 (BitVec.ofNat 64 va))
          else if 2 ≤ (nth k.board port Board.idle).open_.length then x.stall
          else if o.handle == x.sp.handle then x.modOwn c fun k => k.enter port q
          else x.enterOther c port q) s

/-- Patterns that a thread entered and that have not completed (R103). -/
def Ex.openPatterns (x : Ex) : List Pattern :=
  let boards (b : Body) : List Pattern := b.ctxs.flatMap fun k => k.board.flatMap Board.open_
  (boards x.sp.live ++ (x.s.spurs.filter fun o => o.handle != x.sp.handle && (o.placed || o.life == .stowed)).flatMap
      fun o => boards o.live).filter fun q => q.by_ == x.sp.handle

/-- `sbar` (R103). -/
def execSbar (g : SGuard) (p : BitVec 4) (s : State) : Out :=
  run (.sbar g p) (.s g) (fun x => if x.openPatterns.any fun q => q.phase == p then x.stall else x) s

/-! ## Context steps and loads (R104 to R107) -/

/-- The context entries `i` of a section of the spur. -/
def Spur.entries (sp : Spur) (x : Section) (i : BitVec 3) : List Ctx :=
  sp.live.ctxs.filter fun k => x.has k.row k.col && k.idx == i

/-- The section an instruction names, and the context operand's entry, or the overrun of R97, R104 and R105; an entry at or above
the image's CTX is one for a `cload` as for a `cstep` (DEDUCED, log 152). -/
def Ex.target (x : Ex) (n : BitVec 3) (v : W64) : Except Flt (Section × BitVec 3) :=
  if v.extractLsb' 3 61 != 0 then .error (overrun 12 v)
  else
    match x.sp.section? n.toNat with
    | none => .error (overrun 12 (n.zeroExtend 64))
    | some sec => if x.sp.img.hd.ctx ≤ v.toNat then .error (overrun 12 v) else .ok (sec, v.extractLsb' 0 3)

/-- `cstep` (R104): the step is taken at the next round mark. -/
def execCstep (g : SGuard) (n : BitVec 3) (a : Opnd) (s : State) : Out :=
  run (.cstep g n a) (.s g) (fun x =>
    let v := x.get a
    match x.target n v with
    | .error f => x.raise f
    | .ok (sec, i) =>
      if (x.sp.entries sec i).all fun k => k.conf || k.recon.isSome then
        { x with th := { x.th with steps := (x.th.steps.filter fun r => r.section_ != n) ++ [⟨n, i⟩] } }
      else x.raise (overrun 12 v)) s

/-- Words of an image, read by a thread with the permission of a fetch (R105, R270). -/
def Ex.fetchWords (x : Ex) : Nat → Nat → Ex × List W64
  | _, 0 => (x, [])
  | va, n + 1 =>
    let (x, p) := x.place (.virt va) 8 8 .fetch none
    if !x.ok then (x, [])
    else
      let w := BitVec.ofNat 64 (ofBytes (x.bytesAt p 8))
      let (x, l) := x.fetchWords (va + 8) n
      (x, w :: l)

/-- What a context image gives the brick at a row and column of its section, for entry `i` (R105). -/
def Image.cfgAt (m : Image) (row col : Nat) (i : BitVec 3) : CtxCfg :=
  let vc := match m.bricks.find? fun b => b.row == row && b.col == col with
    | some b => b.vc.map fun v => if bindV v then some (bindInto v i) else none
    | none => []
  let c := match m.ctxs.find? fun c => c.row == row && c.col == col with
    | some c => c.cfg
    | none => CtxCfg.blank
  { c with vc := vc }

/-- Send the reconfiguration tokens of a context image, and begin the section's phase (R105, R112). -/
def Ex.sendImage (x : Ex) (n : BitVec 3) (sec : Section) (i : BitVec 3) (m : Image) : Ex :=
  let send (k : Ctx) : Ctx :=
    if sec.has k.row k.col && k.idx == i then
      { k with recon := some ⟨false, m.cfgAt (k.row.toNat - sec.row) (k.col.toNat - sec.col) i, n⟩ }
    else k
  let x := { x with sp := x.sp.modLive fun b => { b with ctxs := b.ctxs.map send } }
  x.request (.phase n.toNat i x.s.now)

/-- `cload` (R69, R105). -/
def execCload (g : SGuard) (n : BitVec 3) (a b : Opnd) (s : State) : Out :=
  run (.cload g n a b) (.s g) (fun x =>
    match x.target n (x.get a) with
    | .error f => x.raise f
    | .ok (sec, i) =>
      if (x.sp.entries sec i).any fun k => k.recon.isSome then x.raise (flt 5 (i.zeroExtend 64))
      else
        let va := x.nat b
        let (x, hw) := x.fetchWords va 16
        if !x.ok then x
        else if (headerOf hw).sys && !x.sys then x.raise (undefAt (wordOf (.cload g n a b)) x.th.pc 15)
        else if !headerOk hw || !dirOk hw then x.raise (overrun 13 noImage.word)
        else
          let (x, tl) := x.fetchWords (va + 128) (imgLen hw / 8 - 16)
          if !x.ok then x
          else
            let ws := hw ++ tl
            let m := imageOf (BitVec.ofNat 64 va) ws
            match checkImage ws m x.sp.img x.sys none (some ⟨sec, i, x.sp.live⟩) with
            | some r => x.raise (overrun 13 r.word)
            | none => x.sendImage n sec i m) s

/-- `arm` (R107, R193). -/
def execArm (g : SGuard) (n : BitVec 3) (a : Opnd) (s : State) : Out :=
  run (.arm g n a) (.s g) (fun x =>
    match x.sp.section? n.toNat with
    | none => x.raise (overrun 12 (n.zeroExtend 64))
    | some sec =>
      let v := (x.get a).setWidth 32
      { x with sp := x.sp.modLive fun b =>
          { b with ctxs := b.ctxs.map fun k => if sec.has k.row k.col then { k with tcount := v } else k } }) s

/-- Every brick of a section has DN in its active context (R106). -/
def Spur.allDone (sp : Spur) (sec : Section) : Bool :=
  (sp.live.bricks.filter fun b => sec.has b.row b.col).all fun b =>
    match sp.live.ctx? b.row b.col b.active with
    | some k => k.dn
    | none => false

/-- `waitd` (R106). -/
def execWaitd (g : SGuard) (n : BitVec 3) (s : State) : Out :=
  run (.waitd g n) (.s g) (fun x =>
    match x.sp.section? n.toNat with
    | none => x.raise (overrun 12 (n.zeroExtend 64))
    | some sec =>
      if x.sp.allDone sec && !(x.th.steps.any fun r => r.section_ == n) &&
          x.sp.live.ctxs.all fun k => (match k.recon with | some r => r.section_ != n | none => true) then x
      else x.stall) s

/-- `waitd.t` (R106, R193). -/
def execWaitdT (g : SGuard) (n : BitVec 3) (s : State) : Out :=
  run (.waitdT g n) (.s g) (fun x =>
    match x.sp.section? n.toNat with
    | none => x.raise (overrun 12 (n.zeroExtend 64))
    | some sec => if x.sp.live.ctxs.all fun k => !sec.has k.row k.col || k.tcount == 0 then x else x.stall) s

/-! ## Notification (R108) -/

/-- A record is a notification of a thread. -/
def QRec.noteOf (h : Handle) (r : QRec) : Bool :=
  nth r.bytes 14 0 == 2 && (r.bytes.drop 8).take 4 == toBytes 4 h.toNat

/-- `notify` (R108): the record is written after its round's stores, and the 17th outstanding one waits. -/
def execNotify (g : SGuard) (a b : Opnd) (s : State) : Out :=
  run (.notify g a b) (.s g) (fun x =>
    let v := x.get a
    let dqn := match x.s.dom? x.sp.dom with | some y => y.dqn | none => 0
    if v.extractLsb' 12 52 != 0 || decide (dqn ≤ v.toNat) then x.raise (overrun 3 v)
    else if decide (16 ≤ ((x.s.recq ++ x.sp.live.recs).filter (QRec.noteOf x.sp.handle)).length) then x.stall
    else
      let r : QRec := ⟨x.sp.dom, v.toNat, record16 (x.get b) x.sp.handle x.sp.dom 2 0⟩
      { x with sp := x.sp.modLive fun b => { b with recs := b.recs ++ [r] } }) s

/-! ## System entry and return (R109) -/

/-- `svc` (R109): TAKING THE SYSTEM-CALL EXCEPTION. -/
def Thread.enter (t : Thread) (n : BitVec 6) : Thread :=
  { t with
    epc := t.pc + 8
    ecause := n.zeroExtend 64
    sst := (t.sst &&& ~~~0x30000#64) ||| (if t.sysMode then 0x30000 else 0x10000) }

/-- `eret` (R109): the return from it. -/
def Thread.leave (t : Thread) : Thread :=
  { t with sst := (t.sst &&& ~~~0x30000#64) ||| (if t.sst.getLsbD 17 then 0x10000 else 0) }

/-- `svc` (R109): with no entry it faults and changes no register. -/
def execSvc (g : SGuard) (n : BitVec 6) (s : State) : Out :=
  run (.svc g n) (.s g) (fun x =>
    if x.th.evec = 0 then x.raise (undefAt (wordOf (.svc g n)) x.th.pc 15)
    else { x with th := x.th.enter n, npc := some x.th.evec }) s

/-- `eret` (R109); user mode is refused by `run`. -/
def execEret (g : SGuard) (s : State) : Out :=
  run (.eret g) (.s g) (fun x => { x with th := x.th.leave, npc := some x.th.epc }) s

/-! ## Control registers (R110, R111) -/

/-- The registers of the home ridge's sequencer (R91). -/
def Ex.seqRegs (x : Ex) : SeqRegs := nth x.s.seqs x.sp.home ⟨0, 0, 4096⟩

/-- Read a register of the sequencer (R91). -/
def Ex.seqReg (x : Ex) (c : Nat) : W64 :=
  match c with
  | 0 => x.th.sst
  | 1 => x.th.epc
  | 2 => x.th.ecause
  | 3 => x.th.evec
  | 4 => BitVec.ofNat 64 x.th.rlen
  | 5 => x.sp.rnd
  | 6 => BitVec.ofNat 64 (x.sp.cycles x.s.now)
  | 8 => x.seqRegs.phb
  | 9 => x.seqRegs.phi
  | 10 => x.seqRegs.qwin
  | _ => 0

/-- Read a register of a context (R91). -/
def Ctx.creg (k : Ctx) (c : Nat) : W64 :=
  (if c = 0x100 then k.cst else if c = 0x101 then k.bfc else if c = 0x102 then k.bsq else k.mdc).zeroExtend 64

/-- `crd` (R110). -/
def execCrd (g : Guard) (d a : Opnd) (c : BitVec 12) (s : State) : Out :=
  run (.crd g d a c) g (fun x =>
    if x.isB then x.put d (x.cx0.creg c.toNat)
    else
      let v := x.get a
      if c.toNat < 0x100 then (if v = 0 then x.put d (x.seqReg c.toNat) else x.raise (overrun 3 v))
      else
        match x.select v false with
        | some (_, k) => x.put d (k.creg c.toNat)
        | none => x.raise (overrun 3 v)) s

/-- The registers that only system mode writes (R91). -/
def sysReg (c : Nat) : Bool := [1, 2, 3, 8, 9, 10].contains c

/-- A written `sst`: its writable bits, and RM where the value is a mode (R90). -/
def sstWrite (old v : W64) : W64 :=
  let rm := if bitsOf v.toNat 8 3 ≤ 4 then v &&& 0x700 else old &&& 0x700
  (old &&& ~~~0x437FF#64) ||| (v &&& 0x430FF) ||| rm

/-- Change the registers of the home ridge's sequencer: the voiding of a round does not undo it (log 131, DEDUCED). -/
def Ex.modSeq (x : Ex) (f : SeqRegs → SeqRegs) : Ex := { x with s := { x.s with seqs := upd x.s.seqs x.sp.home f } }

/-- Write a register of the sequencer (R91, R111). -/
def Ex.setSeqReg (x : Ex) (c : Nat) (v : W64) : Ex :=
  match c with
  | 0 => { x with th := { x.th with sst := sstWrite x.th.sst v } }
  | 1 => { x with th := { x.th with epc := v &&& ~~~7#64 } }
  | 2 => { x with th := { x.th with ecause := v &&& 0x3F } }
  | 3 => { x with th := { x.th with evec := v &&& ~~~7#64 } }
  | 4 => if 64 ≤ v.toNat ∧ v.toNat ≤ 4096 then { x with th := { x.th with rlen := v.toNat } } else x
  | 8 => x.modSeq fun r => { r with phb := v &&& ~~~0x1FFFF#64 }
  | 9 => x.modSeq fun r => { r with phi := v }
  | 10 => if 256 ≤ v.toNat then x.modSeq fun r => { r with qwin := v } else x
  | _ => x

/-- `cwr` (R111). -/
def execCwr (g : SGuard) (c : BitVec 12) (a b : Opnd) (s : State) : Out :=
  run (.cwr g c a b) (.s g) (fun x =>
    let v := x.get a
    let sel := x.get b
    if c.toNat < 0x100 then
      if sysReg c.toNat && !x.sys then x.raise (undefAt (wordOf (.cwr g c a b)) x.th.pc 15)
      else if sel != 0 then x.raise (overrun 3 sel)
      else x.setSeqReg c.toNat v
    else
      match x.select sel false with
      | none => x.raise (overrun 3 sel)
      | some (o, k) =>
        let at_ : CtxAt := ⟨o.handle, k.row, k.col, k.idx⟩
        if o.handle == x.sp.handle then x.modOwn at_ fun k => { k with stagedCst := k.stagedCst ++ [(c, v)] }
        else x.request (.cwr at_ c v)) s

/-! ## Digests (R416) -/

/-- `rddig` (R416). -/
def execRddig (g : Guard) (d a b : Opnd) (s : State) : Out :=
  run (.rddig g d a b) g (fun x =>
    let v := x.get b
    let bad := x.raise (overrun 3 v)
    if x.isB then
      if v.extractLsb' 6 26 != 0 then bad
      else
        let dg := nth x.br.dig (bitsOf v.toNat 0 5) 0
        x.put d (if v.getLsbD 5 then dg >>> 32 else dg &&& 0xFFFFFFFF)
    else
      let sel := x.get a
      if v.extractLsb' 9 55 != 0 then bad
      else if v.getLsbD 8 then
        if sel.extractLsb' 0 32 != 0 then x.raise (overrun 3 sel)
        else
          match x.spurOf (sel.extractLsb' 32 32) with
          | none => x.raise (overrun 3 sel)
          | some o =>
            match o.live.portDig.find? fun p => p.1 == v.extractLsb' 0 8 with
            | some p => x.put d p.2
            | none => bad
      else if v.getLsbD 5 then bad
      else
        match x.select sel false with
        | none => x.raise (overrun 3 sel)
        | some (o, k) =>
          match o.live.brick? k.row k.col with
          | some br => x.put d (nth br.dig (bitsOf v.toNat 0 5) 0)
          | none => bad) s

end Sys2Proof.Machine
end

