-- ==== Sys2Proof/Machine/Progress.lean ====
section
/-! DEFINITION. The quiescence detector (R365 to R370, R394): idle spurs, what each waits on, the quiescent set, and its
deadlock records. -/

namespace Sys2Proof.Machine

open Sys2Proof

/-! ## Idle spurs (R365) -/

/-- A pattern access is outstanding: the active read pattern of a port has a word to deliver, and room and an open bank for
it, or a pattern is over and its port turns to the next (R100, R102, R299). -/
def Spur.patternOut (sp : Spur) : Bool :=
  sp.live.ctxs.any fun k => k.conf && (upTo 3).any fun p =>
    let b := nth k.board p Board.idle
    match b.active with
    | none => false
    | some q =>
      if q.write then decide (q.rows ≤ q.row)
      else decide (q.words ≤ q.moved) ||
        ((nth k.att p none).isNone && decide (b.waiting < Config.streamPort) && sp.gateOpen k.row k.col q)

/-- The executing agent waits at `jobwait` for a command that its round still holds (R303). -/
def Ex.waitsHeld (x : Ex) : Instr → Bool
  | .jobwait _ w _ a =>
    let (y, card) := x.cardAddr w a
    y.ok && y.heldCards.contains card
  | _ => false

/-- The view of the firing that waits in a context, and its instruction. -/
def waitingAt (s : State) (c : CtxAt) (k : Ctx) : Option (Ex × Instr) :=
  match k.wait with
  | none => none
  | some n =>
    match k.instr? n.toNat with
    | none => none
    | some i =>
      match guardOf i with
      | some (.b g) => (enterB s c n i g).map fun x => (x, i)
      | _ => none

/-- Some agent of a spur waits at `jobwait` for a command that its round still holds, or at an atomic (R303, R365). -/
def State.waitsOut (s : State) (sp : Spur) : Bool :=
  (sp.live.ctxs.any fun k => match waitingAt s ⟨sp.handle, k.row, k.col, k.idx⟩ k with
    | some (x, i) => x.waitsHeld i || (atomicMeaning i).isSome
    | none => false) ||
  match threadAt s sp.handle with
  | some (x, i) => x.waitsHeld i
  | none => false

/-- Something of a spur is outstanding (R365): a load, an atomic, a pattern access, a pager service, an engine command or
job that waits for more than its partners (R297), or the drain of an invalidation or migration. -/
def State.busyNow (s : State) (sp : Spur) : Bool :=
  (sp.live.ctxs.any fun k => k.load.isSome) || sp.live.th.load.isSome || sp.paging || sp.patternOut || s.waitsOut sp ||
    (s.cmdq.any fun c => AgentId.handle c.2.who == sp.handle) ||
    (s.jobs.any fun j => AgentId.handle j.cmd.who == sp.handle && !s.alone j) ||
    s.drainsFor sp.handle

/-- The window of a spur's home ridge (R91). -/
def State.qwinOf (s : State) (sp : Spur) : Nat := (nth s.seqs sp.home ⟨0, 0, 4096⟩).qwin.toNat

/-- The last `qwin` counted cycles of a spur were all idle, up to this one or, of a paused sharer, to the last it counted. -/
def State.idle (s : State) (sp : Spur) : Bool :=
  sp.life == .running && !sp.final && !s.busyNow sp && decide (s.qwinOf sp ≤ s.countedTo sp - sp.lastBusy)

/-- `INACTIVITY_WINDOW_EXPIRY` (R365). -/
def execInactivityWindowExpiry (h : Handle) (s : State) : Out :=
  .next <| match s.spur? h with
    | none => s
    | some sp => if s.idle sp then s.setSpur { sp with inactive := true } else s

/-- `INACTIVITY_REPORT` (R394): Morol carries another package's report of a party at the other end of a saddle channel. -/
def execInactivityReport (r : Remote) (idle : Bool) (s : State) : Out :=
  let rest := s.farIdle.filter (· != r)
  .next (if r.pkg != s.pkg && s.wires.any fun w => w.remote == some r then { s with farIdle := if idle then r :: rest else rest } else s)

/-! ## Parties (R366) -/

/-- What a spur waits on: a spur, a party on another package, or something that is still to come about. -/
inductive Party where
  | spur (h : Handle)
  | remote (r : Remote)
  | coming
  deriving DecidableEq, Repr

/-- Every placed spur. -/
def State.placedParties (s : State) : List Party := (s.spurs.filter Spur.placed).map fun x => .spur x.handle

/-- The spurs of an instance: itself, or for a composite those placed under it. -/
def State.partiesOf (s : State) (h : Handle) : List Party :=
  if (s.spur? h).isSome then [.spur h]
  else if s.comps.any fun c => c.handle == h then
    let l := s.spurs.filter fun x => (gateNames s false 16 x.handle).contains h
    if l.isEmpty then [.coming] else l.map fun x => .spur x.handle
  else []

/-- Who sends on the wires to an end; `fuel` bounds the farms on the way. -/
def upstream (s : State) : Nat → End → List Party
  | 0, _ => []
  | n + 1, e => (s.wires.filter fun w => w.dst == e).flatMap fun w =>
      match w.src with
      | .spur g _ => s.partiesOf g
      | .farm i p => upstream s n (.farm i p)
      | .saddle .. => (w.remote.map Party.remote).toList
      | .job .. | .gate _ => []

/-- Who takes from the wires of an end; `fuel` bounds the farms on the way. -/
def downstream (s : State) : Nat → End → List Party
  | 0, _ => []
  | n + 1, e => (s.wires.filter fun w => w.src == e).flatMap fun w =>
      match w.dst with
      | .spur g _ | .gate g => s.partiesOf g
      | .farm i p => downstream s n (.farm i p)
      | .saddle .. => (w.remote.map Party.remote).toList
      | .job .. => []

/-- Who feeds input queue `q` of a context from outside its spur: over the `in` ports that deliver to it, or with `arm` to that
arm of a paired queue. -/
def State.feeders (s : State) (sp : Spur) (br : Brick) (k : Ctx) (q : BitVec 3) (arm : Option Bool) : List Party :=
  let wanted (b : W32) : Bool := match arm with
    | some a => !paired br k.idx q || bindAr b == a
    | none => true
  (sp.img.ports.filter fun d => d.isIn && d.row == k.row && d.col == k.col &&
    (let b := nth br.vc d.vc.toNat 0; bindV b && bindCtx b == k.idx && bindQ b == q && wanted b)).flatMap fun d =>
      upstream s 16 (.spur sp.handle d.p)

/-- Who takes what output `n` of a context sends outside its spur. -/
def State.takers (s : State) (sp : Spur) (k : Ctx) (n : BitVec 3) : List Party :=
  let o := nth k.obind n.toNat 0
  let via (t : BitVec 6) : List Party :=
    match sp.live.routes[t.toNat]? with
    | some r => if entV r.ent && entKd r.ent == 1 then downstream s 16 (.spur sp.handle (rtCol r.ent)) else []
    | none => []
  if !entV o || entKd o == 2 then [] else via (outT0 o) ++ (if entKd o == 1 then via (outT1 o) else [])

/-- Who sends the bank-ownership tokens that a port's active pattern waits for (R299, R300). -/
def State.gateParties (s : State) (sp : Spur) (k : Ctx) (p : Nat) : List Party :=
  match (nth k.board p Board.idle).active with
  | some q =>
    if sp.gateOpen k.row k.col q then []
    else (gateNames s true 16 sp.handle).flatMap fun g => upstream s 16 (.gate g)
  | none => []

/-- The other spurs of a spur's domain. -/
def State.kin (s : State) (sp : Spur) : List Party :=
  (s.spurs.filter fun x => x.dom == sp.dom && x.handle != sp.handle).map fun x => .spur x.handle

/-- The spurs whose rounds a `tlbsync` drains, those that hold a stale write of its range or a load of it still to return
(R279), and the holders of the pins that it waits for (R277). -/
def State.syncParties (s : State) (sp : Spur) : List Party :=
  (s.posted.filter fun p => p.by_ == sp.handle).flatMap fun p =>
    let (all, asid, lo, hi) := p.kind.range
    let drains (x : Spur) : Bool := x.handle != sp.handle &&
      (x.staleIn all asid lo hi || x.loadIn all asid lo hi)
    ((s.spurs.filter drains).map fun x => Party.spur x.handle) ++
      (s.pins.filter fun n => n.holds all asid lo hi).map fun n => Party.spur n.who

/-! ## Blocked slots and waiting threads (R366, R369, R370) -/

/-- One entry of a deadlock record, with the parties of its wait. -/
structure Blocked where
  node : W32
  loops : List W32
  reason : BitVec 8
  ctx : BitVec 8
  slot : BitVec 8
  queue : BitVec 8
  detail : W64
  on : List Party
  deriving DecidableEq, Repr

/-- The entry of the executing agent for a wait. -/
def Ex.blocked (x : Ex) (reason : Nat) (queue : BitVec 8) (detail : W64) (on : List Party) : Blocked :=
  { node := x.node, loops := x.loops, reason := BitVec.ofNat 8 reason,
    ctx := if x.isB then x.cx0.idx.zeroExtend 8 else 0xFF, slot := if x.isB then x.slot.zeroExtend 8 else 0xFF,
    queue := queue, detail := detail, on := on }

/-- The wait for a callee (R350, R366): while its claim is pending it is the claim that is waited for. -/
def Ex.waitBlocked (x : Ex) (a : Opnd) : Blocked :=
  let h : Handle := (x.get a).setWidth 32
  match x.s.claims.find? fun c => c.handle == h && c.st == .pending with
  | some c => x.blocked 4 0xFF (BitVec.ofNat 64 c.entry) x.s.placedParties
  | none => x.blocked 5 0xFF (BitVec.ofNat 64 (0xDB + h.toNat * 2 ^ 32))
      (if x.s.claims.any fun c => c.handle == h then [.coming] else x.s.partiesOf h)

/-- The virtual address of a presence read, or the vault address (R369). -/
def Ex.ldpAddr (x : Ex) (g : Guard) (w : BitVec 2) (a b : Opnd) : W64 :=
  match x.window w (x.sum g a b) with
  | .vault t | .virt t => BitVec.ofNat 64 t
  | .unset _ => 0

/-- A presence read waits for a migration, not for its word (R280). -/
def Ex.ldpHeld (x : Ex) (g : Guard) (w : BitVec 2) (a b : Opnd) : Bool :=
  match x.window w (x.sum g a b) with
  | .virt t => x.s.migrHolds x.sp.asid t
  | .vault _ | .unset _ => false

/-- The arm of a paired queue whose token a slot lacks, where its control token names it (R75). -/
def Ex.lackingArm (x : Ex) : Instr → Option Bool
  | .merge .. => if (frontBits (nth x.cx0.kq x.g.ib.toNat [])).isEmpty then none else some x.arm
  | _ => none

/-- The stream port whose token or room is wanting. -/
def lackingPort (i : Instr) (k : Ctx) : Option Nat :=
  let want (p : Nat) : Nat := match lanesOf i k with | some l => beatLen i k l | none => k.tokLen p
  if streamReady i k then none
  else
    match (vecPorts i).find? fun p => !(decide (1 ≤ k.remaining p) && k.delivered p (want p)) with
    | some p => some p
    | none => some 2

/-- The wait of a blocked slot, the first requirement unmet (R370). -/
def Ex.whyBlocked (x : Ex) (i : Instr) : Blocked :=
  let g := x.g
  let k := x.cx0
  let head := x.head g.ia
  if g.iae && (head.isNone || (g.te && !(match head with | some (t, _, _) => t.tag == g.tg | none => false))) then
    x.blocked 0 (g.ia.zeroExtend 8) 0 (x.s.feeders x.sp x.br k g.ia (x.lackingArm i))
  else if g.ibe && g.ck && (frontBits (nth k.kq g.ib.toNat [])).isEmpty then x.blocked 2 (0x80 + g.ib.zeroExtend 8) 0 []
  else if g.ibe && !g.ck && (headTok (k.inQ g.ib).arm0).isNone then
    x.blocked 0 (g.ib.zeroExtend 8) 0 (x.s.feeders x.sp x.br k g.ib none)
  else if g.oe && (outRoom (k.outQ g.oq) ≤ x.s.cmdsAt x.who g.oq || x.outHeld g.oq) then
    x.blocked 1 (g.oq.zeroExtend 8) 0 (x.s.takers x.sp k g.oq)
  else
    match lackingPort i k with
    | some p => x.blocked (if p = 2 then 1 else 0) (BitVec.ofNat 8 p) 0 (x.s.gateParties x.sp k p)
    | none =>
      if !x.swOpen i then x.blocked 1 2 0 (x.s.gateParties x.sp k 2)
      else match i with
      | .kput _ n _ => x.blocked 1 (0x80 + n.zeroExtend 8) 0 []
      | .waitc _ _ _ a | .waitcS _ _ a => x.waitBlocked a
      | _ => x.blocked 0 0xFF 0 []

/-- The predicate test of a slot holds; without a head at IA the bank is unknown and it counts as holding (R370). -/
def Ex.predHolds (x : Ex) : Bool :=
  (x.g.iae && (x.head x.g.ia).isNone) || (x.cx0.predSet x.bank &&& x.g.pm == x.g.pv &&& x.g.pm)

/-- A presence read of a slot waits on its word, or would (R246): it is deferred, or firing it now defers it. -/
def ldpWaits (s : State) (c : CtxAt) (k : Ctx) (n : BitVec 4) : Instr → Bool
  | .ldp g w d a b =>
    (k.wait == some n && k.defer.isSome) ||
    match execLdp g w d a b { s with agent := .firing c n, late := false } with
    | .next t => (match t.ctx? c with | some k => k.wait == some n | none => false)
    | _ => false
  | _ => false

/-- The slot that a context fires next once its waiting firing is withdrawn, slots that the release condition keeps back in
this round among the eligible (R63, R235, R241). -/
def nextPick (s : State) (c : CtxAt) (k : Ctx) : Option Nat :=
  (choose ((upTo 16).filter fun n => (slotView s c k n).eligible || (slotView s c k n).keptBack) k.passWas).1

/-- How a slot stands: it has nothing to do, it can fire in this cycle or at its round's end, or it is blocked (R370). -/
inductive SlotWait where
  | idle
  | ready
  | blocked (b : Blocked)
  deriving DecidableEq, Repr

/-- A `jobwait` waits only for `coll` jobs that wait for their partners (R297). -/
def Ex.alone (x : Ex) : Instr → Bool
  | .jobwait _ w _ a =>
    let (y, card) := x.cardAddr w a
    let mine := y.s.jobs.filter fun j => j.st != .finished && j.cmd.who == x.who && j.cmd.card == card
    y.ok && !y.heldCards.contains card && !(y.s.cmdq.any fun c => c.2.who == x.who && c.2.card == card) &&
      !mine.isEmpty && mine.all y.s.alone
  | _ => false

/-- How slot `n` of a context stands (R241, R297, R370). While a firing of the context waits, another slot can fire only where it
is the one chosen when that firing is withdrawn at the mark (R235); one that is eligible is not blocked. -/
def slotWait (s : State) (sp : Spur) (k : Ctx) (n : Nat) : SlotWait :=
  if !k.valid n then .idle
  else
    match k.instr? n with
    | none => .idle
    | some i =>
      match guardOf i with
      | some (.b g) =>
        let c : CtxAt := ⟨sp.handle, k.row, k.col, k.idx⟩
        match enterB s c (BitVec.ofNat 4 n) i g with
        | none => .idle
        | some x =>
          let v := slotView s c k n
          let goes : SlotWait :=
            if k.wait.isNone || k.wait == some (BitVec.ofNat 4 n) || nextPick s c k == some n then .ready else .idle
          if !x.predHolds then .idle
          else if k.wait == some (BitVec.ofNat 4 n) || v.eligible then
            (match i with
              | .ldp g w _ a b =>
                if ldpWaits s c k (BitVec.ofNat 4 n) i && !x.ldpHeld g w a b then
                  .blocked (x.blocked 3 0xFF (x.ldpAddr g w a b) (s.kin sp))
                else goes
              | .jobwait .. => if k.wait.isSome && x.alone i then .blocked (x.blocked 0 0xFF 0 []) else goes
              | _ => goes)
          else if v.keptBack then goes
          else .blocked (x.whyBlocked i)
      | _ => .idle

/-- The thread still stands at its word after trying it. -/
def threadStays (s : State) (h : Handle) (o : Out) : Bool :=
  match o, s.thread? h with
  | .next t, some a =>
    (match t.spur? h with
      | some sp => sp.life == .running && !sp.paging && sp.live.th.pc == a.pc && sp.live.th.load.isNone
      | none => false)
  | _, _ => false

/-- The wait of a thread (R366): the instruction at which it waits. -/
def threadBlocked (s : State) (sp : Spur) : Option Blocked :=
  match threadAt s sp.handle with
  | none => none
  | some (x, i) =>
    let h := sp.handle
    let t : State := { s with agent := .thread h, late := false }
    let op : W64 := (wordOf i).extractLsb' 24 8 |>.zeroExtend 64
    let plain (on : List Party) (o : Out) : Option Blocked := if threadStays s h o then some (x.blocked 5 0xFF op on) else none
    match i with
    | .waitc g p d a => if threadStays s h (execWaitc g p d a t) then some (x.waitBlocked a) else none
    | .waitcS g d a => if threadStays s h (execWaitcS g d a t) then some (x.waitBlocked a) else none
    | .waitd g n => plain [] (execWaitd g n t)
    | .waitdT g n => plain [] (execWaitdT g n t)
    | .sbar g p => plain [] (execSbar g p t)
    | .tlbsync g d => plain (s.syncParties sp) (execTlbsync g d t)
    | .scmd g a b => plain [] (execScmd g a b t)
    | .ldp g w d a b =>
      if x.th.defer.isSome || (threadStays s h (execLdp g w d a b t) && !x.ldpHeld g w a b) then
        some (x.blocked 3 0xFF (x.ldpAddr g w a b) (s.kin sp))
      else none
    | .jobwait g w d a => if threadStays s h (execJobwait g w d a t) then some (x.blocked 0 0xFF 0 []) else none
    | _ => none

/-- How the slots of a spur stand: those of each active context whose DN is 0. -/
def slotWaits (s : State) (sp : Spur) : List SlotWait :=
  sp.live.bricks.flatMap fun b =>
    match sp.live.ctx? b.row b.col b.active with
    | none => []
    | some k => if !k.conf || k.dn then [] else (upTo 16).map (slotWait s sp k)

/-- The blocked slots of a list. -/
def blockedOf (l : List SlotWait) : List Blocked :=
  l.filterMap fun w => match w with
    | .blocked b => some b
    | .idle | .ready => none

/-- The machine with a round of a spur open and its turn among the sharers of its bricks. -/
def State.inRound (s : State) (sp : Spur) : State :=
  let turn (g : Group) : Group := if g.members.contains sp.handle then { g with turn := g.members.idxOf sp.handle } else g
  { s with groups := s.groups.map turn }.setSpur { sp with roundAt := s.now }

/-- The farms that the wires of a list of instances lead to or come from, through one another; `fuel` bounds the farms on the
way. -/
def State.farmsBy (s : State) : Nat → List Handle → List Handle
  | 0, _ => []
  | n + 1, l =>
    let farm (a b : End) : List Handle :=
      match a, b.handle with
      | .farm i _, some g => if l.contains g && !l.contains i then [i] else []
      | _, _ => []
    let found := dedup (s.wires.flatMap fun w => farm w.src w.dst ++ farm w.dst w.src)
    if found.isEmpty then [] else found ++ s.farmsBy n (l ++ found)

/-- The events that move flits of the farms before and behind a spur (R337). -/
def farmEvents (s : State) (h : Handle) : List (State → Out) :=
  (s.farmsBy 16 [h]).flatMap fun i =>
    let port (e : End) : List (BitVec 8) := match e with
      | .farm j p => if j == i then [p] else []
      | .spur .. | .job .. | .gate _ | .saddle .. => []
    let reps := match s.comps.find? fun c => c.handle == i with
      | some c => (match c.nest with | .farm _ _ _ _ r _ => r | _ => 0)
      | none => 0
    (dedup (s.wires.flatMap fun w => port w.src ++ port w.dst)).flatMap fun p =>
      (upTo reps).flatMap fun r => [execFarmDistribution i false p r, execFarmDistribution i true p r]

/-- The events inside a spur that may move something of it: a flit in flight or at a port is delivered, an output injects or
loops back its head, a control output sends its head, a control token, a marker or a bank-ownership token arrives, a
reconfiguration goes on, and the tile table's fills, passes, reads and transfers end. -/
def innerEvents (sp : Spur) : List (State → Out) :=
  let h := sp.handle
  let any : Flit → Bool := fun _ => true
  let flow (f : FlowId) : State → Out := fun s => .next (deliverFlow h f any s)
  let routes := (upTo sp.live.routes.length).flatMap fun n => (nth (sp.live.routes.map (·.fly)) n []).map fun x =>
    flow (.route (BitVec.ofNat 6 n) (rtRow x.ent) (rtCol x.ent) (rtVc x.ent))
  let ports := (sp.img.ports.filter (·.isIn)).map fun d => flow (.port d.p)
  let paths := sp.live.paths.flatMap fun p =>
    let c : CtxAt := ⟨h, p.row, p.col, p.ctx⟩
    [flow (.grout c p.j p.n), execControlTokenDelivery c p.j (some p.n)]
  let ctxs := sp.live.ctxs.flatMap fun k =>
    let c : CtxAt := ⟨h, k.row, k.col, k.idx⟩
    ((upTo 8).flatMap fun o => [fun s => .next (sendHead s c (BitVec.ofNat 3 o) any), execLoopbackDelivery c (BitVec.ofNat 3 o)]) ++
      ((upTo 4).map fun j => execControlTokenDelivery c (BitVec.ofNat 2 j) none) ++
      [execReconfigurationTokenArrival c, execSeamAutoAppend c]
  let bricks := sp.live.bricks.flatMap fun b =>
    let at_ : BrickAt := ⟨h, b.row, b.col⟩
    [execArrayPassComplete at_] ++ ((upTo 3).map fun x => execTileReadComplete at_ (BitVec.ofNat 2 x)) ++
      (upTo 4).flatMap fun m =>
        let t := b.slot m
        execSlotFillComplete at_ (BitVec.ofNat 2 m) ::
          if t.sends && t.send then [execBusTransfer h t.colBus (if t.colBus then b.col else b.row) t.did] else []
  routes ++ ports ++ paths ++ ctxs ++ bricks ++ [execBankTokenReceipt h]

/-- Something of a spur, or on its way to it or from it, can move in a round of its own, without a firing or an instruction. -/
def netMoves (s : State) (sp : Spur) : Bool :=
  let s := s.inRound sp
  (innerEvents sp ++ farmEvents s sp.handle).any fun e => match e s with
    | .next t => t.spur? sp.handle != s.spur? sp.handle || t.wires != s.wires || t.comps != s.comps
    | _ => false

/-- The next mark of a spur's round gives out something that the round holds, changes its configuration, or voids the round to
run it again (R94, R396, R397); trace records go nowhere that a spur waits on. -/
def Spur.owes (sp : Spur) : Bool :=
  let b := sp.live
  sp.stale || sp.retry || !sp.causes.isEmpty || sp.kept.isSome || sp.move.isSome || b.yld.isSome || !b.edge.isEmpty ||
    !b.held.isEmpty || !b.invs.isEmpty || !b.cmds.isEmpty || !b.recs.isEmpty || !b.reqs.isEmpty || !b.rets.isEmpty ||
    !sp.roundCmds.1.isEmpty || (b.ctxs.any fun k => !k.stagedCst.isEmpty) || b.changes != b || sp.stepAll != sp

/-- Waves of the spur's launch are still to open (R422). -/
def Spur.wavesLeft (sp : Spur) : Bool := decide (16 * sp.waves.opened < sp.waves.ridges.length)

/-- The entry of each node: its blocked slot of the lowest context and slot, in ascending order of nodes (R370). -/
def nodeEntries (l : List Blocked) : List Blocked :=
  let best (n : W32) : Option Blocked := leastBy (fun b : Blocked => [b.ctx.toNat, b.slot.toNat]) (l.filter fun b => b.node == n)
  (sortBy (fun n : W32 => [n.toNat]) (dedup (l.map (·.node)))).filterMap best

/-! ## The quiescent set (R367) -/

/-- What a spur waits on, with the entries of its record; `moves` where nothing keeps it from going on. -/
structure WaitView where
  h : Handle
  moves : Bool
  entries : List Blocked
  on : List Party
  deriving DecidableEq, Repr

/-- Look at a spur. -/
def State.waitView (s : State) (sp : Spur) : WaitView :=
  let ws := slotWaits s sp
  let l := blockedOf ws
  let t := (threadBlocked s sp).toList
  let moves := ws.contains .ready || (sp.live.th.hasSeq && !sp.live.th.retd && t.isEmpty) || sp.owes || sp.wavesLeft || netMoves s sp
  ⟨sp.handle, moves, nodeEntries l ++ t, (l ++ t).flatMap (·.on)⟩

/-- A party holds nothing up: it is in the set, stopped, yielded or over, or its package reports it inactive (R367, R394). -/
def State.partyQuiet (s : State) (q : List Handle) : Party → Bool
  | .spur h =>
    match s.spur? h with
    | none => true
    | some x => q.contains h || x.life == .stopped || x.life == .yielded
  | .remote r => s.farIdle.contains r
  | .coming => false

/-- Shrink a set until each member waits on nothing outside it; `fuel` bounds the members. -/
def shrink (s : State) (vs : List WaitView) : Nat → List Handle → List Handle
  | 0, q => q
  | n + 1, q => shrink s vs n ((vs.filter fun v => q.contains v.h && v.on.all (s.partyQuiet q)).map (·.h))

/-! ## Deadlock records (R368, R369) -/

/-- The bytes of an entry. -/
def Blocked.bytes (b : Blocked) : List Byte :=
  toBytes 4 b.node.toNat ++ loops4 b.loops ++ [b.reason, b.ctx, b.slot, b.queue] ++ toBytes 8 b.detail.toNat

/-- The body of a deadlock record. -/
def deadBody (s : State) (sp : Spur) (l : List Blocked) : List Byte :=
  let m := l.take 64
  toBytes 4 sp.handle.toNat ++ toBytes 2 sp.dom ++ toBytes 2 m.length ++ toBytes 4 (s.qwinOf sp) ++
    toBytes 4 (if 64 < l.length then 1 else 0) ++ toBytes 8 sp.rnd.toNat ++ zeros 8 ++ m.flatMap Blocked.bytes

/-- The deadlock cause of a spur (R368): its header names the first entry. -/
def deadCause (s : State) (sp : Spur) (l : List Blocked) : Cause :=
  let c : Cause := ⟨13, 0, 0xFFFFFFFF, 0xFF, 0xFF, [], deadBody s sp l, 0, 0, none⟩
  match l with
  | b :: _ => { c with node := b.node, ctx := b.ctx, slot := b.slot, loops := b.loops }
  | [] => c

/-- `DEADLOCK_DECLARATION` (R367): every spur of the largest quiescent set takes its fault at its next mark (R368). A member
is inactive: its last counted cycles were idle to this very one (R365). A spur that can go on in this very cycle waits for nothing, and is in no such set (log 18, DEDUCED). -/
def execDeadlockDeclaration (s : State) : Out :=
  .next <|
    let vs := (s.spurs.filter fun x => x.inactive && s.idle x).map s.waitView
    let q := shrink s vs vs.length ((vs.filter fun v => !v.moves).map (·.h))
    vs.foldl (fun s v =>
      if q.contains v.h then s.modSpur v.h fun sp => { sp with dead := some (deadCause s sp v.entries) } else s) s

end Sys2Proof.Machine
end

