-- ==== Sys2Proof/Machine/Sparse.lean ====
section
/-! DEFINITION. Sparse streams (R206 to R221): scans of masks, merges of fibres, stop levels, the sparse accumulator and
partitioning. A queue written without the dequeue code is dequeued where its pseudocode says so (R209). -/

namespace Sys2Proof.Machine

open Sys2Proof

/-! ## Heads, stops and dequeues -/

/-- The head a sparse operand names; none for `z` (R213). -/
def Ex.fibre (x : Ex) : Opnd → Option Tok
  | .i n | .iDeq n => (x.head n).map (·.1)
  | _ => none

/-- The level of a stop token (R40). -/
def Tok.level (t : Tok) : Nat := t.pay.toNat % 16

/-- An operand is at its stop, or is none (R213). -/
def atStop : Option Tok → Bool
  | some t => t.stop
  | none => true

/-- Dequeue the queue an operand names, where a condition holds. -/
def Ex.take (x : Ex) (o : Opnd) (c : Bool) : Ex :=
  match o with
  | .i n | .iDeq n => if c && x.ok then { x with cx := x.cx.deq x.br n false } else x
  | _ => x

/-- Write a token of the output an operand names (R74, R210). -/
def Ex.emit (x : Ex) (d : Opnd) (stop : Bool) (v : Nat) (a : Arm) : Ex :=
  match d with
  | .o n => x.pushTok n stop (BitVec.ofNat 32 v) a
  | _ => x

/-- Register `k` of the firing's bank, as it stood before (R212). -/
def Ex.kreg (x : Ex) (k : BitVec 4) : Nat := (x.cx0.reg x.bank k).toNat

/-- Write register `k` of the firing's bank. -/
def Ex.setKreg (x : Ex) (k : BitVec 4) (v : Nat) : Ex :=
  if x.ok then { x with cx := x.cx.setReg x.bank k (BitVec.ofNat 32 v) } else x

/-- The lower of two stops' levels leaves, and every stop of that level is dequeued (R213, R215). -/
def Ex.stops (x : Ex) (d a b : Opnd) (ha : Tok) (hb : Option Tok) : Ex :=
  let l := match hb with
    | some t => Nat.min ha.level t.level
    | none => ha.level
  ((x.emit d true l .a0).take a (ha.level == l)).take b (match hb with | some t => t.level == l | none => false)

/-! ## Scans (R212 to R214) -/

/-- The result token of a scan (R212). -/
def emitc (c : Nat) (a b : Bool) : Nat := c % 2 ^ 16 * 2 ^ 16 + a.toNat * 2 ^ 15 + b.toNat * 2 ^ 14

/-- The operation of a scan: and, or or. -/
def scanOp (op : Bool) (x y : W32) : W32 := if op then x ||| y else x &&& y

/-- The bits from position `p` up. -/
def fromBit (m : W32) (p : Nat) : W32 := m &&& ~~~(BitVec.ofNat 32 (2 ^ p - 1))

/-- A mask word as a head shows it: zero at a stop (R213). -/
def maskWord : Option Tok → W32
  | some t => if t.stop then 0 else t.pay
  | none => 0

/-- `scanb` (R213). -/
def execScanb (g : BGuard) (op : Bool) (k : BitVec 4) (d a b : Opnd) (s : State) : Out :=
  run (.scanb g op k d a b) (.b g) (fun x =>
    match x.fibre a with
    | none => x
    | some ha =>
      let hb := x.fibre b
      if ha.stop && atStop hb then (x.stops d a b ha hb).setKreg k 0
      else
        let u := maskWord (some ha)
        let v := maskWord hb
        let w := x.kreg k / 64
        let p := Nat.min (x.kreg k % 64) 32
        let m := fromBit (scanOp op u v) p
        if m != 0 then
          let j := trailingZeros m 32 0
          (x.emit d false (emitc (32 * w + j) (u.getLsbD j) (v.getLsbD j)) .a0).setKreg k (w * 64 + (j + 1))
        else ((x.take a !ha.stop).take b !(atStop hb)).setKreg k ((w + 1) * 64)) s

/-- The cursor of `scant` (R214). -/
structure TreeCur where
  g : Nat
  t : Nat
  leafOpen : Bool
  top : Bool
  p : Nat
  deriving DecidableEq, Repr

/-- Read the cursor. -/
def TreeCur.read (v : Nat) : TreeCur :=
  ⟨bitsOf v 26 6, bitsOf v 21 5, bitsOf v 20 1 == 1, bitsOf v 19 1 == 1, Nat.min (bitsOf v 0 6) 32⟩

/-- The cursor as a word. -/
def TreeCur.word (c : TreeCur) : Nat :=
  c.g % 64 * 2 ^ 26 + c.t * 2 ^ 21 + c.leafOpen.toNat * 2 ^ 20 + c.top.toNat * 2 ^ 19 + c.p

/-- Put the three registers of `scant`. -/
def Ex.setTree (x : Ex) (k : BitVec 4) (c : Nat) (ra rb : W32) : Ex :=
  ((x.setKreg k c).setKreg (k + 1) ra.toNat).setKreg (k + 2) rb.toNat

/-- One bit cleared. -/
def clearBit (w : W32) (t : Nat) : W32 := w &&& ~~~(1#32 <<< t)

/-- `scant` (R214). -/
def execScant (g : BGuard) (op : Bool) (k : BitVec 4) (d a b : Opnd) (s : State) : Out :=
  run (.scant g op k d a b) (.b g) (fun x =>
    match x.fibre a with
    | none => x
    | some ha =>
      let hb := x.fibre b
      let c := TreeCur.read (x.kreg k)
      let ra : W32 := BitVec.ofNat 32 (x.kreg (k + 1))
      let rb : W32 := BitVec.ofNat 32 (x.kreg (k + 2))
      if !c.top then
        if ha.stop && atStop hb then (x.stops d a b ha hb).setTree k 0 0 0
        else
          ((x.take a !ha.stop).take b !(atStop hb)).setTree k { c with top := true }.word (maskWord (some ha)) (maskWord hb)
      else if !c.leafOpen then
        let u := ra ||| rb
        if u = 0 then x.setTree k { c with top := false, g := c.g + 1 }.word ra rb
        else
          let t := trailingZeros u 32 0
          let pa := ra.getLsbD t
          let pb := rb.getLsbD t
          if (if op then pa || pb else pa && pb) then x.setTree k { c with t := t, leafOpen := true, p := 0 }.word ra rb
          else ((x.take a pa).take b pb).setTree k { c with t := t }.word (clearBit ra t) (clearBit rb t)
      else
        let pa := ra.getLsbD c.t
        let pb := rb.getLsbD c.t
        let u : W32 := if pa then ha.pay else 0
        let v : W32 := if pb then (match hb with | some t => t.pay | none => 0) else 0
        let m := fromBit (scanOp op u v) c.p
        if m != 0 then
          let j := trailingZeros m 32 0
          (x.emit d false (emitc (1024 * c.g + 32 * c.t + j) (u.getLsbD j) (v.getLsbD j)) .a0).setTree k
            { c with p := j + 1 }.word ra rb
        else
          ((x.take a pa).take b pb).setTree k { c with leafOpen := false }.word (clearBit ra c.t) (clearBit rb c.t)) s

/-! ## Intersection and union (R215) -/

/-- The token of a merge (R215). -/
def emitv (mode : MMode) (c va vb : Nat) : Nat :=
  match mode with
  | .cv => c * 2 ^ 16 + va
  | .cvb => c * 2 ^ 16 + vb
  | .vv => vb * 2 ^ 16 + va

/-- The coordinate of an element token (R206). -/
def Tok.coord (t : Tok) : Nat := t.pay.toNat / 2 ^ 16

/-- The value of an element token (R206). -/
def Tok.val (t : Tok) : Nat := t.pay.toNat % 2 ^ 16

/-- A merge of two fibres by coordinate (R215): `all` writes coordinates of one operand too. -/
def Ex.merge2 (x : Ex) (all : Bool) (mode : MMode) (d a b : Opnd) : Ex :=
  let only (x : Ex) (v : Nat) : Ex := if all then x.emit d false v .a0 else x
  match x.fibre a, x.fibre b with
  | some ha, some hb =>
    if !ha.stop && !hb.stop then
      if ha.coord < hb.coord then (only x (emitv mode ha.coord ha.val 0)).take a true
      else if hb.coord < ha.coord then (only x (emitv mode hb.coord 0 hb.val)).take b true
      else ((x.emit d false (emitv mode ha.coord ha.val hb.val) .a0).take a true).take b true
    else if ha.stop && !hb.stop then (only x (emitv mode hb.coord 0 hb.val)).take b true
    else if !ha.stop then (only x (emitv mode ha.coord ha.val 0)).take a true
    else x.stops d a b ha (some hb)
  | _, _ => x

/-- `isect` (R215). -/
def execIsect (g : BGuard) (mode : MMode) (d a b : Opnd) (s : State) : Out :=
  run (.isect g mode d a b) (.b g) (fun x => x.merge2 false mode d a b) s

/-- `union` (R215). -/
def execUnion (g : BGuard) (mode : MMode) (d a b : Opnd) (s : State) : Out :=
  run (.union g mode d a b) (.b g) (fun x => x.merge2 true mode d a b) s

/-! ## Stop levels (R217) -/

/-- `stopt` with a level from A (R217). -/
def execStopt (g : BGuard) (d a : Opnd) (s : State) : Out :=
  run (.stopt g d a) (.b g) (fun x => x.emit d true (x.nat a % 16) .a0) s

/-- `stopt` with an immediate level (R217). -/
def execStoptImm (g : BGuard) (l : BitVec 4) (d : Opnd) (s : State) : Out :=
  run (.stoptImm g l d) (.b g) (fun x => x.emit d true l.toNat .a0) s

/-- Pass the head of IA, a stop with another level or not at all (R217). -/
def Ex.relevel (x : Ex) (d a : Opnd) (f : Nat → Option Nat) : Ex :=
  match x.fibre a with
  | none => x
  | some h =>
    if !h.stop then x.emit d false h.pay.toNat .a0
    else
      match f h.level with
      | some l => x.emit d true l .a0
      | none => x

/-- `stopq.lower` (R217). -/
def execStopqLower (g : BGuard) (d a : Opnd) (s : State) : Out :=
  run (.stopqLower g d a) (.b g) (fun x => x.relevel d a fun l => if l = 0 then none else some (l - 1)) s

/-- `stopq.raise` (R217). -/
def execStopqRaise (g : BGuard) (d a : Opnd) (s : State) : Out :=
  run (.stopqRaise g d a) (.b g) (fun x => x.relevel d a fun l => some (Nat.min (l + 1) 15)) s

/-! ## The sparse accumulator (R218 to R220) -/

/-- The region a register names (R218): its base, its bitmap words and its coordinates. -/
def region (v : Nat) : Nat × Nat × Nat := (bitsOf v 2 14 * 4, bitsOf v 16 14, 32 * bitsOf v 16 14)

/-- Go on where the region lies within the bank (R218). -/
def Ex.region (x : Ex) (k : BitVec 4) (f : Nat → Nat → Nat → Ex) : Ex :=
  let (base, nw, cap) := Machine.region (x.kreg k)
  if nw = 0 ∨ 65536 < base + 4 * cap + 4 * nw then x.raise (overrun 1 (BitVec.ofNat 64 (x.kreg k))) else f base nw cap

/-- Write one word of the firing's bank. -/
def Ex.bankWord (x : Ex) (off v : Nat) : Ex := x.bankStore x.br.row x.br.col off (toBytes 4 v)

/-- `spacc` (R218, R219): `fp` canonicalises a first value, `op` adds to a value already there. -/
def Ex.spacc (x : Ex) (k : BitVec 4) (a b : Opnd) (fp : Bool) (op : Ex → Nat → Nat → Ex × Nat) : Ex :=
  if x.stopOf a then x
  else x.region k fun base _ cap =>
    let c := x.nat a / 2 ^ 16 % 2 ^ 16
    let v := x.nat b % 2 ^ 32
    if cap ≤ c then x.raise (overrun 1 (BitVec.ofNat 64 c))
    else
      let wa := base + 4 * cap + 4 * (c / 32)
      let w := readNat x.br.bank wa 4
      if bitsOf w (c % 32) 1 = 0 then
        let z := fp32.read v
        let x := x.flags (if fp && z.sig then flNV else 0)
        (x.bankWord (base + 4 * c) (if fp && z.isNan then fp32.nan else v)).bankWord wa (w + 2 ^ (c % 32))
      else
        let (x, r) := op x (readNat x.br.bank (base + 4 * c) 4) v
        x.bankWord (base + 4 * c) r

/-- `spacc.fadd` (R219). -/
def execSpaccFadd (g : BGuard) (rm : Rm) (k : BitVec 4) (a b : Opnd) (s : State) : Out :=
  run (.spaccFadd g rm k a b) (.b g) (fun x => x.spacc k a b true fun x u v => lane2 rm fp32 addV x (u, v)) s

/-- `spacc.add` (R219). -/
def execSpaccAdd (g : BGuard) (k : BitVec 4) (a b : Opnd) (s : State) : Out :=
  run (.spaccAdd g k a b) (.b g) (fun x => x.spacc k a b false fun x u v => (x, (u + v) % 2 ^ 32)) s

/-- `spacc.fmax` (R219). -/
def execSpaccFmax (g : BGuard) (k : BitVec 4) (a b : Opnd) (s : State) : Out :=
  run (.spaccFmax g k a b) (.b g) (fun x => x.spacc k a b true fun x u v => lanePlain x (minmaxV fp32 true false u v)) s

/-- The lowest coordinate whose bit is set in the words from index `i` on (R220). -/
def lowestSet : Nat → List Nat → Option Nat
  | _, [] => none
  | i, w :: r => if w = 0 then lowestSet (i + 1) r else some (32 * i + trailingZeros (BitVec.ofNat 32 w) 32 0)

/-- One firing of a drain (R220). -/
def Ex.spdrain (x : Ex) (k : BitVec 4) (d : Opnd) (vals : Bool) : Ex :=
  x.region k fun base nw cap =>
    let v := x.kreg k
    let low := v % 2 ^ 31
    match lowestSet 0 ((upTo nw).map fun i => readNat x.br.bank (base + 4 * cap + 4 * i) 4) with
    | none => (x.emit d true 0 .a0).setKreg k low
    | some c =>
      if vals || 2 ^ 31 ≤ v then
        let wa := base + 4 * cap + 4 * (c / 32)
        let y := (x.emit d false (readNat x.br.bank (base + 4 * c) 4) .a0).setKreg k low
        (y.bankWord (base + 4 * c) 0).bankWord wa (readNat x.br.bank wa 4 - 2 ^ (c % 32))
      else (x.emit d false c .a0).setKreg k (low + 2 ^ 31)

/-- `spdrain` (R220). -/
def execSpdrain (g : BGuard) (k : BitVec 4) (d : Opnd) (s : State) : Out :=
  run (.spdrain g k d) (.b g) (fun x => x.spdrain k d false) s

/-- `spdrain.v` (R220). -/
def execSpdrainV (g : BGuard) (k : BitVec 4) (d : Opnd) (s : State) : Out :=
  run (.spdrainV g k d) (.b g) (fun x => x.spdrain k d true) s

/-- `part` (R221): a stop token goes to both arms in one entry. -/
def execPart (g : BGuard) (b : BitVec 5) (d a : Opnd) (s : State) : Out :=
  run (.part g b d a) (.b g) (fun x =>
    let v := x.get a
    x.emit d (x.stopOf a) (v.toNat % 2 ^ 32) (if x.stopOf a then .both else if v.getLsbD b.toNat then .a1 else .a0)) s

end Sys2Proof.Machine
end

