-- ==== Sys2Proof/Machine/Dispatch.lean ====
section
/-! DEFINITION. One arm for each row of the operation table: the meaning that executes it. -/

namespace Sys2Proof.Machine

/-- Execute one instruction or perform one event. -/
def exec (i : Instr) (s : State) : Host.Outcome State Fault Refusal :=
  match i with
  | .nop g => Sys2Proof.Machine.execNop g s
  | .pset g a b => Sys2Proof.Machine.execPset g a b s
  | .pand g d a b => Sys2Proof.Machine.execPand g d a b s
  | .por g d a b => Sys2Proof.Machine.execPor g d a b s
  | .pxor g d a b => Sys2Proof.Machine.execPxor g d a b s
  | .pandn g d a b => Sys2Proof.Machine.execPandn g d a b s
  | .pnot g d a => Sys2Proof.Machine.execPnot g d a s
  | .pmov g d a => Sys2Proof.Machine.execPmov g d a s
  | .sel g n d a b => Sys2Proof.Machine.execSel g n d a b s
  | .steer g d a => Sys2Proof.Machine.execSteer g d a s
  | .merge g d a => Sys2Proof.Machine.execMerge g d a s
  | .mergeAny g d a => Sys2Proof.Machine.execMergeAny g d a s
  | .gate g d a => Sys2Proof.Machine.execGate g d a s
  | .done g => Sys2Proof.Machine.execDone g s
  | .brk g n => Sys2Proof.Machine.execBrk g n s
  | .trap g n a => Sys2Proof.Machine.execTrap g n a s
  | .mark g n a => Sys2Proof.Machine.execMark g n a s
  | .sett g n a => Sys2Proof.Machine.execSett g n a s
  | .seamO g n => Sys2Proof.Machine.execSeamO g n s
  | .seamJ g n => Sys2Proof.Machine.execSeamJ g n s
  | .seamAll g => Sys2Proof.Machine.execSeamAll g s
  | .deq g a b => Sys2Proof.Machine.execDeq g a b s
  | .kput g n a => Sys2Proof.Machine.execKput g n a s
  | .kget g d => Sys2Proof.Machine.execKget g d s
  | .add g d a b => Sys2Proof.Machine.execAdd g d a b s
  | .sub g d a b => Sys2Proof.Machine.execSub g d a b s
  | .addi g d a imm => Sys2Proof.Machine.execAddi g d a imm s
  | .mul g d a b => Sys2Proof.Machine.execMul g d a b s
  | .mulh g d a b => Sys2Proof.Machine.execMulh g d a b s
  | .mulhu g d a b => Sys2Proof.Machine.execMulhu g d a b s
  | .div g d a b => Sys2Proof.Machine.execDiv g d a b s
  | .divu g d a b => Sys2Proof.Machine.execDivu g d a b s
  | .rem g d a b => Sys2Proof.Machine.execRem g d a b s
  | .remu g d a b => Sys2Proof.Machine.execRemu g d a b s
  | .and g d a b => Sys2Proof.Machine.execAnd g d a b s
  | .andi g d a imm => Sys2Proof.Machine.execAndi g d a imm s
  | .or g d a b => Sys2Proof.Machine.execOr g d a b s
  | .ori g d a imm => Sys2Proof.Machine.execOri g d a imm s
  | .xor g d a b => Sys2Proof.Machine.execXor g d a b s
  | .xori g d a imm => Sys2Proof.Machine.execXori g d a imm s
  | .shl g d a b => Sys2Proof.Machine.execShl g d a b s
  | .shli g d a imm => Sys2Proof.Machine.execShli g d a imm s
  | .shr g d a b => Sys2Proof.Machine.execShr g d a b s
  | .shri g d a imm => Sys2Proof.Machine.execShri g d a imm s
  | .sra g d a b => Sys2Proof.Machine.execSra g d a b s
  | .srai g d a imm => Sys2Proof.Machine.execSrai g d a imm s
  | .rotl g d a b => Sys2Proof.Machine.execRotl g d a b s
  | .clz g d a => Sys2Proof.Machine.execClz g d a s
  | .ctz g d a => Sys2Proof.Machine.execCtz g d a s
  | .popc g d a => Sys2Proof.Machine.execPopc g d a s
  | .min g d a b => Sys2Proof.Machine.execMin g d a b s
  | .max g d a b => Sys2Proof.Machine.execMax g d a b s
  | .minu g d a b => Sys2Proof.Machine.execMinu g d a b s
  | .maxu g d a b => Sys2Proof.Machine.execMaxu g d a b s
  | .abs g d a => Sys2Proof.Machine.execAbs g d a s
  | .neg g d a => Sys2Proof.Machine.execNeg g d a s
  | .cmpeq g d a b => Sys2Proof.Machine.execCmpeq g d a b s
  | .cmpne g d a b => Sys2Proof.Machine.execCmpne g d a b s
  | .cmplt g d a b => Sys2Proof.Machine.execCmplt g d a b s
  | .cmpltu g d a b => Sys2Proof.Machine.execCmpltu g d a b s
  | .cmple g d a b => Sys2Proof.Machine.execCmple g d a b s
  | .cmpleu g d a b => Sys2Proof.Machine.execCmpleu g d a b s
  | .cmpeqi g d a imm => Sys2Proof.Machine.execCmpeqi g d a imm s
  | .cmpnei g d a imm => Sys2Proof.Machine.execCmpnei g d a imm s
  | .cmplti g d a imm => Sys2Proof.Machine.execCmplti g d a imm s
  | .cmpltui g d a imm => Sys2Proof.Machine.execCmpltui g d a imm s
  | .cmplei g d a imm => Sys2Proof.Machine.execCmplei g d a imm s
  | .cmpleui g d a imm => Sys2Proof.Machine.execCmpleui g d a imm s
  | .movi g d imm => Sys2Proof.Machine.execMovi g d imm s
  | .movhi g d imm => Sys2Proof.Machine.execMovhi g d imm s
  | .bfx g d a b => Sys2Proof.Machine.execBfx g d a b s
  | .bfxS g d a b => Sys2Proof.Machine.execBfxS g d a b s
  | .bfi g d a b => Sys2Proof.Machine.execBfi g d a b s
  | .adds g d a b => Sys2Proof.Machine.execAdds g d a b s
  | .subs g d a b => Sys2Proof.Machine.execSubs g d a b s
  | .madd g d a b => Sys2Proof.Machine.execMadd g d a b s
  | .lea g sh d a b => Sys2Proof.Machine.execLea g sh d a b s
  | .fadd g fmt rm d a b => Sys2Proof.Machine.execFadd g fmt rm d a b s
  | .fsub g fmt rm d a b => Sys2Proof.Machine.execFsub g fmt rm d a b s
  | .fmul g fmt rm d a b => Sys2Proof.Machine.execFmul g fmt rm d a b s
  | .ffma g fmt rm d a b => Sys2Proof.Machine.execFfma g fmt rm d a b s
  | .ffms g fmt rm d a b => Sys2Proof.Machine.execFfms g fmt rm d a b s
  | .fdiv g fmt rm d a b => Sys2Proof.Machine.execFdiv g fmt rm d a b s
  | .fsqrt g fmt rm d a => Sys2Proof.Machine.execFsqrt g fmt rm d a s
  | .frsq g fmt rm d a => Sys2Proof.Machine.execFrsq g fmt rm d a s
  | .fexp2 g fmt rm d a => Sys2Proof.Machine.execFexp2 g fmt rm d a s
  | .flog2 g fmt rm d a => Sys2Proof.Machine.execFlog2 g fmt rm d a s
  | .fmin g fmt num d a b => Sys2Proof.Machine.execFmin g fmt num d a b s
  | .fmax g fmt num d a b => Sys2Proof.Machine.execFmax g fmt num d a b s
  | .fabs g fmt d a => Sys2Proof.Machine.execFabs g fmt d a s
  | .fneg g fmt d a => Sys2Proof.Machine.execFneg g fmt d a s
  | .fcmpeq g fmt d a b => Sys2Proof.Machine.execFcmpeq g fmt d a b s
  | .fcmplt g fmt d a b => Sys2Proof.Machine.execFcmplt g fmt d a b s
  | .fcmple g fmt d a b => Sys2Proof.Machine.execFcmple g fmt d a b s
  | .fcmpun g fmt d a b => Sys2Proof.Machine.execFcmpun g fmt d a b s
  | .fclass g fmt d a => Sys2Proof.Machine.execFclass g fmt d a s
  | .fround g fmt rm d a => Sys2Proof.Machine.execFround g fmt rm d a s
  | .fcvti g fmt rm u d a => Sys2Proof.Machine.execFcvti g fmt rm u d a s
  | .icvtf g fmt rm u d a => Sys2Proof.Machine.execIcvtf g fmt rm u d a s
  | .fscale g fmt rm d a b => Sys2Proof.Machine.execFscale g fmt rm d a b s
  | .sopen g port n a b => Sys2Proof.Machine.execSopen g port n a b s
  | .sopenRe g port n => Sys2Proof.Machine.execSopenRe g port n s
  | .sclose g port d => Sys2Proof.Machine.execSclose g port d s
  | .vadd g fmt rm a b => Sys2Proof.Machine.execVadd g fmt rm a b s
  | .vsub g fmt rm a b => Sys2Proof.Machine.execVsub g fmt rm a b s
  | .vmul g fmt rm a b => Sys2Proof.Machine.execVmul g fmt rm a b s
  | .vfma g fmt rm a => Sys2Proof.Machine.execVfma g fmt rm a s
  | .vaxpy g fmt rm a => Sys2Proof.Machine.execVaxpy g fmt rm a s
  | .vmin g fmt num a b => Sys2Proof.Machine.execVmin g fmt num a b s
  | .vmax g fmt num a b => Sys2Proof.Machine.execVmax g fmt num a b s
  | .vabs g fmt a => Sys2Proof.Machine.execVabs g fmt a s
  | .vneg g fmt a => Sys2Proof.Machine.execVneg g fmt a s
  | .vsel g fmt a b => Sys2Proof.Machine.execVsel g fmt a b s
  | .vcmp g fmt cond d a b => Sys2Proof.Machine.execVcmp g fmt cond d a b s
  | .vredsum g fmt rm d a => Sys2Proof.Machine.execVredsum g fmt rm d a s
  | .vredmax g fmt num d a => Sys2Proof.Machine.execVredmax g fmt num d a s
  | .vamax g fmt d a => Sys2Proof.Machine.execVamax g fmt d a s
  | .vscan g fmt rm a b => Sys2Proof.Machine.execVscan g fmt rm a b s
  | .vexp2 g fmt rm a => Sys2Proof.Machine.execVexp2 g fmt rm a s
  | .vrsq g fmt rm a => Sys2Proof.Machine.execVrsq g fmt rm a s
  | .vcvt g rm a => Sys2Proof.Machine.execVcvt g rm a s
  | .vqnt g a b => Sys2Proof.Machine.execVqnt g a b s
  | .vdqnt g rm a b => Sys2Proof.Machine.execVdqnt g rm a b s
  | .cvt g rm d a cf ct => Sys2Proof.Machine.execCvt g rm d a cf ct s
  | .qnt g k d a b => Sys2Proof.Machine.execQnt g k d a b s
  | .dqnt g k rm d a b => Sys2Proof.Machine.execDqnt g k rm d a b s
  | .scalex g k d a => Sys2Proof.Machine.execScalex g k d a s
  | .limb g d a => Sys2Proof.Machine.execLimb g d a s
  | .unlimb g d a => Sys2Proof.Machine.execUnlimb g d a s
  | .packH g d a b => Sys2Proof.Machine.execPackH g d a b s
  | .packB g d a b => Sys2Proof.Machine.execPackB g d a b s
  | .packN g d a b => Sys2Proof.Machine.execPackN g d a b s
  | .unpackH g u d a b => Sys2Proof.Machine.execUnpackH g u d a b s
  | .unpackB g u d a b => Sys2Proof.Machine.execUnpackB g u d a b s
  | .unpackN g u d a b => Sys2Proof.Machine.execUnpackN g u d a b s
  | .hdr g d a b => Sys2Proof.Machine.execHdr g d a b s
  | .hdrget g fld d a => Sys2Proof.Machine.execHdrget g fld d a s
  | .oclaim g ms xs => Sys2Proof.Machine.execOclaim g ms xs s
  | .orelease g ms xs => Sys2Proof.Machine.execOrelease g ms xs s
  | .ofillBank g fmt n a b => Sys2Proof.Machine.execOfillBank g fmt n a b s
  | .ofillBus g fmt n => Sys2Proof.Machine.execOfillBus g fmt n s
  | .ostat g e d => Sys2Proof.Machine.execOstat g e d s
  | .mbind g n a => Sys2Proof.Machine.execMbind g n a s
  | .mzero g n => Sys2Proof.Machine.execMzero g n s
  | .mmacK8 g last n p q => Sys2Proof.Machine.execMmacK8 g last n p q s
  | .mmacK4 g last n p q => Sys2Proof.Machine.execMmacK4 g last n p q s
  | .mmacK16 g last p q => Sys2Proof.Machine.execMmacK16 g last p q s
  | .mreconI64 g k16 n a => Sys2Proof.Machine.execMreconI64 g k16 n a s
  | .mreconF32 g k16 n a => Sys2Proof.Machine.execMreconF32 g k16 n a s
  | .mreconF32Add g k16 n a => Sys2Proof.Machine.execMreconF32Add g k16 n a s
  | .mdrain g n a => Sys2Proof.Machine.execMdrain g n a s
  | .mdrainZ g n a => Sys2Proof.Machine.execMdrainZ g n a s
  | .trienc g d a => Sys2Proof.Machine.execTrienc g d a s
  | .tridec g d a => Sys2Proof.Machine.execTridec g d a s
  | .triadd g d a b => Sys2Proof.Machine.execTriadd g d a b s
  | .trimul g d a b => Sys2Proof.Machine.execTrimul g d a b s
  | .scanb g op k d a b => Sys2Proof.Machine.execScanb g op k d a b s
  | .scant g op k d a b => Sys2Proof.Machine.execScant g op k d a b s
  | .isect g mode d a b => Sys2Proof.Machine.execIsect g mode d a b s
  | .union g mode d a b => Sys2Proof.Machine.execUnion g mode d a b s
  | .stopt g d a => Sys2Proof.Machine.execStopt g d a s
  | .stoptImm g l d => Sys2Proof.Machine.execStoptImm g l d s
  | .stopqLower g d a => Sys2Proof.Machine.execStopqLower g d a s
  | .stopqRaise g d a => Sys2Proof.Machine.execStopqRaise g d a s
  | .spaccFadd g rm k a b => Sys2Proof.Machine.execSpaccFadd g rm k a b s
  | .spaccAdd g k a b => Sys2Proof.Machine.execSpaccAdd g k a b s
  | .spaccFmax g k a b => Sys2Proof.Machine.execSpaccFmax g k a b s
  | .spdrain g k d => Sys2Proof.Machine.execSpdrain g k d s
  | .spdrainV g k d => Sys2Proof.Machine.execSpdrainV g k d s
  | .part g b d a => Sys2Proof.Machine.execPart g b d a s
  | .isq g w d a => Sys2Proof.Machine.execIsq g w d a s
  | .probe g w d a => Sys2Proof.Machine.execProbe g w d a s
  | .unpin g w d a => Sys2Proof.Machine.execUnpin g w d a s
  | .hod g w d a => Sys2Proof.Machine.execHod g w d a s
  | .coll g w d a => Sys2Proof.Machine.execColl g w d a s
  | .jobwait g w d a => Sys2Proof.Machine.execJobwait g w d a s
  | .ldb g sz d a b => Sys2Proof.Machine.execLdb g sz d a b s
  | .stb g sz v a b => Sys2Proof.Machine.execStb g sz v a b s
  | .ldv g sz d a b => Sys2Proof.Machine.execLdv g sz d a b s
  | .stv g sz v a b => Sys2Proof.Machine.execStv g sz v a b s
  | .ldg g sz w d a b => Sys2Proof.Machine.execLdg g sz w d a b s
  | .stg g sz w v a b => Sys2Proof.Machine.execStg g sz w v a b s
  | .ldp g w d a b => Sys2Proof.Machine.execLdp g w d a b s
  | .stp g w v a b => Sys2Proof.Machine.execStp g w v a b s
  | .clrp g w v a b => Sys2Proof.Machine.execClrp g w v a b s
  | .pref g w a b => Sys2Proof.Machine.execPref g w a b s
  | .amoadd g ord sc w d a b => Sys2Proof.Machine.execAmoadd g ord sc w d a b s
  | .amoand g ord sc w d a b => Sys2Proof.Machine.execAmoand g ord sc w d a b s
  | .amoor g ord sc w d a b => Sys2Proof.Machine.execAmoor g ord sc w d a b s
  | .amoxor g ord sc w d a b => Sys2Proof.Machine.execAmoxor g ord sc w d a b s
  | .amomin g ord sc w d a b => Sys2Proof.Machine.execAmomin g ord sc w d a b s
  | .amomax g ord sc w d a b => Sys2Proof.Machine.execAmomax g ord sc w d a b s
  | .amominu g ord sc w d a b => Sys2Proof.Machine.execAmominu g ord sc w d a b s
  | .amomaxu g ord sc w d a b => Sys2Proof.Machine.execAmomaxu g ord sc w d a b s
  | .amoswap g ord sc w d a b => Sys2Proof.Machine.execAmoswap g ord sc w d a b s
  | .amofadd g ord sc w d a b => Sys2Proof.Machine.execAmofadd g ord sc w d a b s
  | .cas g ord sc w d a b => Sys2Proof.Machine.execCas g ord sc w d a b s
  | .fence g ord sc => Sys2Proof.Machine.execFence g ord sc s
  | .fencex g ord sc => Sys2Proof.Machine.execFencex g ord sc s
  | .fencee g ord sc => Sys2Proof.Machine.execFencee g ord sc s
  | .peekt g d a => Sys2Proof.Machine.execPeekt g d a s
  | .routeaStep g d => Sys2Proof.Machine.execRouteaStep g d s
  | .routeaSet g a b => Sys2Proof.Machine.execRouteaSet g a b s
  | .vcbind g a b => Sys2Proof.Machine.execVcbind g a b s
  | .qstat g q d => Sys2Proof.Machine.execQstat g q d s
  | .call g p d a b => Sys2Proof.Machine.execCall g p d a b s
  | .ret g a => Sys2Proof.Machine.execRet g a s
  | .yield g a => Sys2Proof.Machine.execYield g a s
  | .resume g d a b => Sys2Proof.Machine.execResume g d a b s
  | .apply g p d a b => Sys2Proof.Machine.execApply g p d a b s
  | .cseq g d a b => Sys2Proof.Machine.execCseq g d a b s
  | .cpar g d a b => Sys2Proof.Machine.execCpar g d a b s
  | .cpipe g d a b => Sys2Proof.Machine.execCpipe g d a b s
  | .cfarm g pol d a b => Sys2Proof.Machine.execCfarm g pol d a b s
  | .cloop g d a b => Sys2Proof.Machine.execCloop g d a b s
  | .cfree g d a => Sys2Proof.Machine.execCfree g d a s
  | .waitc g p d a => Sys2Proof.Machine.execWaitc g p d a s
  | .waitcS g d a => Sys2Proof.Machine.execWaitcS g d a s
  | .fold g d a => Sys2Proof.Machine.execFold g d a s
  | .stow g d a => Sys2Proof.Machine.execStow g d a s
  | .cquery g d a => Sys2Proof.Machine.execCquery g d a s
  | .br g => Sys2Proof.Machine.execBr g s
  | .bc g cond a b => Sys2Proof.Machine.execBc g cond a b s
  | .jal g d => Sys2Proof.Machine.execJal g d s
  | .jr g d a => Sys2Proof.Machine.execJr g d a s
  | .loop g d => Sys2Proof.Machine.execLoop g d s
  | .scmd g a b => Sys2Proof.Machine.execScmd g a b s
  | .sbar g p => Sys2Proof.Machine.execSbar g p s
  | .cstep g n a => Sys2Proof.Machine.execCstep g n a s
  | .cload g n a b => Sys2Proof.Machine.execCload g n a b s
  | .arm g n a => Sys2Proof.Machine.execArm g n a s
  | .waitd g n => Sys2Proof.Machine.execWaitd g n s
  | .waitdT g n => Sys2Proof.Machine.execWaitdT g n s
  | .notify g a b => Sys2Proof.Machine.execNotify g a b s
  | .tlbinv g allas sz a b => Sys2Proof.Machine.execTlbinv g allas sz a b s
  | .tlbinvSpace g allas a b => Sys2Proof.Machine.execTlbinvSpace g allas a b s
  | .tlbsync g d => Sys2Proof.Machine.execTlbsync g d s
  | .migr g v a b => Sys2Proof.Machine.execMigr g v a b s
  | .svc g n => Sys2Proof.Machine.execSvc g n s
  | .eret g => Sys2Proof.Machine.execEret g s
  | .crd g d a c => Sys2Proof.Machine.execCrd g d a c s
  | .cwr g c a b => Sys2Proof.Machine.execCwr g c a b s
  | .rddig g d a b => Sys2Proof.Machine.execRddig g d a b s
  | .tokenDelivery h f => Sys2Proof.Machine.execTokenDelivery h f s
  | .headerDelivery h f => Sys2Proof.Machine.execHeaderDelivery h f s
  | .seamMarkerDelivery h f => Sys2Proof.Machine.execSeamMarkerDelivery h f s
  | .stepWordForward c o => Sys2Proof.Machine.execStepWordForward c o s
  | .controlTokenDelivery c j arrive => Sys2Proof.Machine.execControlTokenDelivery c j arrive s
  | .loopbackDelivery c o => Sys2Proof.Machine.execLoopbackDelivery c o s
  | .outputInjection c o => Sys2Proof.Machine.execOutputInjection c o s
  | .seamAutoAppend c => Sys2Proof.Machine.execSeamAutoAppend c s
  | .reconfigurationTokenArrival c => Sys2Proof.Machine.execReconfigurationTokenArrival c s
  | .roundMark h => Sys2Proof.Machine.execRoundMark h s
  | .streamPatternDelivery c p => Sys2Proof.Machine.execStreamPatternDelivery c p s
  | .streamPatternComplete c p => Sys2Proof.Machine.execStreamPatternComplete c p s
  | .slotFillComplete b m => Sys2Proof.Machine.execSlotFillComplete b m s
  | .busTransfer h col n did => Sys2Proof.Machine.execBusTransfer h col n did s
  | .arrayPassComplete b => Sys2Proof.Machine.execArrayPassComplete b s
  | .tileReadComplete b x => Sys2Proof.Machine.execTileReadComplete b x s
  | .atomicPerform a => Sys2Proof.Machine.execAtomicPerform a s
  | .ldpDeferredComplete a => Sys2Proof.Machine.execLdpDeferredComplete a s
  | .pagerService => Sys2Proof.Machine.execPagerService s
  | .pagerAcknowledge => Sys2Proof.Machine.execPagerAcknowledge s
  | .invalidationEffect n u => Sys2Proof.Machine.execInvalidationEffect n u s
  | .migrationPerform n => Sys2Proof.Machine.execMigrationPerform n s
  | .tlbsyncComplete h => Sys2Proof.Machine.execTlbsyncComplete h s
  | .jobAccept e => Sys2Proof.Machine.execJobAccept e s
  | .jobStart j => Sys2Proof.Machine.execJobStart j s
  | .hodRow j => Sys2Proof.Machine.execHodRow j s
  | .iseProbePass j => Sys2Proof.Machine.execIseProbePass j s
  | .iseElementMove j => Sys2Proof.Machine.execIseElementMove j s
  | .collectiveForm j others => Sys2Proof.Machine.execCollectiveForm j others s
  | .jobComplete j => Sys2Proof.Machine.execJobComplete j s
  | .bankTokenReceipt h => Sys2Proof.Machine.execBankTokenReceipt h s
  | .notifyWrite q tail => Sys2Proof.Machine.execNotifyWrite q tail s
  | .packetFetch q => Sys2Proof.Machine.execPacketFetch q s
  | .packetPresent q => Sys2Proof.Machine.execPacketPresent q s
  | .residentQueueChange leaving entering => Sys2Proof.Machine.execResidentQueueChange leaving entering s
  | .pasidTeardown v => Sys2Proof.Machine.execPasidTeardown v s
  | .teardownComplete => Sys2Proof.Machine.execTeardownComplete s
  | .claimArrival c => Sys2Proof.Machine.execClaimArrival c s
  | .claimGrant c pl victims => Sys2Proof.Machine.execClaimGrant c pl victims s
  | .claimReservation c pl => Sys2Proof.Machine.execClaimReservation c pl s
  | .startBarrierOpen c => Sys2Proof.Machine.execStartBarrierOpen c s
  | .launchWaveOpen h => Sys2Proof.Machine.execLaunchWaveOpen h s
  | .preEmption c victim => Sys2Proof.Machine.execPreEmption c victim s
  | .resumption c pl => Sys2Proof.Machine.execResumption c pl s
  | .spurEnd h => Sys2Proof.Machine.execSpurEnd h s
  | .sequenceSecondPlace h => Sys2Proof.Machine.execSequenceSecondPlace h s
  | .loopBodyRestart h => Sys2Proof.Machine.execLoopBodyRestart h s
  | .farmDistribution h out p r => Sys2Proof.Machine.execFarmDistribution h out p r s
  | .domainQueueRecordWrite d q => Sys2Proof.Machine.execDomainQueueRecordWrite d q s
  | .inactivityWindowExpiry h => Sys2Proof.Machine.execInactivityWindowExpiry h s
  | .deadlockDeclaration => Sys2Proof.Machine.execDeadlockDeclaration s
  | .faultActionResume w h => Sys2Proof.Machine.execFaultActionResume w h s
  | .faultActionSkip w h => Sys2Proof.Machine.execFaultActionSkip w h s
  | .faultActionRetire w h => Sys2Proof.Machine.execFaultActionRetire w h s
  | .faultActionBreaksOff w h => Sys2Proof.Machine.execFaultActionBreaksOff w h s
  | .faultActionNodeOff w h => Sys2Proof.Machine.execFaultActionNodeOff w h s
  | .uncorrectableError e => Sys2Proof.Machine.execUncorrectableError e s
  | .correctedError => Sys2Proof.Machine.execCorrectedError s
  | .scrub bad => Sys2Proof.Machine.execScrub bad s
  | .linkFailure link => Sys2Proof.Machine.execLinkFailure link s
  | .inactivityReport pkg idle => Sys2Proof.Machine.execInactivityReport pkg idle s
  | .spanFormation c ans => Sys2Proof.Machine.execSpanFormation c ans s
  | .lintelReload => Sys2Proof.Machine.execLintelReload s
  | .fatalStop cause => Sys2Proof.Machine.execFatalStop cause s
  | .keystoneWatchdogExpiry => Sys2Proof.Machine.execKeystoneWatchdogExpiry s
  | .thermalEmergency => Sys2Proof.Machine.execThermalEmergency s
  | .warmReset => Sys2Proof.Machine.execWarmReset s
  | .ridgePowerOn => Sys2Proof.Machine.execRidgePowerOn s
  | .throttleAdjust pwr tj => Sys2Proof.Machine.execThrottleAdjust pwr tj s
  | .ageingUpdate ridge life slow mrg => Sys2Proof.Machine.execAgeingUpdate ridge life slow mrg s
  | .secureBoot => Sys2Proof.Machine.execSecureBoot s
  | .romLoaderRecovery img => Sys2Proof.Machine.execRomLoaderRecovery img s
  | .attestationRequest nonce => Sys2Proof.Machine.execAttestationRequest nonce s
  | .debugUnlock sig => Sys2Proof.Machine.execDebugUnlock sig s
  | .atsInvalidation base len => Sys2Proof.Machine.execAtsInvalidation base len s
  | .registerWrite w addr v => Sys2Proof.Machine.execRegisterWrite w addr v s
  | .gatingSequence => Sys2Proof.Machine.execGatingSequence s
  | .loadValueReturn a => Sys2Proof.Machine.execLoadValueReturn a s
  | .powerLoss => Sys2Proof.Machine.execPowerLoss s

end Sys2Proof.Machine
end

