-- ==== Sys2Proof/Machine/Install.lean ====
section
/-! DEFINITION. One instruction word placed where the next step runs it (log 7): a spur of one brick and one context, its
words mapped for its thread, as a launch loads them. -/

namespace Sys2Proof.Machine

open Sys2Proof

/-- The handle of the placed spur. -/
def placedHandle : Handle := 0x80000001

/-- A system image of one brick whose sequencer code lies at 2 MiB. -/
def placedImage (w : W64) : Image :=
  { Image.blank with
    hd := ⟨true, true, 1, 1, 1, 16, 4, 32, 8, 8, 65536, 0⟩
    addr := 0x200000
    seq := [w]
    ctxs := [⟨0, 0, 0, { CtxCfg.blank with sv := 1, slots := (List.replicate 16 (0 : W64)).set 0 w }⟩] }

/-- The running spur of that image. -/
def placedSpur (w : W64) (asid : Nat) (now : Nat) : Spur :=
  let m := placedImage w
  { (Spur.granted m placedHandle 0 asid ⟨0, 0, 0⟩
      (Body.start m (Thread.start m placedHandle 0 0) fun _ _ => []).openRound now) with life := .running }

/-- An address space that maps the first 512 GiB of virtual addresses to the same physical ones: ASID 1, its level-4
table at 1 MiB and its level-3 table above it. -/
def mapFirst (m : List Host.Cell) : List Host.Cell :=
  writeNat (writeNat (writeNat m 8 8 0x100001) 0x100000 8 0x101001) 0x101000 8 0xFF

/-- Place a word for the next step: in memory for a thread where it is an S-form word, else in slot 0 for a brick. -/
def placeWord (s : State) (w : W64) : State :=
  let isB := (match decode .seq w with | .ok _ => false | .error _ => true) &&
    (match decode .brick w with | .ok _ => true | .error _ => false)
  let s := { s with spurs := [placedSpur w 1 s.now] }
  if isB then { s with agenda := [.brick ⟨placedHandle, 0, 0⟩ 0 0 false] }
  else { s with mem := writeNat (mapFirst s.mem) 0x200000 8 w.toNat, agenda := [.thread placedHandle 0 false] }

end Sys2Proof.Machine
end

