-- ==== Sys2Proof/Machine/Step.lean ====
section
/-! DEFINITION. One step of the package: a turn is taken, and its agent fires, issues, or performs an event. -/

namespace Sys2Proof.Machine

open Sys2Proof

/-- A turn of a brick. -/
def stepBrick (s : State) (b : BrickAt) (squashed : Nat) (late : Bool) : Out :=
  match trigger s b squashed with
  | (s, none) => .next s
  | (s, some (c, n, i)) => exec i { s with agent := .firing c n, late := late }

/-- A turn of a thread. -/
def stepThread (s : State) (h : Handle) (late : Bool) : Out :=
  match fetch s h with
  | (s, .none) => .next s
  | (s, .fault f) => .next (fetchFault { s with agent := .thread h } h f)
  | (s, .word i) => exec i { s with agent := .thread h, late := late }

/-- One turn (R64, R87, R418). -/
def stepTurn (t : Turn) (s : State) : Out :=
  match t with
  | .idle dt => .next (s.pass dt)
  | .brick b dt q late => if s.stopped then .next s else stepBrick (s.pass dt) b q late
  | .thread h dt late => if s.stopped then .next s else stepThread (s.pass dt) h late
  | .event i dt =>
    if !i.isEvent || (s.stopped && !movesStopped i) then .next s else exec i { s.pass dt with agent := .none }
  | .outside pa bytes => .next (if s.stopped then s else outsideWrite s pa bytes)
  | .saddle pkg p dst f => .next (if s.stopped then s else saddleFlit s pkg p dst f)
  | .saddleOut src pkg p => .next (if s.stopped then s else saddleLeave s src pkg p)
  | .evict n => .next { s with caches := s.caches.eraseIdx n }

/-- One step: the turn is taken, or it waits for a migration (R280). -/
def step (s : State) : Host.Outcome State Fault Refusal :=
  orWait (nextTurn s).2 (stepTurn (nextTurn s).1 (nextTurn s).2)

/-- A state whose very next step fetches and runs the instruction with these bits (log 7). -/
def State.withFetchWord (s : State) (nbits w : Nat) : State := placeWord s (BitVec.ofNat 64 (w % 2 ^ nbits))

end Sys2Proof.Machine
end

