-- ==== Sys2Proof/Safety.lean ====
section
/-! DEFINITION. The terms that claims use: when an instruction begins, the machine it leaves, when it completes, and what
its operands are worth. -/

namespace Sys2Proof.Machine

open Sys2Proof

/-! ## Beginning -/

/-- The view of an instruction that begins: its agent is executing and is there, its guard holds, the conditions that it
adds hold (R37, R39, R63), no load of its agent is outstanding (R234), a firing's bank exists (R50), and a privileged
instruction runs in system mode (R44). -/
def begins (i : Instr) (g : Guard) (s : State) : Option Ex :=
  match g, s.agent with
  | .b gd, .firing c slot =>
    (enterB s c slot i gd).filter fun x =>
      guardHolds gd x && ready i x && x.cx0.load.isNone && !(gd.iae && decide (x.sp.img.hd.bnk ≤ x.bank.toNat))
  | .s gd, .thread h =>
    (enterS s h).filter fun x =>
      sGuardHolds gd x.th && ready i x && x.th.load.isNone && (!privileged i || x.th.sysMode)
  | _, _ => none

/-! ## Ending -/

/-- The machine after an instruction that has brought its view to `y`. -/
def ended (i : Instr) (s : State) (y : Ex) : State :=
  match s.agent with
  | .firing c _ => leaveB i c y
  | .thread h => leaveS h y
  | .none => s

/-- A view with the words of `sw` that its firing has completed stored (R234). -/
def stored (i : Instr) (y : Ex) : Ex := if y.ok && writesSw i then y.flushSw else y

/-- The instruction completes: it raises no fault, it does not wait, and its next state holds the effect `y`. -/
def Completes (i : Instr) (s : State) (y : Ex) : Prop :=
  (stored i y).ok = true ∧ exec i s = .next (ended i s y)

/-- Wherever the instruction begins on a view that meets `p`, it completes with the effect `f`. -/
def Does (i : Instr) (g : Guard) (p : Ex → Prop) (f : Ex → Ex) : Prop :=
  ∀ s x, begins i g s = some x → p x → Completes i s (f x)

/-- Wherever the instruction begins on a view that meets `p`, it raises the fault `f` and does nothing else. -/
def Faults (i : Instr) (g : Guard) (p : Ex → Prop) (f : Ex → Flt) : Prop :=
  ∀ s x, begins i g s = some x → p x → exec i s = .next (ended i s { x with fault := some (f x) })

/-- Wherever the instruction is the one that an agent waits at, the event that tries it again completes it with the effect
`f`, where it then begins on a view that meets `p` (R235, R246, R279). -/
def Retries (ev : AgentId → Instr) (i : Instr) (g : Guard) (p : Ex → Prop) (f : Ex → Ex) : Prop :=
  (∀ (s t : State) (h : Handle) (x : Ex), fetch s h = (t, .word i) →
    let u := { t with agent := .thread h, late := false }
    begins i g u = some x → p x → exec (ev (.thread h)) s = .next (ended i u (f x))) ∧
  ∀ (s t : State) (c : CtxAt) (n : BitVec 4) (x : Ex), ((s.ctx? c).bind (·.wait)).isSome = true →
    trigger s c.brick 0 = (t, some (c, n, i)) →
    let u := { t with agent := .firing c n, late := false }
    begins i g u = some x → p x → exec (ev (.ctx c)) s = .next (ended i u (f x))

/-! ## Plain instructions -/

/-- The instructions whose whole effect lies on their destination, the flags and a rounding counter. -/
def isPlain : Instr → Bool
  | .pand .. | .por .. | .pxor .. | .pandn .. | .pnot .. | .pmov .. | .sel .. | .kget .. | .add .. | .sub ..
  | .addi .. | .mul .. | .mulh .. | .mulhu .. | .div .. | .divu .. | .rem .. | .remu .. | .and .. | .andi .. | .or ..
  | .ori .. | .xor .. | .xori .. | .shl .. | .shli .. | .shr .. | .shri .. | .sra .. | .srai .. | .rotl .. | .clz ..
  | .ctz .. | .popc .. | .min .. | .max .. | .minu .. | .maxu .. | .abs .. | .neg .. | .cmpeq .. | .cmpne ..
  | .cmplt .. | .cmpltu .. | .cmple .. | .cmpleu .. | .cmpeqi .. | .cmpnei .. | .cmplti .. | .cmpltui .. | .cmplei ..
  | .cmpleui .. | .movi .. | .movhi .. | .bfx .. | .bfxS .. | .bfi .. | .adds .. | .subs .. | .madd .. | .lea ..
  | .fadd .. | .fsub .. | .fmul .. | .ffma .. | .ffms .. | .fdiv .. | .fsqrt .. | .frsq .. | .fexp2 .. | .flog2 ..
  | .fmin .. | .fmax .. | .fabs .. | .fneg .. | .fcmpeq .. | .fcmplt .. | .fcmple .. | .fcmpun .. | .fclass ..
  | .fround .. | .fcvti .. | .icvtf .. | .fscale .. | .cvt .. | .qnt .. | .dqnt .. | .scalex .. | .limb ..
  | .unlimb .. | .packH .. | .packB .. | .packN .. | .unpackH .. | .unpackB .. | .unpackN .. | .hdrget .. | .ostat ..
  | .trienc .. | .tridec .. | .triadd .. | .trimul .. | .peekt .. | .qstat .. => true
  | _ => false

/-- The instruction dequeues the head of IB as its addend (R144). -/
def addsHead (i : Instr) (d : Opnd) : Bool :=
  !d.isReg && match i with
  | .ffma .. | .ffms .. | .madd .. | .packB .. | .packN .. => true
  | _ => false

/-! ## Results -/

/-- A destination takes a value: an output queue carries no seam (R69), and the words that a token completes on `sw` can
be stored. -/
def Ex.accepts (x : Ex) (d : Opnd) (v : W64) : Prop :=
  match d with
  | .o n => x.cx.seamed.getLsbD n.toNat = false
  | .sw => (x.put .sw v).flushSw.ok = true
  | _ => True

/-- The instruction's whole effect is to write the value `v` to `d`. -/
def Result (i : Instr) (g : Guard) (d : Opnd) (v : Ex → Nat) : Prop :=
  Does i g (fun x => x.accepts d (BitVec.ofNat 64 (v x))) fun x => x.put d (BitVec.ofNat 64 (v x))

/-- The instruction's whole effect is to write one rounded result to `d` in its mode: the flags are set, RSN draws its
value, and `d` takes the code (R121, R127). -/
def Rounded (i : Instr) (g : Guard) (rm : Rm) (d : Opnd) (r : Ex → Nat → Nat → Res) : Prop :=
  Does i g (fun x => (x.rounded (x.mode rm) (r x)).1.accepts d (BitVec.ofNat 64 (x.rounded (x.mode rm) (r x)).2)) fun x =>
    (x.rounded (x.mode rm) (r x)).1.put d (BitVec.ofNat 64 (x.rounded (x.mode rm) (r x)).2)

/-- The instruction's whole effect is to set flags and to write a code to `d` (R127). -/
def Flagged (i : Instr) (g : Guard) (d : Opnd) (r : Ex → Res) : Prop :=
  Does i g (fun x => (x.flags (r x).fl).accepts d (BitVec.ofNat 64 (r x).code)) fun x =>
    (x.flags (r x).fl).put d (BitVec.ofNat 64 (r x).code)

/-- One beat of a lane instruction (R165): `f` gives the results from the number of lanes, the ports it reads advance, and
the results go to `sw`; where a port carries another format, it faults (R168). -/
def LaneResult (i : Instr) (g : BGuard) (v : VFmt) (f : Ex → Nat → Ex × List Nat) : Prop :=
  let fits (x : Ex) : Prop := ∀ p ∈ vecPorts i ++ [2], x.cx0.portFmt p = some (vCode v)
  let effect (x : Ex) : Ex :=
    let n := beatLen i x.cx0 (vLanes v)
    ((f x n).1.advanceAll n (vecPorts i)).putSw (f x n).2
  Does i (.b g) (fun x => fits x ∧ (stored i (effect x)).ok = true) effect ∧
    Faults i (.b g) (fun x => ¬ fits x) (fun x => ⟨4, x.slot.setWidth 64, [], none⟩)

/-- One beat of a scan (R172): the results go to `sw`, and the last one to register `d`. -/
def LaneScan (i : Instr) (g : BGuard) (v : VFmt) (d : Opnd) (f : Ex → Nat → Ex × List Nat) : Prop :=
  let effect (x : Ex) : Ex :=
    let n := beatLen i x.cx0 (vLanes v)
    (((f x n).1.advanceAll n (vecPorts i)).putSw (f x n).2).put d (BitVec.ofNat 64 ((f x n).2.getLastD 0))
  Does i (.b g) (fun x => (∀ p ∈ vecPorts i ++ [2], x.cx0.portFmt p = some (vCode v)) ∧
    (stored i (effect x)).ok = true) effect

/-- A source as an unsigned number of the agent's width (R143). -/
def Ex.uval (x : Ex) (o : Opnd) : Nat := x.nat o % 2 ^ x.w

/-- A token appended to output queue `n` with the firing's tag (R64). -/
def Ex.sends (x : Ex) (n : BitVec 3) (stop : Bool) (v : Nat) : Ex :=
  { x with cx := { x.cx with
    oq := upd x.cx.oq n.toNat fun l => l ++ [⟨.tok ⟨stop, x.outTag n, BitVec.ofNat 32 v⟩, .a0⟩] } }

/-- The head of input queue `n` dequeued (R209). -/
def Ex.drops (x : Ex) (n : BitVec 3) : Ex := { x with cx := x.cx.deq x.br n false }

/-- The place and the used width of the bit field that a third operand names (R151). -/
def Ex.field (x : Ex) (b : Opnd) : Nat × Nat :=
  let p := x.uval b % x.w
  (p, Nat.min (x.uval b / 2 ^ 8 % x.w + 1) (x.w - p))

/-- A source as a signed number of the agent's width (R2, R143). -/
def Ex.sval (x : Ex) (o : Opnd) : Int := signed x.w (x.nat o)

end Sys2Proof.Machine
end

