-- ==== Sys2Proof/Certificates/Slice0/Obligations.lean ====
section
/-! DEFINITION. The statements for the provers. Each says what a family of instructions or a kind of event does, as the
spec's rules give it; a statement of several parts is their conjunction, and its parts stand before it. -/

open Sys2Proof Sys2Proof.Machine

/-- Every well-formed instruction that has a word decodes from it in its own form, with every operand at every value that
its encoding admits (R26, R28, R32 to R39, R46, R47). -/
def Obligations.DecodeOfEncode : Prop :=
  ∀ (i : Instr) (w : W64) (g : Guard), i.wf = true → encode i = some w → guardOf i = some g → decode g.form w = .ok i

/-- A word that decodes is the word of the instruction it decodes to, which is well formed and of the form read,
so no two words are one instruction (R46, R47). -/
def Obligations.EncodeOfDecode : Prop :=
  ∀ (fm : Form) (w : W64) (i : Instr), decode fm w = .ok i →
    encode i = some w ∧ i.wf = true ∧ ∃ g, guardOf i = some g ∧ g.form = fm

/-- Words that the spec writes out decode to the instructions that it says they stand for (worked encodings of the arithmetic,
matrix, sparse and spur chapters). -/
def Obligations.SpecWords : Prop :=
  let always : BGuard := ⟨0, 0, false, 0, false, 0, false, 0, 0, false, false⟩
  let both (o : BitVec 3) : BGuard := ⟨0, 0, true, 0, true, 1, true, o, 0, false, false⟩
  let plain : SGuard := ⟨false, false, 0, 0⟩
  decode .brick 0x0000899033A58080 = .ok (.ffma (.b (both 1)) .f32 .rne (.o 1) (.iDeq 0) (.d 2)) ∧
  decode .brick 0x00000000800C1000 = .ok (.oclaim always 0b0011 0b001) ∧
  decode .brick 0x0000000086000041 = .ok (.mmacK8 always true 0 0 1) ∧
  decode .brick 0x00000000860000A0 = .ok (.mmacK16 always false 0 2) ∧
  decode .brick 0x0000898090A10443 = .ok (.scanb (both 0) false 3 (.o 0) (.i 0) (.i 1)) ∧
  decode .brick 0x00000000D00C108A = .ok (.call (.b always) (some 2) (.d 3) (.d 1) (.d 2)) ∧
  decode .seq 0x00000000D1033000 = .ok (.ret (.s plain) .z) ∧
  decode .seq 0x00000000DB144000 = .ok (.waitc (.s plain) none (.g 5) (.g 4)) ∧
  decode .brick 0x00000000D8184142 = .ok (.cfarm (.b always) .key (.d 6) (.d 4) (.d 5))

/-- A step runs the decoded instruction, or leaves all as it was where a device access of it meets a page whose
translations a migration holds (R280, log 150): a thread's turn runs the instruction that the word at its `pc` decodes
to, or takes the undefined-instruction fault, which a word that fails only a later check takes where its guard holds;
a brick's turn runs the word in the slot that the trigger stage chose; and an event is performed as it is named (R26,
R47, R63, R99). After a fatal stop none of them moves the package (R418). -/
def Obligations.StepsRunWords : Prop :=
  ∀ (s t : State) (dt q : Nat) (late : Bool),
    let u := t.pass dt
    (∀ (h : Handle) (x y : Ex) (pa : Nat), nextTurn s = (.thread h dt late, t) → t.stopped = false →
      enterS u h = some x → u.active x.sp = true → x.th.hasSeq = true → x.th.retd = false → x.th.load = none → x.th.defer = none →
      x.translate x.th.pc.toNat .fetch none = (y, pa) → y.ok = true → y.badAt pa 8 = false →
      let w : W64 := BitVec.ofNat 64 (ofBytes (y.physBytes pa 8))
      let v : State := { y.s with agent := .thread h, late := late }
      (∀ i, decode .seq w = .ok i → step s = orWait t (exec i v)) ∧
      ∀ e, decode .seq w = .error e →
        let runs := e.code < 15 ∨ sGuardHolds (SGuard.ofBits (w.extractLsb' 32 32)) x.th = true
        (runs → step s = orWait t (.next (fetchFault v h (undefAt w x.th.pc e.code)))) ∧
        (¬ runs → step s = .next { y with th := { y.th with pc := y.th.pc + 8 } }.back)) ∧
    (∀ (b : BrickAt) (v : State) (c : CtxAt) (n : BitVec 4) (i : Instr), nextTurn s = (.brick b dt q late, t) →
      t.stopped = false → trigger u b q = (v, some (c, n, i)) →
      step s = orWait t (exec i { v with agent := .firing c n, late := late }) ∧
      ∃ k, u.ctx? c = some k ∧ decode .brick (nth k.slots n.toNat 0) = .ok i) ∧
    (∀ i, nextTurn s = (.event i dt, t) → t.stopped = false → i.isEvent = true →
      step s = orWait t (exec i { u with agent := .none })) ∧
    (∀ (h : Handle) (b : BrickAt) (i : Instr), t.stopped = true →
      nextTurn s ∈ [(.thread h dt late, t), (.brick b dt q late, t), (.event i dt, t)] → movesStopped i = false →
      step s = .next t)

/-- The machine after reset (R264, R376, R391, R419, R421, R424, R426): no ridge is powered, nothing is placed or
translated, the notify and root registers are zero, and no fatal stop has been told. That no wake flag of a notify
register is set, that TJ of `pws` and MRG of every ageing margin are 0, and that the translation caches are empty, is
the model's choice (log 5), as is that memory nothing has written reads 0 (log 1). -/
def Obligations.ResetState : Prop :=
  let s := State.reset
  s.powered = 0 ∧ s.spurs = [] ∧ s.comps = [] ∧ s.claims = [] ∧ s.caches = [] ∧ s.stopped = false ∧ s.boot = .off ∧
  s.ctl.ptd = 0 ∧ s.ctl.atb = 0 ∧ s.ctl.ddb = 0 ∧ s.ctl.ptb = 0 ∧ s.ctl.cqb = 0 ∧ s.ctl.fax = 0 ∧ s.ctl.faa = 0 ∧
  s.ctl.fdb = 0 ∧ s.ctl.fdl = 0 ∧ s.ctl.fds = 0 ∧ s.ctl.pwl = 2600 ∧ s.ctl.pws = 0 ∧
  (∀ q < 4096, (s.ctl.notify? q).tail = 0 ∧ (s.ctl.notify? q).wake = false) ∧
  (∀ r < 192, nth s.ctl.agm r 0 = 0xFFFFFFFF00000000) ∧ ∀ a, readByte s.mem a = 0

/-- Memory keeps its one canonical form (R4, R5, R14; the form is the model's own): the addresses that it lists rise, and
no listed byte is the one that an unlisted address reads as, whatever a step does. -/
def Obligations.MemoryKeepsForm : Prop :=
  ∀ s t : State, Memory.wf s.mem = true → step s = .next t → Memory.wf t.mem = true

/-- Memory is in its canonical form after reset. -/
def Obligations.ResetMemoryForm : Prop := Memory.wf State.reset.mem = true

/-- An S-form word whose guard fails is issued (R365) and does nothing but advance `pc` by 8 (R39): so for every
instruction. -/
def Sys2Proof.Says.ThreadGuardFails : Prop :=
  ∀ (i : Instr) (g : SGuard) (s : State) (h : Handle) (sp : Spur), guardOf i = some (.s g) → s.agent = .thread h →
    s.spur? h = some sp → sGuardHolds g sp.live.th = false →
    exec i s = .next (s.modSpur h fun _ =>
      { sp.busy s.now with live := { sp.live with th := { sp.live.th with pc := sp.live.th.pc + 8 } } })

/-- A brick guard holds where each field that it enables does: the predicates of the firing's bank, the head of IA and its
tag, the head of IB or the control token of IB, and room in OQ (R37), where a command that its engine has not accepted
keeps its place (R286), and none while the hold of its edge port is full (R400), which is counted per route by log 30. -/
def Sys2Proof.Says.BrickGuard : Prop :=
  ∀ (g : BGuard) (x : Ex), guardHolds g x = true ↔
    (∀ n : BitVec 3, g.pm.getLsbD n.toNat = true →
      (x.cx0.predSet x.bank).getLsbD n.toNat = g.pv.getLsbD n.toNat) ∧
    (g.iae = true → ∃ t h a, x.head g.ia = some (t, h, a)) ∧
    (g.te = true → ∃ t h a, x.head g.ia = some (t, h, a) ∧ t.tag = g.tg) ∧
    (g.ibe = true → g.ck = false → ∃ t h a r, (x.cx0.inQ g.ib).arm0 = .tok t h a :: r) ∧
    (g.ibe = true → g.ck = true → ∃ b r, nth x.cx0.kq g.ib.toNat [] = .bit b :: r) ∧
    (g.oe = true → outCount (x.cx0.outQ g.oq) + x.s.cmdsAt x.who g.oq < 2 ∧ x.outHeld g.oq = false)

/-- A slot that is not eligible does not fire: nothing changes (R37, R63). -/
def Sys2Proof.Says.SlotNotEligible : Prop :=
  ∀ (i : Instr) (g : BGuard) (s : State) (c : CtxAt) (n : BitVec 4) (x : Ex), guardOf i = some (.b g) →
    s.agent = .firing c n → enterB s c n i g = some x → (guardHolds g x && ready i x) = false → exec i s = .next s

/-- What a guard asks, and that an instruction whose guard fails does nothing. -/
def Obligations.GuardsDecide : Prop := Says.ThreadGuardFails ∧ Says.BrickGuard ∧ Says.SlotNotEligible

/-- A privileged word outside system mode faults with check code 15; its record carries the word and its address (R44,
R47). -/
def Obligations.PrivilegedOutsideSystem : Prop :=
  ∀ (i : Instr) (g : SGuard) (s : State) (h : Handle) (x : Ex), privileged i = true → guardOf i = some (.s g) →
    s.agent = .thread h → enterS s h = some x → sGuardHolds g x.th = true → x.th.sysMode = false →
    let f : Flt := ⟨1, 15, toBytes 8 ((encode i).getD 0).toNat ++ toBytes 8 x.th.pc.toNat, none⟩
    exec i s = .next (leaveS h { x with fault := some f })

/-- The value of a plain instruction stands in its destination afterwards: a register or predicate of the firing's bank
or of the thread, or the last token of an output queue with the firing's tag; `g0` discards it (R33, R64, R143). -/
def Sys2Proof.Says.DestinationTakesValue : Prop :=
  ∀ (i : Instr) (g : Guard) (s : State) (x : Ex) (d : Opnd) (v : W64), isPlain i = true → guardOf i = some g →
    dstOf i = some d → begins i g s = some x → x.accepts d v →
    let t := ended i s (x.put d v)
    (∀ c n, s.agent = .firing c n → ∃ k, t.ctx? c = some k ∧
      (∀ m, d = .d m → x.cx0.regs.length = 64 → k.reg x.bank m = v.extractLsb' 0 32) ∧
      (∀ m, d = .q m → x.cx0.preds.length = 4 → (k.predSet x.bank).getLsbD m.toNat = v.getLsbD 0) ∧
      (∀ m, d = .o m → x.cx0.oq.length = 8 →
        k.outQ m = x.cx0.outQ m ++ [⟨.tok ⟨false, x.outTag m, v.extractLsb' 0 32⟩, .a0⟩])) ∧
    ∀ h, s.agent = .thread h → ∃ th, t.thread? h = some th ∧
      (∀ m, d = .g m → m ≠ 0 → x.th.g.length = 32 → th.reg m = v) ∧
      (d = .g 0 → th.g = x.th.g ∧ th.reg 0 = 0) ∧
      (∀ m, d = .f m → th.f.getLsbD m.toNat = v.getLsbD 0)

/-- The frame of the plain instructions in a brick: memory, every other spur, brick and context, and of the firing
context every register, predicate and queue but the destination, the queues it dequeues and the ports it reads, stay as
they were, and a firing that dequeues no input token leaves the scale registers alone (R55); `cst` changes in its flags only,
the firing is counted, and its own slot is kept back by no release any more (R33, R52, R64, R241). -/
def Sys2Proof.Says.PlainFiringFrame : Prop :=
  ∀ (i : Instr) (g : BGuard) (s t : State) (x : Ex) (c : CtxAt) (n : BitVec 4) (d : Opnd), isPlain i = true →
    guardOf i = some (.b g) → dstOf i = some d → d ≠ .sw → begins i (.b g) s = some x → s.agent = .firing c n →
    x.accepts d 0 → exec i s = .next t →
    ∃ k, t = s.modSpur c.h (fun _ => { x.sp with live := x.sp.live.setCtx k, lastBusy := s.now, inactive := false }) ∧
      k = { x.cx0 with regs := k.regs, preds := k.preds, iq := k.iq, kq := k.kq, oq := k.oq, scl := k.scl, sd := k.sd,
                       board := k.board, cst := k.cst, rsn := k.rsn, bfc := x.cx0.bfc + 1, wait := none,
                       kept := x.cx0.kept &&& ~~~(1#16 <<< n.toNat), barred := x.cx0.barred &&& ~~~(1#16 <<< n.toNat) } ∧
      ((∀ m, .iDeq m ∉ srcsOf i) → addsHead i d = false → k.scl = x.cx0.scl) ∧
      (∀ b m, d ≠ .d m ∨ b ≠ x.bank → k.reg b m = x.cx0.reg b m) ∧
      (∀ (b : BitVec 2) (m : BitVec 3), d ≠ .q m ∨ b ≠ x.bank →
        (k.predSet b).getLsbD m.toNat = (x.cx0.predSet b).getLsbD m.toNat) ∧
      (∀ m, d ≠ .o m → k.outQ m = x.cx0.outQ m) ∧
      (∀ m, .iDeq m ∉ srcsOf i → ¬(addsHead i d = true ∧ m = g.ib) → k.inQ m = x.cx0.inQ m) ∧
      (∀ m, ¬(g.ck = true ∧ m = g.ib.toNat) → nth k.kq m [] = nth x.cx0.kq m []) ∧
      (.sa ∉ srcsOf i → .sb ∉ srcsOf i → k.sd = x.cx0.sd ∧ k.board = x.cx0.board) ∧
      k.cst >>> 8 = x.cx0.cst >>> 8 ∧
      (∀ m, m ≠ 4 * n.toNat + x.bank.toNat → nth k.rsn m 0 = nth x.cx0.rsn m 0)

/-- The frame of the plain instructions in a thread: only the thread changes, and in it only the destination, the flags of
`sst`, the counter of RSN, and `pc`, which advances by 8 (R33, R39, R90). -/
def Sys2Proof.Says.PlainThreadFrame : Prop :=
  ∀ (i : Instr) (g : SGuard) (s t : State) (x : Ex) (h : Handle) (d : Opnd), isPlain i = true →
    guardOf i = some (.s g) → dstOf i = some d → begins i (.s g) s = some x → s.agent = .thread h →
    (∃ m, d = .g m) ∨ (∃ m, d = .f m) → exec i s = .next t →
    ∃ th, t = s.modSpur h (fun _ => { x.sp with live := { x.sp.live with th := th }, lastBusy := s.now,
                                                inactive := false }) ∧
      th = { x.th with g := th.g, f := th.f, sst := th.sst, rsn := th.rsn, pc := x.th.pc + 8 } ∧
      (∀ m, d ≠ .g m → th.reg m = x.th.reg m) ∧
      (∀ m : BitVec 3, d ≠ .f m → th.f.getLsbD m.toNat = x.th.f.getLsbD m.toNat) ∧
      th.sst >>> 8 = x.th.sst >>> 8

/-- The destination of a plain instruction takes its value, and everything else stays as it was. -/
def Obligations.PlainFrames : Prop := Says.DestinationTakesValue ∧ Says.PlainFiringFrame ∧ Says.PlainThreadFrame

/-- Sums, differences and moves write `wrapW` of the exact value (R147); `movhi` keeps the low half of D. -/
def Sys2Proof.Says.IntegerSums : Prop :=
  ∀ (g : Guard) (d a b : Opnd) (i12 : BitVec 12) (i18 : BitVec 18) (sh : BitVec 2),
    Result (.add g d a b) g d (fun x => (x.uval a + x.uval b) % 2 ^ x.w) ∧
    Result (.sub g d a b) g d (fun x => wrapNat x.w (x.sval a - x.sval b)) ∧
    Result (.addi g d a i12) g d (fun x => wrapNat x.w (x.sval a + imm12 g i12)) ∧
    Result (.lea g sh d a b) g d (fun x => (x.uval a + x.uval b * 2 ^ sh.toNat) % 2 ^ x.w) ∧
    Result (.movi g d i18) g d (fun x => wrapNat x.w (imm18 g i18)) ∧
    Result (.movhi g d i18) g d (fun x =>
      if x.isB then (i18.toNat * 2 ^ 16 + x.uval d % 2 ^ 16) % 2 ^ 32
      else (wrapNat 64 (imm18 g i18) * 2 ^ 32 + x.uval d % 2 ^ 32) % 2 ^ 64)

/-- The bitwise instructions and the shifts; a shift count is taken modulo the width (R147). -/
def Sys2Proof.Says.IntegerBits : Prop :=
  ∀ (g : Guard) (d a b : Opnd) (i : BitVec 12),
    Result (.and g d a b) g d (fun x => x.uval a &&& x.uval b) ∧
    Result (.andi g d a i) g d (fun x => x.uval a &&& wrapNat x.w (imm12 g i)) ∧
    Result (.or g d a b) g d (fun x => x.uval a ||| x.uval b) ∧
    Result (.ori g d a i) g d (fun x => x.uval a ||| wrapNat x.w (imm12 g i)) ∧
    Result (.xor g d a b) g d (fun x => x.uval a ^^^ x.uval b) ∧
    Result (.xori g d a i) g d (fun x => x.uval a ^^^ wrapNat x.w (imm12 g i)) ∧
    Result (.shl g d a b) g d (fun x => x.uval a * 2 ^ (x.uval b % x.w) % 2 ^ x.w) ∧
    Result (.shli g d a i) g d (fun x => x.uval a * 2 ^ (imm12 g i).toNat % 2 ^ x.w) ∧
    Result (.shr g d a b) g d (fun x => x.uval a / 2 ^ (x.uval b % x.w)) ∧
    Result (.shri g d a i) g d (fun x => x.uval a / 2 ^ (imm12 g i).toNat) ∧
    Result (.sra g d a b) g d (fun x => wrapNat x.w (x.sval a / (2 : Int) ^ (x.uval b % x.w))) ∧
    Result (.srai g d a i) g d (fun x => wrapNat x.w (x.sval a / (2 : Int) ^ (imm12 g i).toNat)) ∧
    Result (.rotl g d a b) g d (fun x =>
      x.uval a * 2 ^ (x.uval b % x.w) % 2 ^ x.w + x.uval a / 2 ^ (x.w - x.uval b % x.w))

/-- Results of the integer sums, moves, bitwise instructions and shifts. -/
def Obligations.IntegerSumsAndBits : Prop := Says.IntegerSums ∧ Says.IntegerBits

/-- Products, quotients and remainders, with the results of division by zero and of the overflowing quotient; a quotient
is truncated towards zero (R148). -/
def Sys2Proof.Says.IntegerProducts : Prop :=
  ∀ (g : Guard) (d a b : Opnd),
    Result (.mul g d a b) g d (fun x => wrapNat x.w (x.sval a * x.sval b)) ∧
    Result (.mulh g d a b) g d (fun x => wrapNat x.w (x.sval a * x.sval b / (2 : Int) ^ x.w)) ∧
    Result (.mulhu g d a b) g d (fun x => x.uval a * x.uval b / 2 ^ x.w) ∧
    Result (.div g d a b) g d (fun x =>
      if x.sval b = 0 then 2 ^ x.w - 1
      else if x.sval a = -(2 : Int) ^ (x.w - 1) ∧ x.sval b = -1 then 2 ^ (x.w - 1)
      else wrapNat x.w ((x.sval a).tdiv (x.sval b))) ∧
    Result (.divu g d a b) g d (fun x => if x.uval b = 0 then 2 ^ x.w - 1 else x.uval a / x.uval b) ∧
    Result (.rem g d a b) g d (fun x =>
      if x.sval b = 0 then x.uval a
      else if x.sval a = -(2 : Int) ^ (x.w - 1) ∧ x.sval b = -1 then 0
      else wrapNat x.w ((x.sval a).tmod (x.sval b))) ∧
    Result (.remu g d a b) g d (fun x => if x.uval b = 0 then x.uval a else x.uval a % x.uval b)

/-- Counts of bits, minima, maxima, the absolute value and the negative (R149). -/
def Sys2Proof.Says.IntegerCounts : Prop :=
  ∀ (g : Guard) (d a b : Opnd),
    Result (.clz g d a) g d (fun x =>
      ((upTo x.w).find? fun k => (x.uval a).testBit (x.w - 1 - k)).getD x.w) ∧
    Result (.ctz g d a) g d (fun x => ((upTo x.w).find? fun k => (x.uval a).testBit k).getD x.w) ∧
    Result (.popc g d a) g d (fun x => ((upTo x.w).filter fun k => (x.uval a).testBit k).length) ∧
    Result (.min g d a b) g d (fun x => wrapNat x.w (Min.min (x.sval a) (x.sval b))) ∧
    Result (.max g d a b) g d (fun x => wrapNat x.w (Max.max (x.sval a) (x.sval b))) ∧
    Result (.minu g d a b) g d (fun x => Nat.min (x.uval a) (x.uval b)) ∧
    Result (.maxu g d a b) g d (fun x => Nat.max (x.uval a) (x.uval b)) ∧
    Result (.abs g d a) g d (fun x => wrapNat x.w (x.sval a).natAbs) ∧
    Result (.neg g d a) g d (fun x => wrapNat x.w (-x.sval a))

/-- Results of integer multiplication and division, and of counts, minima, maxima, abs and neg. -/
def Obligations.IntegerProductsAndCounts : Prop := Says.IntegerProducts ∧ Says.IntegerCounts

/-- Compares write 1 or 0; the immediate forms compare with `wrapW` of the immediate (R150). -/
def Sys2Proof.Says.IntegerCompares : Prop :=
  ∀ (g : Guard) (d a b : Opnd) (i : BitVec 9),
    Result (.cmpeq g d a b) g d (fun x => if x.uval a = x.uval b then 1 else 0) ∧
    Result (.cmpne g d a b) g d (fun x => if x.uval a = x.uval b then 0 else 1) ∧
    Result (.cmplt g d a b) g d (fun x => if x.sval a < x.sval b then 1 else 0) ∧
    Result (.cmpltu g d a b) g d (fun x => if x.uval a < x.uval b then 1 else 0) ∧
    Result (.cmple g d a b) g d (fun x => if x.sval a ≤ x.sval b then 1 else 0) ∧
    Result (.cmpleu g d a b) g d (fun x => if x.uval a ≤ x.uval b then 1 else 0) ∧
    Result (.cmpeqi g d a i) g d (fun x => if x.uval a = wrapNat x.w (imm9 g i) then 1 else 0) ∧
    Result (.cmpnei g d a i) g d (fun x => if x.uval a = wrapNat x.w (imm9 g i) then 0 else 1) ∧
    Result (.cmplti g d a i) g d (fun x => if x.sval a < signed x.w (wrapNat x.w (imm9 g i)) then 1 else 0) ∧
    Result (.cmpltui g d a i) g d (fun x => if x.uval a < wrapNat x.w (imm9 g i) then 1 else 0) ∧
    Result (.cmplei g d a i) g d (fun x => if x.sval a ≤ signed x.w (wrapNat x.w (imm9 g i)) then 1 else 0) ∧
    Result (.cmpleui g d a i) g d (fun x => if x.uval a ≤ wrapNat x.w (imm9 g i) then 1 else 0)

/-- Bit fields are read and inserted at their place (R151), and `adds` and `subs` saturate (R152). -/
def Sys2Proof.Says.IntegerFields : Prop :=
  ∀ (g : Guard) (d a b : Opnd),
    Result (.bfx g d a b) g d (fun x =>
      let (p, v) := x.field b
      x.uval a / 2 ^ p % 2 ^ v) ∧
    Result (.bfxS g d a b) g d (fun x =>
      let (p, v) := x.field b
      wrapNat x.w (signed v (x.uval a / 2 ^ p))) ∧
    Result (.bfi g d a b) g d (fun x =>
      let (p, v) := x.field b
      x.uval d - x.uval d / 2 ^ p % 2 ^ v * 2 ^ p + x.uval a % 2 ^ v * 2 ^ p) ∧
    Result (.adds g d a b) g d (fun x => wrapNat x.w
      (Min.min (Max.max (x.sval a + x.sval b) (-(2 : Int) ^ (x.w - 1))) ((2 : Int) ^ (x.w - 1) - 1))) ∧
    Result (.subs g d a b) g d (fun x => wrapNat x.w
      (Min.min (Max.max (x.sval a - x.sval b) (-(2 : Int) ^ (x.w - 1))) ((2 : Int) ^ (x.w - 1) - 1)))

/-- Results of the integer compares, the bit-field instructions and the saturating sums. -/
def Obligations.IntegerComparesAndFields : Prop := Says.IntegerCompares ∧ Says.IntegerFields

/-- The predicate instructions write one truth value (R72). -/
def Sys2Proof.Says.PredicateResults : Prop :=
  ∀ (g : Guard) (gb : BGuard) (d a b : Opnd),
    Result (.pand g d a b) g d (fun x => if x.pred a = true ∧ x.pred b = true then 1 else 0) ∧
    Result (.por g d a b) g d (fun x => if x.pred a = true ∨ x.pred b = true then 1 else 0) ∧
    Result (.pxor g d a b) g d (fun x => if x.pred a = x.pred b then 0 else 1) ∧
    Result (.pandn g d a b) g d (fun x => if x.pred a = true ∧ x.pred b = false then 1 else 0) ∧
    Result (.pnot g d a) g d (fun x => if x.pred a = true then 0 else 1) ∧
    Result (.pmov g d a) g d (fun x => if x.pred a = true then 1 else 0) ∧
    Result (.kget gb d) (.b gb) d (fun x => if x.c = true then 1 else 0) ∧
    Does (.pset (.b gb) a b) (.b gb) (fun _ => True) (fun x =>
      let q := (x.cx0.predSet x.bank &&& ~~~((x.get b).setWidth 8)) ||| ((x.get a).setWidth 8 &&& (x.get b).setWidth 8)
      { x with cx := x.cx.setPreds x.bank q }) ∧
    ∀ gs : SGuard, Does (.pset (.s gs) a b) (.s gs) (fun _ => True) (fun x => { x with th := { x.th with f :=
      (x.th.f &&& ~~~((x.get b).setWidth 8)) ||| ((x.get a).setWidth 8 &&& (x.get b).setWidth 8) } })

/-- What `peekt` shows of a head token (R83), what `qstat` counts, which is data and stop tokens alone by log 112
(R84), and the step word that `routea.step` appends (R85). -/
def Sys2Proof.Says.QueueInspection : Prop :=
  ∀ (g : BGuard) (q : QSel) (n : BitVec 3) (d a : Opnd),
    (∀ (t : Tok) (h : W64) (c : Nat), a = .i n ∨ a = .iDeq n → Does (.peekt g d a) (.b g)
      (fun x => x.head n = some (t, h, c) ∧ x.accepts d
        (BitVec.ofNat 64 (64 * t.stop.toNat + 16 * t.tag.toNat + if t.stop then t.pay.toNat % 16 else 0)))
      (fun x => x.put d
        (BitVec.ofNat 64 (64 * t.stop.toNat + 16 * t.tag.toNat + if t.stop then t.pay.toNat % 16 else 0)))) ∧
    Result (.qstat g q d) (.b g) d (fun x => x.cx0.qCount q) ∧
    Does (.routeaStep g (.o n)) (.b g) (fun x => x.accepts (.o n) 0) (fun x => { x with cx := { x.cx with
      oq := upd x.cx.oq n.toNat (· ++ [(⟨.step, .both⟩ : OutEnt)]) } })

/-- Results of the predicate instructions, and what shows and steps a queue (qstat: log 112). -/
def Obligations.PredicatesAndQueues : Prop := Says.PredicateResults ∧ Says.QueueInspection

/-- Moves between queues: `sel` by a predicate (R73), `steer` by a control token (R74), the merges from the arm that
serves (R75), `gate` where its control token is 1, and `kput` (R76); a moved token keeps its stop flag. -/
def Sys2Proof.Says.TokenMoves : Prop :=
  ∀ (g : BGuard) (n q : BitVec 3) (m : BitVec 2) (d a b : Opnd),
    Does (.sel g n d a b) (.b g)
      (fun x => x.accepts d (x.get (if (x.cx0.predSet x.bank).getLsbD n.toNat then a else b)))
      (fun x =>
        let o := if (x.cx0.predSet x.bank).getLsbD n.toNat then a else b
        x.putT d (x.stopOf o) (x.get o)) ∧
    Does (.steer g (.o q) a) (.b g) (fun x => x.accepts (.o q) (x.get a)) (fun x => { x with cx := { x.cx with
      oq := upd x.cx.oq q.toNat (· ++ [(⟨.tok ⟨x.stopOf a, x.outTag q, (x.get a).setWidth 32⟩,
        if x.c then .a1 else .a0⟩ : OutEnt)]) } }) ∧
    Does (.merge g d a) (.b g) (fun x => x.accepts d (x.get a)) (fun x =>
      let y := x.putT d (x.stopOf a) (x.get a)
      { y with cx := y.cx.deq y.br g.ia (ctlBit x.cx0 g) }) ∧
    Does (.mergeAny g d a) (.b g) (fun x => x.accepts d (x.get a)) (fun x =>
      let y := x.putT d (x.stopOf a) (x.get a)
      { y with cx := y.cx.deq y.br g.ia (firstArm (x.cx0.inQ g.ia)) }) ∧
    Does (.gate g d a) (.b g) (fun x => x.c = true ∧ x.accepts d (x.get a)) (fun x => x.putT d (x.stopOf a) (x.get a)) ∧
    Does (.gate g d a) (.b g) (fun x => x.c = false ∧ (d = .sw → x.flushSw.ok = true)) (fun x => x) ∧
    Does (.kput g m a) (.b g) (fun x => x.cx.seamed.getLsbD (8 + m.toNat) = false) (fun x => { x with cx := { x.cx with
      jq := upd x.cx.jq m.toNat (· ++ [KEnt.bit (x.pred a)]) } })

/-- `routea.set` and `vcbind` hold their write in the round when they name an entry of a spur that the agent may name and
a value that an image may hold; anything else is an overrun of subcode 10 (R85, R86). That its value is A (log 25), that a
nonzero upper half of B (log 127) and a spur that is not placed (log 128) are overruns, and that check 17 looks at the
channel bindings in force with every staged and held write (log 129), are the model's choices. -/
def Sys2Proof.Says.RouteWrites : Prop :=
  ∀ (g : Guard) (a b : Opnd) (o : Spur) (k : Brick),
    let named (x : Ex) : Option Spur := x.named (if x.isB then 0 else (x.get a).extractLsb' 32 32)
    let tag (x : Ex) : Nat := ((x.get a).extractLsb' 2 6).toNat
    let phase (x : Ex) : Nat := ((x.get a).extractLsb' 0 2).toNat
    let entry (x : Ex) : Prop := (x.get a).extractLsb' 8 24 = 0 ∧ (x.get b).toNat < 2 ^ 32 ∧
      tag x < o.img.routes.length ∧ phase x < (nth o.img.routes (tag x) []).length ∧
      o.img.entryOk ((x.get b).setWidth 32) = true
    let row (x : Ex) : BitVec 8 := if x.isB then x.br.row else (x.get a).extractLsb' 24 8
    let col (x : Ex) : BitVec 8 := if x.isB then x.br.col else (x.get a).extractLsb' 16 8
    let vc (x : Ex) : Nat := ((x.get a).extractLsb' 0 5).toNat
    let channel (x : Ex) : Prop := (if x.isB then (x.get a).extractLsb' 5 59 = 0 else (x.get a).extractLsb' 5 11 = 0) ∧
      (x.get b).toNat < 2 ^ 32 ∧ o.img.bindOk ((x.get b).setWidth 32) = true ∧
      pairsOk ((x.bindings o k).set (vc x) ((x.get b).setWidth 32)) = true
    let bad (x : Ex) : Flt := overrun 10 (x.get a)
    Does (.routeaSet g a b) g (fun x => named x = some o ∧ entry x)
      (fun x => x.request (.route o.handle (tag x) (phase x) ((x.get b).setWidth 32))) ∧
    Faults (.routeaSet g a b) g (fun x => named x = some o ∧ ¬ entry x) bad ∧
    Faults (.routeaSet g a b) g (fun x => named x = none) bad ∧
    Does (.vcbind g a b) g (fun x => named x = some o ∧ o.live.brick? (row x) (col x) = some k ∧ channel x)
      (fun x => x.request (.vcbind o.handle (row x) (col x) (vc x) ((x.get b).setWidth 32))) ∧
    Faults (.vcbind g a b) g (fun x => named x = some o ∧ o.live.brick? (row x) (col x) = some k ∧ ¬ channel x) bad ∧
    Faults (.vcbind g a b) g (fun x => named x = some o ∧ o.live.brick? (row x) (col x) = none) bad ∧
    Faults (.vcbind g a b) g (fun x => named x = none) bad

/-- How tokens move between queues, and which route and channel entries may be written. -/
def Obligations.TokensAndRoutes : Prop := Says.TokenMoves ∧ Says.RouteWrites

/-- `done` sets DN and ends the phase of its section (R77); `break` does nothing where BE is 0 (R78) and `mark` where ME
is 0, and else holds its trace record (R79); `sett` writes a tag override (R80); a seam is appended once (R81), and SL
is set with the seam of the last bound output, which is log 24; `nop` and `deq` do no more than every firing does (R72, R82). -/
def Sys2Proof.Says.ControlEffects : Prop :=
  ∀ (g : Guard) (gb : BGuard) (n : BitVec 6) (q : BitVec 3) (j : BitVec 2) (a b : Opnd),
    Does (.nop g) g (fun _ => True) (fun x => x) ∧
    Does (.deq gb a b) (.b gb) (fun _ => True) (fun x => x) ∧
    Does (.done gb) (.b gb) (fun _ => True) (fun x =>
      { x with cx := { x.cx with cst := x.cx.cst ||| 0x8000 }, sp := x.sp.phaseDone x.br.row x.br.col x.s.now }) ∧
    Does (.brk g n) g (fun x => x.breaksOn = false) (fun x => x) ∧
    Does (.mark g n a) g (fun x => x.marksOn = false) (fun x => x) ∧
    Does (.mark g n a) g (fun x => x.marksOn = true) (fun x => { x with sp := x.sp.modLive fun b =>
      { b with trace := b.trace ++ [(x.at_, x.traceRecord n (x.get a))] } }) ∧
    Does (.sett gb q a) (.b gb) (fun _ => True) (fun x =>
      let v := if (x.get a).getLsbD 2 then some ((x.get a).extractLsb' 0 2) else none
      { x with cx := { x.cx with ovr := x.cx.ovr.set q.toNat v } }) ∧
    Does (.seamO gb q) (.b gb) (fun x => x.cx.seamed.getLsbD q.toNat = true) (fun x => x) ∧
    Does (.seamO gb q) (.b gb) (fun _ => True) (fun x => { x with cx := x.cx.seam q.toNat }) ∧
    Does (.seamJ gb j) (.b gb) (fun _ => True) (fun x => { x with cx := x.cx.seam (8 + j.toNat) }) ∧
    Does (.seamAll gb) (.b gb) (fun _ => True) (fun x => { x with cx := x.cx.seamEvery })

/-- `trap` raises a fault of class 14 whose detail is its number above its operand, `break` one of class 15 where BE is
1 (R78). -/
def Sys2Proof.Says.TrapsAndBreaks : Prop :=
  ∀ (g : Guard) (n : BitVec 6) (a : Opnd),
    Faults (.trap g n a) g (fun _ => True)
      (fun x => ⟨14, n.setWidth 64 <<< 32 ||| ((x.get a).setWidth 32).setWidth 64, [], none⟩) ∧
    Faults (.brk g n) g (fun x => x.breaksOn = true) (fun _ => ⟨15, n.setWidth 64, [], none⟩)

/-- Effects of nop, deq, done, break, mark, sett and the seams (SL: log 24), and the faults of trap and break. -/
def Obligations.ControlAndTraps : Prop := Says.ControlEffects ∧ Says.TrapsAndBreaks

/-- The rounded instructions write one rounding of their operation on the values that their sources' codes stand for
(R153 to R155, R159); the fused forms take the addend of R144. By which computation exp2 and log2 are rounded (log 6), and which
conversions and roundings draw from RSN (log 40), are the model's choices. -/
def Sys2Proof.Says.FloatRounded : Prop :=
  ∀ (g : Guard) (f : FFmt) (rm : Rm) (u : Bool) (d a b : Opnd),
    Rounded (.fadd g f rm d a b) g rm d (fun x m r => addV (fmtOf f) m r (x.fv f a) (x.fv f b)) ∧
    Rounded (.fsub g f rm d a b) g rm d (fun x m r => addV (fmtOf f) m r (x.fv f a) (x.fv f b).negate) ∧
    Rounded (.fmul g f rm d a b) g rm d (fun x m r => mulV (fmtOf f) m r (x.fv f a) (x.fv f b)) ∧
    Rounded (.fdiv g f rm d a b) g rm d (fun x m r => divV (fmtOf f) m r (x.fv f a) (x.fv f b)) ∧
    Rounded (.fsqrt g f rm d a) g rm d (fun x m r => sqrtV (fmtOf f) m r (x.fv f a)) ∧
    Rounded (.frsq g f rm d a) g rm d (fun x m r => rsqV (fmtOf f) m r (x.fv f a)) ∧
    Rounded (.fexp2 g f rm d a) g rm d (fun x m r => exp2V (fmtOf f) m r (x.fv f a)) ∧
    Rounded (.flog2 g f rm d a) g rm d (fun x m r => log2V (fmtOf f) m r (x.fv f a)) ∧
    Rounded (.fround g f rm d a) g rm d (fun x m r => froundV (fmtOf f) m r (x.nat a)) ∧
    Rounded (.fscale g f rm d a b) g rm d (fun x m r => scaleV (fmtOf f) m r (x.nat a) (x.sval b)) ∧
    Rounded (.icvtf g f rm u d a) g rm d (fun x m r =>
      ofIntV (fmtOf f) m r (if u then (x.nat a : Int) else x.sval a)) ∧
    Rounded (.fcvti g f rm u d a) g rm d (fun x m r =>
      let (v, y) := toIntV m r (if u then 0 else -(2 : Int) ^ (x.w - 1))
        (if u then (2 : Int) ^ x.w - 1 else (2 : Int) ^ (x.w - 1) - 1) (x.fv f a)
      { y with code := wrapNat x.w v }) ∧
    (d.isReg = true →
      Rounded (.ffma g f rm d a b) g rm d (fun x m r =>
        fmaV (fmtOf f) m r (x.fv f a) (x.fv f b) ((fmtOf f).read (x.nat d))) ∧
      Rounded (.ffms g f rm d a b) g rm d (fun x m r =>
        fmaV (fmtOf f) m r (x.fv f a) (x.fv f b) ((fmtOf f).read (x.nat d)).negate))

/-- The instructions that round nothing: minima and maxima, signs, classes (R156, R157), and the compares, which treat
the zeros as equal and set NV on a signalling NaN, or for `lt` and `le` on any NaN (R158). -/
def Sys2Proof.Says.FloatPlain : Prop :=
  ∀ (g : Guard) (f : FFmt) (num : Bool) (d a b : Opnd),
    let nan (x : Ex) : Bool := (x.fv f a).isNan || (x.fv f b).isNan
    let sig (x : Ex) : Bool := (x.fv f a).sig || (x.fv f b).sig
    let test (i : Instr) (v : Ex → Bool) (nv : Ex → Bool) : Prop :=
      Does i g (fun x => (x.flags (if nv x then 0x10 else 0)).accepts d (if v x then 1 else 0))
        fun x => (x.flags (if nv x then 0x10 else 0)).put d (if v x then 1 else 0)
    Result (.fabs g f d a) g d (fun x => signOp (fmtOf f) false (x.nat a)) ∧
    Result (.fneg g f d a) g d (fun x => signOp (fmtOf f) true (x.nat a)) ∧
    Result (.fclass g f d a) g d (fun x => classV (fmtOf f) (x.nat a)) ∧
    Flagged (.fmin g f num d a b) g d (fun x => minmaxV (fmtOf f) false num (x.nat a) (x.nat b)) ∧
    Flagged (.fmax g f num d a b) g d (fun x => minmaxV (fmtOf f) true num (x.nat a) (x.nat b)) ∧
    test (.fcmpeq g f d a b) (fun x => !nan x && cmpV (x.fv f a) (x.fv f b) == 0) sig ∧
    test (.fcmplt g f d a b) (fun x => !nan x && decide (cmpV (x.fv f a) (x.fv f b) < 0)) nan ∧
    test (.fcmple g f d a b) (fun x => !nan x && decide (cmpV (x.fv f a) (x.fv f b) ≤ 0)) nan ∧
    test (.fcmpun g f d a b) nan sig

/-- With a destination that names no register, a brick's fused instruction, `madd` or narrow `pack` adds the head of the
guard's IB, and the firing dequeues IB once (R144); with a register it adds the register's old value (R144). -/
def Sys2Proof.Says.Addends : Prop :=
  (∀ (g : BGuard) (f : FFmt) (rm : Rm) (neg : Bool) (i : Instr) (d a b : Opnd), d.isReg = false → d ≠ .sw →
    let drop (y : Ex) : Ex :=
      if a = .iDeq g.ib ∨ b = .iDeq g.ib then y else { y with cx := y.cx.deq y.br g.ib false }
    (i = (if neg then .ffms (.b g) f rm d a b else .ffma (.b g) f rm d a b) →
      Does i (.b g) (fun x => x.accepts d 0) (fun x =>
        let c := (fmtOf f).read (x.nat (.i g.ib))
        let (y, v) := x.rounded (x.mode rm) fun m r =>
          fmaV (fmtOf f) m r (x.fv f a) (x.fv f b) (if neg then c.negate else c)
        drop (y.put d (BitVec.ofNat 64 v)))) ∧
    Does (.madd (.b g) d a b) (.b g) (fun x => x.accepts d 0) (fun x =>
      drop (x.put d (BitVec.ofNat 64 (wrapNat 32 ((x.uval (.i g.ib) : Int) + x.sval a * x.sval b))))) ∧
    Does (.packB (.b g) d a b) (.b g) (fun x => x.accepts d 0) (fun x =>
      drop (x.put d (BitVec.ofNat 64
        (x.uval (.i g.ib) % 2 ^ 16 * 2 ^ 16 + x.uval b % 2 ^ 8 * 2 ^ 8 + x.uval a % 2 ^ 8)))) ∧
    Does (.packN (.b g) d a b) (.b g) (fun x => x.accepts d 0) (fun x =>
      drop (x.put d (BitVec.ofNat 64
        (x.uval (.i g.ib) % 2 ^ 24 * 2 ^ 8 + x.uval b % 2 ^ 4 * 2 ^ 4 + x.uval a % 2 ^ 4))))) ∧
  ∀ (g : Guard) (d a b : Opnd), d.isReg = true →
    Result (.madd g d a b) g d (fun x => wrapNat x.w ((x.uval d : Int) + x.sval a * x.sval b)) ∧
    Result (.packB g d a b) g d (fun x =>
      x.uval d * 2 ^ 16 % 2 ^ x.w + x.uval b % 2 ^ 8 * 2 ^ 8 + x.uval a % 2 ^ 8) ∧
    Result (.packN g d a b) g d (fun x =>
      x.uval d * 2 ^ 8 % 2 ^ x.w + x.uval b % 2 ^ 4 * 2 ^ 4 + x.uval a % 2 ^ 4)

/-- Results and flags of the scalar floating-point instructions (logs 6 and 40), and the addend of the fused forms. -/
def Obligations.FloatResults : Prop := Says.FloatRounded ∧ Says.FloatPlain ∧ Says.Addends

/-- The value of a finite code. -/
def fpValue : Fv → ℚ
  | .fin n m e => (if n then -1 else 1) * (m : ℚ) * (2 : ℚ) ^ e
  | .zero _ | .inf _ | .nan _ => 0

/-- The exact value that a rounding is given, without its sticky part. -/
def extValue (v : Ext) : ℚ := (if v.neg then -1 else 1) * (v.m : ℚ) * (2 : ℚ) ^ v.e

/-- Every format rounds as R122 says: a result that does not overflow lies within one place of the exact value, on the
side that the mode gives, within half a place in RNE, and NX is set exactly where it differs from it. -/
def Sys2Proof.Says.FloatRounding : Prop :=
  ∀ (f : FpFmt) (rm r : Nat) (v : Ext), f ∈ [fp32, Machine.bf16, fp16, Machine.e4m3, Machine.e5m2] →
    rm ≤ 4 → r < 2 ^ 16 → 0 < v.m → v.sticky = false →
    let y := roundFp f rm r v
    let e := extValue v
    let w := fpValue (f.read y.code)
    let u := (2 : ℚ) ^ (max ((v.m.log2 : Int) + v.e) f.emin - f.p + 1)
    y.fl &&& flOF = 0 →
      |w - e| < u ∧ (y.fl &&& flNX = 0 ↔ w = e) ∧
      (rm = 0 → 2 * |w - e| ≤ u) ∧ (rm = 1 → |w| ≤ |e|) ∧ (rm = 2 → w ≤ e) ∧ (rm = 3 → e ≤ w)

/-- What reaches the one rounding is exact (R154, R155): the sum, the product and the fused sum of finite values; a
quotient and a square root are cut below and marked sticky where they are not exact. -/
def Sys2Proof.Says.FloatExact : Prop :=
  ∀ (f : FpFmt) (rm r : Nat) (n1 n2 n3 : Bool) (m1 m2 m3 : Nat) (e1 e2 e3 : Int), 0 < m1 → 0 < m2 → 0 < m3 →
    let a := Fv.fin n1 m1 e1
    let b := Fv.fin n2 m2 e2
    let c := Fv.fin n3 m3 e3
    (∀ s : ℚ, s ≠ 0 → s = fpValue a + fpValue b →
      ∃ v, extValue v = s ∧ v.sticky = false ∧ addV f rm r a b = roundFp f rm r v) ∧
    (fpValue a + fpValue b = 0 → addV f rm r a b = ⟨f.signed (rm == 2) 0, 0, false⟩) ∧
    (∃ v, extValue v = fpValue a * fpValue b ∧ v.sticky = false ∧ mulV f rm r a b = roundFp f rm r v) ∧
    (∀ s : ℚ, s ≠ 0 → s = fpValue a * fpValue b + fpValue c →
      ∃ v, extValue v = s ∧ v.sticky = false ∧ fmaV f rm r a b c = roundFp f rm r v) ∧
    (∃ v, v.neg = (n1 != n2) ∧ |extValue v| ≤ |fpValue a / fpValue b| ∧
      |fpValue a / fpValue b| < |extValue v| + (2 : ℚ) ^ v.e ∧
      (v.sticky = false ↔ extValue v = fpValue a / fpValue b) ∧ divV f rm r a b = roundFp f rm r v) ∧
    (n1 = false → ∃ v, v.neg = false ∧ extValue v ^ 2 ≤ fpValue a ∧ fpValue a < (extValue v + (2 : ℚ) ^ v.e) ^ 2 ∧
      (v.sticky = false ↔ extValue v ^ 2 = fpValue a) ∧ sqrtV f rm r a = roundFp f rm r v)

/-- Rounding is as the mode says, and what reaches it is exact or marked sticky. -/
def Obligations.FloatRounding : Prop := Says.FloatRounding ∧ Says.FloatExact

/-- The header that `hdr` forms: B above A, bits [34:32] zero (R179). -/
def hdrOf (x : Ex) (a b : Opnd) : W64 := ((x.get b).extractLsb' 3 29 ++ 0#3) ++ (x.get a).extractLsb' 0 32

/-- The conversions: one rounding between formats (R175), quantisation with its flags (R176), the scale code of a block
(R132), limbs (R177) and fields (R178). The scale code of a K16 block (log 9), FMT of `qnt` and `dqnt` (log 39) and the
draws of `cvt` (log 40) are the model's readings. -/
def Sys2Proof.Says.Conversions : Prop :=
  ∀ (g : Guard) (rm : Rm) (k : KFmt) (cf ct : CFmt) (u : Bool) (d a b : Opnd),
    Rounded (.cvt g rm d a cf ct) g rm d (fun x m r => cvtV cf ct x.w (x.nat a) m r) ∧
    Rounded (.dqnt g k rm d a b) g rm d (fun x m r => dqntV fp32 m r k (x.nat a) (x.nat b)) ∧
    Flagged (.qnt g k d a b) g d (fun x =>
      let q := qntV k (fp32.read (x.nat a)) (x.nat b)
      ⟨kCode k q.1, q.2, false⟩) ∧
    Flagged (.scalex g k d a) g d (fun x => ⟨(scalexV k (x.nat a)).1, (scalexV k (x.nat a)).2, false⟩) ∧
    Result (.limb g d a) g d (fun x => k16Code (Min.min (Max.max (x.sval a) (-16319)) 16319)) ∧
    Flagged (.unlimb g d a) g d (fun x => ⟨wrapNat x.w (kRead .k16 (x.nat a)).1, (kRead .k16 (x.nat a)).2, false⟩) ∧
    Result (.packH g d a b) g d (fun x => x.uval b % 2 ^ 16 * 2 ^ 16 + x.uval a % 2 ^ 16) ∧
    Result (.unpackH g u d a b) g d (fun x =>
      let v := x.uval a / 2 ^ (16 * (x.uval b % 2)) % 2 ^ 16
      if u then v else wrapNat x.w (signed 16 v)) ∧
    Result (.unpackB g u d a b) g d (fun x =>
      let v := x.uval a / 2 ^ (8 * (x.uval b % 4)) % 2 ^ 8
      if u then v else wrapNat x.w (signed 8 v)) ∧
    Result (.unpackN g u d a b) g d (fun x =>
      let v := x.uval a / 2 ^ (4 * (x.uval b % 8)) % 2 ^ 4
      if u then v else wrapNat x.w (signed 4 v))

/-- `hdr` appends a header to an output queue, or writes it to a register of a thread; `hdrget` reads a field of the
header in force for a queue's head token, or of the header that a thread's register holds (R179). -/
def Sys2Proof.Says.Headers : Prop :=
  ∀ (g : BGuard) (gs : SGuard) (fld : HdrField) (n m : BitVec 3) (d a b : Opnd) (t : Tok) (h : W64) (c : Nat),
    Does (.hdr (.b g) (.o n) a b) (.b g) (fun x => x.accepts (.o n) 0) (fun x => { x with cx := { x.cx with
      oq := upd x.cx.oq n.toNat fun l => l ++ [⟨.hdr (hdrOf x a b), .a0⟩] } }) ∧
    ((∀ q, d ≠ .o q) → Result (.hdr (.s gs) d a b) (.s gs) d (fun x => (hdrOf x a b).toNat)) ∧
    (a = .i m ∨ a = .iDeq m → Does (.hdrget (.b g) fld d a) (.b g)
      (fun x => x.head m = some (t, h, c) ∧ x.accepts d (hdrField fld h)) (fun x => x.put d (hdrField fld h))) ∧
    (a.isReg = true → Result (.hdrget (.s gs) fld d a) (.s gs) d (fun x => (hdrField fld (x.get a)).toNat))

/-- Results of the conversions, limbs, packs and headers; readings: logs 9, 39 and 40. -/
def Obligations.ConversionsAndHeaders : Prop := Says.Conversions ∧ Says.Headers

/-- `sopen` forms its descriptor from two words, refuses what R164 refuses, and attaches it, after the ports that its operands
read have advanced; `sopen.re` attaches a descriptor that was opened; `sclose` writes the elements that remain, through the
descriptor itself where D is its port, and detaches (R164). Which word the overrun of `sopen`
names is the model's choice (log 42), as is the value of `sopen.re`'s (log 25). -/
def Sys2Proof.Says.StreamPorts : Prop :=
  ∀ (g : BGuard) (p : Port) (n : BitVec 2) (d a b : Opnd),
    let lawful (x : Ex) : Prop := (x.get a).extractLsb' 0 2 = 0 ∧ (x.get b).extractLsb' 20 12 = 0 ∧
      (x.get b).extractLsb' 16 4 ≤ 12#4
    let desc (x : Ex) : Desc := ⟨(x.get a).extractLsb' 0 16, (x.get a).extractLsb' 16 16, (x.get b).extractLsb' 16 4,
      if (x.get b).extractLsb' 0 16 = 0 then 65536 else ((x.get b).extractLsb' 0 16).toNat, 0⟩
    Does (.sopen g p n a b) (.b g) lawful
      (fun x =>
        let y := x.ports [a, b]
        { y with cx := { y.cx with sd := y.cx.sd.set n.toNat (desc x) }.attach (Port.idx p) n }) ∧
    Faults (.sopen g p n a b) (.b g) (fun x => (x.get a).extractLsb' 0 2 ≠ 0) (fun x => overrun 7 (x.get a)) ∧
    Faults (.sopen g p n a b) (.b g) (fun x => (x.get a).extractLsb' 0 2 = 0 ∧ ¬ lawful x)
      (fun x => overrun 7 (x.get b)) ∧
    Does (.sopenRe g p n) (.b g) (fun x => (nth x.cx0.sd n.toNat Desc.none).count ≠ 0)
      (fun x => { x with cx := x.cx.attach (Port.idx p) n }) ∧
    Faults (.sopenRe g p n) (.b g) (fun x => (nth x.cx0.sd n.toNat Desc.none).count = 0)
      (fun _ => overrun 7 (n.setWidth 64)) ∧
    let closed (x : Ex) : Ex :=
      let y := x.put d (BitVec.ofNat 64 (match x.cx0.descOf (Port.idx p) with | some (_, e) => e.count - e.pos | none => 0))
      { y with cx := { y.cx with att := y.cx.att.set (Port.idx p) none } }
    Does (.sclose g p d) (.b g)
      (fun x => (d ≠ .sw → x.accepts d 0) ∧ (d = .sw → (stored (.sclose g p d) (closed x)).ok = true)) closed

/-- Stream records and phase barriers (R100 to R103): `scmd` enters the pattern of a good record at the port that its
selector names, at once, and on another spur with a note by which a voided round takes it back (R95); a bad record is an
overrun of subcode 7, and a port with two patterns open makes it wait. `sbar` waits for the patterns of its phase. The
values of the overruns (log 25), and that a bad selector is named before a misaligned record (log 120), are the model's
choices. -/
def Sys2Proof.Says.StreamCommands : Prop :=
  ∀ (g : SGuard) (p : BitVec 4) (a b : Opnd) (o : Spur) (k : Ctx) (y : Ex) (ws : List W64),
    let i : Instr := .scmd g a b
    let port (x : Ex) : Nat := ((x.get a).extractLsb' 19 2).toNat
    let q (x : Ex) : Pattern := patternOf x.sp.handle ws
    let c : CtxAt := ⟨o.handle, k.row, k.col, k.idx⟩
    let read (x : Ex) : Prop := x.select (x.get a) true = some (o, k) ∧ x.nat b % 32 = 0 ∧
      x.loadWords (x.nat b) 4 = (y, ws) ∧ y.ok = true
    let opened (x : Ex) : Nat := (nth k.board (port x) Board.idle).open_.length
    let good (x : Ex) : Prop := read x ∧ recordOk ws o k (port x) (q x) = true
    Does i (.s g) (fun x => good x ∧ opened x < 2 ∧ o.handle = y.sp.handle)
      (fun x => { y with sp := y.sp.modLive fun b => b.modCtx c fun k => k.enter (port x) (q x) }) ∧
    Does i (.s g) (fun x => good x ∧ opened x < 2 ∧ o.handle ≠ y.sp.handle)
      (fun x => y.enterOther c (port x) (q x)) ∧
    (∀ s x, begins i (.s g) s = some x → good x → 2 ≤ opened x → exec i s = .next y.s) ∧
    (∀ s x, begins i (.s g) s = some x → read x → recordOk ws o k (port x) (q x) = false →
      exec i s = .next (ended i s { y with fault := some (overrun 7 (BitVec.ofNat 64 (x.nat b))) })) ∧
    Faults i (.s g) (fun x => x.select (x.get a) true = some (o, k) ∧ x.nat b % 32 ≠ 0)
      (fun x => ⟨8, BitVec.ofNat 64 (x.nat b), [], none⟩) ∧
    Faults i (.s g) (fun x => x.select (x.get a) true = none) (fun x => overrun 3 (x.get a)) ∧
    Does (.sbar g p) (.s g) (fun x => ∀ q ∈ x.openPatterns, q.phase ≠ p) (fun x => x) ∧
    ∀ s x, begins (.sbar g p) (.s g) s = some x → (∃ q ∈ x.openPatterns, q.phase = p) → exec (.sbar g p) s = .next s

/-- A read pattern delivers its next word into its port while the port has room, in the pattern's order, from the own bank,
the vault or memory, and is done with its last word; a word that faults is a cause of the round (R101); a write pattern is done when its last row is taken; the pending pattern is then the active one (R100,
R102). That a word is read at its delivery event, also from the own bank (log 31), the node and slot of a pattern's fault
(log 32) and the depth of a port (log 44) are the model's choices. -/
def Sys2Proof.Says.PatternsRun : Prop :=
  ∀ (s : State) (c : CtxAt) (p : Port) (x y : Ex) (q : Pattern) (b : Board) (w : W32), enterCtx s c = some x →
    b = nth x.cx.board (Port.idx p) Board.idle → b.active = some q →
    let room : Prop := b.waiting < Config.streamPort
    let runs : Prop := s.active x.sp = true ∧ x.cx.conf = true ∧ q.write = false ∧ nth x.cx.att (Port.idx p) none = none ∧
      q.moved < q.words ∧ x.sp.gateOpen c.row c.col q = true
    let takes (w : W32) : Pattern := { q with buf := q.buf ++ [w], moved := q.moved + 1 }
    (¬ room → exec (.streamPatternDelivery c p) s = .next s) ∧
    (runs → room → q.space = 2 → exec (.streamPatternDelivery c p) s = .next ({ x with
      cx := { x.cx with board := upd x.cx.board (Port.idx p) fun _ => { b with
        active := some (takes (BitVec.ofNat 32 (readNat x.br.bank ((q.wordAt q.moved).emod 65536).toNat 4))) } },
      sp := x.sp.busy s.now } : Ex).back) ∧
    (∀ pl, (q.space = 0 → x.place (.virt ((q.wordAt q.moved).emod (2 ^ 64)).toNat) 4 4 .read none = (y, pl) →
        y.ok = true → x.patRead q q.moved = (y, BitVec.ofNat 32 (ofBytes (y.bytesAt pl 4)))) ∧
      (q.space = 1 → 0 ≤ q.wordAt q.moved → x.place (.vault (q.wordAt q.moved).toNat) 4 4 .read none = (y, pl) →
        y.ok = true → x.patRead q q.moved = (y, BitVec.ofNat 32 (ofBytes (y.bytesAt pl 4))))) ∧
    (runs → room → x.patRead q q.moved = (y, w) → y.fault = none → y.wait = false →
      exec (.streamPatternDelivery c p) s = .next ({ y with
        cx := { y.cx with board := upd y.cx.board (Port.idx p) fun b => { b with
          active := b.active.map fun q => { q with buf := q.buf ++ [w], moved := q.moved + 1 } } },
        sp := y.sp.busy s.now } : Ex).back) ∧
    (∀ f, runs → room → x.patRead q q.moved = (y, w) → y.fault = some f →
      exec (.streamPatternDelivery c p) s = .next (y.s.modSpur c.h fun sp => sp.addCause (y.patCause f))) ∧
    (s.active x.sp = true → q.write = false → q.moved < q.words → exec (.streamPatternComplete c p) s = .next s) ∧
    (s.active x.sp = true → q.write = true → q.row < q.rows → exec (.streamPatternComplete c p) s = .next s) ∧
    (s.active x.sp = true → (q.write = true ∧ q.rows ≤ q.row ∨ q.write = false ∧ q.words ≤ q.moved) →
      ∃ t y, exec (.streamPatternComplete c p) s = .next t ∧ t.spur? c.h = some y ∧ y.live.bricks = x.sp.live.bricks ∧
        ∀ k, y.live.ctx? c.row c.col c.ctx = some k → (nth k.board (Port.idx p) Board.idle).active = b.pend.head? ∧
          (nth k.board (Port.idx p) Board.idle).pend = b.pend.drop 1)

/-- Descriptors and patterns open, deliver and complete at the stream ports; choices: logs 31, 32 and 44. -/
def Obligations.StreamPortsAndPatterns : Prop := Says.StreamPorts ∧ Says.StreamCommands ∧ Says.PatternsRun

/-- The lane-wise instructions: one beat of results in lane order, each lane the scalar instruction of the same name, or
the wrapped, signed form in eight-bit lanes; a port of another format is a fault (R165, R168, R169), whose detail is the
slot's number by the model's choice (log 43). -/
def Obligations.StreamLanes : Prop :=
  ∀ (g : BGuard) (v : VFmt) (f : FFmt) (rm : Rm) (num : Bool) (a b : Opnd),
    let one (x : Ex) (n : Nat) (op : Nat → Nat → Nat → Res) : Ex × List Nat :=
      x.each (fun x p => x.rounded (x.mode rm) fun m r => op m r p) (x.lane n a)
    let two (x : Ex) (n : Nat) (op : Nat → Nat → Nat × Nat → Res) : Ex × List Nat :=
      x.each (fun x p => x.rounded (x.mode rm) fun m r => op m r p) ((x.lane n a).zip (x.lane n b))
    let plain (x : Ex) (n : Nat) (op : Nat × Nat → Res) : Ex × List Nat :=
      x.each (fun x p => (x.flags (op p).fl, (op p).code)) ((x.lane n a).zip (x.lane n b))
    let F := fmtOf f
    LaneResult (.vadd g (vOf f) rm a b) g (vOf f) (fun x n => two x n fun m r p => addV F m r (F.read p.1) (F.read p.2)) ∧
    LaneResult (.vsub g (vOf f) rm a b) g (vOf f) (fun x n => two x n fun m r p => subV F m r (F.read p.1) (F.read p.2)) ∧
    LaneResult (.vmul g f rm a b) g (vOf f) (fun x n => two x n fun m r p => mulV F m r (F.read p.1) (F.read p.2)) ∧
    LaneResult (.vfma g f rm a) g (vOf f) (fun x n =>
      x.each (fun x p => x.rounded (x.mode rm) fun m r => fmaV F m r (F.read p.1) (F.read p.2.1) (F.read p.2.2))
        ((x.lane n .sa).zip ((x.lane n .sb).zip (x.lane n a)))) ∧
    LaneResult (.vaxpy g f rm a) g (vOf f) (fun x n =>
      x.each (fun x p => x.rounded (x.mode rm) fun m r => fmaV F m r (F.read p.1) (F.read p.2.1) (F.read p.2.2))
        ((x.lane n a).zip ((x.lane n .sa).zip (x.lane n .sb)))) ∧
    LaneResult (.vmin g (vOf f) num a b) g (vOf f) (fun x n => plain x n fun p => minmaxV F false num p.1 p.2) ∧
    LaneResult (.vmax g (vOf f) num a b) g (vOf f) (fun x n => plain x n fun p => minmaxV F true num p.1 p.2) ∧
    LaneResult (.vabs g (vOf f) a) g (vOf f) (fun x n => (x, (x.lane n a).map (signOp F false))) ∧
    LaneResult (.vneg g (vOf f) a) g (vOf f) (fun x n => (x, (x.lane n a).map (signOp F true))) ∧
    LaneResult (.vexp2 g f rm a) g (vOf f) (fun x n => one x n fun m r p => exp2V F m r (F.read p)) ∧
    LaneResult (.vrsq g f rm a) g (vOf f) (fun x n => one x n fun m r p => rsqV F m r (F.read p)) ∧
    LaneResult (.vsel g v a b) g v (fun x n => (x, (upTo n).map fun l =>
      if x.mask.getLsbD l then nth (x.lane n a) l 0 else nth (x.lane n b) l 0)) ∧
    LaneResult (.vadd g .i8 rm a b) g .i8 (fun x n => (x, ((x.lane n a).zip (x.lane n b)).map fun p =>
      wrapNat 8 (signed 8 p.1 + signed 8 p.2))) ∧
    LaneResult (.vsub g .i8 rm a b) g .i8 (fun x n => (x, ((x.lane n a).zip (x.lane n b)).map fun p =>
      wrapNat 8 (signed 8 p.1 - signed 8 p.2))) ∧
    LaneResult (.vmin g .i8 num a b) g .i8 (fun x n => (x, ((x.lane n a).zip (x.lane n b)).map fun p =>
      wrapNat 8 (min (signed 8 p.1) (signed 8 p.2)))) ∧
    LaneResult (.vmax g .i8 num a b) g .i8 (fun x n => (x, ((x.lane n a).zip (x.lane n b)).map fun p =>
      wrapNat 8 (max (signed 8 p.1) (signed 8 p.2)))) ∧
    LaneResult (.vabs g .i8 a) g .i8 (fun x n => (x, (x.lane n a).map fun p => wrapNat 8 (signed 8 p).natAbs)) ∧
    LaneResult (.vneg g .i8 a) g .i8 (fun x n => (x, (x.lane n a).map fun p => wrapNat 8 (-signed 8 p)))

/-- `vcmp` writes the mask of its bank and the number of lanes whose test holds (R170); the reductions combine a beat by
the fixed tree and then its value into D (R171); `vscan` writes the prefixes and leaves the last one in B (R172). The flag NV that
`vamax` sets is the model's choice (log 41). -/
def Sys2Proof.Says.StreamReductions : Prop :=
  ∀ (g : BGuard) (v : VFmt) (f : FFmt) (rm : Rm) (num : Bool) (cond : FCond) (n : BitVec 4) (a : Opnd),
    let d := Opnd.d n
    let fold (i : Instr) (w : VFmt) (op : Ex → Nat → Nat → Ex × Nat) : Prop :=
      Does i (.b g) (fun x => ∀ p ∈ vecPorts i, x.cx0.portFmt p = some (vCode w)) (fun x =>
        let m := beatLen i x.cx0 (vLanes w)
        let y := x.each (liftLane w) (x.lane m a)
        let z := (y.1.advanceAll m (vecPorts i)).tree op y.2
        let r := op z.1 (x.nat d) z.2
        r.1.put d (BitVec.ofNat 64 r.2))
    (∀ (b e : Opnd), e ≠ .sw →
      let i : Instr := .vcmp g v cond e a b
      Does i (.b g) (fun x => (∀ p ∈ vecPorts i, x.cx0.portFmt p = some (vCode v)) ∧ x.accepts e 0) (fun x =>
        let m := beatLen i x.cx0 (vLanes v)
        let y := x.each (laneCmp v cond) ((x.lane m a).zip (x.lane m b))
        let z := y.1.advanceAll m (vecPorts i)
        { z with cx := { z.cx with lm := z.cx.lm.set x.bank.toNat (BitVec.ofNat 64 (maskOf y.2)) } }.put e
          (BitVec.ofNat 64 y.2.sum))) ∧
    fold (.vredsum g v rm d a) v (redSum rm v) ∧
    fold (.vredmax g v num d a) v (redMax v num) ∧
    fold (.vamax g f d a) (vOf f) redAmax ∧
    LaneScan (.vscan g f rm a d) g (vOf f) d (fun x m => x.scan (fmtOf f) rm (x.nat d) (x.lane m a))

/-- The fixed tree of every beat, of up to 128 lanes (R171): one lane is its own tree, and that of more lanes joins the tree of
the first `2^j` lanes, `2^j` the largest power of two below their number, with the tree of the rest. An operation that draws
values does so level by level, in ascending lanes. -/
def Sys2Proof.Says.StreamTree : Prop :=
  ∀ (x : Ex) (op : Nat → Nat → Nat) (draw : Ex → Nat → Nat → Ex × Nat) (a b c d j : Nat) (l : List Nat),
    let tree (l : List Nat) : Ex × Nat := x.tree (fun x p q => (x, op p q)) l
    tree [a] = (x, a) ∧
    (2 ^ j < l.length → l.length ≤ 2 ^ (j + 1) → l.length ≤ 128 →
      tree l = (x, op (tree (l.take (2 ^ j))).2 (tree (l.drop (2 ^ j))).2)) ∧
    x.tree draw [a, b, c, d] =
      (let p := draw x a b
       let q := draw p.1 c d
       draw q.1 p.2 q.2)

/-- The conversions between ports take both formats from their ports, and fault where R173 lists no pair (R173), with the slot's
number as the detail by the model's choice (log 43). -/
def Sys2Proof.Says.StreamConversions : Prop :=
  ∀ (g : BGuard) (rm : Rm) (a b : Opnd), a = .sa ∨ a = .sb →
    let p : Nat := if a = .sb then 1 else 0
    let conv (i : Instr) (f : Ex → Nat → Nat → Option (Ex → Nat → Ex × Nat)) : Prop :=
      let op (x : Ex) := f x ((x.cx0.portFmt p).getD 0) ((x.cx0.portFmt 2).getD 0)
      let effect (x : Ex) (op : Ex → Nat → Ex × Nat) : Ex :=
        let n := beatLen i x.cx0 (cvtLanes ((x.cx0.portFmt p).getD 0))
        let y := x.each op (x.lane n a)
        (y.1.advanceAll n [p]).putSw y.2
      (∀ h, Does i (.b g) (fun x => op x = some h ∧ (stored i (effect x h)).ok = true) (fun x => effect x h)) ∧
      Faults i (.b g) (fun x => op x = none) (fun x => ⟨4, x.slot.setWidth 64, [], none⟩)
    conv (.vcvt g rm a) (fun _ u w =>
      match portCvt u, portCvt w with
      | some cf, some ct => some fun x v => x.rounded (x.mode rm) fun m r => cvtV cf ct 32 v m r
      | _, _ => none) ∧
    conv (.vqnt g a b) (fun y u w =>
      match portFp u, portK w with
      | some f, some k => some fun x v =>
          let q := qntV k (f.read v) (y.nat b)
          (x.flags q.2, kCode k q.1)
      | _, _ => none) ∧
    conv (.vdqnt g rm a b) (fun y u w =>
      match portK u, portFp w with
      | some k, some f => some fun x v => x.rounded (x.mode rm) fun m r => dqntV f m r k v (y.nat b)
      | _, _ => none)

/-- Masks, reductions by the fixed tree, scans, and the conversions between ports. -/
def Obligations.StreamReductions : Prop := Says.StreamReductions ∧ Says.StreamTree ∧ Says.StreamConversions

/-- `oclaim` and `orelease` change the owners of the entries that they name (R199), `ofill.bank` copies lines and scales
from the bank (R183, R186), `ofill.bus` waits for a transfer (R183), `mbind` writes a binding (R201), `mzero` clears an
accumulator (R201), and `ostat` shows an entry's state, also one that a context of another spur on the brick owns
(R200, R205). -/
def Sys2Proof.Says.TileTable : Prop :=
  ∀ (g : BGuard) (ms : BitVec 4) (xs : BitVec 3) (f : SFmt) (n : BitVec 2) (e : TileIdx) (d a b : Opnd),
    let owns (x : Ex) : Prop := x.br.ownsSlot x.cx0.idx n.toNat = true
    let named (b : Brick) (fs : Slot → Slot) (fa : Acc → Acc) : Brick :=
      (maskBits 3 xs.toNat).foldl (fun b n => b.modAcc n fa) ((maskBits 4 ms.toNat).foldl (fun b n => b.modSlot n fs) b)
    let lines (x : Ex) := slotLines x.br.bank f (x.nat a)
    let scales (x : Ex) := readBytes x.br.bank (x.nat b) 32
    Does (.oclaim g ms xs) (.b g) (fun _ => True) (fun x =>
      let c := some x.cx0.idx
      { x with br := named x.br (fun t => { t with owner := c }) (fun t => { t with owner := c }) }) ∧
    Does (.orelease g ms xs) (.b g)
      (fun x => (∀ m ∈ maskBits 4 ms.toNat, x.br.ownsSlot x.cx0.idx m = true) ∧
        ∀ m ∈ maskBits 3 xs.toNat, x.br.ownsAcc x.cx0.idx m = true)
      (fun x => { x with br := named x.br (fun _ => Slot.blank) (fun _ => Acc.blank) }) ∧
    Does (.ofillBank g f n a b) (.b g)
      (fun x => owns x ∧ x.nat a % 64 = 0 ∧ x.nat a + 32 * lineBytes f ≤ 65536 ∧ x.nat b % 4 = 0 ∧ x.nat b + 32 ≤ 65536)
      (fun x =>
        let fl := (lines x).2 ||| (if (scales x).contains 0xFF then 0x20 else 0)
        { (x.flags fl) with br := x.br.modSlot n.toNat fun t =>
          { t with st := .filling, bus := false, send := false, fmt := some f, lines := (lines x).1,
                   scales := scales x } }) ∧
    Does (.ofillBus g f n) (.b g) owns (fun x => { x with br := x.br.modSlot n.toNat fun t =>
      { t with st := .filling, bus := true, send := false, fmt := some f } }) ∧
    Does (.mbind g n a) (.b g)
      (fun x => owns x ∧ (x.get a).extractLsb' 16 16 = 0 ∧
        ((x.get a).getLsbD 14 = false → (x.get a).extractLsb' 8 5 = 0) ∧
        ((x.get a).getLsbD 15 = true → (x.get a).getLsbD 14 = true →
          x.senderTaken n.toNat ((x.get a).setWidth 32) = false))
      (fun x => { x with br := x.br.modSlot n.toNat fun t =>
        { t with bind := (x.get a).setWidth 32, bindNode := x.node } }) ∧
    Does (.mzero g n) (.b g) (fun x => x.br.ownsAcc x.cx0.idx n.toNat = true)
      (fun x => { x with br := x.br.modAcc n.toNat fun t => { t with st := .empty, words := [], latch := none } }) ∧
    Result (.ostat g e d) (.b g) d (fun x => x.ostat e)

/-- An entry that the context does not own makes an instruction that names it fault with its number, accumulators counted
from 4 (R182). Of several that `mmac` does not own, it names its left slot, the first of the pair in `mmac.k16`: this order
and the fault's value are the model's choices (log 25, log 46). -/
def Sys2Proof.Says.TileOwnership : Prop :=
  ∀ (g : BGuard) (i : Instr) (n m q : BitVec 2) (f : SFmt) (last : Bool) (a b : Opnd),
    (i ∈ [.ofillBank g f n a b, .ofillBus g f n, .mbind g n a, .orelease g (1 <<< n.toNat) 0, .mmacK8 g last m n q,
        .mmacK4 g last m n q, .mmacK16 g last n q] →
      Faults i (.b g) (fun x => x.br.ownsSlot x.cx0.idx n.toNat = false)
        (fun _ => overrun 8 (BitVec.ofNat 64 n.toNat))) ∧
    (i ∈ [.mzero g n, .mreconI64 g false n a, .mreconF32 g false n a, .mreconF32Add g false n a, .mdrain g n a,
        .mdrainZ g n a] →
      Faults i (.b g) (fun x => x.br.ownsAcc x.cx0.idx n.toNat = false)
        (fun _ => overrun 8 (BitVec.ofNat 64 (4 + n.toNat))))

/-- Inside a brick, a copy from the bank, an array pass and a read of an accumulator complete, and change no other state
(R183, R184); on a bus whose one draining sender finds N + 1 receivers filling, all of them take its contents, scales and
format at once and are ready, and so is the sender; with receivers of another format none does, each of them faults, and the
round in which the count is reached holds the fault at its mark (R189; which node and slot the record names is log 49). -/
def Sys2Proof.Says.TilesComplete : Prop :=
  (∀ (s : State) (b : BrickAt) (sp : Spur) (k : Brick) (m : BitVec 2), s.spur? b.h = some sp → s.active sp = true →
    sp.live.brick? b.row b.col = some k →
    let put (k : Brick) : Out := .next (s.setSpur (sp.modLive fun l => l.setBrick k))
    exec (.slotFillComplete b m) s = put (k.modSlot m.toNat Slot.filled) ∧
    exec (.arrayPassComplete b) s = put k.passDone ∧
    exec (.tileReadComplete b m) s = put (k.modAcc m.toNat Acc.readDone)) ∧
  ∀ (s : State) (h : Handle) (col : Bool) (n did : BitVec 8) (sp : Spur) (k : Brick) (m : Nat) (t : Slot)
    (y : Brick × Nat × Slot), s.spur? h = some sp → s.active sp = true →
    sp.live.busSlots col n did (fun t => t.sends && t.send && t.st == .draining) = [(k, m, t)] →
    let dest := sp.live.busSlots col n did fun t => t.receives && t.bus && t.st == .filling
    let take (r : Slot) : Slot := { r with st := .ready, bus := false, lines := t.lines, scales := t.scales, fmt := t.fmt }
    let count : Prop := dest.length = (t.bind.extractLsb' 8 5).toNat + 1
    (¬ count → exec (.busTransfer h col n did) s = .next s) ∧
    (count → y ∈ dest → y.2.2.fmt ≠ t.fmt → busMismatch y ∈ sp.live.busFaults ∧
      exec (.busTransfer h col n did) s = .next (s.setSpur
        (((dest.filter fun y => y.2.2.fmt != t.fmt).map busMismatch).foldl Spur.addCause sp))) ∧
    (count → (∀ y ∈ dest, y.2.2.fmt = t.fmt) →
      let b := dest.foldl (fun b y => b.modSlotAt y.1 y.2.1 take) sp.live
      exec (.busTransfer h col n did) s = .next (s.setSpur
        ({ sp with live := b.modSlotAt k m fun r => { r with st := .ready, send := false } }.busy s.now)))

/-- The tile table: owners, fills, bindings, completions and bus transfers; orders and values of faults are log 25, 46 and
49. -/
def Obligations.TileTableRules : Prop := Says.TileTable ∧ Says.TileOwnership ∧ Says.TilesComplete

/-- An array pass takes its whole effect at the firing: the sums of products stand in the accumulator, the slots drain,
and `.last` counts the tile (R185, R192). -/
def Sys2Proof.Says.MatrixPasses : Prop :=
  ∀ (g : BGuard) (last : Bool) (n p q : BitVec 2),
    let pass (i : Instr) (f : Nat → SFmt) (l : List MTarget) (sl : List Nat) : Prop :=
      Does i (.b g)
        (fun x => (∀ m ∈ sl, x.br.ownsSlot x.cx0.idx m = true ∧ (x.br.slot m).st ≠ .empty ∧
            (x.br.slot m).fmt = some (f m)) ∧
          (∀ t ∈ l, x.br.ownsAcc x.cx0.idx t.acc = true ∧ ∀ p ∈ t.pairs, offPair x.br t p = false ∧
            ∀ q ∈ t.pairs, (x.br.slot p.1).scales = (x.br.slot q.1).scales ∧
              (x.br.slot p.2).scales = (x.br.slot q.2).scales))
        (fun x => { x with
          br := { sl.foldl (fun b m => b.modSlot m fun t => { t with st := .draining }) (l.foldl Brick.gain x.br) with
            passSlots := sl, passAccs := l.map (·.acc) }
          cx := if last then { x.cx with tcount := x.cx.tcount - 1 } else x.cx })
    pass (.mmacK8 g last n p q) (fun _ => .k8) [⟨n.toNat, [(p.toNat, q.toNat)]⟩] (dedup [p.toNat, q.toNat]) ∧
    pass (.mmacK4 g last n p q) (fun _ => .k4) [⟨n.toNat, [(p.toNat, q.toNat)]⟩] (dedup [p.toNat, q.toNat]) ∧
    (p.toNat % 2 = 0 → q.toNat % 2 = 0 →
      let a := p.toNat
      let b := q.toNat
      pass (.mmacK16 g last p q) (fun m => if m % 2 = 0 then .k16h else .k16l)
        [⟨0, [(a, b)]⟩, ⟨1, [(a, b + 1), (a + 1, b)]⟩, ⟨2, [(a + 1, b + 1)]⟩] (dedup [a, b, b + 1, a + 1]))

/-- Each element of an accumulator gains the exact sum of products of a line of the left slot and a line of the right one
(R191, R192). -/
def Sys2Proof.Says.MatrixProduct : Prop :=
  ∀ (b : Brick) (n p q i j : Nat), b.accs.length = 3 → n < 3 → i < 32 → j < 32 →
    (b.acc n).words.length = 1024 → (b.slot p).lines.length = 32 → (b.slot q).lines.length = 32 →
    nth ((b.gain ⟨n, [(p, q)]⟩).acc n).words (32 * i + j) 0 =
      BitVec.ofNat 32 (trienc (crt3 (triRead (nth (b.acc n).words (32 * i + j) 0).toNat).1 +
        (((nth (b.slot p).lines i []).zip (nth (b.slot q).lines j [])).map fun k => k.1 * k.2).sum))

/-- An array pass adds the exact sums of products to its accumulators. -/
def Obligations.MatrixProducts : Prop := Says.MatrixPasses ∧ Says.MatrixProduct

/-- The triad instructions (R137, R138, R203), the reconstruction of a tile into the bank (R194), and its drain (R202). That
a latched scale code of 0xFF sets FMT in a reconstruction to F32 is log 48. -/
def Sys2Proof.Says.MatrixReads : Prop :=
  ∀ (g : BGuard) (k : Bool) (n : BitVec 2) (d a b : Opnd),
    let tri (i : Instr) (op : Nat → Nat → Nat) : Prop := Flagged i (.b g) d (fun x =>
      let t := triRead (x.nat a)
      let u := triRead (x.nat b)
      ⟨op t.1.1 u.1.1 % 1023 * 2 ^ 21 + op t.1.2.1 u.1.2.1 % 1024 * 2 ^ 11 + op t.1.2.2 u.1.2.2 % 1025,
        t.2 ||| u.2, false⟩)
    let tiles : List Nat := if k then [0, 1, 2] else [n.toNat]
    let latch (x : Ex) := ((tiles.filter fun m => (x.br.acc m).st == .ready).head?).bind fun m => (x.br.acc m).latch
    let readable (x : Ex) (len : Nat) : Prop := (∀ m ∈ tiles, x.br.ownsAcc x.cx0.idx m = true) ∧
      x.nat a % 64 = 0 ∧ x.nat a + len ≤ 65536 ∧
      ∀ m ∈ tiles, (x.br.acc m).st = .ready → (x.br.acc m).latch = latch x
    let reading (x : Ex) : Ex := tiles.foldl Ex.readTile x
    let store (x : Ex) (z : Nat) (l : List Nat) : Ex := x.bankStore x.br.row x.br.col (x.nat a) (l.flatMap (toBytes z))
    let real (x : Ex) : List Fv := ((x.br.recon k n.toNat).zip (expsOf (latch x)).1).map fun p => reconV p.1 p.2
    let rounded (x : Ex) (l : List Res) : Ex :=
      store (x.flags (l.foldl (fun z r => z ||| r.fl) (expsOf (latch x)).2)) 4 (l.map (·.code))
    Result (.trienc g d a) (.b g) d (fun x => trienc (signed 32 (x.nat a))) ∧
    Flagged (.tridec g d a) (.b g) d (fun x => ⟨wrapNat 32 (crt3 (triRead (x.nat a)).1), (triRead (x.nat a)).2, false⟩) ∧
    tri (.triadd g d a b) (· + ·) ∧ tri (.trimul g d a b) (· * ·) ∧
    Does (.mreconI64 g k n a) (.b g) (fun x => readable x 8192)
      (fun x => reading (store x 8 ((x.br.recon k n.toNat).map (wrapNat 64)))) ∧
    Does (.mreconF32 g k n a) (.b g) (fun x => readable x 4096)
      (fun x => reading (rounded x ((real x).map (roundV fp32 0 0)))) ∧
    Does (.mreconF32Add g k n a) (.b g) (fun x => readable x 4096)
      (fun x => reading (rounded x (((upTo 1024).zip (real x)).map fun p =>
        addV fp32 0 0 (fp32.read (readNat x.br.bank (x.nat a + 4 * p.1) 4)) p.2))) ∧
    (k = false →
      Does (.mdrain g n a) (.b g) (fun x => readable x 4096)
        (fun x => reading (store x 4 ((x.br.acc n.toNat).tri.map (·.toNat)))) ∧
      Does (.mdrainZ g n a) (.b g) (fun x => readable x 4096)
        (fun x => (reading (store x 4 ((x.br.acc n.toNat).tri.map (·.toNat)))).modAcc n.toNat fun t =>
          { t with before := .empty, words := [], latch := none }))

/-- A triad word holds its number: what `trienc` writes, `tridec` reads back on the whole range, without a flag (R137,
R138, R203). -/
def Sys2Proof.Says.TriadRoundTrip : Prop :=
  ∀ v : Int, -536870400 ≤ v → v ≤ 536870399 →
    crt3 (triRead (trienc v)).1 = v ∧ (triRead (trienc v)).2 = 0 ∧ trienc v < 2 ^ 31

/-- Triads, the reconstruction of a tile and its drain; FMT of a reconstruction to F32 is log 48. -/
def Obligations.MatrixReads : Prop := Says.MatrixReads ∧ Says.TriadRoundTrip

/-- `isect` and `union` (R215): of two elements the lower coordinate leaves its queue, written by `union` alone, and equal
ones leave together as one token; a stop waits for the other fibre's stop, and the lower level of two stops leaves. -/
def Sys2Proof.Says.FibreMerges : Prop :=
  ∀ (g : BGuard) (mode : MMode) (n p q : BitVec 3) (ha hb : Tok),
    let a := Opnd.i p
    let b := Opnd.i q
    let rule (heads : Prop) (one : Bool) (f : Ex → Ex) : Prop :=
      heads → Does (if one then .union g mode (.o n) a b else .isect g mode (.o n) a b) (.b g)
        (fun x => x.fibre a = some ha ∧ x.fibre b = some hb ∧ x.accepts (.o n) 0) f
    let both : Prop := ha.stop = false ∧ hb.stop = false
    let low : Nat := min ha.level hb.level
    rule (both ∧ ha.coord < hb.coord) false (fun x => x.drops p) ∧
    rule (both ∧ ha.coord < hb.coord) true (fun x => (x.sends n false (emitv mode ha.coord ha.val 0)).drops p) ∧
    rule (both ∧ hb.coord < ha.coord) false (fun x => x.drops q) ∧
    rule (both ∧ hb.coord < ha.coord) true (fun x => (x.sends n false (emitv mode hb.coord 0 hb.val)).drops q) ∧
    (∀ one, rule (both ∧ ha.coord = hb.coord) one (fun x =>
      ((x.sends n false (emitv mode ha.coord ha.val hb.val)).drops p).drops q)) ∧
    rule (ha.stop = true ∧ hb.stop = false) false (fun x => x.drops q) ∧
    rule (ha.stop = true ∧ hb.stop = false) true (fun x =>
      (x.sends n false (emitv mode hb.coord 0 hb.val)).drops q) ∧
    rule (ha.stop = false ∧ hb.stop = true) false (fun x => x.drops p) ∧
    rule (ha.stop = false ∧ hb.stop = true) true (fun x =>
      (x.sends n false (emitv mode ha.coord ha.val 0)).drops p) ∧
    ∀ one, rule (ha.stop = true ∧ hb.stop = true) one (fun x =>
      let y := x.sends n true low
      let y := if ha.level = low then y.drops p else y
      if hb.level = low then y.drops q else y)

/-- `stopt` writes a stop of a level; `stopq` passes elements and moves the level of a stop by one, dropping level 0 when
it lowers (R217); `part` sends an element to the arm of its key bit and a stop to both (R221). -/
def Sys2Proof.Says.StopLevels : Prop :=
  ∀ (g : BGuard) (l : BitVec 4) (b : BitVec 5) (n : BitVec 3) (a : Opnd) (h : Tok),
    let ok (x : Ex) : Prop := x.accepts (.o n) 0
    let at_ (x : Ex) : Prop := x.accepts (.o n) 0 ∧ x.fibre a = some h
    Does (.stopt g (.o n) a) (.b g) ok (fun x => x.sends n true ((x.get a).toNat % 16)) ∧
    Does (.stoptImm g l (.o n)) (.b g) ok (fun x => x.sends n true l.toNat) ∧
    (h.stop = false → Does (.stopqLower g (.o n) a) (.b g) at_ (fun x => x.sends n false h.pay.toNat)) ∧
    (h.stop = true → h.level = 0 → Does (.stopqLower g (.o n) a) (.b g) at_ (fun x => x)) ∧
    (h.stop = true → 0 < h.level → Does (.stopqLower g (.o n) a) (.b g) at_ (fun x => x.sends n true (h.level - 1))) ∧
    (h.stop = false → Does (.stopqRaise g (.o n) a) (.b g) at_ (fun x => x.sends n false h.pay.toNat)) ∧
    (h.stop = true → Does (.stopqRaise g (.o n) a) (.b g) at_ (fun x => x.sends n true (min (h.level + 1) 15))) ∧
    (h.stop = true → Does (.part g b (.o n) a) (.b g) at_ (fun x => { x with cx := { x.cx with
      oq := upd x.cx.oq n.toNat fun l => l ++ [⟨.tok ⟨true, x.outTag n, h.pay⟩, .both⟩] } })) ∧
    (h.stop = false → Does (.part g b (.o n) a) (.b g) at_ (fun x => { x with cx := { x.cx with
      oq := upd x.cx.oq n.toNat fun l => l ++ [⟨.tok ⟨false, x.outTag n, h.pay⟩,
        if h.pay.getLsbD b.toNat then .a1 else .a0⟩] } }))

/-- Merges of two fibres, stop levels and the parting of a fibre. -/
def Obligations.SparseMerges : Prop := Says.FibreMerges ∧ Says.StopLevels

/-- `scanb` (R212, R213): two stops leave as one and clear the cursor; else the lowest position from the cursor's on, that
the operation of the two masks holds, is written with both presence bits; and where none is left, the words leave. With
`z` for B there is no second head. -/
def Sys2Proof.Says.MaskScans : Prop :=
  ∀ (g : BGuard) (op : Bool) (k : BitVec 4) (n p q : BitVec 3) (ha : Tok) (hb : Option Tok) (j : Nat),
    let b : Opnd := if hb.isSome then .i q else .z
    let i : Instr := .scanb g op k (.o n) (.i p) b
    let heads (x : Ex) : Prop := x.fibre (.i p) = some ha ∧ x.fibre b = hb ∧ x.accepts (.o n) 0
    let word (h : Tok) : W32 := if h.stop then 0 else h.pay
    let u : W32 := word ha
    let v : W32 := (hb.map word).getD 0
    let hit (m : Nat) : Bool := if op then u.getLsbD m || v.getLsbD m else u.getLsbD m && v.getLsbD m
    let pos (x : Ex) : Nat := min (x.kreg k % 64) 32
    let at_ (x : Ex) : Nat := x.kreg k / 64
    let cursor (x : Ex) (w : Nat) : Ex := { x with cx := x.cx.setReg x.bank k (BitVec.ofNat 32 w) }
    let low : Nat := (hb.map fun h => min ha.level h.level).getD ha.level
    let more : Prop := ha.stop = false ∨ hb.any (fun h => !h.stop) = true
    (¬ more → Does i (.b g) heads (fun x =>
      let y := x.sends n true low
      let y := if ha.level = low then y.drops p else y
      cursor (if hb.any (fun h => h.level == low) then y.drops q else y) 0)) ∧
    (more → j < 32 → hit j = true →
      Does i (.b g) (fun x => heads x ∧ pos x ≤ j ∧ ∀ m, pos x ≤ m → m < j → hit m = false) (fun x =>
        cursor (x.sends n false ((32 * at_ x + j) % 2 ^ 16 * 2 ^ 16 + (u.getLsbD j).toNat * 2 ^ 15 +
          (v.getLsbD j).toNat * 2 ^ 14)) (at_ x * 64 + (j + 1)))) ∧
    (more → Does i (.b g) (fun x => heads x ∧ ∀ m, pos x ≤ m → m < 32 → hit m = false) (fun x =>
      let y := if ha.stop then x else x.drops p
      cursor (if hb.any (fun h => !h.stop) then y.drops q else y) ((at_ x + 1) * 64)))

/-- `scant` (R214): the top words are loaded and leave; a leaf that the operation does not want leaves unscanned; the
lowest position of an open leaf is written; an exhausted leaf leaves, and an exhausted group moves on. With `z` for B
there is no second head. -/
def Sys2Proof.Says.TreeScans : Prop :=
  ∀ (g : BGuard) (op : Bool) (k : BitVec 4) (n p q : BitVec 3) (ha : Tok) (hb : Option Tok) (c : TreeCur) (ra rb : W32),
    let b : Opnd := if hb.isSome then .i q else .z
    let i : Instr := .scant g op k (.o n) (.i p) b
    let at_ (x : Ex) : Prop := x.fibre (.i p) = some ha ∧ x.fibre b = hb ∧ x.accepts (.o n) 0 ∧
      c = TreeCur.read (x.kreg k) ∧ x.cx0.reg x.bank (k + 1) = ra ∧ x.cx0.reg x.bank (k + 2) = rb
    let set (x : Ex) (c : TreeCur) (ra rb : W32) : Ex := x.setTree k c.word ra rb
    let word (h : Tok) : W32 := if h.stop then 0 else h.pay
    let low : Nat := (hb.map fun h => min ha.level h.level).getD ha.level
    let more : Prop := ha.stop = false ∨ hb.any (fun h => !h.stop) = true
    let drop (x : Ex) (a b : Bool) : Ex :=
      let y := if a then x.drops p else x
      if b && hb.isSome then y.drops q else y
    let t := trailingZeros (ra ||| rb) 32 0
    let wanted : Bool := if op then ra.getLsbD t || rb.getLsbD t else ra.getLsbD t && rb.getLsbD t
    let u : W32 := if ra.getLsbD c.t then ha.pay else 0
    let v : W32 := if rb.getLsbD c.t then (hb.map (·.pay)).getD 0 else 0
    let m : W32 := fromBit (scanOp op u v) c.p
    let j := trailingZeros m 32 0
    (c.top = false → ¬ more → Does i (.b g) at_ (fun x =>
      (drop (x.sends n true low) (ha.level == low) (hb.any fun h => h.level == low)).setTree k 0 0 0)) ∧
    (c.top = false → more → Does i (.b g) at_ (fun x =>
      set (drop x (!ha.stop) (hb.any fun h => !h.stop)) { c with top := true } (word ha) ((hb.map word).getD 0))) ∧
    (c.top = true → c.leafOpen = false → ra ||| rb = 0 → Does i (.b g) at_ (fun x =>
      set x { c with top := false, g := c.g + 1 } ra rb)) ∧
    (c.top = true → c.leafOpen = false → ra ||| rb ≠ 0 → wanted = true →
      Does i (.b g) at_ (fun x => set x { c with t := t, leafOpen := true, p := 0 } ra rb)) ∧
    (c.top = true → c.leafOpen = false → ra ||| rb ≠ 0 → wanted = false → Does i (.b g) at_ (fun x =>
      set (drop x (ra.getLsbD t) (rb.getLsbD t)) { c with t := t } (clearBit ra t) (clearBit rb t))) ∧
    (c.top = true → c.leafOpen = true → m ≠ 0 → Does i (.b g) at_ (fun x =>
      set (x.sends n false (emitc (1024 * c.g + 32 * c.t + j) (u.getLsbD j) (v.getLsbD j))) { c with p := j + 1 } ra rb)) ∧
    (c.top = true → c.leafOpen = true → m = 0 → Does i (.b g) at_ (fun x =>
      set (drop x (ra.getLsbD c.t) (rb.getLsbD c.t)) { c with leafOpen := false } (clearBit ra c.t) (clearBit rb c.t)))

/-- Scans of mask words and of two-level trees. -/
def Obligations.SparseScans : Prop := Says.MaskScans ∧ Says.TreeScans

/-- The sparse accumulator (R218 to R220): a first value marks its coordinate, a later one is added, a stop has no effect,
a bad region or coordinate is an overrun; a drain writes the lowest marked coordinate and its value, or a stop. The
subcode 1 of those overruns (log 51) and their values (log 25) are the model's choices. -/
def Obligations.SparseAccumulator : Prop :=
  ∀ (g : BGuard) (rm : Rm) (k : BitVec 4) (n : BitVec 3) (a b : Opnd) (c : Nat),
    let base (x : Ex) : Nat := x.kreg k / 4 % 2 ^ 14 * 4
    let cap (x : Ex) : Nat := 32 * (x.kreg k / 2 ^ 16 % 2 ^ 14)
    let good (x : Ex) : Prop := 0 < cap x ∧ base x + 4 * cap x + cap x / 8 ≤ 65536
    let val (x : Ex) : Nat := readNat x.br.bank (base x + 4 * c) 4
    let wa (x : Ex) : Nat := base x + 4 * cap x + 4 * (c / 32)
    let bits (x : Ex) : Nat := readNat x.br.bank (wa x) 4
    let put (x : Ex) (a v : Nat) : Ex := x.bankStore x.br.row x.br.col a (toBytes 4 v)
    let elem (x : Ex) : Prop := x.stopOf a = false ∧ good x ∧ (x.get a).toNat / 2 ^ 16 % 2 ^ 16 = c ∧ c < cap x
    let new (x : Ex) : Prop := elem x ∧ (bits x).testBit (c % 32) = false
    let old (x : Ex) : Prop := elem x ∧ (bits x).testBit (c % 32) = true
    let v (x : Ex) : Nat := (x.get b).toNat % 2 ^ 32
    let float (i : Instr) : Prop := Does i (.b g) new (fun x =>
      let y := x.flags (if (fp32.read (v x)).sig then 0x10 else 0)
      put (put y (base x + 4 * c) (if (fp32.read (v x)).isNan then 0x7FC00000 else v x)) (wa x) (bits x + 2 ^ (c % 32)))
    let fadd : Instr := .spaccFadd g rm k a b
    let iadd : Instr := .spaccAdd g k a b
    let fmax : Instr := .spaccFmax g k a b
    let marked (x : Ex) (m : Nat) : Bool := (readNat x.br.bank (base x + 4 * cap x + 4 * (m / 32)) 4).testBit (m % 32)
    let lowest (x : Ex) : Prop := good x ∧ c < cap x ∧ marked x c = true ∧ (∀ m, m < c → marked x m = false) ∧
      x.accepts (.o n) 0
    let half (x : Ex) (w : Nat) : Ex := { x with cx := x.cx.setReg x.bank k (BitVec.ofNat 32 w) }
    let value (x : Ex) : Ex :=
      put (put (half (x.sends n false (val x)) (x.kreg k % 2 ^ 31)) (base x + 4 * c) 0) (wa x) (bits x - 2 ^ (c % 32))
    let empty (i : Instr) : Prop := Does i (.b g)
      (fun x => good x ∧ (∀ m, m < cap x → marked x m = false) ∧ x.accepts (.o n) 0)
      (fun x => half (x.sends n true 0) (x.kreg k % 2 ^ 31))
    float fadd ∧ float fmax ∧
    Does iadd (.b g) new (fun x => put (put x (base x + 4 * c) (v x)) (wa x) (bits x + 2 ^ (c % 32))) ∧
    Does fadd (.b g) old (fun x =>
      let r := x.rounded (x.mode rm) fun m r => addV fp32 m r (fp32.read (val x)) (fp32.read (v x))
      put r.1 (base x + 4 * c) r.2) ∧
    Does iadd (.b g) old (fun x => put x (base x + 4 * c) ((val x + v x) % 2 ^ 32)) ∧
    Does fmax (.b g) old (fun x =>
      let r := minmaxV fp32 true false (val x) (v x)
      put (x.flags r.fl) (base x + 4 * c) r.code) ∧
    (∀ i ∈ [fadd, iadd, fmax],
      Does i (.b g) (fun x => x.stopOf a = true) (fun x => x) ∧
      Faults i (.b g) (fun x => x.stopOf a = false ∧ ¬ good x) (fun x => overrun 1 (BitVec.ofNat 64 (x.kreg k))) ∧
      Faults i (.b g) (fun x => x.stopOf a = false ∧ good x ∧ (x.get a).toNat / 2 ^ 16 % 2 ^ 16 = c ∧ cap x ≤ c)
        (fun _ => overrun 1 (BitVec.ofNat 64 c))) ∧
    (∀ i ∈ [Instr.spdrain g k (.o n), .spdrainV g k (.o n)],
      Faults i (.b g) (fun x => ¬ good x) (fun x => overrun 1 (BitVec.ofNat 64 (x.kreg k)))) ∧
    empty (.spdrain g k (.o n)) ∧ empty (.spdrainV g k (.o n)) ∧
    Does (.spdrainV g k (.o n)) (.b g) lowest value ∧
    Does (.spdrain g k (.o n)) (.b g) (fun x => lowest x ∧ 2 ^ 31 ≤ x.kreg k) value ∧
    Does (.spdrain g k (.o n)) (.b g) (fun x => lowest x ∧ x.kreg k < 2 ^ 31)
      (fun x => half (x.sends n false c) (x.kreg k + 2 ^ 31))

/-- Bank accesses: a load reads the firing's own bank, lowest byte first and zero-extended; a store writes it at once and
is held in the round; an offset off its size, or beyond the bank, faults (R231, R256, R262), the first before the second by
the model's choice (log 52), which also gives the overrun its value (log 25). -/
def Sys2Proof.Says.BankAccess : Prop :=
  ∀ (g : BGuard) (z : Size) (d v a b : Opnd),
    let n := Machine.sizeOf z
    let t (x : Ex) : Nat := ((x.get a).toNat + (x.get b).toNat) % 2 ^ 32
    let good (x : Ex) : Prop := t x % n = 0 ∧ t x + n ≤ 65536
    let value (x : Ex) : W64 := BitVec.ofNat 64 (readNat x.br.bank (t x) n)
    let load : Instr := .ldb g z d a b
    let store : Instr := .stb g z v a b
    let later (x : Ex) : Ex := { x with cx := { x.cx with load := some ⟨x.slot, x.bank, value x, d, none⟩ } }
    Does load (.b g) (fun x => good x ∧ x.s.late = false ∧ x.accepts d (value x)) (fun x => x.put d (value x)) ∧
    Does load (.b g) (fun x => good x ∧ x.s.late = true ∧ (stored load (later x)).ok = true) later ∧
    Does store (.b g) good (fun x => x.bankStore x.br.row x.br.col (t x) (toBytes n (x.nat v))) ∧
    ∀ i ∈ [load, store],
      Faults i (.b g) (fun x => t x % n ≠ 0) (fun x => ⟨8, BitVec.ofNat 64 (t x), [], none⟩) ∧
      Faults i (.b g) (fun x => t x % n = 0 ∧ 65536 < t x + n) (fun x => overrun 1 (BitVec.ofNat 64 (t x)))

/-- Where an access leads (R230 to R232, R262): an unset window is an overrun of subcode 2 with the
window's number (log 25), an address off the access's
alignment faults with that address, a vault address must name a brick of the spur on the accessing ridge and lie in its
vault bytes, and a virtual address is translated for its agent, which waits while a migration holds the page (R280); a read
of a word that stays bad, and a walk that meets one, which is data lost of space 3 (log 139), go no further (R409). That
misalignment is named before the range of the vault is the model's
choice (log 52). -/
def Sys2Proof.Says.AccessPlaces : Prop :=
  ∀ (x : Ex) (al n t va : Nat) (acc : AccK) (pres : Option Bool), x.ok = true → 0 < al →
    (∀ w, (x.place (.unset w) al n acc pres).1 = { x with fault := some (overrun 2 (w.setWidth 64)) }) ∧
    (t % al ≠ 0 → (x.place (.vault t) al n acc pres).1 = { x with fault := some ⟨8, BitVec.ofNat 64 t, [], none⟩ }) ∧
    (va % al ≠ 0 → (x.place (.virt va) al n acc pres).1 = { x with fault := some ⟨8, BitVec.ofNat 64 va, [], none⟩ }) ∧
    (t % al = 0 → t < 2 ^ 24 → ∀ rc, x.vaultBrick (t / 65536) = some rc → t % 65536 + n ≤ x.sp.img.hd.vlt →
      x.place (.vault t) al n acc pres = (x, .bank rc.1 rc.2 (t % 65536) t)) ∧
    (t % al = 0 → (2 ^ 24 ≤ t ∨ x.vaultBrick (t / 65536) = none ∨ x.sp.img.hd.vlt < t % 65536 + n) →
      (x.place (.vault t) al n acc pres).1 = { x with fault := some (overrun 1 (BitVec.ofNat 64 t)) }) ∧
    (va % al = 0 → x.s.migrHolds x.sp.asid va = true → (x.place (.virt va) al n acc pres).1 = { x with wait := true }) ∧
    (va % al = 0 → x.s.migrHolds x.sp.asid va = false → ∀ s pa l,
      translate x.s (bedrock x.sp.massif) x.sp.asid va ⟨acc, x.user, pres⟩ = (s, .ok (pa, l)) →
      let y : Ex := { x with s := s }
      (acc = .write ∨ y.badAt pa n = false → x.place (.virt va) al n acc pres = (y, .phys va pa)) ∧
      (acc ≠ .write → y.badAt pa n = true → (x.place (.virt va) al n acc pres).1.ok = false)) ∧
    (va % al = 0 → x.s.migrHolds x.sp.asid va = false → ∀ s f,
      translate x.s (bedrock x.sp.massif) x.sp.asid va ⟨acc, x.user, pres⟩ = (s, .error f) →
      let y : Ex := { x with s := s }
      (f.kind = .lost → (x.place (.virt va) al n acc pres).1 = y.lose 3 (BitVec.ofNat 64 f.addr) ∧
        (y.lose 3 (BitVec.ofNat 64 f.addr)).ok = false) ∧
      (f.kind ≠ .lost → (x.place (.virt va) al n acc pres).1 = { y with fault := some ⟨7, BitVec.ofNat 64 va,
        tBody x.sp.asid va acc f false,
        if f.kind = .notPresent then some ⟨x.sp.asid, va, acc.code, f.level, f.addr⟩ else none⟩ }))

/-- An access that cannot be placed makes its instruction fault at once, before anything is loaded or held (R262). -/
def Sys2Proof.Says.AccessFaults : Prop :=
  ∀ (g : Guard) (z : Size) (w : BitVec 2) (d v a b : Opnd) (s : State) (x : Ex),
    let n := Machine.sizeOf z
    let tg := x.window w (x.sum g a b)
    let vt := Target1.vault (x.sum g a b)
    let stops (i : Instr) (y : Ex) : Prop :=
      begins i g s = some x → y.ok = false → exec i s = .next (ended i s y)
    stops (.ldg g z w d a b) (x.place tg n n .read none).1 ∧
    stops (.ldv g z d a b) (x.place vt n n .read none).1 ∧
    stops (.stg g z w v a b) (x.place tg n n .write (some false)).1 ∧
    stops (.stv g z v a b) (x.place vt n n .write (some false)).1 ∧
    stops (.ldp g w d a b) (x.place tg 4 4 .read (some true)).1 ∧
    stops (.stp g w v a b) (x.place tg 4 4 .write (some true)).1

/-- Where an access leads, its faults, and the accesses of the own bank. -/
def Obligations.AccessPlaces : Prop := Says.BankAccess ∧ Says.AccessPlaces ∧ Says.AccessFaults

/-- Loads from memory and from the vault (R230 to R232, R256): an access that is aligned, translated and within its
footprint writes the bytes, as its own spur's held writes leave them, zero-extended. -/
def Sys2Proof.Says.Loads : Prop :=
  ∀ (g : Guard) (z : Size) (w : BitVec 2) (d a b : Opnd) (y : Ex) (p : Place1),
    let n := Machine.sizeOf z
    let load (i : Instr) (tg : Ex → Target1) : Prop :=
      let at_ (x : Ex) : Prop := x.place (tg x) n n .read none = (y, p) ∧ y.ok = true ∧ y.footCheck 0 n p = y
      let value : W64 := BitVec.ofNat 64 (ofBytes (y.bytesAt p n))
      let later : Ex := if y.isB then { y with cx := { y.cx with load := some ⟨y.slot, y.bank, value, d, p.range n⟩ } }
        else { y with th := { y.th with load := some ⟨0, 0, value, d, p.range n⟩ } }
      Does i g (fun x => at_ x ∧ y.s.late = false ∧ y.accepts d value) (fun _ => y.put d value) ∧
      Does i g (fun x => at_ x ∧ y.s.late = true ∧ (stored i later).ok = true) (fun _ => later)
    load (.ldg g z w d a b) (fun x => x.window w (x.sum g a b)) ∧
    load (.ldv g z d a b) (fun x => .vault (x.sum g a b))

/-- Stores to memory and to the vault are held in the round with the address, the place and the bytes, and change nothing
else (R234, R256), but that a write whose translation a posted invalidation or migration names, before it takes effect, makes
the round stale (R306); with as many held as the KZ7 holds, a brick's store waits (R397). -/
def Sys2Proof.Says.Stores : Prop :=
  ∀ (g : Guard) (z : Size) (w : BitVec 2) (v a b : Opnd) (y : Ex) (p : Place1),
    let n := Machine.sizeOf z
    let store (i : Instr) (tg : Ex → Target1) : Prop :=
      let at_ (x : Ex) : Prop := x.place (tg x) n n .write (some false) = (y, p) ∧ y.ok = true ∧ y.footCheck 1 n p = y
      let room : Prop := y.isB = false ∨ y.heldCount < Config.heldWrites
      (∀ va pa, p = .phys va pa → Does i g (fun x => at_ x ∧ room) (fun x =>
        let z := y.markStored
        let held : Held := ⟨x.who, .store, x.sp.asid, va, none, pa, toBytes n (x.nat v), x.sys⟩
        let sp := z.sp.modLive fun b => { b with held := b.held ++ [held] }
        { z with sp := { sp with stale := sp.stale || y.s.staleAt (bedrock x.sp.massif) x.sp.asid va n } })) ∧
      (∀ r c off t, p = .bank r c off t → Does i g
        (fun x => at_ x ∧ (room ∨ (r = y.br.row ∧ c = y.br.col)))
        (fun x => y.bankStore r c off (toBytes n (x.nat v)))) ∧
      (∀ va pa, p = .phys va pa → ∀ s x, begins i g s = some x → at_ x → ¬ room →
        exec i s = .next (ended i s { y with wait := true }))
    store (.stg g z w v a b) (fun x => x.window w (x.sum g a b)) ∧
    store (.stv g z v a b) (fun x => .vault (x.sum g a b))

/-- Loads whose values return later (R234): the event writes the value and ends the firing, or moves the thread on; a value
that goes to `sw` also stores the whole words it fills. -/
def Sys2Proof.Says.LoadReturns : Prop :=
  ∀ (s : State) (x : Ex) (l : PendLoad),
    (∀ h, enterS s h = some x → x.th.load = some l →
      exec (.loadValueReturn (.thread h)) s =
        .next (({ x with th := { x.th with load := none, pc := x.th.pc + 8 }, sp := x.sp.busy s.now } : Ex).put
          l.dst l.val).back) ∧
    ∀ (c : CtxAt) (k : Ctx) (i : Instr) (g : BGuard), s.ctx? c = some k → k.load = some l →
      k.instr? l.slot.toNat = some i → guardOf i = some (.b g) → enterB s c l.slot i g = some x →
      let v := { x with cx := { x.cx with load := none } }.put l.dst l.val
      let y := if writesSw i then v.flushSw else v
      y.ok = true → exec (.loadValueReturn (.ctx c)) s = .next (({ y with sp := y.sp.busy s.now } : Ex).finish (srcsOf i)).back

/-- Loads read and stores are held in the round, through windows and the vault. -/
def Obligations.LoadsAndStores : Prop := Says.Loads ∧ Says.Stores ∧ Says.LoadReturns

/-- The frame of loads and stores in memory: beyond the translation of their one address they leave every byte and every
presence bit as it was, since a store is held until its round commits (R234); only the fault of a thread's word, which makes
the round mark at once (R96), may show what the round held. -/
def Sys2Proof.Says.AccessFrame : Prop :=
  ∀ (g : Guard) (z : Size) (w : BitVec 2) (d v a b : Opnd) (s t : State) (x : Ex), d ≠ .sw →
    let n := Machine.sizeOf z
    let tg := x.window w (x.sum g a b)
    let vt := Target1.vault (x.sum g a b)
    let keeps (i : Instr) (kind n : Nat) (y : Ex × Place1) : Prop :=
      begins i g s = some x →
      (∀ gs, g = .s gs → y.1.fault = none ∧ (y.1.footCheck kind n y.2).fault = none ∧
        (i = .stp g w v a b → y.1.fullAt y.2 = false)) →
      exec i s = .next t → t.mem = y.1.s.mem ∧ t.full = y.1.s.full
    keeps (.ldg g z w d a b) 0 n (x.place tg n n .read none) ∧
    keeps (.ldv g z d a b) 0 n (x.place vt n n .read none) ∧
    keeps (.stg g z w v a b) 1 n (x.place tg n n .write (some false)) ∧
    keeps (.stv g z v a b) 1 n (x.place vt n n .write (some false)) ∧
    keeps (.ldp g w d a b) 2 4 (x.place tg 4 4 .read (some true)) ∧
    keeps (.stp g w v a b) 2 4 (x.place tg 4 4 .write (some true))

/-- A translation writes no byte of memory but those of the leaf entry that its unit's cache then holds for the address,
whose accessed and dirty bits it sets (R268, R271, R273), and touches nothing else but caches where that entry is memory and no
register of control space (R440); a faulting one writes none (R269). -/
def Sys2Proof.Says.TranslationFrame : Prop :=
  ∀ (s t : State) (u : CacheUnit) (asid va : Nat) (n : Need) (r : Except TFault (Nat × W64)),
    translate s u asid va n = (t, r) →
    ((∀ c ∈ t.caches, c.covers u asid c.level va = true → isCtlSpace c.addr = false) →
      (∀ a, (∀ c ∈ t.caches, c.covers u asid c.level va = true → a < c.addr ∨ c.addr + 8 ≤ a) →
        readByte t.mem a = readByte s.mem a) ∧ t.full = s.full ∧ t.spurs = s.spurs ∧ t.ctl = s.ctl) ∧
    ∀ f, r = .error f → t.mem = s.mem ∧ t.full = s.full ∧ t.spurs = s.spurs ∧ t.ctl = s.ctl

/-- A load or store leaves memory as it was, but for the accessed and dirty bits of its own leaf. -/
def Obligations.MemoryFrames : Prop := Says.AccessFrame ∧ Says.TranslationFrame

/-- An agent sees the writes that its own spur holds at once, before the round commits (R234): the bytes of the latest
held write read as they were stored, and every byte outside it reads as before. A held write of device control space
shows as what it does to the registers (R440). -/
def Obligations.HeldWritesVisible : Prop :=
  ∀ (x : Ex) (h : Held), h.bank = none →
    let y : Ex := { x with sp := x.sp.modLive fun b => { b with held := b.held ++ [h] } }
    (isCtlSpace h.pa = false → y.physBytes h.pa h.bytes.length = h.bytes) ∧
    (∀ pa n, overlap pa n h.pa h.bytes.length = false → isCtlSpace pa = false ∨ isCtlSpace h.pa = false →
      y.physBytes pa n = x.physBytes pa n) ∧
    (isCtlSpace h.pa = true → y.ctlView = x.ctlView.physWrite (writerOf h.who h.sys) h.pa h.bytes) ∧
    (∀ pa n, isCtlSpace pa = true → y.physBytes pa n = y.ctlView.physRead pa n) ∧
    ∀ pa n, (y.physBytes pa n).length = n

/-- Presence (R246 to R248, R257): `ldp` of a full word reads it, and of an empty one is deferred on the word until it is
filled, and then completes with the value that filled it, or is refused and tried again while its table is full (which
table an `ldp` of memory takes is log 54); `stp` fills an empty word, and a full one is a fault; `clrp` empties up to
1,024 words of one page. Whether its overrun names the count or the address is the model's choice (log 25). -/
def Obligations.PresenceAccess : Prop :=
  ∀ (g : Guard) (w : BitVec 2) (d v a b : Opnd) (y : Ex) (p : Place1) (k : Nat),
    let tg (x : Ex) : Target1 := x.window w (x.sum g a b)
    let read (x : Ex) : Prop := x.place (tg x) 4 4 .read (some true) = (y, p) ∧ y.ok = true ∧ y.footCheck 2 4 p = y
    let write (x : Ex) (n : Nat) : Prop :=
      x.place (tg x) 4 n .write (some true) = (y, p) ∧ y.ok = true ∧ y.footCheck 2 n p = y
    let value : W64 := BitVec.ofNat 64 (ofBytes (y.bytesAt p 4))
    let room : Prop := y.isB = false ∨ y.heldCount < Config.heldWrites
    let hold (x : Ex) (kind : WKind) (va pa : Nat) (bytes : List Byte) : Ex :=
      let z := y.markStored
      let sp := z.sp.modLive fun b => { b with held := b.held ++ [⟨x.who, kind, x.sp.asid, va, none, pa, bytes, x.sys⟩] }
      { z with sp := { sp with stale := sp.stale || y.s.staleAt (bedrock x.sp.massif) x.sp.asid va bytes.length } }
    let words (x : Ex) (a : Nat) : Prop := x.nat v % 2 ^ 32 = k ∧ 1 ≤ k ∧ k ≤ 1024 ∧ a % 4 = 0 ∧
      a / 4096 = (a + 4 * k - 1) / 4096
    let waits (i : Instr) (q : Ex → Prop) : Prop :=
      ∀ s x, begins i g s = some x → q x → exec i s = .next (ended i s { y with wait := true })
    let full (x : Ex) : Prop := read x ∧ y.fullAt p = true ∧ y.accepts d value
    let load : PendLoad := ⟨y.slot, y.bank, 0, d, p.range 4⟩
    let word : Deferred := match p with
      | .phys _ pa => ⟨none, pa, load⟩
      | .bank r c off _ => ⟨some (r, c), off, load⟩
    let put (b : Body) : Body := match y.who with
      | .ctx c => b.modCtx c fun k => { k with defer := some word }
      | .thread _ => { b with th := { b.th with defer := some word } }
    let deferred : Ex := { y with s := y.s.modSpur y.sp.handle (fun sp => sp.modLive put), wait := true }
    let filled (z : Ex) (v : Nat) : Ex :=
      let fill (b : Body) : Body := b.fill word.bank word.pa (BitVec.ofNat 64 (v % 2 ^ 32))
      { z with sp := z.sp.modLive fill, th := z.th.fill word.bank word.pa (BitVec.ofNat 64 (v % 2 ^ 32)) }
    Does (.ldp g w d a b) g full (fun _ => y.put d value) ∧
    Retries .ldpDeferredComplete (.ldp g w d a b) g full (fun _ => y.put d value) ∧
    (∀ s x, begins (.ldp g w d a b) g s = some x → read x → y.fullAt p = false →
      exec (.ldp g w d a b) s = .next (ended (.ldp g w d a b) s
        (if y.deferRoom word then deferred else { y with wait := true }))) ∧
    (∀ (c : Ctx) (e : Deferred) (k : W64), c.defer = some e → c.fill e.bank e.pa k =
      { c with wait := none, defer := none, load := some { e.load with val := k }, bfc := c.bfc + 1 }) ∧
    (∀ (s : State) (u : AgentId), (s.loadOf u).isSome = true → exec (.ldpDeferredComplete u) s = exec (.loadValueReturn u) s) ∧
    (∀ s x, begins (.stp g w v a b) g s = some x → write x 4 → y.fullAt p = true →
      exec (.stp g w v a b) s = .next (ended (.stp g w v a b) s
        { y with fault := some ⟨6, BitVec.ofNat 64 p.addr, [], none⟩ })) ∧
    waits (.stp g w v a b) (fun x => write x 4 ∧ y.fullAt p = false ∧ y.filling p = true) ∧
    (∀ va pa, p = .phys va pa →
      Does (.stp g w v a b) g (fun x => write x 4 ∧ y.fullAt p = false ∧ y.filling p = false ∧ room)
        (fun x => filled (hold x .stp va pa (toBytes 4 (x.nat v))) (x.nat v)) ∧
      Does (.clrp g w v a b) g (fun x => tg x = .virt va ∧ words x va ∧ write x (4 * k) ∧ room)
        (fun x => hold x .clrp va pa (zeros (4 * k)))) ∧
    (∀ r c off t, p = .bank r c off t →
      Does (.stp g w v a b) g (fun x => write x 4 ∧ y.fullAt p = false ∧ (room ∨ r = y.br.row ∧ c = y.br.col))
        (fun x => (filled (y.bankStore r c off (toBytes 4 (x.nat v))) (x.nat v)).modFull r c fun l => setFull l off) ∧
      Does (.clrp g w v a b) g
        (fun x => tg x = .vault t ∧ words x t ∧ write x (4 * k) ∧ (room ∨ r = y.br.row ∧ c = y.br.col))
        (fun _ => (y.bankStore r c off (zeros (4 * k))).modFull r c fun l =>
          l.filter fun o => !(decide (off ≤ o) && decide (o < off + 4 * k)))) ∧
    Faults (.clrp g w v a b) g
      (fun x => ∃ va, (tg x = .virt va ∨ tg x = .vault va) ∧ va % 4 = 0 ∧ x.nat v % 2 ^ 32 = k ∧
        (k < 1 ∨ 1024 < k))
      (fun _ => overrun 11 (BitVec.ofNat 64 k)) ∧
    ∀ va, Faults (.clrp g w v a b) g
      (fun x => (tg x = .virt va ∨ tg x = .vault va) ∧ va % 4 = 0 ∧ x.nat v % 2 ^ 32 = k ∧ 1 ≤ k ∧ k ≤ 1024 ∧
        va / 4096 ≠ (va + 4 * k - 1) / 4096)
      (fun _ => overrun 11 (BitVec.ofNat 64 va))

/-- The atomics (R235, R244, R259, R260), as they fire and as a waiting one is performed: the old value goes to D, the new
one is written at once, and the device keeps the result for the round's execution again; `cas` writes where the old value
is D's. -/
def Sys2Proof.Says.Atomics : Prop :=
  ∀ (g : Guard) (o : AOrd) (sc : Scope) (w : BitVec 2) (d a b : BitVec 4) (y : Ex) (p : Place1) (old : Nat),
    let rmw (i : Instr) (n : Nat) (new : Ex → Option Nat) (fl : Ex → BitVec 8) : Prop :=
      let at_ (x : Ex) : Prop :=
        x.recorded = none ∧ x.place (x.window w (x.sum g (x.amoReg a) .z)) n n .rw (some false) = (y, p) ∧
          y.ok = true ∧ y.footCheck 2 n p = y ∧ y.heldThere p n = false ∧ ofBytes (y.bytesAt p n) = old
      let effect (x : Ex) : Ex :=
        let z := match new x with
          | some v => y.perform p (toBytes n v)
          | none => y
        ((z.flags (fl x)).put (x.amoReg d) (BitVec.ofNat 64 old)).record (BitVec.ofNat 64 old) none
      Does i g at_ effect ∧ Retries .atomicPerform i g at_ effect
    let n : Nat := match g with | .b _ => 4 | .s _ => 8
    let v (x : Ex) : Nat := (x.get (x.amoReg b)).toNat % 256 ^ n
    let sv (x : Ex) : Int := signed (8 * n) (v x)
    let so : Int := signed (8 * n) old
    let none_ (_ : Ex) : BitVec 8 := 0
    let f (x : Ex) : Res := addV fp32 0 0 (fp32.read old) (fp32.read ((x.get (x.amoReg b)).toNat))
    old < 256 ^ n →
    rmw (.amoadd g o sc w d a b) n (fun x => some ((old + v x) % 256 ^ n)) none_ ∧
    rmw (.amoand g o sc w d a b) n (fun x => some (old &&& v x)) none_ ∧
    rmw (.amoor g o sc w d a b) n (fun x => some (old ||| v x)) none_ ∧
    rmw (.amoxor g o sc w d a b) n (fun x => some (old ^^^ v x)) none_ ∧
    rmw (.amomin g o sc w d a b) n (fun x => some (if sv x < so then v x else old)) none_ ∧
    rmw (.amomax g o sc w d a b) n (fun x => some (if so < sv x then v x else old)) none_ ∧
    rmw (.amominu g o sc w d a b) n (fun x => some (min old (v x))) none_ ∧
    rmw (.amomaxu g o sc w d a b) n (fun x => some (max old (v x))) none_ ∧
    rmw (.amoswap g o sc w d a b) n (fun x => some (v x)) none_ ∧
    rmw (.amofadd g o sc w d a b) 4 (fun x => some (f x).code) (fun x => (f x).fl) ∧
    rmw (.cas g o sc w d a b) n
      (fun x => if old = (x.get (x.amoReg d)).toNat % 256 ^ n then some (v x) else none) none_

/-- An atomic whose result the device has kept takes that result and performs nothing (R235); one whose bytes a held write
covers waits (R235). -/
def Sys2Proof.Says.AtomicsAgain : Prop :=
  ∀ (g : Guard) (o : AOrd) (sc : Scope) (w : BitVec 2) (d a b : BitVec 4) (y : Ex) (p : Place1),
    let n : Nat := match g with | .b _ => 4 | .s _ => 8
    ∀ i ∈ [Instr.amoadd g o sc w d a b, .amoand g o sc w d a b, .amoor g o sc w d a b, .amoxor g o sc w d a b,
        .amomin g o sc w d a b, .amomax g o sc w d a b, .amominu g o sc w d a b, .amomaxu g o sc w d a b,
        .amoswap g o sc w d a b, .cas g o sc w d a b, .amofadd g o sc w d a b],
      let m : Nat := if i = .amofadd g o sc w d a b then 4 else n
      (∀ r, i ≠ .amofadd g o sc w d a b →
        Does i g (fun x => x.recorded = some r) (fun x => (x.put (x.amoReg d) r.val).nextAtom)) ∧
      (∀ r, i = .amofadd g o sc w d a b → Does i g (fun x => x.recorded = some r) (fun x =>
        let v := fp32.read (x.get (x.amoReg b)).toNat
        ((x.flags (addV fp32 0 0 (fp32.read r.val.toNat) v).fl).put (x.amoReg d) r.val).nextAtom)) ∧
      ∀ s x, begins i g s = some x → x.recorded = none →
        x.place (x.window w (x.sum g (x.amoReg a) .z)) m m .rw (some false) = (y, p) → y.ok = true →
        y.footCheck 2 m p = y → y.heldThere p m = true → exec i s = .next (ended i s { y with wait := true })

/-- Atomics perform once, answer the old value, and repeat their answer. -/
def Obligations.AtomicAccess : Prop := Says.Atomics ∧ Says.AtomicsAgain

/-- The prefetch has no architectural effect (R258). A fence fires where its conditions hold and changes no state: the
model performs accesses in the order of its steps, the strongest that the rules allow (log 3), so its order is the order
of firing (R261, R283, R301). -/
def Sys2Proof.Says.FencesAndPrefetch : Prop :=
  ∀ (g : Guard) (w : BitVec 2) (o : FOrd) (e : EOrd) (sc : Scope) (a b : Opnd),
    Does (.pref g w a b) g (fun _ => True) (fun x => x) ∧
    Does (.fence g o sc) g (fun _ => True) (fun x => x) ∧
    Does (.fencex g o sc) g (fun _ => True) (fun x => x) ∧
    Does (.fencee g e sc) g (fun _ => True) (fun x => x)

/-- `notify` holds a record of kind 2 for a queue of the spur's domain in the round, and waits with 16 outstanding (R108).
`rddig` reads a digest: of the own brick in two halves, of a selected brick, or of an edge port (R416). That a port's number
may have bit 5 set is the model's reading (log 37), and the value of the overrun its choice (log 25). -/
def Sys2Proof.Says.NotifyAndDigests : Prop :=
  ∀ (g : SGuard) (gb : BGuard) (d a b : Opnd) (y : Dom),
    let i : Instr := .notify g a b
    let count (x : Ex) : Nat := ((x.s.recq ++ x.sp.live.recs).filter (QRec.noteOf x.sp.handle)).length
    let queue (x : Ex) : Prop := x.s.dom? x.sp.dom = some y ∧ (x.get a).toNat < y.dqn ∧ (x.get a).toNat < 4096
    Does i (.s g) (fun x => queue x ∧ count x < 16) (fun x => { x with sp := x.sp.modLive fun k => { k with
      recs := k.recs ++ [⟨x.sp.dom, (x.get a).toNat, record16 (x.get b) x.sp.handle x.sp.dom 2 0⟩] } }) ∧
    (∀ s x, begins i (.s g) s = some x → queue x → 16 ≤ count x → exec i s = .next s) ∧
    Faults i (.s g) (fun x => x.s.dom? x.sp.dom = some y ∧ ¬ ((x.get a).toNat < y.dqn ∧ (x.get a).toNat < 4096))
      (fun x => overrun 3 (x.get a)) ∧
    (let half (x : Ex) : W64 := (nth x.br.dig ((x.get b).toNat % 32) 0) >>> (32 * ((x.get b).toNat / 32)) &&& 0xFFFFFFFF
     Does (.rddig (.b gb) d a b) (.b gb) (fun x => (x.get b).toNat < 64 ∧ x.accepts d (half x))
      (fun x => x.put d (half x))) ∧
    (∀ (o : Spur) (k : Ctx) (br : Brick),
      let dig (x : Ex) : W64 := nth br.dig (x.get b).toNat 0
      Does (.rddig (.s g) d a b) (.s g) (fun x => (x.get b).toNat < 32 ∧ x.select (x.get a) false = some (o, k) ∧
        o.live.brick? k.row k.col = some br ∧ x.accepts d (dig x)) (fun x => x.put d (dig x))) ∧
    ∀ (p : BitVec 8) (v : W64), Does (.rddig (.s g) d a b) (.s g)
      (fun x => x.get b = 0x100 ||| p.setWidth 64 ∧ x.get a = 0 ∧
        x.sp.live.portDig.find? (fun e => e.1 == p) = some (p, v) ∧ x.accepts d v)
      (fun x => x.put d v)

/-- Fences and prefetches change no state in this model (order of steps: log 3); notices and digests. -/
def Obligations.FencesAndNotices : Prop := Says.FencesAndPrefetch ∧ Says.NotifyAndDigests

/-- A thread's `pc` afterwards: where a branch or an entry leads it, and else the next word (R39, R88). -/
def Sys2Proof.Says.ThreadAdvances : Prop :=
  ∀ (i : Instr) (g : SGuard) (s : State) (x y : Ex) (h : Handle), begins i (.s g) s = some x → s.agent = .thread h →
    y.ok = true → y.s = s → y.sp = x.sp → y.th.load = none →
    ∃ t, (ended i s y).thread? h = some t ∧ t = { y.th with pc := y.npc.getD (y.th.pc + 8) }

/-- Branches lead to `pc` and eight times the extension (R39, R99): `bc` where its condition holds, `jal` and `jr` with the
address of the next word in D, `loop` until its counter is 0; `jr` to an address off a word faults. -/
def Sys2Proof.Says.Branches : Prop :=
  ∀ (g : SGuard) (c : Cond) (d a b : Opnd),
    let goes (x : Ex) (t : W64) : Ex := { x with npc := some t }
    let there (x : Ex) : W64 := BitVec.ofInt 64 (x.th.pc.toNat + 8 * g.x.toInt)
    let holds (x : Ex) : Prop := match c with
      | .eq => x.uval a = x.uval b | .ne => x.uval a ≠ x.uval b
      | .lt => x.sval a < x.sval b | .le => x.sval a ≤ x.sval b
      | .ltu => x.uval a < x.uval b | .leu => x.uval a ≤ x.uval b
    let next (x : Ex) : W64 := x.th.pc + 8
    Does (.br g) (.s g) (fun _ => True) (fun x => goes x (there x)) ∧
    Does (.bc g c a b) (.s g) holds (fun x => goes x (there x)) ∧
    Does (.bc g c a b) (.s g) (fun x => ¬ holds x) (fun x => x) ∧
    Does (.jal g d) (.s g) (fun x => x.accepts d (next x)) (fun x => (goes x (there x)).put d (next x)) ∧
    Does (.jr g d a) (.s g) (fun x => (x.get a).toNat % 8 = 0 ∧ x.accepts d (next x))
      (fun x => (goes x (x.get a)).put d (next x)) ∧
    Faults (.jr g d a) (.s g) (fun x => (x.get a).toNat % 8 ≠ 0) (fun x => ⟨8, x.get a, [], none⟩) ∧
    Does (.loop g d) (.s g) (fun x => x.get d = 1 ∧ x.accepts d 0) (fun x => x.put d 0) ∧
    Does (.loop g d) (.s g) (fun x => x.get d ≠ 1 ∧ x.accepts d (x.get d - 1))
      (fun x => goes (x.put d (x.get d - 1)) (there x))

/-- System entry and return (R109): `svc` saves the next word's address and its number, moves the mode into bit 17 of `sst`,
sets bit 16, and leads to `evec`; with no entry it faults. `eret` moves bit 17 into the mode, clears it, and leads to
`epc`. -/
def Sys2Proof.Says.SystemEntry : Prop :=
  ∀ (g : SGuard) (n : BitVec 6),
    let moded (v : W64) (m p : Bool) : W64 :=
      (v &&& ~~~0x30000#64) ||| (if m then 0x10000 else 0) ||| (if p then 0x20000 else 0)
    let word (i : Instr) : W64 := (encode i).getD 0
    Does (.svc g n) (.s g) (fun x => x.th.evec ≠ 0) (fun x => { x with
      th := { x.th with epc := x.th.pc + 8, ecause := n.setWidth 64, sst := moded x.th.sst true (x.th.sst.getLsbD 16) }
      npc := some x.th.evec }) ∧
    Faults (.svc g n) (.s g) (fun x => x.th.evec = 0)
      (fun x => ⟨1, 15, toBytes 8 (word (.svc g n)).toNat ++ toBytes 8 x.th.pc.toNat, none⟩) ∧
    Does (.eret g) (.s g) (fun _ => True) (fun x => { x with
      th := { x.th with sst := moded x.th.sst (x.th.sst.getLsbD 17) false }
      npc := some x.th.epc })

/-- Where a thread goes: the next word, a branch, system entry and return. -/
def Obligations.ThreadsAndBranches : Prop := Says.ThreadAdvances ∧ Says.Branches ∧ Says.SystemEntry

/-- Control register reads (R91, R110): a brick reads its own context's registers, a thread its own, the home ridge's, and
those of a context that its selector names. The value of the overrun is the model's choice (log 25). -/
def Sys2Proof.Says.ControlReads : Prop :=
  ∀ (g : SGuard) (gb : BGuard) (d a : Opnd),
    let ofCtx : List (BitVec 12 × (Ctx → W32)) := [(0x100, Ctx.cst), (0x101, Ctx.bfc), (0x102, Ctx.bsq), (0x103, Ctx.mdc)]
    let ofThread : List (BitVec 12 × (Ex → Nat)) := [(0, fun x => x.th.sst.toNat), (1, fun x => x.th.epc.toNat),
      (2, fun x => x.th.ecause.toNat), (3, fun x => x.th.evec.toNat), (4, fun x => x.th.rlen), (5, fun x => x.sp.rnd.toNat),
      (6, fun x => x.s.now - x.sp.openedAt), (8, fun x => (nth x.s.seqs x.sp.home ⟨0, 0, 4096⟩).phb.toNat),
      (9, fun x => (nth x.s.seqs x.sp.home ⟨0, 0, 4096⟩).phi.toNat),
      (10, fun x => (nth x.s.seqs x.sp.home ⟨0, 0, 4096⟩).qwin.toNat)]
    (∀ c r, (c, r) ∈ ofCtx → Result (.crd (.b gb) d a c) (.b gb) d (fun x => (r x.cx0).toNat)) ∧
    (∀ c r, (c, r) ∈ ofThread → Does (.crd (.s g) d a c) (.s g)
      (fun x => x.get a = 0 ∧ x.accepts d (BitVec.ofNat 64 (r x))) (fun x => x.put d (BitVec.ofNat 64 (r x)))) ∧
    (∀ c r, (c, r) ∈ ofThread → Faults (.crd (.s g) d a c) (.s g) (fun x => x.get a ≠ 0)
      (fun x => overrun 3 (x.get a))) ∧
    (∀ c r, (c, r) ∈ ofCtx → ∀ o k, Does (.crd (.s g) d a c) (.s g)
      (fun x => x.select (x.get a) false = some (o, k) ∧ x.accepts d ((r k).setWidth 64))
      (fun x => x.put d ((r k).setWidth 64))) ∧
    ∀ c r, (c, r) ∈ ofCtx → Faults (.crd (.s g) d a c) (.s g) (fun x => x.select (x.get a) false = none)
      (fun x => overrun 3 (x.get a))

/-- Control register writes (R90, R91, R111): a thread's registers keep the bits that they hold; those that system mode
alone writes fault in user mode; a value out of range leaves `rlen` and `qwin` alone, and any value leaves `rcnt` and `cycc`;
a register below 0x100 asks for a B of 0; a register of a context of the own spur is staged for its round mark. That one of
another spur leaves with the round (log 17), the overrun's value (log 25), and that user mode is looked at first (log 38) are
the model's choices. -/
def Sys2Proof.Says.ControlWrites : Prop :=
  ∀ (g : SGuard) (a b : Opnd),
    let thread (c : BitVec 12) (p : Ex → Prop) (f : W64 → Thread → Thread) : Prop := Does (.cwr g c a b) (.s g)
      (fun x => x.get b = 0 ∧ p x) (fun x => { x with th := f (x.get a) x.th })
    let ridge (c : BitVec 12) (p : W64 → Prop) (f : W64 → SeqRegs → SeqRegs) : Prop := Does (.cwr g c a b) (.s g)
      (fun x => x.get b = 0 ∧ x.th.sysMode = true ∧ p (x.get a))
      (fun x => { x with s := { x.s with seqs := upd x.s.seqs x.sp.home (f (x.get a)) } })
    let keeps (c : BitVec 12) (p : Ex → Prop) : Prop :=
      Does (.cwr g c a b) (.s g) (fun x => x.get b = 0 ∧ p x) (fun x => x)
    let sys (x : Ex) : Prop := x.th.sysMode = true
    let word (c : BitVec 12) : W64 := (encode (.cwr g c a b)).getD 0
    thread 0 (fun x => bitsOf (x.get a).toNat 8 3 ≤ 4)
      (fun v t => { t with sst := (t.sst &&& ~~~0x437FF#64) ||| (v &&& 0x437FF) }) ∧
    thread 0 (fun x => 4 < bitsOf (x.get a).toNat 8 3)
      (fun v t => { t with sst := (t.sst &&& ~~~0x430FF#64) ||| (v &&& 0x430FF) }) ∧
    thread 1 sys (fun v t => { t with epc := v &&& ~~~7#64 }) ∧
    thread 2 sys (fun v t => { t with ecause := v &&& 0x3F }) ∧
    thread 3 sys (fun v t => { t with evec := v &&& ~~~7#64 }) ∧
    thread 4 (fun x => 64 ≤ (x.get a).toNat ∧ (x.get a).toNat ≤ 4096) (fun v t => { t with rlen := v.toNat }) ∧
    keeps 4 (fun x => (x.get a).toNat < 64 ∨ 4096 < (x.get a).toNat) ∧
    ridge 8 (fun _ => True) (fun v r => { r with phb := v &&& ~~~0x1FFFF#64 }) ∧
    ridge 9 (fun _ => True) (fun v r => { r with phi := v }) ∧
    ridge 10 (fun v => 256 ≤ v.toNat) (fun v r => { r with qwin := v }) ∧
    keeps 10 (fun x => sys x ∧ (x.get a).toNat < 256) ∧
    keeps 5 (fun _ => True) ∧ keeps 6 (fun _ => True) ∧
    (∀ c : BitVec 12, c.toNat < 0x100 → Faults (.cwr g c a b) (.s g)
      (fun x => x.get b ≠ 0 ∧ (c ∈ ([1, 2, 3, 8, 9, 10] : List (BitVec 12)) → sys x)) (fun x => overrun 3 (x.get b))) ∧
    (∀ c ∈ ([1, 2, 3, 8, 9, 10] : List (BitVec 12)), Faults (.cwr g c a b) (.s g) (fun x => x.th.sysMode = false)
      (fun x => ⟨1, 15, toBytes 8 (word c).toNat ++ toBytes 8 x.th.pc.toNat, none⟩)) ∧
    ∀ c : BitVec 12, 0x100 ≤ c.toNat →
      Faults (.cwr g c a b) (.s g) (fun x => x.select (x.get b) false = none) (fun x => overrun 3 (x.get b)) ∧
      ∀ o k, Does (.cwr g c a b) (.s g)
          (fun x => x.select (x.get b) false = some (o, k) ∧ o.handle = x.sp.handle)
          (fun x => { x with sp := x.sp.modLive fun y => y.modCtx ⟨o.handle, k.row, k.col, k.idx⟩ fun k =>
            { k with stagedCst := k.stagedCst ++ [(c, x.get a)] } }) ∧
        Does (.cwr g c a b) (.s g)
          (fun x => x.select (x.get b) false = some (o, k) ∧ o.handle ≠ x.sp.handle)
          (fun x => x.request (.cwr ⟨o.handle, k.row, k.col, k.idx⟩ c (x.get a)))

/-- Reads and writes of every control register, and which of them system mode alone writes. -/
def Obligations.ControlRegisters : Prop := Says.ControlReads ∧ Says.ControlWrites

/-- Sections (R97, R104, R106, R107): `cstep` asks for the step at the round mark, in place of an earlier one; `arm` sets
the count of every context of the section; `waitd` and `waitd.t` go on where the section is done, or its counts are 0, and
else wait; a section that the image does not declare, an entry at or above CTX and an A with bits above its entry are
overruns of subcode 12, of `cload` as well (R97, R104, R105), whose value is the model's choice (log 25). -/
def Sys2Proof.Says.SectionControl : Prop :=
  ∀ (g : SGuard) (n : BitVec 3) (a b : Opnd) (sec : Section),
    let here (x : Ex) : Prop := x.sp.section? n.toNat = some sec
    let entry (x : Ex) : BitVec 3 := (x.get a).extractLsb' 0 3
    let named (x : Ex) : Prop := here x ∧ (x.get a).toNat < x.sp.img.hd.ctx ∧ (x.get a).toNat < 8
    let settled (x : Ex) : Prop := x.sp.allDone sec = true ∧ (∀ r ∈ x.th.steps, r.section_ ≠ n) ∧
      ∀ k ∈ x.sp.live.ctxs, ∀ r, k.recon = some r → r.section_ ≠ n
    let zero (x : Ex) : Prop := ∀ k ∈ x.sp.live.ctxs, sec.has k.row k.col = true → k.tcount = 0
    let waits (i : Instr) (p : Ex → Prop) : Prop :=
      ∀ s x, begins i (.s g) s = some x → here x → ¬ p x → exec i s = .next s
    let loaded (x : Ex) : Prop := ∀ k ∈ x.sp.live.ctxs, sec.has k.row k.col = true → k.idx = entry x →
      k.conf = true ∨ k.recon ≠ none
    Does (.cstep g n a) (.s g) (fun x => named x ∧ loaded x) (fun x => { x with th := { x.th with
      steps := (x.th.steps.filter fun r => r.section_ != n) ++ [⟨n, entry x⟩] } }) ∧
    Faults (.cstep g n a) (.s g) (fun x => named x ∧ ¬ loaded x) (fun x => overrun 12 (x.get a)) ∧
    Does (.arm g n a) (.s g) here (fun x =>
      let count (k : Ctx) : Ctx := if sec.has k.row k.col then { k with tcount := (x.get a).setWidth 32 } else k
      { x with sp := x.sp.modLive fun b => { b with ctxs := b.ctxs.map count } }) ∧
    Does (.waitd g n) (.s g) (fun x => here x ∧ settled x) (fun x => x) ∧
    waits (.waitd g n) settled ∧
    Does (.waitdT g n) (.s g) (fun x => here x ∧ zero x) (fun x => x) ∧
    waits (.waitdT g n) zero ∧
    (∀ i ∈ [Instr.arm g n a, .waitd g n, .waitdT g n],
      Faults i (.s g) (fun x => x.sp.section? n.toNat = none) (fun _ => overrun 12 (n.setWidth 64))) ∧
    ∀ i ∈ [Instr.cstep g n a, .cload g n a b],
      Faults i (.s g) (fun x => 8 ≤ (x.get a).toNat) (fun x => overrun 12 (x.get a)) ∧
      Faults i (.s g) (fun x => (x.get a).toNat < 8 ∧ x.sp.section? n.toNat = none)
        (fun _ => overrun 12 (n.setWidth 64)) ∧
      Faults i (.s g) (fun x => (x.get a).toNat < 8 ∧ here x ∧ x.sp.img.hd.ctx ≤ (x.get a).toNat)
        (fun x => overrun 12 (x.get a))

/-- `cload` reads an image's words with the permission of a fetch, and where they pass every check of an image for the
section, sends each of its contexts a configuration and begins its phase (R105, R112); a system image in user mode fails
check 15. Which checks a context image takes,
and which bits of the refusal the overrun keeps, are the model's choices (log 33). -/
def Sys2Proof.Says.ContextLoads : Prop :=
  ∀ (g : SGuard) (n : BitVec 3) (a b : Opnd) (sec : Section) (y z : Ex) (hw tl : List W64),
    let i : Instr := .cload g n a b
    let entry (x : Ex) : BitVec 3 := (x.get a).extractLsb' 0 3
    let idle (x : Ex) : Prop := x.sp.section? n.toNat = some sec ∧ (x.get a).toNat < x.sp.img.hd.ctx ∧
      (x.get a).toNat < 8 ∧ ∀ k ∈ x.sp.entries sec (entry x), k.recon = none
    let read (x : Ex) : Prop := x.fetchWords (x.nat b) 16 = (y, hw) ∧ y.ok = true ∧ headerOk hw = true ∧
      dirOk hw = true ∧ y.fetchWords (x.nat b + 128) (imgLen hw / 8 - 16) = (z, tl) ∧ z.ok = true
    let permitted : Prop := (headerOf hw).sys = true → y.th.sysMode = true
    let m (x : Ex) : Image := imageOf (x.get b) (hw ++ tl)
    Does i (.s g) (fun x => idle x ∧ read x ∧ permitted ∧
        checkImage (hw ++ tl) (m x) z.sp.img z.sys none (some ⟨sec, entry x, z.sp.live⟩) = none)
      (fun x =>
        let cfg (k : Ctx) : CtxCfg := (m x).cfgAt (k.row.toNat - sec.row) (k.col.toNat - sec.col) (entry x)
        let sent (k : Ctx) : Ctx :=
          if sec.has k.row k.col && k.idx == entry x then { k with recon := some ⟨false, cfg k, n⟩ } else k
        { z with sp := z.sp.modLive fun b =>
          { b with ctxs := b.ctxs.map sent, reqs := b.reqs ++ [.phase n.toNat (entry x) z.s.now] } }) ∧
    (∀ r, ∀ s x, begins i (.s g) s = some x → idle x → read x → permitted →
      checkImage (hw ++ tl) (m x) z.sp.img z.sys none (some ⟨sec, entry x, z.sp.live⟩) = some r →
      exec i s = .next (ended i s { z with fault := some (overrun 13 r.word) })) ∧
    (∀ s x, begins i (.s g) s = some x → idle x → x.fetchWords (x.nat b) 16 = (y, hw) → y.ok = true →
      (headerOf hw).sys = true → y.th.sysMode = false → exec i s = .next (ended i s { y with
        fault := some ⟨1, 15, toBytes 8 ((encode i).getD 0).toNat ++ toBytes 8 y.th.pc.toNat, none⟩ })) ∧
    Faults i (.s g) (fun x => x.sp.section? n.toNat = some sec ∧ (x.get a).toNat < x.sp.img.hd.ctx ∧
      (x.get a).toNat < 8 ∧ ∃ k ∈ x.sp.entries sec (entry x), k.recon ≠ none)
      (fun x => ⟨5, (entry x).setWidth 64, [], none⟩)

/-- Steps, arming and waits of a section, and the loading of its contexts. -/
def Obligations.SectionsAndLoads : Prop := Says.SectionControl ∧ Says.ContextLoads

/-- The invalidations and `migr` check their operands and are held in the round; `tlbsync` waits for every operation that
its thread posted, and answers how many of those since its last answer found no page (R276 to R280). The walk of `migr` is
that of a read by system software (log 101), and one that meets a word which stays bad is data lost of space 3 (log 139); the code and value of an operand's overrun are log 25. -/
def Sys2Proof.Says.TranslationCommands : Prop :=
  ∀ (g : SGuard) (allas : Bool) (z : BitVec 3) (v d a b : Opnd) (l : Leaf) (t : State),
    let unit : Nat := 2 ^ nth [12, 16, 21, 25, 30, 34, 39, 43] z.toNat 43
    let count (x : Ex) : Nat := (x.get b).toNat % 2 ^ 32
    let asid (x : Ex) : Nat := (x.get b).toNat / 2 ^ 48
    let range (x : Ex) : Prop := 1 ≤ count x ∧ (x.get b).toNat / 2 ^ 32 % 2 ^ 16 = 0 ∧
      (allas = true → asid x = 0)
    let inside (x : Ex) : Prop := (x.get a).toNat + count x * unit ≤ 2 ^ 57
    let space (x : Ex) : Prop := (x.get b).toNat % 2 ^ 48 = 0 ∧ (allas = true → asid x = 0)
    let holds (x : Ex) (h : HeldInv) : Ex := { x with sp := x.sp.modLive fun b => { b with invs := b.invs ++ [h] } }
    let mine (x : Ex) : List Posted := x.s.posted.filter fun p => p.by_ == x.sp.handle
    let drained (x : Ex) : Prop := x.sp.live.invs = [] ∧ ∀ p ∈ mine x, x.s.drained p = true
    let lost (x : Ex) : W64 :=
      BitVec.ofNat 64 ((mine x).filter fun p => p.gone && decide (x.th.synced ≤ p.id)).length
    let synced (x : Ex) : Ex := { x with th := { x.th with synced := x.s.posted.length } }.put d (lost x)
    let accepts (x : Ex) : Prop := x.accepts d (lost x)
    let va (x : Ex) : Nat := (x.get a).toNat
    let moved (x : Ex) : Nat := (x.get v).toNat
    let page (x : Ex) : Prop := moved x < 2 ^ 16 ∧ x.migrWalk (moved x) (va x) = (t, .ok l)
    let m : Instr := .migr g v a b
    let tier (x : Ex) : Prop := tierMem (x.nat b) = true ∧ tierMem (x.nat b + l.size - 1) = true
    let stops (c : Ex → Prop) (f : Ex → Flt) : Prop :=
      ∀ s x, begins m (.s g) s = some x → c x → exec m s = .next (ended m s { x with s := t, fault := some (f x) })
    let bad (x : Ex) (f : TFault) : Flt := ⟨7, x.get a, tBody (moved x) (va x) .read f false, none⟩
    Does (.tlbinv g allas z a b) (.s g) (fun x => va x % unit = 0 ∧ range x ∧ inside x)
      (fun x => holds x (.inv allas (asid x) (va x) (va x + count x * unit))) ∧
    Faults (.tlbinv g allas z a b) (.s g) (fun x => va x % unit ≠ 0) (fun x => ⟨8, x.get a, [], none⟩) ∧
    Faults (.tlbinv g allas z a b) (.s g) (fun x => va x % unit = 0 ∧ ¬ range x) (fun x => overrun 3 (x.get b)) ∧
    Faults (.tlbinv g allas z a b) (.s g) (fun x => va x % unit = 0 ∧ range x ∧ ¬ inside x)
      (fun x => overrun 3 (x.get a)) ∧
    Does (.tlbinvSpace g allas a b) (.s g) space (fun x => holds x (.inv allas (asid x) 0 (2 ^ 57))) ∧
    Faults (.tlbinvSpace g allas a b) (.s g) (fun x => ¬ space x) (fun x => overrun 3 (x.get b)) ∧
    Does (.tlbsync g d) (.s g) (fun x => drained x ∧ accepts x) synced ∧
    (∀ s x, begins (.tlbsync g d) (.s g) s = some x → ¬ drained x → exec (.tlbsync g d) s = .next s) ∧
    (∀ (s t : State) (h : Handle) (x : Ex), fetch s h = (t, .word (.tlbsync g d)) →
      let u := { t with agent := .thread h, late := false }
      begins (.tlbsync g d) (.s g) u = some x → drained x → accepts x →
      exec (.tlbsyncComplete h) s = .next (ended (.tlbsync g d) u (synced x))) ∧
    Does m (.s g) (fun x => page x ∧ va x % l.size = 0 ∧ x.nat b % l.size = 0 ∧ tier x)
      (fun x => holds { x with s := t } (.migr (moved x) (va x) (x.nat b) l.size)) ∧
    stops (fun x => page x ∧ va x % l.size ≠ 0) (fun x => ⟨8, x.get a, [], none⟩) ∧
    stops (fun x => page x ∧ va x % l.size = 0 ∧ x.nat b % l.size ≠ 0) (fun x => ⟨8, x.get b, [], none⟩) ∧
    stops (fun x => page x ∧ va x % l.size = 0 ∧ x.nat b % l.size = 0 ∧ ¬ tier x)
      (fun x => bad x ⟨.table, l.level, l.ent, l.addr⟩) ∧
    (∀ s x f, begins m (.s g) s = some x → moved x < 2 ^ 16 → x.migrWalk (moved x) (va x) = (t, .error f) →
      exec m s = .next (ended m s
        (if f.kind = .lost then x.lose 3 (BitVec.ofNat 64 f.addr) else { x with fault := some (bad x f) }))) ∧
    Faults m (.s g) (fun x => 2 ^ 16 ≤ moved x) (fun x => overrun 3 (x.get v)) ∧
    ∀ (x : Ex) (asid va : Nat), x.s.leaf asid va = .ok l → permits ⟨.read, false, none⟩ l.ent = true →
      x.migrWalk asid va = (setAD x.s
        ⟨bedrock x.sp.massif, asid, l.level, entTag l.level l.ent va, l.ent, l.addr⟩ va .read, .ok l)

/-- Invalidations and migrations take effect (R271, R278 to R281): one cache drops what a range names; a migration of a
page that no pin set covers holds the page's translations and makes the rounds that hold writes of it stale, and once every
access to it has drained it copies the frame, puts the new frame into the leaf that its posting read, drops the leaf from
every cache, and is over. -/
def Sys2Proof.Says.TranslationEvents : Prop :=
  ∀ (s : State) (n : Nat) (p : Posted), s.posted.find? (fun p => p.id == n) = some p →
    (∀ (u : CacheUnit) (all : Bool) (asid lo hi : Nat), p.kind = .inv all asid lo hi → u ∈ p.left →
      let rest := p.left.filter (· != u)
      exec (.invalidationEffect n u) s = .next { s.stir p.by_ with
        caches := s.caches.filter fun c => !(c.unit_ == u && c.inRange all asid lo hi)
        posted := updFirst (fun p => p.id == n) (fun p => { p with left := rest, isOver := rest.isEmpty }) s.posted }) ∧
    ∀ (asid va frame size : Nat) (ent : W64) (addr : Nat), p.kind = .migr asid va frame size ent addr → p.isOver = false →
      ((∃ q ∈ s.pins, q.holds false asid va (va + size) = true) → exec (.migrationPerform n) s = .next s) ∧
      ((∀ q ∈ s.pins, q.holds false asid va (va + size) = false) →
        (p.left ≠ [] → exec (.migrationPerform n) s = .next { s.markStale false asid va (va + size) with
          posted := updFirst (fun p => p.id == n) (fun p => { p with left := [] }) s.posted }) ∧
        (p.left = [] → s.heldFree asid va (va + size) = false → exec (.migrationPerform n) s = .next s) ∧
        (p.left = [] → s.heldFree asid va (va + size) = true →
          let leaf : W64 := (ent &&& ~~~0xFFFFFFFFFF000#64) ||| BitVec.ofNat 64 frame
          let t := (s.copyFrame (entFrame ent) frame size).putNat addr 8 leaf.toNat
          exec (.migrationPerform n) s = .next { t with
            caches := t.caches.filter fun c =>
              !(entBit c.ent 0 && entBit c.ent 1 && c.inRange true asid va (va + size))
            posted := updFirst (fun p => p.id == n) (fun p => { p with isOver := true }) t.posted }))

/-- The pager (R274, R275): it reads the faulting entry again; one that is valid now is acknowledged, and one that is no
longer of kind 01 or 10 goes on as the fault it now is. For the others it takes a frame of the massif's ring, zeroes it or
copies the page's backing frame into it, writes the leaf, and acknowledges the token; without a frame the fault goes on, as it does where the entry lies in a word that stays bad (log 139). A fault goes on once
its spur has moved where the mark of the fault leaves it to (R351). An
acknowledgement that is the last one of a spur executes its round again. -/
def Sys2Proof.Says.PagerEvents : Prop :=
  ∀ (s u : State) (t : FaultTok) (r : List FaultTok) (frame : Nat),
    let e : W64 := BitVec.ofNat 64 (s.physNat t.ask.addr 8)
    let size : Nat := 2 ^ (12 + 9 * t.ask.level)
    let zeroes : Bool := e.extractLsb' 10 2 != 2
    let leaf (z : State) : State := z.putNat t.ask.addr 8 (pagerLeaf e frame (AccK.ofCode t.ask.acc)).toNat
    let acked (z : State) : State := { z with pagerAck := z.pagerAck ++ [t] }
    let rest : State := { s with pagerQ := r }
    let head : Prop := s.pagerFwd = [] ∧ s.pagerQ = t :: r ∧ s.spoilt [(t.ask.addr, 8)] = false
    let fails (k : TKind) : TFault := ⟨k, t.ask.level, e, t.ask.addr⟩
    (head → entBit e 0 = true → exec .pagerService s = .next (acked rest)) ∧
    (∀ k, head → entBit e 0 = false → notValidKind e = some k → s.moveLeft t = false →
      exec .pagerService s = .next (rest.forward t (fails k) false)) ∧
    (head → entBit e 0 = false → notValidKind e = none → takeFrame t t.ask.level 65536 rest = (u, some frame) →
      (zeroes = true → exec .pagerService s = .next (acked (leaf (u.zeroFrame frame size)))) ∧
      (zeroes = false → exec .pagerService s = .next
        (acked ((leaf (u.copyFrame (entFrame e) frame size)).giveFrame t t.ask.level (entFrame e))))) ∧
    (head → entBit e 0 = false → notValidKind e = none → takeFrame t t.ask.level 65536 rest = (u, none) →
      u.pagerFwd = [] → u.moveLeft t = false → exec .pagerService s = .next (u.forward t (fails .notPresent) true)) ∧
    (s.pagerFwd = [] → s.pagerQ = t :: r → s.spoilt [(t.ask.addr, 8)] = true → s.moveLeft t = false →
      exec .pagerService s = .next (rest.forward t (fails .lost) false)) ∧
    (∀ f q noFrame, s.pagerFwd = (t, f, noFrame) :: q → exec .pagerService s =
      .next (if s.moveLeft t then s else ({ s with pagerFwd := q } : State).forward t f noFrame)) ∧
    ∀ (h : Handle) (sp : Spur), s.pagerAck = t :: r → t.who = .spur h → s.spur? h = some sp → sp.paging = true →
      (∀ q ∈ s.pagerQ ++ r, q.who ≠ .spur h) → (∀ q ∈ s.pagerFwd, q.1.who ≠ .spur h) →
      exec .pagerAcknowledge s = .next (({ s with pagerAck := r } : State).modSpur h fun sp =>
        { (sp.busy s.now).openRound s.now with paging := false })

/-- Invalidations, migrations, their synchronisation, and the pager. -/
def Obligations.TranslationAndPager : Prop := Says.TranslationCommands ∧ Says.TranslationEvents ∧ Says.PagerEvents

/-- The engine commands put a command that names its card, its node, its domain, its address space and its issuer's mode
on an output or an engine port; a brick's card lies in a window of memory, or
the window is an overrun, with its number (R286, R302, log 25). `jobwait` waits for its own command
and then reads the code of the card's status record (R303). -/
def Obligations.EngineCommands : Prop :=
  ∀ (g : Guard) (w : BitVec 2) (d a : Opnd) (n : BitVec 3) (y z : Ex) (st v : Nat),
    let win (x : Ex) : W64 := nth x.cx0.win w.toNat 0
    let card (x : Ex) : W64 := if x.isB then win x + x.get a else x.get a
    let memory (x : Ex) : Prop := x.isB = true → win x ≠ 0 ∧ (win x).getLsbD 63 = false
    let issues (i : Opnd → Instr) (c : JobCls) : Prop :=
      let cmd (x : Ex) : Cmd := ⟨x.s.tick, n, c, card x, x.who, x.node, x.sp.dom, x.sp.asid, x.sys, x.sp.massif⟩
      Does (i (.o n)) g (fun x => memory x ∧ x.accepts (.o n) 0)
        (fun x => { x with cx := { x.cx with oq := upd x.cx.oq n.toNat fun l => l ++ [⟨.cmd (cmd x), .a0⟩] } }) ∧
      Does (i (.e n)) g memory
        (fun x => { x with sp := x.sp.modLive fun b => { b with cmds := b.cmds ++ [(n, cmd x)] } }) ∧
      Faults (i d) g (fun x => ¬ memory x) (fun _ => overrun 2 (w.setWidth 64))
    issues (fun d => .hod g w d a) .hod ∧
    issues (fun d => .coll g w d a) .coll ∧
    issues (fun d => .isq g w d a) .isq ∧
    issues (fun d => .probe g w d a) .probe ∧
    issues (fun d => .unpin g w d a) .unpin ∧
    Does (.jobwait g w d a) g
      (fun x => memory x ∧ card x ∉ x.outstanding ∧ x.loadVirt ((card x).toNat + 48) 8 = (y, st) ∧ y.ok = true ∧
        y.loadVirt st 4 = (z, v) ∧ z.ok = true ∧ z.accepts d (BitVec.ofNat 64 v))
      (fun _ => z.put d (BitVec.ofNat 64 v)) ∧
    ∀ s x, begins (.jobwait g w d a) g s = some x → memory x → card x ∈ x.outstanding →
      exec (.jobwait g w d a) s = .next (ended (.jobwait g w d a) s { x with wait := true })

/-- Jobs from their command to their start (R286, R288, R290, R380): the oldest command at a port is accepted while the
budgets of its domain and of every domain above it have room and no earlier command of its domain waits, with the footprint
that its list names, where no word of either stays bad (R409); a card that is read and lies off its alignment, or is bad, fails with code 5; a job that no earlier one
of its stream holds back runs. A job's own pins are no set that a card can name (R224). -/
def Sys2Proof.Says.JobAcceptance : Prop :=
  ∀ (s t u z : State) (e : EnginePort) (c : Cmd) (ws l0 l : List W64) (rs : List Region),
    let new : Job := Job.new e c
    let j : Job := { new with card := ws }
    let fp : Nat := j.w 7
    let put (s : State) (j : Job) : State := { (s.takeCmd c.no) with jobs := s.jobs ++ [j] }
    let head : Prop := s.cmdq.find? (fun k => k.1 == e) = some (e, c) ∧
      (∀ a ∈ s.chain c.dom, ∃ y, s.dom? a = some y ∧ s.jobsUsed a (isIse e) < if isIse e then y.iseb else y.hodb) ∧
      ∀ k ∈ s.cmdq, k.2.dom = c.dom → c.no ≤ k.2.no
    let card : Prop := new.read s c.card.toNat 8 = (t, .ok ws) ∧ new.spoilt t c.card.toNat 8 = false
    let sound : Prop := card ∧ c.card.toNat % 64 = 0
    let words (l : List W64) : Nat := 2 + 2 * ((nth l 0 0).toNat % 32 + 1)
    let list : Prop := sound ∧ fp ≠ 0 ∧ fp % 16 = 0 ∧ j.read t fp 1 = (u, .ok l0) ∧
      j.read u fp (words l0) = (z, .ok l) ∧ j.spoilt z fp (words l0) = false
    let good (s : State) (j : Job) : Prop := j.pinHandle = 0 ∨ ∃ p ∈ s.pins, p.h = j.pinHandle ∧ p.job = none ∧ p.gone = false
    let placed : Job := { j with foot := rs }
    let lists : Prop := list ∧ c.cls ≠ .unpin ∧ j.cardOk z.pkg = true ∧ regionsOf l = some rs
    (head → sound → c.cls = .unpin → fp = 0 → good t j → j.cardOk t.pkg = true →
      exec (.jobAccept e) s = .next (put t { j with foot := [] })) ∧
    (head → card → c.card.toNat % 64 ≠ 0 →
      exec (.jobAccept e) s = .next (put t { j with code := 5, errN := 0, value := c.card })) ∧
    (head → lists → good z placed → placed.violation = none → exec (.jobAccept e) s = .next (put z placed)) ∧
    (head → lists → good z placed → ∀ b, placed.violation = some b →
      exec (.jobAccept e) s = .next (put z { placed with code := 7, errN := 0, value := BitVec.ofNat 64 b })) ∧
    (head → lists → ¬ good z placed →
      exec (.jobAccept e) s = .next (put z { placed with code := 6, errN := 0, value := 0 })) ∧
    (head → list → (j.cardOk z.pkg = false ∨ c.cls = .unpin ∨ regionsOf l = none) →
      exec (.jobAccept e) s = .next (put z { j with code := 5, errN := 0, value := c.card })) ∧
    ∀ (n : Nat) (k : Job), s.job? n = some k → k.st = .accepted → k.code = 0 →
      (s.jobHeld k = false → exec (.jobStart n) s = .next (s.setJob { k with st := .running })) ∧
      (s.jobHeld k = true → exec (.jobStart n) s = .next s)

/-- The data of jobs (R223 to R225, R285, R294, R295): a row of a hod is read, converted and written, or passes a port, with
a stop token after the last; the probe pass pins the pages of every element, and keeps them while it waits at one; an element of a gather leaves as data tokens,
the last one with a stop token, and an element of a scatter is written from tokens. A job takes from a port what its row or
element needs, and sends as far as its port of 64 tokens has room. An index at or above bound stops the job with code 4 and
the address that it leads to, which is log 93. That a row or element moves as one event is log 97, and tag 0 of the tokens
log 143. -/
def Sys2Proof.Says.JobMoves : Prop :=
  ∀ (s t u : State) (n va : Nat) (j : Job) (ra wa ps : List (Nat × Nat)),
    let running (c : JobCls) : Prop :=
      s.job? n = some j ∧ j.st = .running ∧ j.code = 0 ∧ j.cmd.cls = c ∧ s.paged j = false
    let row : Prop := running .hod ∧ j.n < j.rows ∧ j.out = [] ∧
      j.places j.needR (piecesOf (j.rowAt j.n).1 j.rowBytes.1) s = (t, .ok ra) ∧
      j.places (j.need .write) (piecesOf (j.rowAt j.n).2 j.rowBytes.2) t = (u, .ok wa)
    let need : Nat := rowWords j.sfmt j.counts.1
    let fill : List W32 := List.replicate j.counts.1 (BitVec.ofNat 32 j.src)
    let os : List W32 × BitVec 8 := j.convert (if j.fl then fill else words32 need (u.pieceBytes ra))
    let k : Nat := j.esz / 4
    let moves : Prop := running .isq ∧ j.passed = true ∧ j.n < j.count ∧ j.out = [] ∧ j.element j.n s = (t, .at_ va)
    let stops (b : Nat) (l : List Flit) : Job := { j with code := 4, errN := j.n, value := BitVec.ofNat 64 b, out := l }
    (row → j.sp = false → j.dp = false →
      exec (.hodRow n) s = .next ((writePieces u wa (bytes32 os.1)).setJob
        { j with n := j.n + 1, flags := j.flags ||| os.2, toks := [] })) ∧
    (row → j.sp = false → j.dp = true →
      let last := if j.n + 1 = j.rows then [stopTok 0] else []
      exec (.hodRow n) s = .next (u.jobSends
        { j with out := os.1.map dataTok ++ last, flags := j.flags ||| os.2, toks := [] } j.dst)) ∧
    (row → j.sp = true → j.dp = false → j.fl = false → ∀ v m, u.jobTake j j.src need = (v, m) →
      let os := m.convert m.toks
      let moved : Job := { m with n := m.n + 1, flags := m.flags ||| os.2, toks := [] }
      exec (.hodRow n) s =
        .next (if m.toks.length < need then v.setJob m else (writePieces v wa (bytes32 os.1)).setJob moved)) ∧
    (running .hod → j.n < j.rows → j.out ≠ [] → exec (.hodRow n) s = .next (s.jobSends j j.dst)) ∧
    (∀ c p m, (c = .isq ∨ c = .probe) → running c → j.passed = false → j.w 1 ≠ 0 →
      let pass := probeFrom j (j.count - j.errN) j.errN ⟨s, s.ownPins j⟩
      let kept : State := p.s.keepPins j p.pages
      (pass = (p, .wait, m) → exec (.iseProbePass n) s = .next (kept.setJob { j with errN := m })) ∧
      (pass = (p, .ok, m) → c = .isq →
        exec (.iseProbePass n) s = .next (kept.setJob { j with passed := true, errN := 0, value := 0 })) ∧
      (pass = (p, .ok, m) → c = .probe → exec (.iseProbePass n) s = .next ((kept.giveSet j).1.setJob
        { j with passed := true, errN := 0, value := BitVec.ofNat 64 (kept.giveSet j).2 }))) ∧
    (moves → pinnedPieces t j (piecesOf va j.esz) = .ok ps → t.spoilt ps = false → j.kind = 1 →
      let last := if j.n + 1 = j.count then [stopTok 0] else []
      exec (.iseElementMove n) s = .next (t.jobSends
        { j with out := (words32 k (t.pieceBytes ps)).map dataTok ++ last } j.port)) ∧
    (moves → pinnedPieces t j (piecesOf va j.esz) = .ok ps → j.kind ≠ 1 → ∀ v m, t.jobTake j j.port k = (v, m) →
      k ≤ m.toks.length →
      exec (.iseElementMove n) s = .next ((writePieces v ps (bytes32 m.toks)).setJob { m with n := m.n + 1, toks := [] })) ∧
    (∀ b, moves → pinnedPieces t j (piecesOf va j.esz) = .error b → j.kind ≠ 1 →
      exec (.iseElementMove n) s = .next (t.setJob (stops b []))) ∧
    (∀ b, moves → pinnedPieces t j (piecesOf va j.esz) = .error b → j.kind = 1 →
      exec (.iseElementMove n) s = .next (t.jobSends (stops b [stopTok 15]) j.port)) ∧
    (running .isq → j.passed = true → j.n < j.count → j.out = [] → j.element j.n s = (t, .code 1 va) →
      (j.kind ≠ 1 → exec (.iseElementMove n) s = .next (t.setJob (stops va []))) ∧
      (j.kind = 1 → exec (.iseElementMove n) s = .next (t.jobSends (stops va [stopTok 15]) j.port))) ∧
    ∀ (p : Nat) (sp : Spur) (w : Wire), s.spur? (AgentId.handle j.cmd.who) = some sp →
      (∃ d ∈ sp.img.ports, d.isIn = true ∧ d.p = BitVec.ofNat 8 p) →
      s.wires.find? (fun x => x.src == .job (AgentId.handle j.cmd.who) (BitVec.ofNat 8 p)) = some w →
      let room : Nat := 64 - w.buf.length
      let send (x : Wire) : Wire := { x with buf := x.buf ++ j.out.take room }
      let t : State := { s with wires := updFirst (fun x => x.src == w.src) send s.wires }
      s.jobSends j p = t.setJob (if j.out.length ≤ room then { j with out := [], n := j.n + 1 }
        else { j with out := j.out.drop room })

/-- Collectives and completion (R292, R293, R297, R298, R300, R442): the matching jobs of every package of the mask reduce
or gather their elements in rank order; a job that is over writes its status record and leaves with its pins; a
bank-ownership token adds its bank to those that the thread has received. -/
def Sys2Proof.Says.JobEnds : Prop :=
  ∀ (s t u : State) (n pa : Nat) (j : Job) (others : List CollPart) (ra wa : List (Nat × Nat)) (v : List W32) (r : List (List W32)),
    let mask : Nat := j.w 4
    let op : Nat := bitsOf (j.w 0) 12 4
    let fmt : Nat := bitsOf (j.w 0) 8 4
    let formed : Prop := s.job? n = some j ∧ j.st = .running ∧ j.code = 0 ∧ j.cmd.cls = .coll ∧ j.formed = false ∧
      s.collFirst j = true ∧ partsOk mask s.pkg.toNat others = true ∧ s.paged j = false ∧
      (∀ c ∈ others, c.reachable = true ∧ c.kind.toNat = j.kind ∧ c.op.toNat = op ∧ c.fmt.toNat = fmt ∧
        c.count = j.count ∧ c.data.length = j.count) ∧
      j.places j.needR (piecesOf (j.w 1) (4 * j.count)) s = (t, .ok ra) ∧
      rankData mask s.pkg.toNat (words32 j.count (t.pieceBytes ra)) others = v :: r
    let ends : Prop := s.job? n = some j ∧ j.finished = true ∧ s.paged j = false ∧ j.drop = false ∧ j.card ≠ [] ∧ j.w 6 % 16 = 0
    (formed → j.kind = 9 →
      j.places (j.need .write) (piecesOf (j.w 2) (4 * (reduceAll op fmt v r).1.length)) t = (u, .ok wa) →
      exec (.collectiveForm n others) s = .next ((writePieces u wa (bytes32 (reduceAll op fmt v r).1)).setJob
        { j with formed := true, flags := (reduceAll op fmt v r).2 })) ∧
    (formed → j.kind ≠ 9 →
      let all := (v :: r).flatMap id
      j.places (j.need .write) (piecesOf (j.w 2) (4 * all.length)) t = (u, .ok wa) →
      exec (.collectiveForm n others) s =
        .next ((writePieces u wa (bytes32 all)).setJob { j with formed := true, flags := 0 })) ∧
    (ends → j.statusAt s = (t, .ok pa) →
      exec (.jobComplete n) s = .next (endJob (t.physWrite .fabric pa j.status) j)) ∧
    (j.code = 0 → endJob s j = { s.stir (AgentId.handle j.cmd.who) with pins := (endJob s j).pins, jobs := s.jobs.filter fun k => k.id != j.id } ∧
      ∀ p, p ∈ (endJob s j).pins ↔ p.job ≠ some j.id ∧ (p.gone = true → s.pinUsed j p = true) ∧
        ∃ q ∈ s.pins, p = if j.cmd.cls = .unpin ∧ q.job = none ∧ q.h = j.pinHandle then { q with gone := true } else q) ∧
    ∀ (h : Handle) (sp : Spur) (w : Wire) (k : Tok) (l : List Flit), s.spur? h = some sp →
      s.wires.find? (fun w => ((gateNames s true 16 h).any fun i => w.dst == .gate i) && !w.buf.isEmpty) = some w →
      w.buf = .tok k :: l → k.pay.toNat < 2 ^ 16 →
      256 * (k.pay.toNat / 256) + k.pay.toNat % 256 ∈ sp.brickNos →
      let g : Nat × Nat := (k.pay.toNat / 256, k.pay.toNat % 256)
      let cut := updFirst (fun x => x.src == w.src && x.dst == w.dst) (fun x => { x with buf := x.buf.drop 1 }) s.wires
      exec (.bankTokenReceipt h) s = .next ({ s with wires := cut }.setSpur
        { sp with gates := if g ∈ sp.gates then sp.gates else sp.gates ++ [g] })

/-- Engine jobs from acceptance through their data to completion. -/
def Obligations.EngineJobs : Prop := Says.JobAcceptance ∧ Says.JobMoves ∧ Says.JobEnds

/-- `call` and `apply` (R309, R340, R344, R345): they launch the entry that A names, with the target that the descriptor
at B names, and write the new handle; an entry that is not there or not of a kind they take is status 2, a full pool
status 1, and the predicate says which; executed again, they write what they wrote and ask for the same (log 105). The
values of the overruns (log 25), and that A[63:32] is ignored (log 57), are the model's choices. -/
def Obligations.Launches : Prop :=
  ∀ (g : Guard) (p : Option (BitVec 3)) (d a b : Opnd) (t : State) (ws : List W64) (y z : Ex) (bd : BindDesc) (tg : Target)
    (h : Handle),
    let calls (i : Instr) (kinds : List Nat) : Prop :=
      let done (y : Ex) (v : W64) (q : Option Request) : Ex := (((y.ask q).put d v).record v q).putP p (!v.getLsbD 31)
      let does (c : Ex → Prop) (f : Ex → Ex) : Prop := Does i g (fun x => c x ∧ (stored i (f x)).ok = true) f
      let id (x : Ex) : Nat := (x.get a).toNat % 2 ^ 12
      let fresh (x : Ex) : Prop := (x.get a).extractLsb' 12 19 = 0 ∧ x.recorded = none
      let read (x : Ex) : Prop := fresh x ∧ id x ≠ 0 ∧ readTab x.s x.sp.massif x.sp.dom (id x) = (t, some ws)
      let bound (x : Ex) : Prop := read x ∧ entKind ws ∈ kinds ∧ t.poolFull x.sp.dom = false ∧
        ({ x with s := t } : Ex).readBind (x.nat b) = (y, bd) ∧ y.ok = true ∧ y.bindTarget (x.nat b) bd = .ok tg
      does (fun x => fresh x ∧ id x = 0) (fun x => done x 2 none) ∧
      does (fun x => read x ∧ entKind ws ∉ kinds) (fun x => done { x with s := t } 2 none) ∧
      does (fun x => read x ∧ entKind ws ∈ kinds ∧ t.poolFull x.sp.dom = true)
        (fun x => done { x with s := t, sp := { x.sp with deferred := true } } 1 none) ∧
      does (fun x => bound x ∧ y.sp.launches.length < y.sp.img.hd.lch ∧ y.launch (id x) bd tg = (z, h))
        (fun _ => done z (h.setWidth 64) (some (.launch h))) ∧
      (∀ s x, begins i g s = some x → bound x → y.sp.img.hd.lch ≤ y.sp.launches.length →
        exec i s = .next (ended i s { y with fault := some (overrun 6 (BitVec.ofNat 64 (y.sp.launches.length + 1))) })) ∧
      (∀ r, does (fun x => (x.get a).extractLsb' 12 19 = 0 ∧ x.recorded = some r)
        (fun x => (((x.ask r.req).put d r.val).nextAtom).putP p (!r.val.getLsbD 31))) ∧
      Faults i g (fun x => (x.get a).extractLsb' 12 19 ≠ 0) (fun x => overrun 3 (x.get a))
    calls (.call g p d a b) [1, 2] ∧ calls (.apply g p d a b) [1, 2, 3, 4, 5, 6, 7] ∧
    ∀ id, y.launch id bd tg = (z, h) → z.sp.launches = y.sp.launches ++ [h] ∧
      ∃ c, z.s.claims.getLast? = some c ∧ c.handle = h ∧ c.st = .held ∧ c.kind = .launch ∧ c.entry = id ∧ c.arg = bd.arg ∧
        c.target = tg ∧ c.parent = some y.sp.handle ∧ c.dom = y.sp.dom

/-- Return, yield and resume (R346, R347): the value is kept for the round mark, and a thread issues no more; `resume` asks
that a coroutine of the spur's go on, and answers 2 for one that is not, 1 for one that has not yielded, and 3 where the
barrier of its target is in use, also by a result that no `waitc` has taken (log 106). That a thread
issues nothing after `yield` is the model's reading (log 35). -/
def Obligations.Coroutines : Prop :=
  ∀ (g : Guard) (d a b : Opnd),
    let h (x : Ex) : Handle := (x.get a).setWidth 32
    let named (x : Ex) : Prop := (x.get a).toNat < 2 ^ 32 ∧ x.ownCoroutine (h x) = true
    let i : Instr := .resume g d a b
    let done (c : Ex → Prop) (v : W64) (q : Ex → Option Request) : Prop :=
      let f (x : Ex) : Ex := ((x.ask (q x)).put d v).record v (q x)
      Does i g (fun x => x.recorded = none ∧ c x ∧ (stored i (f x)).ok = true) f
    let returned (x : Ex) : Ex := { x with sp := x.sp.modLive fun b => { b with rets := b.rets ++ [(x.who, x.get a)] } }
    Does (.ret g a) g (fun x => x.isB = true) returned ∧
    Does (.ret g a) g (fun x => x.isB = false) (fun x => { returned x with th := { x.th with retd := true } }) ∧
    Does (.yield g a) g (fun _ => True) (fun x =>
      { x with sp := x.sp.modLive fun b => { b with yld := some (x.get a) }, th := { x.th with retd := true } }) ∧
    done (fun x => ¬ named x) 2 (fun _ => none) ∧
    done (fun x => named x ∧ x.yielded (h x) = false) 1 (fun _ => none) ∧
    done (fun x => named x ∧ x.yielded (h x) = true ∧ x.barFree (h x) = false) 3 (fun _ => none) ∧
    done (fun x => named x ∧ x.yielded (h x) = true ∧ x.barFree (h x) = true) 0 (fun x => some (.resume (h x) (x.get b))) ∧
    ∀ r, Does i g (fun x => x.recorded = some r ∧ (stored i (((x.ask r.req).put d r.val).nextAtom)).ok = true)
      (fun x => ((x.ask r.req).put d r.val).nextAtom)

/-- The builders and `cfree` (R308, R309, R348, R349): a builder takes the lowest free entry of the domain's table for its
composite, with the `cas` of its word 0 and 1 more use of each member, and answers its id with bit 31 set; a reserved
field is status 5 (which asks that A[63:32] be zero by log 57), members that cannot be read 2 (of a nest below a
member as well, by log 58), members that do not go together the status that says why, and a full table 1; `cfree`
frees an entry that nothing uses. That the entry is in memory from the firing, with the use counts, and is given back
where the round never commits, is log 124. -/
def Obligations.Builders : Prop :=
  ∀ (g : Guard) (pol : FarmPol) (d a b : Opnd) (t u z v : State) (y : Dom) (ns : List Nest) (imgs : List (List ReadImg))
    (ws : List W64) (id : Nat),
    let done (i : Instr) (c : Ex → Prop) (s : Ex → State) (v : W64) (q : Ex → Option Request) : Prop :=
      let f (x : Ex) : Ex := ((({ x with s := s x } : Ex).ask (q x)).put d v).record v (q x)
      Does i g (fun x => x.recorded = none ∧ c x ∧ (stored i (f x)).ok = true) f
    let ent (x : Ex) (ws : List W64) (pol : BitVec 2) (freed : Bool) : TabEnt :=
      ⟨x.sp.handle, y.asid, y.ctb + 32 * id, ws, pol, freed⟩
    let builds (i : Instr) (kind : Nat) (pol : BitVec 2) (one key : Bool) (px : Nat → Bool) : Prop :=
      let bad (x : Ex) : Bool := buildBad (x.get a) (x.get b) one key px
      let ids (x : Ex) : List Nat := bitsOf (x.get a).toNat 0 12 :: if one then [] else [bitsOf (x.get a).toNat 16 12]
      let read (x : Ex) : Prop := bad x = false ∧ readMembers x.sp.massif x.sp.dom (ids x) x.s = (t, some ns) ∧
        x.s.dom? x.sp.dom = some y ∧ readAllImages ⟨x.sp.massif, x.sp.dom, y.asid⟩ ns t = (u, imgs)
      let fit (x : Ex) : Prop := read x ∧ memberStatus kind ns imgs = none
      done i (fun x => bad x = true) (fun x => x.s) 5 (fun _ => none) ∧
      done i (fun x => bad x = false ∧ readMembers x.sp.massif x.sp.dom (ids x) x.s = (t, none)) (fun _ => t) 2
        (fun _ => none) ∧
      (∀ v, done i (fun x => read x ∧ memberStatus kind ns imgs = some v) (fun _ => u) v (fun _ => none)) ∧
      (∀ v, done i (fun x => fit x ∧ findFree x.sp.massif x.sp.dom 4095 1 u = (z, .error v)) (fun _ => z) v
        (fun _ => none)) ∧
      (∀ ok, let finds (x : Ex) : Prop := fit x ∧ findFree x.sp.massif x.sp.dom 4095 1 u = (z, .ok id) ∧
          takeEntry z x.sp.massif x.sp.dom (ent x (entryWords kind (x.get a) (x.get b) one) pol false) = (v, ok)
        done i (fun x => finds x ∧ ok = false) (fun _ => v) 1 (fun _ => none) ∧
        done i (fun x => finds x ∧ ok = true) (fun _ => v) (BitVec.ofNat 64 (0x80000000 + id))
          (fun _ => some (.table (y.ctb + 32 * id))))
    let frees : Instr := .cfree g d a
    let entry (x : Ex) : Prop := bitsOf (x.nat a) 0 12 = id ∧ id ≠ 0 ∧
      readTab x.s x.sp.massif x.sp.dom id = (t, some ws) ∧ x.s.dom? x.sp.dom = some y
    let use : Nat := bitsOf (nth ws 0 0).toNat 0 32
    builds (.cseq g d a b) 3 0 false false (· == 0) ∧
    builds (.cpar g d a b) 4 0 false false (· == 0) ∧
    builds (.cpipe g d a b) 5 0 false false (· == 0) ∧
    builds (.cfarm g pol d a b) 6 (farmCode pol) true (pol == .key) (fun _ => true) ∧
    builds (.cloop g d a b) 7 0 true false (fun n => decide (n < 32)) ∧
    done frees (fun x => bitsOf (x.nat a) 0 12 = 0) (fun x => x.s) 2 (fun _ => none) ∧
    done frees (fun x => entry x ∧ nth ws 0 0 = 0) (fun _ => t) 2 (fun _ => none) ∧
    done frees (fun x => entry x ∧ nth ws 0 0 ≠ 0 ∧ use ≠ 0) (fun _ => t) 1 (fun _ => none) ∧
    done frees (fun x => entry x ∧ nth ws 0 0 ≠ 0 ∧ use = 0) (fun x => { t with taken := t.taken ++ [ent x ws 0 true] }) 0
      (fun _ => some (.cfree (y.ctb + 32 * id) (entMembers ws))) ∧
    ∀ (m e : TabEnt) (k q : Nat), overlay [] ws = ws ∧ overlay (m :: [e]) ws =
      (if m.freed || e.freed then [0, 0, 0, 0] else nth ws 0 0 :: m.words.drop 1) ∧
      (devPut t ⟨k, q, m.asid⟩ m.va (m.words.take 1) = (u, none) → takeEntry t k q m =
        ((entMembers m.words).foldl (fun s n => addUse s k q n 1) { u with taken := u.taken ++ [m] }, true))

/-- `waitc` frees a barrier that is complete and gives its result, and `waitc.s` its status alone (R350); a handle that no
barrier holds is an overrun of subcode 5. `fold` and `stow` ask for the spur's move where there is room for it (R351), and
`cquery` counts (R352). That a fold onto any host is told by the operand `z` (log 61)
and the values of the overruns (log 25) are the model's choices. -/
def Sys2Proof.Says.BarriersAndMoves : Prop :=
  ∀ (g : Guard) (p : Option (BitVec 3)) (d a : Opnd) (n : Nat) (r : Barrier),
    let does (i : Instr) (c : Ex → Prop) (f : Ex → Ex) : Prop := Does i g (fun x => c x ∧ (stored i (f x)).ok = true) f
    let held (x : Ex) : Prop := (x.get a).toNat < 2 ^ 32 ∧ x.sp.barOf ((x.get a).setWidth 32) = some (n, r)
    let lost (x : Ex) : Prop := 2 ^ 32 ≤ (x.get a).toNat ∨ x.sp.barOf ((x.get a).setWidth 32) = none
    let once (i : Instr) (c : Ex → Prop) (y : Ex → Ex) (v : W64) (q : Ex → Option Request) : Prop :=
      does i (fun x => x.recorded = none ∧ c x) (fun x => (((y x).ask (q x)).put d v).record v (q x))
    let host (x : Ex) : Option Handle := if a = .z then none else some ((x.get a).setWidth 32)
    let good (x : Ex) : Prop := a = .z ∨ (x.get a).toNat < 2 ^ 32 ∧
      ∃ o ∈ x.s.spurs, some o.handle = host x ∧ o.dom = x.sp.dom ∧ o.life ≠ .ended
    let spot (x : Ex) : Prop := ∃ o ∈ x.s.foldHosts x.sp (host x), x.s.foldSpot x.sp o ≠ none
    let wait : Option Nat := if a = .z then none else some n
    let same (x : Ex) : Ex := x
    does (.waitc g p d a) held (fun x => ((({ x with sp := { x.sp with
      bars := x.sp.bars.set n ⟨.free, 0, 0, 0⟩, launches := x.sp.launches.erase r.h,
      collected := x.sp.collected ++ [(n, r)] } } : Ex).put d r.result).putP p (r.status != 0))) ∧
    does (.waitcS g d a) held (fun x => x.put d (r.status.setWidth 64)) ∧
    Faults (.waitc g p d a) g lost (fun x => overrun 5 (x.get a)) ∧
    Faults (.waitcS g d a) g lost (fun x => overrun 5 (x.get a)) ∧
    once (.fold g d a) (fun x => ¬ good x) same 2 (fun _ => none) ∧
    once (.fold g d a) (fun x => good x ∧ ¬ spot x) same 1 (fun _ => none) ∧
    once (.fold g d a) (fun x => good x ∧ spot x) same 0 (fun x => some (.fold (host x))) ∧
    once (.stow g d a) (fun x => a ≠ .z ∧ lost x) same 2 (fun _ => none) ∧
    once (.stow g d a) (fun x => (a = .z ∨ held x) ∧ x.s.stowRun x.sp = none) same 1 (fun _ => none) ∧
    (∀ u, once (.stow g d a) (fun x => (a = .z ∨ held x) ∧ x.s.stowRun x.sp = some u)
      (fun x => { x with sp := { x.sp with stowAt := some u } }) 0 (fun _ => some (.stow wait))) ∧
    (∀ k, does (.cquery g d a) (fun x => (x.get a).toNat < 16 ∧ (x.get a).toNat ≠ 4 ∧ x.query 0 (x.get a).toNat = some k)
      (fun x => x.put d (BitVec.ofNat 64 (min k (2 ^ x.w - 1))))) ∧
    (∀ t k, does (.cquery g d a) (fun x => x.get a = 4 ∧ countFree x.sp.massif x.sp.dom 4095 1 x.s = (t, k))
      (fun x => { x with s := t }.put d (BitVec.ofNat 64 (min k (2 ^ x.w - 1))))) ∧
    Faults (.cquery g d a) g (fun x => 16 ≤ (x.get a).toNat ∨ 7 ≤ (x.get a).toNat) (fun x => overrun 12 (x.get a))

/-- Sharers and folds at a mark (R330, R351, R410). Whether its round commits or is voided, the sharer that has the bricks
hands them at its mark to the next sharer that runs, whose round counts from then. After the commit a fold that the spur
asked for moves it onto its host with units for its banks, as the next round starts, and lapses where guests stand on its own
bricks (log 61) or the room is gone; a stow that it asked for is performed there too. A move that the mark of an S-form fault
has left is performed before anything else of the spur happens (log 61). A record of the move goes to the stow region
where that has units for it, which is log 123. -/
def Sys2Proof.Says.SharersAndFolds : Prop :=
  ∀ (s t : State) (h : Handle) (sp w : Spur) (g : Group) (j : Nat), s.spur? h = some sp →
    let marked : State := roundMark s h none
    let goes : Prop := sp.moveLeft = false ∧ s.markDue sp = true ∧ marked.spur? h = some w ∧ w.final = false ∧
      (w.life = .running ∨ w.life = .yielded)
    (s.markDue sp = true → (∀ k ∈ sp.live.ctxs, k.load = none) → sp.live.th.load = none → sp.move = none →
      sp.live.reqs = [] → (∀ w ∈ sp.live.held, isCtlSpace w.pa = false) → s.group? h = some g →
      nth g.members g.turn 0 = h → s.sharerFrom g (g.turn + 1) = some j → nth g.members j 0 ≠ h →
      ∃ u, exec (.roundMark h) s = .next u ∧ u.group? h = some { g with turn := j } ∧
        ∀ x, s.spur? (nth g.members j 0) = some x → ∃ y, u.spur? x.handle = some y ∧ y.roundAt = s.now) ∧
    (∀ host, goes → w.move = some (.fold host) → exec (.roundMark h) s = .next (foldMove marked w host)) ∧
    (∀ n, goes → w.move = some (.stow n) →
      exec (.roundMark h) s = .next (stowSpur marked { w with stowWait := n } 2)) ∧
    (goes → w.move = none → exec (.roundMark h) s = .next marked) ∧
    (sp.moveLeft = true → sp.final = false →
      (∀ host, sp.move = some (.fold host) → exec (.roundMark h) s = .next (foldMove s sp host)) ∧
      ∀ n, sp.move = some (.stow n) → exec (.roundMark h) s = .next (stowSpur s { sp with stowWait := n } 2)) ∧
    ∀ host, let found := (s.foldHosts sp host).findSome? fun o => s.foldSpot sp o
      (s.hasGuests sp = true ∨ found = none → foldMove s sp host = s.setSpur sp.noMove) ∧
      ∀ a y at_, s.hasGuests sp = false → found = some a → s.dom? sp.dom = some y →
        takeRun y (s.runs y) a.rect.bankUnits = some at_ →
        let units := takeRun y ((at_, a.rect.bankUnits) :: s.runs y) (unitsOf (stowSize sp.img.hd))
        let record (n : Nat) := devPut s ⟨sp.massif, sp.dom, sp.asid⟩ n
          (wordsOf (stowSize sp.img.hd / 8) (stowRecord sp 4 (stowSize sp.img.hd) s.tick))
        (units = none ∨ ∃ n, units = some n ∧ record n = (t, none)) →
          ∃ z, (foldMove s sp host).spur? h = some z ∧ z.site = a.site ∧ z.foldAt = some (at_, a.rect.bankUnits) ∧
            z.live = sp.live.openRound ∧ z.start = z.live ∧ z.move = none ∧ z.rnd = sp.rnd ∧
            (units = none → z.host = s.hostAt a)

/-- waitc, fold, stow and cquery, the fold at the mark (its lapses and z: log 61), and the sharers that take turns. -/
def Obligations.BarriersAndMoves : Prop := Says.BarriersAndMoves ∧ Says.SharersAndFolds

/-- What an arrival does (R42, R51, R55, R56, R67, R414, R422): a token is queued with the header its arm has latched, where its
arm has room, a header replaces the latched one, and a seam marker is queued; the digest of the channel takes the flit. A
token behind a seam carries a zero header until one of the new configuration comes (log 28). A flit waits at a
channel without a valid binding, for a context that is not active, for a ridge whose wave has not opened (R422), and for a
full arm. -/
def Sys2Proof.Says.Arrivals : Prop :=
  ∀ (sp : Spur) (row col : BitVec 8) (vc now : Nat) (br : Brick) (k : Ctx) (t : Tok) (f : Flit) (w : W64),
    let b := nth br.vc vc 0
    let q := bindQ b
    let two := paired br k.idx q
    let a := two && bindAr b
    let there : Prop := sp.live.brick? row col = some br ∧ sp.live.ctx? row col (bindCtx b) = some k
    let admitted : Prop := bindV b = true ∧ k.conf = true ∧ br.active = k.idx ∧ sp.waveOpen row col = true
    let room : Prop := tokCount ((k.inQ q).side a) < if two then 2 else 4
    let put (g : InQ → InQ) : Spur := (sp.modLive fun l => l.setCtx { k with iq := upd k.iq q.toNat g }).modLive fun l =>
      l.setBrick { br with dig := upd br.dig vc fun d => digest d f }
    let hdr (x : InQ) : W64 := if a then x.hdr1 else x.hdr0
    let latch (v : W64) (x : InQ) : InQ := if a then { x with hdr1 := v } else { x with hdr0 := v }
    there →
      (¬ admitted → sp.arrive row col vc f now = none) ∧
      (f = .tok t → ¬ room → sp.arrive row col vc f now = none) ∧
      (admitted → f = .tok t → room → sp.arrive row col vc f now =
        some (put fun x => x.setSide a (x.side a ++ [.tok t (hdr x) now]))) ∧
      (admitted → f = .hdr w → hdrFmt w < 13 → (bindFmt b = 0 ∨ hdrFmt w = bindFmt b) →
        sp.arrive row col vc f now = some (put (latch w))) ∧
      (admitted → f = .seam → sp.arrive row col vc f now =
        some (put fun x => latch 0 (x.setSide a (x.side a ++ [.seam]))))

/-- Deliveries (R51, R55, R61, R67, R318, R414): the oldest flit of a route to its channel, the head of a wire at a port, or
a seam marker on a control path arrives and leaves where it was; what cannot arrive stays. -/
def Sys2Proof.Says.Deliveries : Prop :=
  ∀ (s : State) (h : Handle) (sp u : Spur) (ev : Handle → FlowId → Instr) (want : Flit → Bool),
    (ev, want) ∈ [(Instr.tokenDelivery, Flit.isTok), (.headerDelivery, Flit.isHdr), (.seamMarkerDelivery, Flit.isSeam)] →
    s.spur? h = some sp → s.active sp = true →
    (∀ (tag : BitVec 6) (row col : BitVec 8) (vc : BitVec 5) (r : Route) (x : Fly),
      sp.live.routes[tag.toNat]? = some r → r.fly.find? (fun x => x.goesTo row col vc) = some x → want x.flit = true →
      let i := ev h (.route tag row col vc)
      let cut (r : Route) : Route := { r with fly := r.fly.eraseP fun x => x.goesTo row col vc }
      (sp.arrive row col vc.toNat x.flit s.now = some u → exec i s = .next (s.setSpur
        ((u.modLive fun b => { b with routes := upd b.routes tag.toNat cut }).busy s.now))) ∧
      (sp.arrive row col vc.toNat x.flit s.now = none → exec i s = .next s)) ∧
    (∀ (p : BitVec 8) (d : PortDecl) (w : Wire) (x : Flit) (l : List Flit), sp.img.inPort p = some d →
      s.wires.find? (fun w => w.feeds h p && !s.severed w) = some w → w.buf = x :: l → want x = true →
      let cut := updFirst (· == w) (fun w => { w with buf := w.buf.drop 1 }) s.wires
      let dig := updFirst (fun y => y.1 == p) (fun y => (y.1, digest y.2 x))
      (sp.arrive d.row d.col d.vc.toNat x s.now = some u → exec (ev h (.port p)) s = .next
        ({ s with wires := cut }.setSpur
          ({ u.modLive (fun b => { b with portDig := dig b.portDig }) with delivered := u.delivered ++ [(p, x)] }.busy
            s.now))) ∧
      (sp.arrive d.row d.col d.vc.toNat x s.now = none → exec (ev h (.port p)) s = .next s)) ∧
    ∀ (c : CtxAt) (j n : BitVec 2) (p : GPath) (l : List KEnt), sp.live.path? c j n = some p → p.bits = .seam :: l →
      sp.arriveK p .seam = some u →
      exec (.seamMarkerDelivery h (.grout c j n)) s = .next (s.setSpur (u.busy s.now))

/-- What arrives at a channel, and from where it is delivered. -/
def Obligations.ArrivalsAndDeliveries : Prop := Says.Arrivals ∧ Says.Deliveries

/-- Injection (R57 to R61, R68, R74, R85, R105): the head of an output queue goes down every arm it still owes where its
routes have room, and leaves with the last; a step word advances the phase of its route; a loopback reaches the context's
own queue; a token that is injected ends the fill of a phase (R112); a control token leaves for all its destinations, and arrives at one; with a reconfiguration token arrived and
every input at its seam, the outputs are seamed. -/
def Sys2Proof.Says.Injections : Prop :=
  ∀ (s : State) (c : CtxAt) (sp u v : Spur) (br : Brick) (k : Ctx), s.working c = some (sp, br, k) →
    (∀ (n : BitVec 3) (e : OutEnt) (rest : List OutEnt), k.outQ n = e :: rest →
      let o := nth k.obind n.toNat 0
      let leaves (u : Spur) : State :=
        let u := if e.flit.isTok then u.phaseFill c.row c.col s.now else u
        s.setSpur ((u.modLive fun b => b.setCtx { k with oq := k.oq.set n.toNat rest }).busy s.now)
      let i : Instr := if e.flit.isStep then .stepWordForward c n else .outputInjection c n
      entV o = true → entKd o ≠ 2 →
      (∀ a, owed (entKd o == 1) e = [a] →
        (sendArm s k o e sp a = some u → exec i s = .next (leaves u)) ∧
        (sendArm s k o e sp a = none → exec i s = .next s)) ∧
      (owed (entKd o == 1) e = [false, true] → sendArm s k o e sp false = some u → sendArm s k o e u true = some v →
        exec i s = .next (leaves v))) ∧
    (∀ (n : BitVec 3) (e : OutEnt) (rest : List OutEnt), k.outQ n = e :: rest →
      let b := nth k.obind n.toNat 0
      entV b = true → entKd b = 2 →
      sp.enqueue br { k with oq := k.oq.set n.toNat rest } (outLq b) false 0 e.flit s.now = some u →
      exec (.loopbackDelivery c n) s = .next (s.setSpur
        ((if e.flit.isTok then u.phaseFill c.row c.col s.now else u).busy s.now))) ∧
    (∀ (j : BitVec 2) (e : KEnt) (rest : List KEnt), nth k.jq j.toNat [] = e :: rest → k.groutEnts j.toNat ≠ [] →
      let room (x : Nat × W32) : Prop := sp.live.pathLen k j.toNat x.1 x.2 <
        Config.groutSegment * segments k.row.toNat k.col.toNat (grRow x.2).toNat (grCol x.2).toNat
      (e = .seam ∨ ∀ x ∈ k.groutEnts j.toNat, room x) →
      exec (.controlTokenDelivery c j none) s = .next (s.setSpur ((sp.modLive fun b =>
        (k.groutEnts j.toNat).foldl (fun b x => b.putPath k j.toNat x.1 x.2 e)
          (b.setCtx { k with jq := k.jq.set j.toNat rest })).busy s.now))) ∧
    (∀ (j n : BitVec 2) (p : GPath) (x : Bool) (l : List KEnt), sp.live.path? c j n = some p → p.bits = .bit x :: l →
      sp.arriveK p (.bit x) = some u →
      exec (.controlTokenDelivery c j (some n)) s = .next (s.setSpur (u.busy s.now))) ∧
    (∀ r, k.recon = some r → r.arrived = true → k.seamsIn sp.live br = true → k.allSeamed = false →
      exec (.seamAutoAppend c) s = .next (s.setSpur (sp.modLive fun b => b.setCtx k.seamEvery))) ∧
    ∀ r, k.recon = some r → exec (.reconfigurationTokenArrival c) s = .next (s.setSpur (sp.modLive fun b =>
      b.setCtx { k with recon := some { r with arrived := true } }))

/-- A route takes a flit where its entry is valid, and 4 tokens for each segment of the way; a step word moves it to its
next phase, and phase 0 follows the last (R59, R60, R354, R400). -/
def Sys2Proof.Says.RouteSends : Prop :=
  ∀ (s : State) (k : Ctx) (o : W32) (sp : Spur) (a : Bool) (r : Route) (t : Tok) (m : Arm),
    let tag := armTag o a
    let mine (x : Fly) : Bool :=
      x.row == k.row && x.col == k.col && x.flit.isTok && x.goesTo (rtRow r.ent) (rtCol r.ent) (rtVc r.ent)
    let room : Prop := (r.fly.filter mine).length <
      4 * segments k.row.toNat k.col.toNat (rtRow r.ent).toNat (rtCol r.ent).toNat
    let next : Nat := if r.cur + 1 < r.ents.length then r.cur + 1 else 0
    sp.live.routes[tag.toNat]? = some r → entV r.ent = true → entKd r.ent ≠ 1 →
      let put (r : Route) : Spur := sp.modLive fun b => { b with routes := b.routes.set tag.toNat r }
      (room → sendArm s k o ⟨.tok t, m⟩ sp a = some (put { r with fly := r.fly ++ [⟨k.row, k.col, r.ent, .tok t⟩] })) ∧
      (¬ room → sendArm s k o ⟨.tok t, m⟩ sp a = none) ∧
      sendArm s k o ⟨.step, m⟩ sp a = some (put { r with cur := next, ent := nth r.ents next 0, hollow := !entV (nth r.ents next 0) })

/-- Injection into routes, loopbacks and control paths, and what a route holds. -/
def Obligations.InjectionsAndRoutes : Prop := Says.Injections ∧ Says.RouteSends

/-- A round mark whose round a fault ends voids it whole and stops the spur (R96, R396, R398, R399): what the spur was at
the round's start stands again, nothing of the round reaches memory, and the fault is kept. A round that is stale
alone is executed again. Bus transfers whose count the round has reached and whose formats differ are among its causes
(R189). A mark before the round is as long as RLEN is none. -/
def Obligations.RoundVoids : Prop :=
  ∀ (s : State) (h : Handle) (sp : Spur), s.spur? h = some sp →
    sp.moveLeft = false → (∀ k ∈ sp.live.ctxs, k.load = none) → sp.live.th.load = none →
    let z : Spur := sp.live.withdraw.settle.busFaults.foldl Spur.addCause sp
    (s.markDue sp = false → exec (.roundMark h) s = .next s) ∧
    (∀ c, s.markDue sp = true → firstCause (z.allCauses.filter fun c => c.page.isNone) = some c →
      ∃ t y, exec (.roundMark h) s = .next t ∧ t.spur? h = some y ∧ y.live = sp.start ∧ y.life = .stopped ∧
        y.sFault = some c ∧ y.rnd = sp.rnd ∧ t.mem = s.mem ∧ t.full = s.full) ∧
    (s.markDue sp = true → z.allCauses = [] → sp.stale = true ∨ sp.retry = true → sp.move = none →
      ∃ t y, exec (.roundMark h) s = .next t ∧ t.spur? h = some y ∧ y.live = sp.start.openRound ∧ y.start = y.live ∧
        y.life = .running ∧ y.rnd = sp.rnd ∧ y.stale = false ∧ y.retry = false ∧ y.roundAt = s.now ∧ t.mem = s.mem)

/-- A round mark whose round nothing voids commits it (R94, R234, R397): the writes it held reach memory in their order, its
invalidations and migrations are posted, its engine commands leave in the order of their issue, the round number rises by
1, and the next round starts from what the spur is, with nothing held. Its trace records follow the writes. A `ret` makes
that the last round, with its value (R346), and a `yield` leaves the spur yielded (R347). -/
def Sys2Proof.Says.RoundCommits : Prop :=
  ∀ (s : State) (h : Handle) (sp : Spur), s.spur? h = some sp → s.markDue sp = true →
    (∀ k ∈ sp.live.ctxs, k.load = none) → sp.live.th.load = none →
    (sp.live.withdraw.settle.busFaults.foldl Spur.addCause sp).voids = false → sp.move = none →
    (∀ w ∈ sp.live.held, isCtlSpace w.pa = false) → (∀ o, .fold o ∉ sp.live.reqs) → (∀ n, .stow n ∉ sp.live.reqs) →
    let cmds := ({ sp with live := sp.live.withdraw.settle } : Spur).roundCmds.1
    let written : State := sp.live.held.foldl commitHeld s
    ∃ t y, exec (.roundMark h) s = .next t ∧ t.spur? h = some y ∧
      t.posted.length = s.posted.length + sp.live.invs.length ∧
      t.posted = (sp.live.invs.foldl (postInv h) written).posted ∧
      t.cmdq = s.cmdq ++ (cmds.zip (upTo cmds.length)).map (fun x => (x.1.1, { x.1.2 with no := s.nextJob + x.2 })) ∧
      t.nextJob = s.nextJob + cmds.length ∧
      (sp.live.reqs = [] → sp.phases = [] →
        t.mem = (sp.live.trace.foldl (writeTrace sp) written).mem ∧ t.full = written.full) ∧
      y.rnd = sp.rnd + 1 ∧ y.roundAt = s.now ∧ y.start = y.live ∧ y.live.held = [] ∧ y.live.invs = [] ∧
      y.live.cmds = [] ∧ y.live.edge = [] ∧ y.live.reqs = [] ∧ y.live.trace = [] ∧
      (sp.theRet = none → y.final = false ∧ (sp.live.yld = none → y.life = .running) ∧
        ∀ v, sp.live.yld = some v → y.life = .yielded) ∧
      ∀ r, sp.theRet = some r → y.final = true ∧ y.result = r.2

/-- What a commit does with each thing that its round held (R60, R79, R86, R104, R112 to R114, R278, R344, R347, R397, R400,
R412): an invalidation is posted to every cache, and makes stale the rounds that hold a write of its range; a migration is
posted with the leaf that it reads there, and is over at once where that is gone; a flit for a data port goes onto its wire,
or onto every saddle channel that a span's entries give its port (R393); a launch's claim is sent; a staged binding waits at its brick, and a register write at its context; a
coroutine that had yielded runs on with its argument in `g2`; a step is taken where the entry holds a configuration on every
brick of the section, and stays pending else; a trace record is written to the ring of the home ridge, or is dropped and
counted where the ring is full (a thread's in a count of its own: log 119); and a phase record of 32 bytes is written to the
phase log, in the spur's own address space (log 109), or dropped with LD set. That a register write to another spur leaves
with the round is log 17, and that a dropped record does not move `phi` on log 130. -/
def Sys2Proof.Says.CommitParts : Prop :=
  ∀ (s t : State) (sp o : Spur) (h : Handle) (p : Phase) (k : Ctx) (c : CtxAt) (w : Wire) (f : Flit) (st : StepReq),
    (∀ all asid lo hi, let u := postInv h s (.inv all asid lo hi)
      u.posted = s.posted ++ [⟨s.posted.length, h, .inv all asid lo hi, allUnits, false, false⟩] ∧
      ∀ x ∈ s.spurs, (∃ m ∈ x.live.held, m.inRange all asid lo hi = true) →
        ∃ y ∈ u.spurs, y.handle = x.handle ∧ y.stale = true) ∧
    (∀ asid va frame size, let u := postInv h s (.migr asid va frame size)
      let z := s.stir h
      (∀ l, z.leaf asid va = .ok l → l.size = size → u = { z with posted := s.posted ++
        [⟨s.posted.length, h, .migr asid va frame size l.ent l.addr, allUnits, false, false⟩] }) ∧
      ((∀ l, z.leaf asid va = .ok l → l.size ≠ size) → ∃ q, u = { z with posted := s.posted ++ [q] } ∧ q.by_ = h ∧
        q.id = s.posted.length ∧ q.isOver = true ∧ q.gone = true)) ∧
    (∀ (tag : BitVec 6) (port : BitVec 8), port.toNat < 0xF0 → (∀ n, f ≠ .cmd n) → f ≠ .step →
      s.wireFrom (.spur sp.handle port) = some w → w.far = true →
      (w.toSaddle = false → s.liveEnd w.dst = true → releaseFlit sp s ⟨tag, port, f⟩ = s.modWire w (· ++ [f])) ∧
      (w.toSaddle = true → releaseFlit sp s ⟨tag, port, f⟩ =
        s.putWires (s.wires.filter fun x => x.src == .spur sp.handle port && x.toSaddle) f)) ∧
    (∀ q, s.claims.find? (fun q => q.handle == h && q.st == .held) = some q →
      { q with st := .sent } ∈ (sendReq sp s (.launch h)).claims) ∧
    (s.spur? h = some o → s.groups = [] → o.life = .yielded → o.live.th.g.length = 32 → ∀ v,
      ∃ y, (sendReq sp s (.resume h v)).spur? h = some y ∧ y.life = .running ∧ nth y.live.th.g 2 0 = v) ∧
    (s.spur? c.h = some o → o.live.ctx? c.row c.col c.ctx = some k → ∀ n v, ∃ y z,
      (sendReq sp s (.cwr c n v)).spur? c.h = some y ∧ y.live.ctx? c.row c.col c.ctx = some z ∧
        z.stagedCst = k.stagedCst ++ [(n, v)]) ∧
    (∀ b vc v, s.spur? h = some o → o.live.brick? c.row c.col = some b → ∃ y z,
      (sendReq sp s (.vcbind h c.row c.col vc v)).spur? h = some y ∧ y.live.brick? c.row c.col = some z ∧
        z.staged.getLast? = some (vc, v) ∧ z.vc = b.vc) ∧
    (∀ x, sp.section? st.section_.toNat = some x →
      let mine (j : Ctx) : Prop := x.has j.row j.col = true ∧ j.idx = st.ctx
      ((∃ j ∈ sp.live.ctxs, mine j ∧ j.conf = false) → stepSection sp sp.live st = none) ∧
      ((∀ j ∈ sp.live.ctxs, mine j → j.conf = true) → ∃ b, stepSection sp sp.live st = some b ∧
        (∀ j ∈ b.bricks, x.has j.row j.col = true → j.active = st.ctx) ∧
        ∀ j ∈ b.ctxs, mine j → j.dn = false ∧ j.pass = List.replicate 16 0)) ∧
    (∀ l, let r := nth s.ctl.traces sp.home ⟨0, 0, 0, 0⟩
      let size : Nat := 2 ^ bitsOf r.trn.toNat 0 5
      let full : Prop := r.trb = 0 ∨ size ≤ (r.trt.toNat + 2 ^ 32 - r.trh.toNat) % 2 ^ 32
      let slot : Nat := r.trb.toNat + 64 * (r.trt.toNat % size)
      let u := writeTrace sp s (c, l)
      let v := s.physWrite .fabric slot l
      (¬ full → u = { v with ctl := v.ctl.modTrace sp.home fun r =>
        { r with trt := BitVec.ofNat 64 ((r.trt.toNat + 1) % 2 ^ 32) } }) ∧
      (¬ full → isCtlSpace slot = false → Memory.wf s.mem = true → l.length = 64 → readBytes u.mem slot 64 = l ∧
        (∀ a, a < slot ∨ slot + 64 ≤ a → readByte u.mem a = readByte s.mem a) ∧ v.ctl = s.ctl) ∧
      (full → u.mem = s.mem ∧ u.ctl = s.ctl) ∧
      (full → l.getD 5 0 ≠ 0xFF → s.spur? sp.handle = some o → o.live.ctx? c.row c.col c.ctx = some k →
        ∃ y z, u.spur? sp.handle = some y ∧ y.live.ctx? c.row c.col c.ctx = some z ∧ z.mdc = k.mdc + 1) ∧
      (full → l.getD 5 0 = 0xFF → s.spur? sp.handle = some o →
        ∃ y, u.spur? sp.handle = some y ∧ y.live.th.mdc = o.live.th.mdc + 1)) ∧
    ∀ ret, s.spur? h = some sp →
      let q := nth s.seqs sp.home ⟨0, 0, 4096⟩
      let rec_ := phaseRecord sp p s.now ret
      let write := devWrite s (bedrock sp.massif) sp.asid (q.phb.toNat + 32 * (q.phi.toNat % 4096)) rec_
      rec_.length = 32 ∧ rec_.take 4 = toBytes 4 sp.handle.toNat ∧
      (∀ a, p.loaded = some a → (rec_.drop 8).take 4 = toBytes 4 (min (a - p.begun) 0xFFFFFFFF)) ∧
      (q.phb = 0 → writePhase s h p ret = s) ∧
      (q.phb ≠ 0 → write = (t, none) → writePhase s h p ret =
        { t with seqs := upd t.seqs sp.home fun q => { q with phi := q.phi + 1 } }) ∧
      ∀ e, q.phb ≠ 0 → write = (t, some e) → (writePhase s h p ret).seqs = t.seqs ∧ ∀ y, t.spur? h = some y →
        ∃ z, (writePhase s h p ret).spur? h = some z ∧ z.live.th.sst = (y.live.th.sst ||| 0x40000)

/-- A round that nothing voids commits what it held, trace and phase records (log 109) among it, and the next round
starts. -/
def Obligations.RoundCommits : Prop := Says.RoundCommits ∧ Says.CommitParts

/-- A claim that arrives is checked whole before its area is computed (R338, R358, R381, R390): a launch of a domain that
is no longer valid completes with status 7, one whose nest cannot be read with status 8 and the entry, one whose image is
refused with status 3 and the loader's word, where its domain's policy refuses a race with the word of its first racing
pair (R253); one larger than a whole budget with 4, and one that no empty package takes
with 5 (R23). None of them claims area. A claim that passes is pending, at its domain's priority and behind every earlier
one (R327). Which of
7 and 8 comes first, and that ports are not checked against a caller that has ended, is log 69. -/
def Obligations.ClaimsChecked : Prop :=
  ∀ (s t : State) (n : Nat) (c : Claim) (y : Dom) (nest : Nest) (rs : List ReadImg),
    s.claim? n = some c → c.st = .sent → c.span = none →
    let i : Instr := .claimArrival n
    let rects := nest.rects (rs.map (·.img))
    let read : Prop := s.dom? c.dom = some y ∧ c.nest = some nest ∧
      readImages ⟨s.claimMassif c, c.dom, y.asid⟩ nest.leaves s = (t, rs)
    let races := launchRaces t c (rs.map (·.img)) (nest.ports (rs.map (·.img)) 0).1 (nest.ports (rs.map (·.img)) 0).2
    let sound : Prop := read ∧ imagesRefused c.sysMade rs = none ∧ races = [] ∧
      firstBadPort (nest.ports (rs.map (·.img)) 0).1 ((c.parent.bind t.spur?).map (·.img)) c.ports = none
    let small : Prop := t.wholeFor c.dom (usesOf rects) = true
    let fits : Prop := fitsEmpty rects ⟨[], [], [], [], ⟨0, 0, 0⟩⟩ = true
    (s.dom? c.dom = none → exec i s = .next (endClaim s c 7 (BitVec.ofNat 64 c.dom))) ∧
    (s.dom? c.dom = some y → c.nest = none → exec i s = .next (endClaim s c 8 (BitVec.ofNat 64 c.bad))) ∧
    (∀ w, read → imagesRefused c.sysMade rs = some w → exec i s = .next (endClaim t c 3 w)) ∧
    (∀ a b more, read → imagesRefused c.sysMade rs = none → races = (a, b) :: more → y.rp = false →
      exec i s = .next (endClaim t c 3 (raceRefused a).word)) ∧
    (sound → ¬ small → exec i s = .next (endClaim t c 4 0)) ∧
    (sound → small → ¬ fits → exec i s = .next (endClaim t c 5 0)) ∧
    (sound → small → fits → exec i s = .next { t.setClaim { c with
        st := .pending, imgs := rs.map (·.img), rects := rects, no := t.nextClaim, prio := y.pri, since := t.now } with
      nextClaim := t.nextClaim + 1 }) ∧
    (∀ (st : Nat) (v : W64), (endClaim s c st v).areas = s.areas)

/-- A claim that no grantable claim stands ahead of is granted whole at places that the rules admit (R326, R327, R328): it
no longer stands in the pool, nothing of memory changes, and a callable's spur stands loading where the claim was placed.
Behind a grantable claim, or where it does not fit, the claim waits and holds nothing. -/
def Obligations.ClaimsGranted : Prop :=
  ∀ (s : State) (n : Nat) (c : Claim) (pl : List Place) (l : Laid) (nest : Nest),
    s.claim? n = some c → c.kind = .launch →
    (s.scanned c = false ∨ s.isNext c = false → exec (.claimGrant n pl []) s = .next s) ∧
    (s.fitsNow c = false → s.victimsFor c = none → exec (.claimGrant n pl []) s = .next s) ∧
    (s.scanned c = true → s.isNext c = true → s.fitsNow c = true → layClaim s c pl = none →
      exec (.claimGrant n pl []) s = .next s) ∧
    (s.scanned c = true → s.isNext c = true → s.fitsNow c = true → layClaim s c pl = some l → c.nest = some nest →
      ∃ t, exec (.claimGrant n pl []) s = .next t ∧ t.mem = s.mem ∧
        t.claim? n = some { c with st := .granted, fromPool := false, reserve := none } ∧
        ∀ id at_ co m ms a run rest, nest = .leaf id at_ co → c.imgs = m :: ms → l.withRuns = (a, run) :: rest →
          s.spur? c.handle = none → ∃ sp, t.spur? c.handle = some sp ∧ sp.life = .loading ∧ sp.img = m ∧
            sp.site = a.site ∧ sp.dom = c.dom ∧ sp.parent = c.parent ∧ sp.target = c.target ∧ sp.arg = c.arg)

/-- A claim that 64 grants of later claims have passed over fixes a placement and reserves it, one claim of a priority at a
time, and no earlier (R329). -/
def Sys2Proof.Says.ClaimsReserve : Prop :=
  ∀ (s : State) (n : Nat) (c : Claim) (pl : List Place), s.claim? n = some c →
    let taken : Prop := ∃ x ∈ s.claims, x.id ≠ c.id ∧ x.prio = c.prio ∧ x.reserve ≠ none
    (c.passed < 64 ∨ taken → exec (.claimReservation n pl) s = .next s) ∧
    (s.scanned c = true → 64 ≤ c.passed → c.reserve = none → ¬ taken → pl.length = c.rects.length →
      reservable s.powered (c.rects.zip pl) [] = true →
      exec (.claimReservation n pl) s = .next (s.setClaim { c with reserve := some pl }))

/-- The start barrier of a launch opens once all of it is granted, and for a span once every package has acknowledged
(R21, R334, R393): every spur of the launch that was loading is running, with what its domain gives it (R381), and a
launch that is not granted waits. The waves of a wide launch begin then, or go on for a member placed later, and its next
ridges open a microsecond after the wave before, for every spur of the launch (R422). -/
def Sys2Proof.Says.StartBarriers : Prop :=
  ∀ (s : State) (n : Nat) (c : Claim), s.claim? n = some c →
    (c.span = none → c.st ≠ .granted → exec (.startBarrierOpen n) s = .next s) ∧
    (c.span ≠ none → c.st ≠ .formed → exec (.startBarrierOpen n) s = .next s) ∧
    ((c.span = none ∧ c.st = .granted ∨ c.span ≠ none ∧ c.st = .formed) → (s.dom? c.dom).isSome = true →
      ∃ t, exec (.startBarrierOpen n) s = .next t ∧ t.claim? n = none ∧
        ((s.spurs.map (·.handle)).Nodup → ∀ sp ∈ s.spurs, ∀ y, sp.claim = some n → sp.life = .loading →
          s.dom? sp.dom = some y → ∃ z, t.spur? sp.handle = some z ∧ z.life = .running ∧ z.asid = y.asid ∧
            z.seed = y.seed ∧ z.qnt = y.qnt ∧ z.openedAt = s.now ∧ z.waves = s.wavesOf n)) ∧
    ∀ (h : Handle) (sp : Spur), s.spur? h = some sp → 16 * sp.waves.opened < sp.waves.ridges.length →
      let more : Waves := { sp.waves with opened := sp.waves.opened + 1 }
      (s.now - sp.waves.since < Config.cyclesPerUs * sp.waves.opened → exec (.launchWaveOpen h) s = .next s) ∧
      (Config.cyclesPerUs * sp.waves.opened ≤ s.now - sp.waves.since → ∃ t, exec (.launchWaveOpen h) s = .next t ∧
        (∀ x ∈ t.spurs, x.claim = sp.claim → x.waves = more) ∧ (∀ x ∈ t.comps, x.claim = sp.claim → x.waves = some more) ∧
        t.spur? h = some { sp with waves := more })

/-- A span forms only with the acknowledgement of every package of its mask, this one's among them: its claim is granted,
and every port that an entry of another package names is a declared `in` port of it. Where one refuses, every participant
frees what it placed, or no longer waits where its claim is pending, and completes with status 10 and the mask of those that
refused (R393). That a package which
refuses sets its own bit, and when it frees its area, is log 77. -/
def Sys2Proof.Says.SpansForm : Prop :=
  ∀ (s : State) (n : Nat) (c : Claim) (k mask refused : BitVec 32) (l : List (BitVec 32)) (named : List (BitVec 5 × BitVec 8)),
    s.claim? n = some c → c.span = some (k, mask, l) →
    let i : Instr := .spanFormation n ⟨refused, named⟩
    let own : BitVec 32 := 1#32 <<< s.pkg.toNat
    let others := refused &&& mask &&& ~~~own
    let declared : Prop := ∀ x ∈ named, ∃ w ∈ s.wires, s.wireIn c w = some x
    let out (no : BitVec 32) : State := endClaim (revoke s c) c 10 (no.zeroExtend 64)
    (c.st ≠ .granted → c.st ≠ .refused → c.st ≠ .pending ∨ others = 0 → exec i s = .next s) ∧
    (c.st = .pending → others ≠ 0 → exec i s = .next (out others)) ∧
    (c.st = .granted → declared → others = 0 →
      exec i s = .next ((s.keepNamed c named).setClaim { c with st := .formed })) ∧
    (c.st = .granted → declared → others ≠ 0 → exec i s = .next (out others)) ∧
    (c.st = .granted → ¬ declared → exec i s = .next (out (others ||| own))) ∧
    (c.st = .refused → exec i s = .next (out (others ||| own))) ∧
    (∀ w ∈ (s.keepNamed c named).wires, ∀ x, s.wireIn c w = some x → x ∈ named) ∧
    ∀ x ∈ (revoke s c).spurs, x.claim ≠ some c.id

/-- Reservations, the start barrier with its waves, and spans of packages. -/
def Obligations.ReservationsAndBarriers : Prop := Says.ClaimsReserve ∧ Says.StartBarriers ∧ Says.SpansForm

/-- A claim that has waited for a quantum of its domain, and that nothing else can grant, stows the spur of the lowest
priority, and of these the one placed longest, at that spur's mark, after the commit, not before, and not at a mark
that voids the round (R362). A stowed spur's record is written; its area is free, and with it its bricks, contexts and
thread; and its claim for resumption is pending (R331). Where the record cannot be written the spur goes on and is
spared until its next quantum. A resumption that is granted restores what the spur was at the place granted (R331,
R410); a record that does not pass its check restores nothing: data-lost goes out and the spur is retired, with status
2 once the jobs it issued have completed (R411). A fault that the pager gave up on meanwhile stops the spur as it is
restored (R274), and a spur that its own move has taken elsewhere at a mark is not stowed by the masons there (log
61). -/
def Obligations.SpursMoveAside : Prop :=
  ∀ (s t : State) (n : Nat) (c : Claim) (v : Spur) (r : Nat × Nat), s.claim? n = some c →
    let puts (s : State) (v : Spur) (cause : Nat) (e : Option DevFault) : Prop := s.spur? v.handle = some v ∧
      s.stowRun v = some r ∧ devPut s ⟨v.massif, v.dom, v.asid⟩ r.1
        (wordsOf (stowSize v.img.hd / 8) (stowRecord v cause (stowSize v.img.hd) s.tick)) = (t, e)
    let aside (u : State) (v : Spur) : Prop := ∃ y q, u.spur? v.handle = some y ∧ y.life = .stowed ∧ y.placed = false ∧
      y.stowAt = some r ∧ y.live = v.live ∧ u.claims = t.claims ++ [q] ∧ q.kind = .resume v.handle ∧
      (v.stowWait = none → q.st = .pending) ∧
      ((s.spurs.map (·.handle)).Nodup → v.area = none → u.areas =
        { t with spurs := t.spurs.filter fun x => x.handle != v.handle }.areas)
    let takes : Prop := s.scanned c = true ∧ s.quantumOf c.dom ≤ s.now - c.since ∧ s.grantable c = false ∧
      s.preemptVictim c = some v ∧ s.spur? v.handle = some v ∧ v.move = none
    let i : Instr := .preEmption n v.handle
    let marked : State := roundMark s v.handle none
    (s.now - c.since < s.quantumOf c.dom → exec i s = .next s) ∧
    (takes → v.life = .yielded ∨ s.runsNow v = false → exec i s = .next (stowSpur s v 3)) ∧
    (takes → v.life = .yielded → puts s v 3 none → ∃ u, exec i s = .next u ∧ aside u v) ∧
    (∀ e, takes → v.life = .yielded → puts s v 3 (some e) → ∃ u y, exec i s = .next u ∧ u.spur? v.handle = some y ∧
      y.life = .yielded ∧ y.live = v.live ∧ y.spared = some t.now) ∧
    (takes → v.life = .running → s.runsNow v = true → s.markDue v = false → exec i s = .next s) ∧
    (∀ w, takes → s.markDue v = true → marked.spur? v.handle = some w → w.move = none → w.site = v.site →
      w.rnd ≠ v.rnd → marked.preemptible c w = true →
      exec i s = .next (stowSpur marked w 3)) ∧
    (∀ w, takes → s.markDue v = true → marked.spur? v.handle = some w → w.move = none → w.rnd = v.rnd →
      exec i s = .next marked) ∧
    (∀ x ∈ s.spurs, s.preemptVictim c = some v → s.preemptible c x = true →
      s.prio v.dom < s.prio x.dom ∨ s.prio v.dom = s.prio x.dom ∧ v.placedAt ≤ x.placedAt) ∧
    (∀ cause, puts s v cause none → aside (stowSpur s v cause) v) ∧
    (∀ pl, s.scanned c = false ∨ s.fitsNow c = false → exec (.resumption n pl) s = .next s) ∧
    ∀ pl l h w a run rest ws, c.kind = .resume h → s.scanned c = true → s.isNext c = true → s.fitsNow c = true →
      layClaim s c pl = some l → l.withRuns = (a, run) :: rest → s.spur? h = some w → w.stowAt = some r →
      let p := passOver s c l.done
      let read (ws : Except DevFault (List W64)) : Prop := devGet { p with claims := p.claims.filter fun x => x.id != c.id }
        ⟨w.massif, w.dom, w.asid⟩ .read r.1 (stowSize w.img.hd / 8) = (t, ws)
      (read (.ok ws) → stowCheck ws = true → ∃ u y, exec (.resumption n pl) s = .next u ∧ u.spur? h = some y ∧
        (w.sFault = none → y.life = (if w.wasYielded then .yielded else .running) ∧ y.live = w.live.openRound ∧
          y.site = a.site ∧ y.rnd = w.rnd ∧ y.stowAt = none) ∧
        ∀ f, w.sFault = some f → y.life = .stopped ∧ y.sFault = some f) ∧
      ((read (.ok ws) ∧ stowCheck ws = false) ∨ (∃ e, read (.error e)) → exec (.resumption n pl) s = .next
        ((t.postHandler ((compHandler t 64 w.target).or w.hq) (record 3 11 (BitVec.ofNat 64 r.1) h w.dom 0xFFFFFFFF 0xFF 0xFF
          w.rnd.toNat [] (2 :: zeros 15))).setSpur { w with final := true, wasYielded := false, stowAt := none }))

/-- A spur ends once its final round is over, its engine jobs have completed and no launch still targets a barrier of its
own (R24, R334, R346): it stands no more, and its completion says its result, or status 2 where a fault stopped it or its
stow record is lost (R408, R411), which waits for no barrier. -/
def Sys2Proof.Says.SpursEnd : Prop :=
  ∀ (s : State) (h : Handle) (sp : Spur), s.spur? h = some sp →
    (sp.final = false ∨ s.jobsOf h = true → exec (.spurEnd h) s = .next s) ∧
    (sp.final = true → sp.life ≠ .stopped → sp.life ≠ .stowed → (∃ b ∈ sp.bars, b.st = .armed) → exec (.spurEnd h) s = .next s) ∧
    (sp.final = true → s.jobsOf h = false → sp.life = .stopped ∨ sp.life = .stowed → exec (.spurEnd h) s = .next (finishSpur s sp 2 0)) ∧
    (sp.final = true → s.jobsOf h = false → sp.life ≠ .stopped → sp.life ≠ .stowed → (∀ b ∈ sp.bars, b.st ≠ .armed) →
      exec (.spurEnd h) s = .next (finishSpur s sp 0 sp.result)) ∧
    ∀ st v, (finishSpur s sp st v).spur? h = none

/-- A sequence places its second member, with the first one's result, once the first has returned; a loop places its body
again until bit c of the result is set; neither after a member that ended with status 2 (R335). -/
def Sys2Proof.Says.MembersPlacedAgain : Prop :=
  ∀ (s : State) (i : Handle) (c : Comp) (id bit : Nat) (hq : Option Nat) (a b : Nest) (m : Member) (ms : List Member),
    s.comps.find? (fun c => c.handle == i) = some c → c.members = m :: ms → (s.dom? c.dom).isSome = true →
    (c.nest = .seq id hq a b →
      (c.second = true ∨ m.ended = false ∨ m.status = 2 → exec (.sequenceSecondPlace i) s = .next s) ∧
      (c.second = false → m.ended = true → m.status ≠ 2 → exec (.sequenceSecondPlace i) s = .next
        (placeMember s c b (c.imgs.drop a.leaves.length) 1 m.result fun c h =>
          { c with second := true, members := c.members.take 1 ++ [⟨h, false, 0, 0⟩] }))) ∧
    (c.nest = .loop id hq bit a →
      (m.ended = false ∨ m.status = 2 ∨ m.result.getLsbD bit = true → exec (.loopBodyRestart i) s = .next s) ∧
      (m.ended = true → m.status ≠ 2 → m.result.getLsbD bit = false → exec (.loopBodyRestart i) s = .next
        (placeMember s c a c.imgs 0 m.result fun c h => { c with members := [⟨h, false, 0, 0⟩] })))

/-- When a spur ends, and when a sequence or loop places a member again. -/
def Obligations.EndsAndMembers : Prop := Says.SpursEnd ∧ Says.MembersPlacedAgain

/-- A farm's distributor sends an element token to the replica that its policy names: the next of the round, the tag
modulo r, or (payload >> b) modulo r; a level-0 stop token ends a fibre of the round-robin policy and turns the round
on. Every other stop token goes to every replica, one at a time, and leaves the port with the last (R337); so do
headers and seam markers, which is the model's choice (log 75). Its collector takes the round's fibres in replica
order and elements of the other policies as they come, and passes a stop token once, when every replica has sent it;
the log entry says the same of seam markers, and a span's port sends on every saddle channel that its entries name
(R393). A full wire holds the flit back. -/
def Obligations.FarmsDistribute : Prop :=
  ∀ (s : State) (i : Handle) (c : Comp) (id n kb : Nat) (hq : Option Nat) (pol : BitVec 2) (a : Nest) (p : BitVec 8)
    (r d : Nat) (w o : Wire) (f : Flit) (l : List Flit) (t : Tok) (x : W64),
    s.comps.find? (fun c => c.handle == i) = some c → c.nest = .farm id hq pol kb n a → 0 < n →
    let cur := (farmPos c.inFrom p).1
    let had := (farmPos c.inFrom p).2
    let took := (farmPos c.outFrom p).1
    let sent := (farmPos c.outFrom p).2
    let turn (k : Nat) (f : Flit) : Nat := if pol = 0 && f.endsFibre then (k + 1) % n else k
    let drops (x : Wire) : State := s.modWire x (·.drop 1)
    let moved (x y : Wire) : State := (drops x).modWire y (· ++ [f])
    let sets (s : State) (g : Comp → Comp) : State := { s with comps := updFirst (fun x => x.handle == i) g s.comps }
    let ins (s : State) (v : Nat × List Nat) : State := sets s fun x => { x with inFrom := putFarmPos x.inFrom p v }
    let outs (s : State) (v : Nat × List Nat) : State := sets s fun x => { x with outFrom := putFarmPos x.outFrom p v }
    let level0 : Prop := t.stop = true ∧ t.pay.extractLsb' 0 4 = 0
    (t.stop = false → farmRoute 0 kb n cur (.tok t) = some cur ∧ farmRoute 1 kb n cur (.tok t) = some (t.tag.toNat % n) ∧
      farmRoute 2 kb n cur (.tok t) = some (t.pay.toNat / 2 ^ kb % n)) ∧
    (level0 → farmRoute 0 kb n cur (.tok t) = some cur) ∧
    (t.stop = true → (pol ≠ 0 ∨ t.pay.extractLsb' 0 4 ≠ 0) → farmRoute pol kb n cur (.tok t) = none ∧
      (Flit.tok t).joined pol = true) ∧
    (t.stop = false ∨ (pol = 0 ∧ level0) → (Flit.tok t).joined pol = false) ∧
    farmRoute pol kb n cur (.hdr x) = none ∧ farmRoute pol kb n cur .seam = none ∧ Flit.seam.joined pol = true ∧
    (s.wires.find? (fun w => w.dst == .farm i p && !w.buf.isEmpty && w.src != .farm i p) = some w → w.buf = f :: l →
      (s.wires.filter fun w => w.src == .farm i p && w.far)[r]? = some o → s.liveEnd o.dst = true →
      (o.room = false → exec (.farmDistribution i false p r) s = .next s) ∧
      (farmRoute pol kb n cur f = some d → d ≠ r → exec (.farmDistribution i false p r) s = .next s) ∧
      (farmRoute pol kb n cur f = some r → o.room = true →
        exec (.farmDistribution i false p r) s = .next (ins (moved w o) (turn cur f, []))) ∧
      (farmRoute pol kb n cur f = none → o.room = true →
        (r ∈ had → exec (.farmDistribution i false p r) s = .next s) ∧
        (r ∉ had → had.length + 1 ≠ n →
          exec (.farmDistribution i false p r) s = .next (ins (s.modWire o (· ++ [f])) (cur, r :: had))) ∧
        (r ∉ had → had.length + 1 = n → exec (.farmDistribution i false p r) s = .next (ins (moved w o) (cur, []))))) ∧
    ((s.wires.filter fun w => w.dst == .farm i p && w.src != .farm i p)[r]? = some w → w.buf = f :: l →
      let lead := s.wiresFrom (.farm i p)
      let full : Prop := ∃ o ∈ lead, o.room = false
      let passed : State := (drops w).putWires lead f
      (r ∈ sent → exec (.farmDistribution i true p r) s = .next s) ∧
      (r ∉ sent → f.joined pol = false →
        (full ∨ (pol = 0 ∧ r ≠ took) → exec (.farmDistribution i true p r) s = .next s) ∧
        (¬ full → (pol = 0 → r = took) →
          exec (.farmDistribution i true p r) s = .next (outs passed (turn took f, sent)))) ∧
      (r ∉ sent → f.joined pol = true →
        (sent.length + 1 ≠ n → exec (.farmDistribution i true p r) s = .next (outs (drops w) (took, r :: sent))) ∧
        (sent.length + 1 = n → full → exec (.farmDistribution i true p r) s = .next s) ∧
        (sent.length + 1 = n → ¬ full →
          exec (.farmDistribution i true p r) s = .next (outs passed (took, [])))) ∧
      (s.wireFrom (.farm i p) = some o → s.liveEnd o.dst = true → o.toSaddle = false → lead = [o] ∧ passed = moved w o) ∧
      (s.wireFrom (.farm i p) = some o → o.toSaddle = true →
        lead = s.wires.filter fun x => x.src == .farm i p && x.toSaddle))

/-- A spur is inactive once its last `qwin` counted cycles were all idle, of which a paused sharer counts none (R330, R365), and another package's report says of each party at
the other end of a saddle channel whether it is (R394). -/
def Sys2Proof.Says.IdleSpurs : Prop :=
  (∀ (s : State) (h : Handle) (sp : Spur), s.spur? h = some sp →
    (s.idle sp = true → exec (.inactivityWindowExpiry h) s = .next (s.setSpur { sp with inactive := true })) ∧
    (s.idle sp = false → exec (.inactivityWindowExpiry h) s = .next s) ∧
    (s.idle sp = true → sp.life = .running ∧ sp.paging = false ∧ s.qwinOf sp ≤ s.countedTo sp - sp.lastBusy ∧
      sp.live.th.load = none ∧ ∀ k ∈ sp.live.ctxs, k.load = none)) ∧
  ∀ (s : State) (r : Remote),
    let known : Prop := r.pkg ≠ s.pkg ∧ ∃ w ∈ s.wires, w.remote = some r
    let rest : List Remote := s.farIdle.filter (· != r)
    (known → exec (.inactivityReport r true) s = .next { s with farIdle := r :: rest }) ∧
    (known → exec (.inactivityReport r false) s = .next { s with farIdle := rest }) ∧
    (¬ known → ∀ idle, exec (.inactivityReport r idle) s = .next s)

/-- The detector declares the largest set of running spurs that are inactive, and idle to this very cycle (R365), in which every spur that a member waits on is in the
set, stopped or yielded (R367): exactly the spurs of that set take the deadlock cause, with the entries of their waits,
and every other spur stays as it was. That a spur which
can go on in this very cycle, whose next mark gives something out, or whose launch has waves still to open, is in no such set
is the model's reading (log 18). -/
def Sys2Proof.Says.DeadlockDeclared : Prop :=
  ∀ s : State, (s.spurs.map (·.handle)).Nodup →
    let quiet (q : List Handle) : Prop := ∀ h ∈ q, ∃ x, s.spur? h = some x ∧ x.inactive = true ∧ s.idle x = true ∧
      (s.waitView x).moves = false ∧ ∀ p ∈ (s.waitView x).on, s.partyQuiet q p = true
    ∃ t q, exec .deadlockDeclaration s = .next t ∧ quiet q ∧ (∀ r, quiet r → ∀ h ∈ r, h ∈ q) ∧
      (∀ h x, s.spur? h = some x → x.owes = true ∨ 16 * x.waves.opened < x.waves.ridges.length → h ∉ q) ∧
      ∀ h x, s.spur? h = some x → t.spur? h = some
        (if h ∈ q then { x with dead := some (deadCause s x (s.waitView x).entries) } else x)

/-- Inactivity, and the largest quiescent set, which alone is declared. -/
def Obligations.QuiescentSpurs : Prop := Says.IdleSpurs ∧ Says.DeadlockDeclared

/-- Command queues (R22, R360, R361, R387, R389): a notify write stores TAIL, wakes the lintel, and gives the queue a
resident slot where one is free; a fetch reads the packet at HEAD and moves HEAD on; the next packet in turn that names a
callable becomes a claim; a queue that waits, whose ring is empty or that is at the end of a quantum gives its slot to the
one that has waited longest. That the
lintels share the resident slots and work once the package has booted (log 79), which packets of a queue count as
outstanding (log 80), and what abandons a gating (log 83), are the model's readings. -/
def Sys2Proof.Says.QueueEvents : Prop :=
  ∀ (s t : State) (q : Nat) (ws e : List W64),
    let d := s.qDesc q
    let bound : Prop := d.ok = true ∧ ∃ a y, s.pasid d.pasid = some a ∧ s.dom? d.dom = some y ∧ y.asid = a
    (∀ tail : BitVec 32, q < 4096 → d.v = true → d.df = false → bound → s.boot = .booted →
      (tail.toNat + 2 ^ 32 - d.head) % 2 ^ 32 ≤ 2 ^ d.lgs →
      ∃ u, exec (.notifyWrite q tail) s = .next u ∧ (u.ctl.notify? q).tail = tail ∧ (u.ctl.notify? q).wake = false ∧
        u.gated = false ∧ u.mem = s.mem ∧
        (s.resident.length < Config.residentQueues → ∃ r ∈ u.resident, r.q = q)) ∧
    (∀ tail : BitVec 32, d.v = false ∨ d.df = true → (s.ctl.notify? q).wake = false →
      exec (.notifyWrite q tail) s = .next s) ∧
    (∀ a : Nat, (s.ctl.notify? q).wake = false → s.boot = .booted → s.gated = false →
      (∀ f ∈ s.pagerToks, f.who ≠ .lintel q) → d.v = true → d.df = false → s.unfetched q ≠ 0 →
      (∃ r ∈ s.resident, r.q = q) → s.queueFault q = none → s.pasid d.pasid = some a →
      s.migrHolds a (d.ring + 64 * (d.head % 2 ^ d.lgs)) = false →
      packetWords (.lintel (BitVec.ofNat 2 (lintelOf q))) a 8 (d.ring + 64 * (d.head % 2 ^ d.lgs)) s = (t, .ok ws) →
      exec (.packetFetch q) s = .next { t.setHead q (d.head + 1) with fetched := t.fetched ++ [⟨q, ws⟩] }) ∧
    (∀ (slot : Nat) (y : Dom), s.nextQueue (lintelOf q) = some (slot, q) →
      s.fetched.find? (fun p => p.q == q) = some ⟨q, ws⟩ → s.boot = .booted → s.gated = false →
      let key := 4 * s.queuePrio q + lintelOf q
      let u := { s with fetched := s.fetched.eraseP (fun p => p.q == q)
                        served := (key, slot + 1) :: s.served.filter fun x => x.1 != key }
      let id := bitsOf (nth ws 0 0).toNat 0 12
      s.dom? d.dom = some y → packetOk s.pkg ws = true → id ≠ 0 →
      readTab u (lintelOf q) d.dom id = (t, some e) → 1 ≤ entKind e → entKind e ≤ 7 →
      ∃ z c, exec (.packetPresent q) s = .next z ∧ z.claims.getLast? = some c ∧ c.st = .sent ∧ c.kind = .launch ∧
        c.entry = id ∧ c.arg = nth ws 1 0 ∧ c.target = s.packetTarget q ws ∧ c.queue = some q ∧
        z.presented.getLast? = some (q, c.id)) ∧
    ∀ (n : Nat) (r : Resident), s.resident.find? (fun r => r.q == q) = some r → s.gated = false → n ∈ s.waiting →
      (∀ m ∈ s.waiting,
        lexLt [15 - s.queuePrio m, s.awaySince m] [15 - s.queuePrio n, s.awaySince n] = false) →
      ((∃ x ∈ s.presented, x.1 = q) ∨ s.unfetched q = 0 ∨
        s.now ≠ r.since ∧ r.since ≤ s.now ∧ (s.now - r.since) % s.residence q = 0 ∧ s.queuePrio q ≤ s.queuePrio n) →
      exec (.residentQueueChange q n) s = .next { s with
        resident := updFirst (fun x => x.q == q) (fun _ => ⟨n, s.now⟩) s.resident
        leftAt := (q, s.now) :: s.leftAt.filter fun x => x.1 != q && x.1 != n }

/-- Teardown, domain queues, gating and the root registers (R264, R376, R382, R391, R392): a write of `ptd` sets BSY and
starts a teardown, which ends with the PASID's V at 0 and BSY clear; the oldest record of a domain queue is written, by massif
0's translation unit, which is the model's choice (log 81), and signalled; the package gates only with nothing to do; the table bases are written by the keystone core or the summit while
no spur is placed, and by nobody else. -/
def Sys2Proof.Says.DeviceRegisters : Prop :=
  ∀ (s : State) (w : Writer) (v : W64),
    (s.ctl.ptd.getLsbD 31 = true → exec (.pasidTeardown v) s = .next s) ∧
    (s.ctl.ptd.getLsbD 31 = false → v.getLsbD 31 = true → ∃ t l, exec (.pasidTeardown v) s = .next t ∧
      t.ctl.ptd = v &&& 0x800FFFFF ∧ t.teardown = some ⟨v.toNat % 2 ^ 20, l⟩) ∧
    (∀ p l, s.teardown = some ⟨p, l⟩ → l ≠ [] → ∃ t, exec .teardownComplete s = .next t ∧ t.teardown = some ⟨p, []⟩) ∧
    (∀ p, s.teardown = some ⟨p, []⟩ → (∀ r ∈ s.recq, r.isGone = false) →
      let a := s.ctl.ptb.toNat / 2 ^ 23 * 2 ^ 23 % 2 ^ 52 + 8 * p
      let e := readNat s.mem a 8
      exec .teardownComplete s = .next { s with
        mem := writeNat s.mem a 8 (e - e / 2 ^ 16 % 2 * 2 ^ 16)
        ctl := { s.ctl with ptd := s.ctl.ptd &&& ~~~0x80000000#64 }
        teardown := none }) ∧
    (∀ (d q : Nat) (r : QRec) (y : Dom) (a b c : State) (ws : List W64),
      s.recq.find? (fun r => r.dom == d && r.q == q) = some r →
      let u := { s with recq := s.recq.eraseP fun x => x.dom == d && x.q == q }
      let at_ : DevAt := ⟨0, r.dom, y.asid⟩
      let va := y.dqb + 32 * r.q
      let w1 := (nth ws 1 0).toNat
      let w2 := (nth ws 2 0).toNat
      let k := (r.bytes.length + 15) / 16
      u.dom? r.dom = some y → r.q < y.dqn → devGet u at_ .read va 4 = (a, .ok ws) → dqOk ws = true →
      (2 ^ bitsOf w1 0 5 < (w2 / 2 ^ 32 + 2 ^ 32 - w2 % 2 ^ 32) % 2 ^ 32 + k →
        exec (.domainQueueRecordWrite d q) s = .next s) ∧
      ((w2 / 2 ^ 32 + 2 ^ 32 - w2 % 2 ^ 32) % 2 ^ 32 + k ≤ 2 ^ bitsOf w1 0 5 →
        writeSlots at_ (nth ws 0 0).toNat (bitsOf w1 0 5) (w2 / 2 ^ 32) k r.bytes a = (b, true) →
        devPut b at_ (va + 16) [BitVec.ofNat 64 ((w2 / 2 ^ 32 + k) % 2 ^ 32 * 2 ^ 32 + w2 % 2 ^ 32)] = (c, none) →
        exec (.domainQueueRecordWrite d q) s = .next { c with signals := c.signals ++
          (if bitsOf w1 8 2 = 1 then [.summit (bitsOf w1 16 10)]
           else if bitsOf w1 8 2 = 2 then [.msix y.fn (bitsOf w1 16 10)] else []) })) ∧
    ((∀ n ∈ s.ctl.notify, n.wake = false ∧ s.hasPacket n.q = false) → s.fetched = [] →
      exec .gatingSequence s = .next { s with gated := true }) ∧
    ((∃ n ∈ s.ctl.notify, n.wake = true ∨ s.hasPacket n.q = true) ∨ s.fetched ≠ [] →
      exec .gatingSequence s = .next s) ∧
    (w = .keystone ∨ w = .summit → (∀ x ∈ s.spurs, x.placed = false) →
      exec (.registerWrite w (ctlBase + 0x10000) v) s = .next { s with ctl := { s.ctl with atb := keepBits v 19 51 } } ∧
      exec (.registerWrite w (ctlBase + 0x10008) v) s = .next { s with ctl := { s.ctl with ddb := keepBits v 19 51 } } ∧
      exec (.registerWrite w (ctlBase + 0x10010) v) s = .next { s with ctl := { s.ctl with ptb := keepBits v 23 51 } } ∧
      exec (.registerWrite w (ctlBase + 0x10018) v) s = .next { s with ctl := { s.ctl with cqb := keepBits v 18 51 } }) ∧
    ((w ≠ .keystone ∧ w ≠ .summit) ∨ (∃ x ∈ s.spurs, x.placed = true) →
      ∀ o ∈ [0x10000, 0x10008, 0x10010, 0x10018], exec (.registerWrite w (ctlBase + o) v) s = .next s)

/-- Command queues, PASID teardown, domain queues (log 81), gating and the root registers. -/
def Obligations.QueuesAndRegisters : Prop := Says.QueueEvents ∧ Says.DeviceRegisters

/-- Registers of device control space (R275, R385, R395, R412, R419, R424, R440): the dump, free-ring and trace-ring registers
keep the bits of their fields; the power limit keeps a value in its range, written by the management port too; a register
that is only read, and an address that names none, keep what they hold; DF of a notify register is its descriptor's; and
the management port and a virtual function of the host reach no other register than theirs (which aperture pages a virtual
function has is not the spec's: log 126). -/
def Obligations.ControlSpace : Prop :=
  ∀ (s : State) (w : Writer) (v : W64) (i r q o : Nat),
    let put (o : Nat) : Out := exec (.registerWrite w (ctlBase + o) v) s
    let ring (f : FreeRing → FreeRing) : Out := .next { s with ctl := s.ctl.modRing i f }
    let trace (f : TraceRing → TraceRing) : Out := .next { s with ctl := s.ctl.modTrace r f }
    let at_ : Nat := 0x20000 + 0x100 * (i / 2) + 0x20 * (i % 2)
    let n : Nat := v.toNat % 4096
    (w = .keystone ∨ w = .summit →
      put 0x10030 = .next { s with ctl := { s.ctl with fdb := keepBits v 20 51 } } ∧
      put 0x10038 = .next { s with ctl := { s.ctl with fdl := keepBits v 20 39 } } ∧
      (i < 8 →
        put at_ = ring (fun x => { x with frb := keepBits v 12 51 }) ∧
        put (at_ + 8) = ring (fun x => { x with frn := keepBits v 0 15 }) ∧
        put (at_ + 16) = ring (fun x => { x with frh := ringWrap x v }) ∧
        put (at_ + 24) = ring (fun x => { x with frt := ringWrap x v })) ∧
      (r < 192 →
        put (0x30000 + 0x20 * r) = trace (fun x => { x with trb := keepBits v 12 51 }) ∧
        put (0x30000 + 0x20 * r + 8) = trace (fun x => { x with trn := keepBits v 0 4 }) ∧
        put (0x30000 + 0x20 * r + 16) = trace (fun x => { x with trh := keepBits v 0 31 }))) ∧
    (w = .keystone ∨ w = .summit ∨ w = .management → put 0x40000 =
      .next (if 400 ≤ n ∧ n ≤ 2600 then { s with ctl := { s.ctl with pwl := BitVec.ofNat 64 n } } else s)) ∧
    (∀ o ∈ [0x10040, 0x40008, 0x10048, 0x50000], put o = .next s) ∧
    (r < 192 → put (0x41000 + 8 * r) = .next s) ∧
    (w = .management → o % 8 = 0 → o ≠ 0x40000 → put o = .next s) ∧
    (∀ fn : BitVec 6, fn ≠ 0 → o % 8 = 0 → 0x8000 ≤ o →
      exec (.registerWrite (.host fn) (ctlBase + o) v) s = .next s) ∧
    (q < 4096 → ctlRead s (8 * q) =
      BitVec.ofNat 64 ((s.ctl.notify? q).tail.toNat + if (s.qDesc q).df = true then 2 ^ 63 else 0)) ∧
    ctlRead s 0x50000 = 0

/-- A handler's actions on a stopped spur (R407, R408): resume, skip the word that faulted, retire, breaks off, and node
off; the answer in bits 3 to 0 of `fax` is 0, or 1 for a spur that is not stopped, 2 for a handle that names none. The order of the results of `fax` is log 108. -/
def Sys2Proof.Says.HandlerActions : Prop :=
  ∀ (s : State) (w : Writer) (h : Handle) (sp : Spur), w = .keystone ∨ w = .summit → s.spur? h = some sp →
    let said (t : State) (act res : Nat) : State :=
      { t with ctl := { t.ctl with fax := (faxWord h act &&& 0xFFFFFFFFF0000000) ||| BitVec.ofNat 64 res } }
    let goes (y : Spur) : State := claimTurn (s.setSpur (y.handlerResume s.now)) h
    let skipped : Spur := sp.modLive fun b => { b with th := { b.th with pc := b.th.pc + 8 } }
    (sp.life = .stopped → sp.final = false →
      exec (.faultActionResume w h) s = .next (said (goes sp) 1 0) ∧
      exec (.faultActionSkip w h) s = .next (if sp.sStop then said (goes skipped) 2 0 else said s 2 3) ∧
      exec (.faultActionRetire w h) s = .next (said (s.setSpur { sp with final := true }) 3 0) ∧
      exec (.faultActionBreaksOff w h) s = .next (said (goes sp.breaksOff) 4 0) ∧
      exec (.faultActionNodeOff w h) s = .next (said (goes (sp.nodeOff (s.ctl.faa.extractLsb' 0 32))) 5 0)) ∧
    (sp.life ≠ .stopped → exec (.faultActionResume w h) s = .next (said s 1 1)) ∧
    (∀ g, s.spur? g = none → exec (.faultActionResume w g) s = .next { s with ctl := { s.ctl with
      fax := (faxWord g 1 &&& 0xFFFFFFFFF0000000) ||| 2 } }) ∧
    (sp.handlerResume s.now).life = .running ∧ (sp.handlerResume s.now).live = sp.live.openRound ∧
    (∀ k ∈ sp.breaksOff.live.ctxs, k.cst.getLsbD 12 = false) ∧ sp.breaksOff.live.th.sst.getLsbD 12 = false

/-- Errors and links (R394, R409): an uncorrectable read makes its round retried once for an address and four times in all,
and after that is a data-lost fault, which names the firing that read; errors of one address in one execution of the round count
once, which is the model's span (log 139);
corrected errors are counted; a scrub logs what it found, and the words of memory among them stay bad; the spurs at the ends of a failed link
take its fault. What an error in a held write or in the spur's own state does (log 85), the
scrubber's entry (log 86) and the address of a word of SRAM in it (log 139), and that a lintel's reload wakes the package from gating (log 91), are the model's readings. -/
def Sys2Proof.Says.ErrorEvents : Prop :=
  ∀ (s : State) (who : AgentId) (slot : Option (BitVec 4)) (sp : Spur) (space : BitVec 8) (addr : W64) (l : List BadWord)
    (link : BitVec 8),
    let h : Handle := AgentId.handle who
    let key : Nat := space.toNat * 2 ^ 64 + addr.toNat
    let lost (space : BitVec 8) (addr : W64) : Cause :=
      ⟨11, addr, 0xFFFFFFFF, 0xFF, 0xFF, [], space :: zeros 15, 0, 0, none⟩
    let at_ (f : Spur → Spur) : State := s.modSpur h f
    let errs : Out := exec (.uncorrectableError (.read who slot space addr)) s
    let now : Spur := { sp with badNow := sp.badNow ++ [key] }
    (s.spur? h = some sp → sp.life = .running → sp.final = false →
      (key ∉ sp.badNow → key ∉ sp.retried → sp.tries < 4 → errs = .next (at_ fun _ => { now with retry := true })) ∧
      (key ∉ sp.badNow → key ∈ sp.retried ∨ 4 ≤ sp.tries →
        errs = .next (at_ fun _ => now.addCause (readCause s who slot space addr))) ∧
      (key ∈ sp.badNow → errs = .next (at_ fun _ => sp)) ∧
      exec (.uncorrectableError (.spurState h true)) s = .next (at_ fun _ => { sp with retry := true }) ∧
      exec (.uncorrectableError (.spurState h false)) s = .next (at_ fun _ => sp.addCause (lost 4 0)) ∧
      exec (.uncorrectableError (.heldWrite h)) s = .next (at_ fun _ => { sp with retry := true })) ∧
    (∀ c k n i g x, who = .ctx c → slot = some n → s.ctx? c = some k → k.instr? n.toNat = some i → guardOf i = some (.b g) →
      enterB s c n i g = some x → readCause s who slot space addr = x.cause ⟨11, addr, space :: zeros 15, none⟩) ∧
    (∀ x, enterS s h = some x → who = .thread h →
      readCause s who slot space addr = x.cause ⟨11, addr, space :: zeros 15, none⟩) ∧
    (∀ j k, s.job? j = some k → k.st = .running → exec (.uncorrectableError (.engineRead j addr)) s =
      .next (s.setJob { k with code := 9, errN := k.reached addr.toNat, value := addr, out := [] })) ∧
    exec .correctedError s = .next { s with corrected := s.corrected + 1 } ∧
    (∃ t, exec (.scrub l) s = .next t ∧ t.mem = s.mem ∧ (∀ a, .mem a ∈ l → a ∈ t.badWords) ∧
      (∀ a ∈ t.badWords, a ∈ s.badWords ∨ .mem a ∈ l) ∧
      t.klog = s.klog ++ l.map fun b => record 3 11 (BitVec.ofNat 64 (badPlace b).2) 0 0 0xFFFFFFFF 0xFF 0xFF 0 []
        ((badPlace b).1 :: zeros 15)) ∧
    (∃ t, exec (.linkFailure link) s = .next t ∧ link ∈ t.links ∧ t.mem = s.mem ∧
      ∀ x vc g p y, s.wires = [x] → (link, vc) ∈ s.linksOf x → x.dst = .spur g p → s.spur? g = some y →
        ∃ z, t.spur? g = some z ∧ z.linkDown = some (link, vc)) ∧
    exec .lintelReload s = .next { s with gated := false }

/-- The fatal stop (R418 to R420, R425): the package stops, and where a region is named its dump is written there and
counted; the watchdog stops it with cause 3, and a thermal emergency or a junction at 110 degrees with cause 4. With no
region, only the cause is told. Another cause than the four is none. The layout of the dump's entries is the model's choice
(log 125). That ST is 0 and SEQ not raised where `fdb` is 0 is log 87. -/
def Sys2Proof.Says.FatalStops : Prop :=
  ∀ (s : State) (cause : BitVec 16), s.stopped = false →
    let seq : Nat := s.ctl.fds.toNat / 2 ^ 32
    let len : Nat := bitsOf s.ctl.fdl.toNat 20 20 * 2 ^ 20
    let whole : Bool := decide (64 + (dumpParts s).length ≤ len)
    let told (n : Nat) : State := { s with stopped := true, ctl := { s.ctl with
      fds := BitVec.ofNat 64 (seq * 2 ^ 32 + n * 2 ^ 16) } }
    let dumped (n : Nat) : State := { s with
      stopped := true
      mem := writeBytes s.mem s.ctl.fdb.toNat (dumpBytes s (seq + 1) n len)
      ctl := { s.ctl with fds := BitVec.ofNat 64 ((seq + 1) * 2 ^ 32 + n * 2 ^ 16 + if whole then 2 else 3) }
      signals := s.signals ++ [.dump n] }
    let stops (i : Instr) (n : Nat) : Prop := exec i s = .next (if s.ctl.fdb = 0 then told n else dumped n)
    (1 ≤ cause.toNat ∧ cause.toNat ≤ 4 → stops (.fatalStop cause) cause.toNat) ∧
    (cause = 0 ∨ 4 < cause.toNat → exec (.fatalStop cause) s = .next s) ∧
    stops .keystoneWatchdogExpiry 3 ∧ stops .thermalEmergency 4 ∧
    (∀ (p : BitVec 12) (tj : BitVec 8), 110 ≤ tj.toNat → ∃ t, exec (.throttleAdjust p tj) s = .next t ∧ t.stopped = true ∧
      bitsOf t.ctl.fds.toNat 16 16 = 4) ∧
    (dumpBytes s (seq + 1) 4 (64 + (dumpParts s).length)).drop 64 = dumpParts s ∧
    ∀ k, dumpParts { s with klog := s.klog ++ [k] } =
      dumpOf 1 (s.klog ++ [k]) ++ (dumpParts s).drop (dumpOf 1 s.klog).length

/-- Handler actions, memory and link errors (logs 91 and 139), and the fatal stop with its dump. -/
def Obligations.HandlersErrorsAndStops : Prop := Says.HandlerActions ∧ Says.ErrorEvents ∧ Says.FatalStops

/-- Ridges power on one by one, two microseconds apart at the earliest (R421); the throttle level rises over the limit or
at 95 degrees, and falls below both (R423); an ageing update writes its margin word (R426); boot measures a verified
image, or stays in the ROM loader, which takes another one (R427, R428); a warm reset keeps tier-1 memory, and a loss
of power only flash and fuses (R418); an attestation request is answered with the measurement, signed, and a debug
unlock asks for a verified signature (R429); an ATS invalidation waits for the rounds that hold writes of the range,
which go stale, and for the loads of it still to return (R279, R395). What a warm reset keeps beyond tier-1 memory
(presence bits, bad words, flash, the fused minimum, issued handles, SEQ) and clears (the unlock flag, the count of
cycles), and what stays through a loss of power (log 5), that readings come at any time (log 88), the order of a
report's fields (log 8), and what an ATS invalidation does to open rounds (log 90), are the model's choices. -/
def Obligations.HealthEvents : Prop :=
  ∀ (s : State) (p : BitVec 12) (tj mrg : BitVec 8) (ridge : Nat) (life : BitVec 32) (slow : BitVec 16)
    (img sig : List Byte) (nonce : BitVec 256) (base len : Nat),
    let limit : Nat := s.ctl.pwl.toNat
    let level : Nat := bitsOf s.ctl.pws.toNat 40 4
    let next : Nat := if limit < p.toNat ∨ 95 ≤ tj.toNat then min 15 (level + 1)
      else if p.toNat + 50 ≤ limit ∧ tj.toNat ≤ 90 then level - 1 else level
    let seq : Nat := s.ctl.fds.toNat / 2 ^ 32
    let fresh (flash : List Byte) : State := { State.reset with
      tick := s.tick, pkg := s.pkg, mem := s.mem, full := s.full, badWords := s.badWords, issued := s.issued
      flash := flash, fuse := s.fuse, resets := s.resets + 1
      ctl := { Ctl.reset with fds := BitVec.ofNat 64 (seq * 2 ^ 32) } }
    (s.powered < 192 → 2 * Config.cyclesPerUs * s.powered ≤ s.now →
      exec .ridgePowerOn s = .next { s with powered := s.powered + 1 }) ∧
    (tj.toNat < 110 → exec (.throttleAdjust p tj) s = .next { s with ctl := { s.ctl with
      pws := BitVec.ofNat 64 (next * 2 ^ 40 + tj.toNat * 2 ^ 32 + p.toNat) } }) ∧
    exec (.ageingUpdate ridge life slow mrg) s = .next { s with ctl := { s.ctl with
      agm := upd s.ctl.agm ridge fun _ => BitVec.ofNat 64 (life.toNat * 2 ^ 32 + slow.toNat * 2 ^ 16 + mrg.toNat * 2 ^ 8 +
        if life.toNat < 1000 then 1 else 0) } } ∧
    (s.boot = .off → exec .secureBoot s = .next (if imageGood s.flash s.fuse = true then { s with
      boot := .booted, measurement := some (imageDigest s.flash), svn := imageSvn s.flash, fuse := imageSvn s.flash }
      else { s with boot := .loader })) ∧
    (s.boot = .loader → exec (.romLoaderRecovery img) s = .next (if imageGood img s.fuse = true then fresh img else s)) ∧
    exec .warmReset s = .next (fresh s.flash) ∧
    exec .powerLoss s = .next { State.reset with
      tick := s.tick, pkg := s.pkg, issued := s.issued, flash := s.flash, fuse := s.fuse } ∧
    exec (.attestationRequest nonce) s = .next { s with reports := s.reports ++
      [⟨s.measurement, s.svn, s.fuse, nonce, s.unlocked, s.resets,
        Config.falconSign s.measurement s.svn s.fuse nonce s.unlocked s.resets⟩] } ∧
    exec (.debugUnlock sig) s = .next (if Config.unlockVerify sig = true then { s with unlocked := true } else s) ∧
    ((∀ x ∈ s.spurs, x.holdsHost base len = false ∧ x.loadsHost base len = false) →
      exec (.atsInvalidation base len) s = .next { s with signals := s.signals ++ [.ats base len] }) ∧
    ((∃ x ∈ s.spurs, x.holdsHost base len = true ∨ x.loadsHost base len = true) → exec (.atsInvalidation base len) s = .next { s with
      spurs := s.spurs.map fun x => if x.holdsHost base len then { x with stale := true } else x })
end

