-- ==== Sys2Proof/Laws/Memory.lean ====
section
/-! SUPPORT. The laws of memory: every operation on cells keeps the canonical form, a read after a write gives what was
written there and what stood elsewhere, and memories that read alike are equal. -/

namespace Sys2Proof.Machine

open Sys2Proof

/-! ## The canonical form -/

/-- A bound on the addresses may be lowered. -/
theorem wfFrom_mono {m : List Host.Cell} : ∀ {a b : Nat}, b ≤ a → wfFrom a m = true → wfFrom b m = true := by
  cases m with
  | nil => intros; rfl
  | cons c r =>
    intro a b h hw
    simp only [wfFrom, Bool.and_eq_true, decide_eq_true_eq] at hw ⊢
    exact ⟨⟨by omega, hw.1.2⟩, hw.2⟩

/-- A byte written at or above a bound keeps the form above it. -/
theorem wfFrom_writeByte {m : List Host.Cell} : ∀ {lo k : Nat} (v : Byte), lo ≤ k → wfFrom lo m = true →
    wfFrom lo (writeByte m k v) = true := by
  induction m with
  | nil =>
    intro lo k v h _
    by_cases hv : v = unlisted <;> simp [writeByte, wfFrom, hv, h]
  | cons c r ih =>
    obtain ⟨a, b⟩ := c
    intro lo k v h hw
    simp only [wfFrom, Bool.and_eq_true, decide_eq_true_eq] at hw
    obtain ⟨⟨h1, h2⟩, h3⟩ := hw
    simp only [writeByte]
    split
    · split
      · simp_all [wfFrom]
      · rename_i h4 h5
        have : (v != unlisted) = true := by simpa using h5
        simp_all [wfFrom]
    · split
      · split
        · exact wfFrom_mono (by omega) h3
        · rename_i h4 h5 h6
          have : (v != unlisted) = true := by simpa using h6
          simp_all [wfFrom]
      · simp only [wfFrom, Bool.and_eq_true, decide_eq_true_eq]
        exact ⟨⟨h1, h2⟩, ih v (by omega) h3⟩

/-- A written byte keeps the canonical form. -/
@[simp] theorem wf_writeByte {m : List Host.Cell} (k : Nat) (v : Byte) (h : Memory.wf m = true) :
    Memory.wf (writeByte m k v) = true := wfFrom_writeByte v (Nat.zero_le k) h

/-- Written bytes keep the canonical form. -/
@[simp] theorem wf_writeBytes (l : List Byte) : ∀ {m : List Host.Cell} (a : Nat), Memory.wf m = true →
    Memory.wf (writeBytes m a l) = true := by
  induction l with
  | nil => intro m a h; exact h
  | cons b r ih => intro m a h; exact ih _ (wf_writeByte a b h)

/-- A written number keeps the canonical form. -/
@[simp] theorem wf_writeNat {m : List Host.Cell} (a n v : Nat) (h : Memory.wf m = true) :
    Memory.wf (writeNat m a n v) = true := wf_writeBytes _ a h

/-- A write of the device or an agent outside control space keeps the canonical form (R440). -/
theorem physWrite_wf {s : State} (w : Writer) {pa : Nat} (l : List Byte) (hc : isCtlSpace pa = false)
    (h : Memory.wf s.mem = true) : Memory.wf (s.physWrite w pa l).mem = true := by
  simp [State.physWrite, hc, State.rewritten, wf_writeBytes l pa h]

/-- A number that the device writes outside control space keeps the canonical form (R440). -/
theorem putNat_wf {s : State} {pa : Nat} (n v : Nat) (hc : isCtlSpace pa = false) (h : Memory.wf s.mem = true) :
    Memory.wf (s.putNat pa n v).mem = true := by
  simp [State.putNat, hc, State.rewritten, wf_writeNat pa n v h]

/-- Dropping cells keeps the form. -/
theorem wfFrom_filter (p : Host.Cell → Bool) {m : List Host.Cell} : ∀ {lo : Nat}, wfFrom lo m = true →
    wfFrom lo (m.filter p) = true := by
  induction m with
  | nil => intros; rfl
  | cons c r ih =>
    intro lo h
    simp only [wfFrom, Bool.and_eq_true, decide_eq_true_eq] at h
    simp only [List.filter_cons]
    split
    · simp only [wfFrom, Bool.and_eq_true, decide_eq_true_eq]
      exact ⟨h.1, ih h.2⟩
    · exact wfFrom_mono (by omega) (ih h.2)

/-- Dropping cells keeps the canonical form. -/
@[simp] theorem wf_filter (p : Host.Cell → Bool) {m : List Host.Cell} (h : Memory.wf m = true) :
    Memory.wf (m.filter p) = true := wfFrom_filter p h

/-- Every cell of a list in the form lies at or above its bound. -/
theorem wfFrom_ge {m : List Host.Cell} : ∀ {lo : Nat}, wfFrom lo m = true → ∀ c ∈ m, lo ≤ c.1 := by
  induction m with
  | nil => intro lo _ c h; simp at h
  | cons d r ih =>
    intro lo h c hc
    simp only [wfFrom, Bool.and_eq_true, decide_eq_true_eq] at h
    rcases List.mem_cons.1 hc with rfl | hc
    · exact h.1.1
    · have := ih h.2 c hc; omega

/-- Two lists in the form, one below a bound that the other lies above, are in the form together. -/
theorem wfFrom_append {m n : List Host.Cell} {b : Nat} (hn : wfFrom b n = true) : ∀ {lo : Nat}, lo ≤ b →
    wfFrom lo m = true → (∀ c ∈ m, c.1 < b) → wfFrom lo (m ++ n) = true := by
  induction m with
  | nil => intro lo h _ _; exact wfFrom_mono h hn
  | cons c r ih =>
    intro lo _ hm hb
    simp only [wfFrom, Bool.and_eq_true, decide_eq_true_eq] at hm
    simp only [List.cons_append, wfFrom, Bool.and_eq_true, decide_eq_true_eq]
    have := hb c List.mem_cons_self
    exact ⟨hm.1, ih (by omega) hm.2 fun d hd => hb d (List.mem_cons_of_mem _ hd)⟩

/-- Cells moved from one address to another keep the form. -/
theorem wfFrom_shift {m : List Host.Cell} (a b : Nat) : ∀ {lo : Nat}, a ≤ lo → wfFrom lo m = true →
    wfFrom (lo - a + b) (m.map fun c => (c.1 - a + b, c.2)) = true := by
  induction m with
  | nil => intros; rfl
  | cons c r ih =>
    intro lo h hm
    simp only [wfFrom, Bool.and_eq_true, decide_eq_true_eq] at hm
    simp only [List.map_cons, wfFrom, Bool.and_eq_true, decide_eq_true_eq]
    refine ⟨⟨by omega, hm.1.2⟩, ?_⟩
    have := ih (lo := c.1 + 1) (by omega) hm.2
    rwa [show c.1 - a + b + 1 = c.1 + 1 - a + b by omega]

/-- Where every cell lies at or above a bound, the form holds above it. -/
theorem wfFrom_raise {m : List Host.Cell} {lo b : Nat} (h : wfFrom lo m = true) (hb : ∀ c ∈ m, b ≤ c.1) :
    wfFrom b m = true := by
  cases m with
  | nil => rfl
  | cons c r =>
    simp only [wfFrom, Bool.and_eq_true, decide_eq_true_eq] at h ⊢
    exact ⟨⟨hb c List.mem_cons_self, h.1.2⟩, h.2⟩

/-- A copied frame keeps the canonical form. -/
@[simp] theorem wf_copyCells {m : List Host.Cell} (src dst size : Nat) (h : Memory.wf m = true) :
    Memory.wf (copyCells m src dst size) = true := by
  have low := wfFrom_filter (fun c => decide (c.1 < dst)) h
  have mid := wfFrom_raise (b := src) (wfFrom_filter (fun c => decide (src ≤ c.1) && decide (c.1 < src + size)) h)
    (by simp +contextual)
  have high := wfFrom_raise (b := dst + size) (wfFrom_filter (fun c => decide (dst + size ≤ c.1)) h) (by simp)
  have mid' := wfFrom_shift src dst (Nat.le_refl src) mid
  rw [Nat.sub_self, Nat.zero_add] at mid'
  unfold copyCells Memory.wf
  rw [List.append_assoc]
  refine wfFrom_append (wfFrom_append high (by omega) mid' ?_) (Nat.zero_le dst) low (by simp)
  simp only [List.mem_map, List.mem_filter, Bool.and_eq_true, decide_eq_true_eq]
  rintro _ ⟨c, ⟨_, h1, h2⟩, rfl⟩
  simp only
  omega

/-! ## Reads after writes -/

/-- Below the bound of a list nothing is listed. -/
theorem readByte_below {m : List Host.Cell} : ∀ {lo k : Nat}, k < lo → wfFrom lo m = true → readByte m k = unlisted := by
  cases m with
  | nil => intros; rfl
  | cons c r =>
    intro lo k h hw
    simp only [wfFrom, Bool.and_eq_true, decide_eq_true_eq] at hw
    simp only [readByte]
    rw [if_pos (by omega)]

/-- The form above a bound: what a read after a write gives. -/
theorem readByte_writeByte_from {m : List Host.Cell} : ∀ {lo : Nat} (k j : Nat) (v : Byte), wfFrom lo m = true →
    readByte (writeByte m k v) j = if j = k then v else readByte m j := by
  induction m with
  | nil =>
    intro lo k j v _
    by_cases hv : v = unlisted <;> simp only [writeByte, hv, if_true, if_false, readByte]
    · split <;> simp_all
    · by_cases h1 : j < k <;> by_cases h2 : j = k <;> simp_all
      omega
  | cons c r ih =>
    obtain ⟨a, b⟩ := c
    intro lo k j v hw
    simp only [wfFrom, Bool.and_eq_true, decide_eq_true_eq] at hw
    obtain ⟨⟨h1, h2⟩, h3⟩ := hw
    simp only [writeByte]
    split
    · rename_i hk
      split
      · rename_i hv
        by_cases hj : j = k
        · subst hj; simp [readByte, hk, hv]
        · simp [hj]
      · by_cases hj : j = k
        · subst hj; simp [readByte]
        · simp only [readByte, hj, if_false]
          by_cases hl : j < k
          · simp [hl, show j < a by omega]
          · simp [hl, Ne.symm hj]
    · split
      · rename_i hk hak
        subst hak
        split
        · rename_i hv
          by_cases hj : j = a
          · subst hj; simp [readByte_below (Nat.lt_succ_self j) h3, hv]
          · simp only [readByte, hj, if_false, Ne.symm hj]
            by_cases hl : j < a
            · rw [if_pos hl, readByte_below (by omega) h3]
            · simp [hl]
        · by_cases hj : j = a
          · subst hj; simp [readByte]
          · simp [readByte, hj, Ne.symm hj]
      · rename_i hk hak
        by_cases hj : j = k
        · subst hj
          have : ¬ j < a := by omega
          simp only [readByte, this, if_false, hak, if_true]
          rw [ih (lo := a + 1) j j v h3]; simp
        · simp only [readByte, hj, if_false]
          split
          · rfl
          · split
            · rfl
            · rw [ih (lo := a + 1) k j v h3]; simp [hj]

/-- A read after the write of a byte. -/
theorem readByte_writeByte {m : List Host.Cell} (k j : Nat) (v : Byte) (h : Memory.wf m = true) :
    readByte (writeByte m k v) j = if j = k then v else readByte m j := readByte_writeByte_from k j v h

/-- A read of a byte after a write of bytes: in the written range it gives the byte written there, and elsewhere what
stood there. -/
theorem readByte_writeBytes (l : List Byte) : ∀ {m : List Host.Cell} (a j : Nat), Memory.wf m = true →
    readByte (writeBytes m a l) j = if h : a ≤ j ∧ j - a < l.length then l[j - a] else readByte m j := by
  induction l with
  | nil => intro m a j _; simp [writeBytes]
  | cons b r ih =>
    intro m a j h
    simp only [writeBytes]
    rw [ih (a + 1) j (wf_writeByte a b h), readByte_writeByte a j b h]
    by_cases h1 : j = a
    · subst h1
      simp
    · by_cases h2 : a + 1 ≤ j ∧ j - (a + 1) < r.length
      · have h3 : a ≤ j ∧ j - a < (b :: r).length := by simp; omega
        have h4 : j - a = (j - (a + 1)) + 1 := by omega
        rw [dif_pos h2, dif_pos h3]
        simp only [h4, List.getElem_cons_succ]
      · have h3 : ¬ (a ≤ j ∧ j - a < (b :: r).length) := by simp; omega
        rw [dif_neg h2, dif_neg h3, if_neg h1]

/-- Written bytes leave every other byte alone. -/
theorem readByte_writeBytes_other {m : List Host.Cell} (l : List Byte) (a j : Nat) (h : Memory.wf m = true)
    (hj : j < a ∨ a + l.length ≤ j) : readByte (writeBytes m a l) j = readByte m j := by
  rw [readByte_writeBytes l a j h, dif_neg (by omega)]

/-- A read gives as many bytes as it asks for. -/
@[simp] theorem length_readBytes (m : List Host.Cell) (n : Nat) : ∀ a, (readBytes m a n).length = n := by
  induction n with
  | zero => intro a; rfl
  | succ n ih => intro a; simp [readBytes, ih]

/-- The bytes of a read. -/
theorem getElem_readBytes (m : List Host.Cell) (n : Nat) : ∀ (a i : Nat) (h : i < (readBytes m a n).length),
    (readBytes m a n)[i] = readByte m (a + i) := by
  induction n with
  | zero => intro a i h; simp [readBytes] at h
  | succ n ih =>
    intro a i h
    cases i with
    | zero => rfl
    | succ i => simp only [readBytes, List.getElem_cons_succ, ih]; congr 1; omega

/-- A read of the range just written gives what was written. -/
theorem readBytes_writeBytes {m : List Host.Cell} (l : List Byte) (a : Nat) (h : Memory.wf m = true) :
    readBytes (writeBytes m a l) a l.length = l := by
  apply List.ext_getElem (by simp)
  intro i h1 h2
  rw [getElem_readBytes, readByte_writeBytes l a _ h, dif_pos ⟨by omega, by omega⟩]
  simp

/-- A read off the range just written gives what stood there. -/
theorem readBytes_writeBytes_other {m : List Host.Cell} (l : List Byte) (a b n : Nat) (h : Memory.wf m = true)
    (hd : b + n ≤ a ∨ a + l.length ≤ b) : readBytes (writeBytes m a l) b n = readBytes m b n := by
  apply List.ext_getElem (by simp)
  intro i h1 h2
  simp only [length_readBytes] at h1
  rw [getElem_readBytes, getElem_readBytes, readByte_writeBytes_other l a _ h (by omega)]

/-! ## Canonical memories are equal where they read alike -/

/-- Two lists in the form above one bound that read alike are equal. -/
theorem wfFrom_ext {m n : List Host.Cell} : ∀ {lo : Nat}, wfFrom lo m = true → wfFrom lo n = true →
    (∀ k, readByte m k = readByte n k) → m = n := by
  induction m generalizing n with
  | nil =>
    intro lo _ hn h
    cases n with
    | nil => rfl
    | cons c r =>
      simp only [wfFrom, Bool.and_eq_true, decide_eq_true_eq] at hn
      have := h c.1
      simp [readByte] at this
      simp [this] at hn
  | cons c r ih =>
    obtain ⟨a, b⟩ := c
    intro lo hm hn h
    simp only [wfFrom, Bool.and_eq_true, decide_eq_true_eq] at hm
    cases n with
    | nil =>
      have := h a
      simp [readByte] at this
      simp [this] at hm
    | cons d q =>
      obtain ⟨a', b'⟩ := d
      simp only [wfFrom, Bool.and_eq_true, decide_eq_true_eq] at hn
      have hb : b ≠ unlisted := by simpa using hm.1.2
      have hb' : b' ≠ unlisted := by simpa using hn.1.2
      have haa : a = a' := by
        have h1 := h a
        have h2 := h a'
        simp only [readByte, lt_irrefl, if_false, if_true] at h1 h2
        by_contra hne
        rcases Nat.lt_or_gt_of_ne hne with hl | hl
        · rw [if_pos hl] at h1; exact hb h1
        · rw [if_pos hl] at h2; exact hb' h2.symm
      subst haa
      have hbb : b = b' := by have := h a; simpa [readByte] using this
      subst hbb
      congr 1
      refine ih hm.2 hn.2 fun k => ?_
      have := h k
      simp only [readByte] at this
      by_cases h1 : k < a
      · rw [readByte_below (by omega) hm.2, readByte_below (by omega) hn.2]
      · by_cases h2 : a = k
        · subst h2
          rw [readByte_below (Nat.lt_succ_self _) hm.2, readByte_below (Nat.lt_succ_self _) hn.2]
        · simpa [h1, h2] using this

/-- Memories in the canonical form that read alike are equal. -/
theorem Memory.ext {m n : List Host.Cell} (hm : Memory.wf m = true) (hn : Memory.wf n = true)
    (h : ∀ k, readByte m k = readByte n k) : m = n := wfFrom_ext hm hn h

end Sys2Proof.Machine
end

