-- ==== Sys2Proof/Laws/Run.lean ====
section
/-! SUPPORT. What running an instruction can do: one lemma for the run of an instruction that begins, and the rules by
which a claim about a meaning follows from its body. -/

namespace Sys2Proof.Machine

open Sys2Proof

/-! ## Turns -/

/-- A turn that is taken is the next state where no device access of it meets a migration; else the package stands as before
it (R280). -/
theorem orWait_next {z t : State} {o : Out} (h : orWait z o = .next t) :
    (o = .next t ∧ t.heldUp = false) ∨ (t = z ∧ ∃ u, o = .next u ∧ u.heldUp = true) := by
  cases o with
  | next u =>
    cases hu : u.heldUp <;> simp [orWait, hu] at h
    · subst h; exact .inl ⟨rfl, hu⟩
    · exact .inr ⟨h.symm, u, rfl, hu⟩
  | fault f => simp [orWait] at h
  | refused r => simp [orWait] at h

/-! ## Beginning -/

/-- An instruction that begins runs its body and ends (R39, R63). -/
theorem run_begins {i : Instr} {g : Guard} {s : State} {x : Ex} (f : Ex → Ex) (h : begins i g s = some x) :
    run i g f s = .next (ended i s (f x)) := by
  unfold begins at h
  unfold run ended
  cases g with
  | b gd =>
    cases ha : s.agent with
    | firing c n =>
      simp only [ha, Option.filter_eq_some_iff] at h ⊢
      obtain ⟨h1, h2⟩ := h
      simp at h2
      obtain ⟨⟨⟨h3, h4⟩, _⟩, h5⟩ := h2
      simp only [h1]
      simp [h3, h4]
      intro h6
      rcases h5 with h5 | h5
      · simp [h5] at h6
      · omega
    | _ => simp [ha] at h
  | s gd =>
    cases ha : s.agent with
    | thread c =>
      simp only [ha, Option.filter_eq_some_iff] at h ⊢
      obtain ⟨h1, h2⟩ := h
      simp at h2
      obtain ⟨⟨⟨h3, h4⟩, _⟩, h5⟩ := h2
      simp only [h1]
      simp [h3, h4]
      intro h6 h7
      cases h5 with
      | inl h => simp [h] at h6
      | inr h => simp [h] at h7
    | _ => simp [ha] at h

/-- What the view of a firing that begins holds. -/
theorem begins_brick {i : Instr} {g : BGuard} {s : State} {x : Ex} (h : begins i (.b g) s = some x) :
    ∃ c n, s.agent = .firing c n ∧ x.who = .ctx c ∧ x.slot = n ∧ x.isB = true ∧ x.fault = none ∧ x.wait = false ∧
      x.npc = none ∧ x.s = s ∧ x.cx = x.cx0 ∧ x.g = g ∧ x.c = ctlBit x.cx0 g ∧ x.arm = guardArm i x.cx0 g ∧
      x.bank = guardBank x.cx0 g x.arm ∧ s.spur? c.h = some x.sp ∧ x.sp.live.brick? c.row c.col = some x.br ∧
      x.sp.live.ctx? c.row c.col c.ctx = some x.cx0 ∧ x.th = x.sp.live.th ∧
      guardHolds g x = true ∧ ready i x = true ∧ x.cx0.load = none := by
  unfold begins at h
  cases ha : s.agent with
  | firing c n =>
    simp only [ha, Option.filter_eq_some_iff] at h
    obtain ⟨h, h2⟩ := h
    simp only [Bool.and_eq_true] at h2
    unfold enterB at h
    split at h
    · simp at h
    · split at h
      · simp at h
        subst h
        refine ⟨c, n, ?_⟩
        simp_all [Ex.isB]
      · simp at h
  | _ => simp [ha] at h

/-- What the view of a thread's instruction that begins holds. -/
theorem begins_thread {i : Instr} {g : SGuard} {s : State} {x : Ex} (h : begins i (.s g) s = some x) :
    ∃ h', s.agent = .thread h' ∧ x.who = .thread h' ∧ x.isB = false ∧ x.fault = none ∧ x.wait = false ∧ x.npc = none ∧
      x.s = s ∧ x.cx = x.cx0 ∧ x.cx0 = Ctx.blank 0 0 0 ∧ s.spur? h' = some x.sp ∧ x.th = x.sp.live.th ∧
      sGuardHolds g x.th = true ∧ ready i x = true ∧ x.th.load = none ∧ (privileged i = false ∨ x.th.sysMode = true) := by
  unfold begins at h
  cases ha : s.agent with
  | thread c =>
    simp only [ha, Option.filter_eq_some_iff] at h
    obtain ⟨h, h2⟩ := h
    simp only [Bool.and_eq_true, Bool.or_eq_true, Bool.not_eq_true'] at h2
    unfold enterS at h
    split at h
    · simp at h
    · simp at h
      subst h
      refine ⟨c, ?_⟩
      simp_all [Ex.isB]
  | _ => simp [ha] at h

/-- A view that begins carries no fault and does not wait. -/
theorem begins_ok {i : Instr} {g : Guard} {s : State} {x : Ex} (h : begins i g s = some x) : x.ok = true := by
  cases g with
  | b g => obtain ⟨_, _, _, _, _, _, hf, hw, -⟩ := begins_brick h; simp [Ex.ok, hf, hw]
  | s g => obtain ⟨_, _, _, _, hf, hw, -⟩ := begins_thread h; simp [Ex.ok, hf, hw]

/-- A view that begins holds the context as it stood. -/
theorem begins_cx {i : Instr} {g : Guard} {s : State} {x : Ex} (h : begins i g s = some x) : x.cx = x.cx0 := by
  cases g with
  | b g => obtain ⟨_, _, _, _, _, _, _, _, _, _, hc, -⟩ := begins_brick h; exact hc
  | s g => obtain ⟨_, _, _, _, _, _, _, _, hc, -⟩ := begins_thread h; exact hc

/-- The form of the guard is the form of the agent. -/
theorem begins_isB {i : Instr} {g : Guard} {s : State} {x : Ex} (h : begins i g s = some x) :
    x.isB = (match g with | .b _ => true | .s _ => false) := by
  cases g with
  | b g => obtain ⟨_, _, _, _, _, hb, -⟩ := begins_brick h; exact hb
  | s g => obtain ⟨_, _, _, hb, -⟩ := begins_thread h; exact hb

/-! ## Every meaning is a run -/

/-- A meaning that runs a body under a guard, under that guard's other name. -/
theorem run_of_guard {i : Instr} {g g' : Guard} (body : Ex → Ex) (hg : some g' = some g)
    (h : ∀ s, exec i s = run i g' body s) : ∃ body, ∀ s, exec i s = run i g body s := by
  injection hg with hg
  subst hg
  exact ⟨body, h⟩

/-- Every instruction runs some body under its own guard. -/
theorem exec_run {i : Instr} {g : Guard} (hg : guardOf i = some g) : ∃ body, ∀ s, exec i s = run i g body s := by
  cases i <;> first
    | exact run_of_guard _ hg fun _ => rfl
    | exact nomatch (show none = some g from hg)

/-! ## Claims from bodies -/

/-- A claim that an instruction completes follows from its body. -/
theorem does_of {i : Instr} {g : Guard} {p : Ex → Prop} {f : Ex → Ex} (body : Ex → Ex)
    (hx : ∀ s, exec i s = run i g body s)
    (hb : ∀ s x, begins i g s = some x → p x → body x = f x ∧ (stored i (f x)).ok = true) : Does i g p f := by
  intro s x h hp
  obtain ⟨h1, h2⟩ := hb s x h hp
  exact ⟨h2, by rw [hx, run_begins body h, h1]⟩

/-- A claim that an instruction faults follows from its body. -/
theorem faults_of {i : Instr} {g : Guard} {p : Ex → Prop} {f : Ex → Flt} (body : Ex → Ex)
    (hx : ∀ s, exec i s = run i g body s)
    (hb : ∀ s x, begins i g s = some x → p x → body x = { x with fault := some (f x) }) : Faults i g p f := by
  intro s x h hp
  rw [hx, run_begins body h, hb s x h hp]

/-! ## What keeps a view going -/

/-- Raising a fault on a view that goes on. -/
theorem raise_ok {x : Ex} (h : x.ok = true) (f : Flt) : x.raise f = { x with fault := some f } := by
  simp [Ex.ok] at h
  simp [Ex.raise, h.1]

/-- A predicate write stops nothing. -/
@[simp] theorem putPred_ok (x : Ex) (n : BitVec 3) (v : Bool) : (x.putPred n v).ok = x.ok := by
  unfold Ex.putPred
  split <;> rfl

/-- A bank write stops nothing. -/
@[simp] theorem bankStore_ok (x : Ex) (r c : BitVec 8) (off : Nat) (l : List Byte) : (x.bankStore r c off l).ok = x.ok := by
  unfold Ex.bankStore Ex.markStored Ex.ok
  simp only
  repeat' split
  all_goals rfl

/-- A write through a descriptor stops nothing. -/
@[simp] theorem descWrite_ok (d : Desc) (l : List Nat) : ∀ (x : Ex) (e : Nat), (Ex.descWrite d x e l).ok = x.ok := by
  induction l with
  | nil => intro x e; rfl
  | cons v r ih => intro x e; simp only [Ex.descWrite, ih, bankStore_ok]

/-- A write to a pattern in the own bank stops nothing. -/
@[simp] theorem patWrite_ok (q : Pattern) (l : List Nat) : ∀ (x : Ex) (e : Nat), (Ex.patWrite q x e l).ok = x.ok := by
  induction l with
  | nil => intro x e; rfl
  | cons v r ih => intro x e; simp only [Ex.patWrite, ih, bankStore_ok]

/-- A write to `sw` stops nothing before its words are stored. -/
@[simp] theorem putSw_ok (x : Ex) (l : List Nat) : (x.putSw l).ok = x.ok := by
  unfold Ex.putSw
  split
  · simpa [Ex.ok] using descWrite_ok _ _ x _
  · split
    · simpa [Ex.ok] using patWrite_ok _ _ x _
    · rfl
  · rfl

/-- Flags stop nothing. -/
@[simp] theorem flags_ok (x : Ex) (fl : BitVec 8) : (x.flags fl).ok = x.ok := by
  unfold Ex.flags
  split <;> rfl

/-- A drawn random value stops nothing. -/
@[simp] theorem drawN_ok (x : Ex) : x.drawN.1.ok = x.ok := by
  unfold Ex.drawN
  split <;> rfl

/-- A rounding stops nothing. -/
@[simp] theorem rounded_ok (x : Ex) (rm : Nat) (f : Nat → Nat → Res) : (x.rounded rm f).1.ok = x.ok := by
  have draw (b : Bool) : (if b = true then x.drawN.1 else x).ok = x.ok := by cases b <;> simp
  unfold Ex.rounded
  split <;> simp only [flags_ok, draw]

/-- A result written to a destination that accepts it stops nothing. -/
theorem putT_ok {x : Ex} {d : Opnd} (stop : Bool) {v : W64} (h : x.ok = true) (ha : d = .sw ∨ x.accepts d v) :
    (x.putT d stop v).ok = true := by
  unfold Ex.putT
  simp only [h]
  cases d <;> simp_all
  all_goals first | (simpa [Ex.ok] using h) | skip
  simp [Ex.accepts] at ha
  simp [Ex.pushTok, Ex.pushOut, ha]
  simpa [Ex.ok] using h

/-- An instruction that writes no `sw` has nothing left to store. -/
theorem stored_same {i : Instr} {x : Ex} (hw : writesSw i = false) : stored i x = x := by simp [stored, hw]

/-- A result written to the destination of its instruction, where it accepts it, lets the instruction complete. -/
theorem stored_putT {i : Instr} {x : Ex} {d : Opnd} (stop : Bool) {v : W64} (h : x.ok = true) (ha : x.accepts d v)
    (hd : dstOf i = some d) (hl : laneSw i = false) : (stored i (x.putT d stop v)).ok = true := by
  by_cases hsw : d = .sw
  · subst hsw
    have hw : writesSw i = true := by simp [writesSw, hd]
    have hp : x.putT .sw stop v = x.put .sw v := by unfold Ex.put Ex.putT; rfl
    have ho : (x.put .sw v).ok = true := putT_ok false h (.inl rfl)
    simp only [Ex.accepts] at ha
    rw [hp]
    simp only [stored, ho, hw, Bool.and_self, if_true, ha]
  · have hw : writesSw i = false := by simp [writesSw, hl, hd, hsw]
    rw [stored_same hw]
    exact putT_ok stop h (.inr ha)

/-- A claim of a result follows from a body that writes it. -/
theorem result_of {i : Instr} {g : Guard} {d : Opnd} {v : Ex → Nat} (w : Ex → W64)
    (hx : ∀ s, exec i s = run i g (fun x => x.put d (w x)) s) (hd : dstOf i = some d) (hl : laneSw i = false)
    (hb : ∀ s x, begins i g s = some x → w x = BitVec.ofNat 64 (v x)) : Result i g d v := by
  apply does_of _ hx
  intro s x h hp
  exact ⟨by simp only [hb s x h], stored_putT false (begins_ok h) hp hd hl⟩

/-- A claim of a rounded result follows from a body that writes it. -/
theorem rounded_of {i : Instr} {g : Guard} {d : Opnd} {rm : Rm} {r : Ex → Nat → Nat → Res}
    (hx : ∀ s, exec i s = run i g (fun x =>
      (x.rounded (x.mode rm) (r x)).1.put d (BitVec.ofNat 64 (x.rounded (x.mode rm) (r x)).2)) s)
    (hd : dstOf i = some d) (hl : laneSw i = false) : Rounded i g rm d r := by
  refine does_of _ hx fun s x h hp => ⟨rfl, ?_⟩
  exact stored_putT false (by simp [begins_ok h]) hp hd hl

/-- A claim of a result with flags follows from a body that writes it. -/
theorem flagged_of {i : Instr} {g : Guard} {d : Opnd} {r : Ex → Res}
    (hx : ∀ s, exec i s = run i g (fun x => (x.flags (r x).fl).put d (BitVec.ofNat 64 (r x).code)) s)
    (hd : dstOf i = some d) (hl : laneSw i = false) : Flagged i g d r := by
  refine does_of _ hx fun s x h hp => ⟨rfl, ?_⟩
  exact stored_putT false (by simp [begins_ok h]) hp hd hl

end Sys2Proof.Machine
end

