-- ==== Sys2Proof/Laws/Ops.lean ====
section
/-! SUPPORT. What the shared operations of the meanings can do: one lemma for each, which says every way it ends. -/

namespace Sys2Proof.Machine

open Sys2Proof

/-! ## Faults and waits -/

/-- Raising a fault keeps the first one and changes nothing else. -/
theorem raise_cases (x : Ex) (f : Flt) :
    (x.fault = none ∧ x.raise f = { x with fault := some f }) ∨ (x.fault ≠ none ∧ x.raise f = x) := by
  unfold Ex.raise
  cases h : x.fault <;> simp

/-- A raised fault is there. -/
theorem raise_not_ok (x : Ex) (f : Flt) : (x.raise f).ok = false := by
  rcases raise_cases x f with ⟨_, h⟩ | ⟨h, h'⟩
  · simp [h, Ex.ok]
  · rw [h']; cases hf : x.fault <;> simp_all [Ex.ok]

/-! ## Accesses -/

/-- A read of lost data does not go on (R409). -/
theorem lose_not_ok (x : Ex) (sp : BitVec 8) (a : W64) : (x.lose sp a).ok = false := by
  unfold Ex.lose
  simp only
  split
  · exact raise_not_ok _ _
  · simp [Ex.stall, Ex.ok]

/-- A walk that ends without a translation leaves a view that does not go on: data lost, or the fault of the walk
(R269, R409). -/
theorem walkEnds_cases (x : Ex) (va : Nat) (acc : AccK) (f : TFault) :
    (f.kind = .lost ∧ x.walkEnds va acc f = x.lose 3 (BitVec.ofNat 64 f.addr)) ∨
    (f.kind ≠ .lost ∧ x.walkEnds va acc f = x.raise (transFlt x.sp.asid va acc f)) := by
  unfold Ex.walkEnds
  by_cases h : f.kind = .lost <;> simp [h]

/-- A walk that ends without a translation leaves a view that does not go on. -/
theorem walkEnds_not_ok (x : Ex) (va : Nat) (acc : AccK) (f : TFault) : (x.walkEnds va acc f).ok = false := by
  rcases walkEnds_cases x va acc f with ⟨_, h⟩ | ⟨_, h⟩
  · rw [h, lose_not_ok]
  · rw [h, raise_not_ok]

/-- A translation waits while a migration holds its page; one that goes on ends in an address, and one that does not leaves
what ended its walk. -/
theorem translate_cases (x : Ex) (va : Nat) (acc : AccK) (pres : Option Bool) :
    (x.s.migrHolds x.sp.asid va = true ∧ x.translate va acc pres = (x.stall, 0)) ∨
    (∃ s pa e, Machine.translate x.s (bedrock x.sp.massif) x.sp.asid va ⟨acc, x.user, pres⟩ = (s, .ok (pa, e)) ∧
      x.translate va acc pres = ({ x with s := s }, pa)) ∨
    ∃ s f, Machine.translate x.s (bedrock x.sp.massif) x.sp.asid va ⟨acc, x.user, pres⟩ = (s, .error f) ∧
      x.translate va acc pres = (Ex.walkEnds { x with s := s } va acc f, 0) := by
  unfold Ex.translate
  cases hm : x.s.migrHolds x.sp.asid va
  · rcases h : Machine.translate x.s (bedrock x.sp.massif) x.sp.asid va ⟨acc, x.user, pres⟩ with ⟨s, f | ⟨pa, e⟩⟩
    · exact .inr (.inr ⟨s, f, rfl, rfl⟩)
    · exact .inr (.inl ⟨s, pa, e, rfl, rfl⟩)
  · exact .inl ⟨rfl, rfl⟩

/-- An instruction that waits does not go on. -/
theorem stall_not_ok (x : Ex) : x.stall.ok = false := by simp [Ex.stall, Ex.ok]

/-- The check for words that stay bad changes nothing, or the access goes no further (R409). -/
theorem readGood_cases (x : Ex) (va pa n : Nat) : x.readGood va pa n = x ∨ (x.readGood va pa n).ok = false := by
  unfold Ex.readGood
  split
  · exact .inl rfl
  · exact .inr (lose_not_ok _ _ _)

/-- A view that does not go on is as the check for bad words leaves it (R409). -/
theorem readGood_stopped {x : Ex} (h : x.ok = false) (va pa n : Nat) : x.readGood va pa n = x := by
  simp [Ex.readGood, h]

/-- Where a place is formed without a fault, it lies in a bank of the spur, with nothing changed, or at the physical
address of its virtual one (R230 to R232). -/
theorem place_ok {x y : Ex} {tg : Target1} {al n : Nat} {acc : AccK} {pres : Option Bool} {p : Place1}
    (h : x.place tg al n acc pres = (y, p)) (hy : y.ok = true) :
    (∃ t rc, tg = .vault t ∧ y = x ∧ x.vaultBrick (t / 65536) = some rc ∧ t % 65536 + n ≤ x.sp.img.hd.vlt ∧
      p = .bank rc.1 rc.2 (t % 65536) t) ∨
    ∃ va s pa e, tg = .virt va ∧ y = { x with s := s } ∧ p = .phys va pa ∧
      Machine.translate x.s (bedrock x.sp.massif) x.sp.asid va ⟨acc, x.user, pres⟩ = (s, .ok (pa, e)) := by
  unfold Ex.place at h
  cases tg with
  | unset w =>
    simp only [Prod.mk.injEq] at h
    rw [← h.1, raise_not_ok] at hy; cases hy
  | vault t =>
    simp only at h
    split at h
    · simp only [Prod.mk.injEq] at h
      rw [← h.1, raise_not_ok] at hy; cases hy
    · unfold Ex.vaultAt at h
      split at h
      · simp only [Prod.mk.injEq] at h
        rw [← h.1, raise_not_ok] at hy; cases hy
      · split at h
        · simp only [Prod.mk.injEq] at h
          rw [← h.1, raise_not_ok] at hy; cases hy
        · rename_i rc hrc
          split at h
          · rename_i hb
            simp only [Prod.mk.injEq] at h
            exact .inl ⟨t, rc, rfl, h.1.symm, hrc, hb, h.2.symm⟩
          · simp only [Prod.mk.injEq] at h
            rw [← h.1, raise_not_ok] at hy; cases hy
  | virt va =>
    simp only at h
    split at h
    · simp only [Prod.mk.injEq] at h
      rw [← h.1, raise_not_ok] at hy; cases hy
    · rcases translate_cases x va acc pres with ⟨_, h2⟩ | ⟨s, pa, e, h1, h2⟩ | ⟨s, f, h1, h2⟩
      · rw [h2] at h
        simp only [readGood_stopped (stall_not_ok x), ite_self, Prod.mk.injEq] at h
        rw [← h.1, stall_not_ok] at hy; cases hy
      · rw [h2] at h
        simp only [Prod.mk.injEq] at h
        obtain ⟨h, hp⟩ := h
        refine .inr ⟨va, s, pa, e, rfl, ?_, hp.symm, h1⟩
        split at h
        · exact h.symm
        · rcases readGood_cases { x with s := s } va pa n with hr | hr
          · rw [← h, hr]
          · rw [← h, hr] at hy; cases hy
      · rw [h2] at h
        simp only [readGood_stopped (walkEnds_not_ok _ _ _ _), ite_self, Prod.mk.injEq] at h
        rw [← h.1, walkEnds_not_ok] at hy; cases hy

/-- The footprint check changes nothing, or raises its overrun (R254). -/
theorem footCheck_cases (x : Ex) (kind n : Nat) (p : Place1) :
    x.footCheck kind n p = x ∨ ∃ a, x.footCheck kind n p = x.raise (overrun 9 a) := by
  unfold Ex.footCheck
  simp only
  split
  · exact .inl rfl
  · exact .inr ⟨_, rfl⟩

/-- A write that is held waits for room, goes into a bank of the spur, or joins the writes of its round (R234, R397). -/
theorem hold_cases (x : Ex) (kind : WKind) (p : Place1) (l : List Byte) (h : x.ok = true) :
    x.hold kind p l = x.stall ∨
    (∃ r c off t, p = .bank r c off t ∧ x.hold kind p l = x.bankStore r c off l) ∨
    ∃ va pa, p = .phys va pa ∧ x.hold kind p l = x.markStored.joinHeld ⟨x.who, kind, x.sp.asid, va, none, pa, l, x.sys⟩ := by
  unfold Ex.hold
  rw [h]
  cases p with
  | phys va pa =>
    by_cases hw : (x.isB && !false && decide (Config.heldWrites ≤ x.heldCount)) = true
    · exact .inl (by simp only [Bool.not_true, Bool.false_eq_true, if_false, hw, if_true])
    · exact .inr (.inr ⟨va, pa, rfl, by simp only [Bool.not_true, Bool.false_eq_true, if_false, hw]⟩)
  | bank r c off t =>
    by_cases hw : (x.isB && !(x.isB && r == x.br.row && c == x.br.col) && decide (Config.heldWrites ≤ x.heldCount)) = true
    · exact .inl (by simp only [Bool.not_true, Bool.false_eq_true, if_false, hw, if_true])
    · exact .inr (.inl ⟨r, c, off, t, rfl, by simp only [Bool.not_true, Bool.false_eq_true, if_false, hw]⟩)

/-- A loaded value is written at once, or kept until it returns (R234). -/
theorem deliver_cases (x : Ex) (d : Opnd) (v : W64) (r : Option Reach) (h : x.ok = true) :
    (x.s.late = false ∧ x.deliver d v r = x.put d v) ∨
    (x.s.late = true ∧ x.isB = true ∧
      x.deliver d v r = { x with cx := { x.cx with load := some ⟨x.slot, x.bank, v, d, r⟩ } }) ∨
    (x.s.late = true ∧ x.isB = false ∧ x.deliver d v r = { x with th := { x.th with load := some ⟨0, 0, v, d, r⟩ } }) := by
  unfold Ex.deliver
  cases hl : x.s.late <;> cases hb : x.isB <;> simp [h]

/-! ## The end of an instruction -/

/-- A thread's instruction that faults makes a round mark at once (R96). -/
theorem leaveS_fault {h : Handle} {x : Ex} {f : Flt} (hf : x.fault = some f) :
    leaveS h x = roundMark x.s h (some (x.cause f)) := by
  simp [leaveS, hf]

/-- A thread's instruction that waits leaves its thread at the word (R235). -/
theorem leaveS_wait {h : Handle} {x : Ex} (hf : x.fault = none) (hw : x.wait = true) : leaveS h x = x.s := by
  simp [leaveS, hf, hw]

/-- A thread's instruction that completes moves its thread on, but for a load that returns later (R39, R234). -/
theorem leaveS_done {h : Handle} {x : Ex} (hx : x.ok = true) : leaveS h x =
    ({ x with th := { x.th with pc := if x.th.load.isSome then x.th.pc else x.npc.getD (x.th.pc + 8) },
              sp := x.sp.busy x.s.now } : Ex).back := by
  unfold leaveS
  cases hf : x.fault <;> simp_all [Ex.ok]

/-- Every instruction ends in a next state where its agent is there (R39, R63). -/
theorem run_next {i : Instr} {g : Guard} {body : Ex → Ex} {s : State} :
    (∃ t, run i g body s = .next t) ∨ run i g body s = .fault .noAgent := by
  unfold run
  split
  · split
    · exact .inr rfl
    · split
      · split <;> exact .inl ⟨_, rfl⟩
      · exact .inl ⟨_, rfl⟩
  · split
    · exact .inr rfl
    · split
      · exact .inl ⟨_, rfl⟩
      · split
        · exact .inl ⟨_, rfl⟩
        · split <;> exact .inl ⟨_, rfl⟩
  · exact .inr rfl

end Sys2Proof.Machine
end

