-- ==== Sys2Proof/Laws/PerInstr.lean ====
section
/-! SUPPORT. One lemma per constructor: an instruction has a word and a guard, and an event has neither (R26, R27). -/

namespace Sys2Proof.Laws.Listed

open Sys2Proof Sys2Proof.Machine

/-- An instruction has a word and a guard exactly when it is no event. -/
def Statement (i : Instr) : Prop := (encode i).isSome = !i.isEvent ∧ (guardOf i).isSome = !i.isEvent

theorem nop (g : Guard) : Statement (.nop g) := ⟨rfl, rfl⟩
theorem pset (g : Guard) (a b : Opnd) : Statement (.pset g a b) := ⟨rfl, rfl⟩
theorem pand (g : Guard) (d a b : Opnd) : Statement (.pand g d a b) := ⟨rfl, rfl⟩
theorem por (g : Guard) (d a b : Opnd) : Statement (.por g d a b) := ⟨rfl, rfl⟩
theorem pxor (g : Guard) (d a b : Opnd) : Statement (.pxor g d a b) := ⟨rfl, rfl⟩
theorem pandn (g : Guard) (d a b : Opnd) : Statement (.pandn g d a b) := ⟨rfl, rfl⟩
theorem pnot (g : Guard) (d a : Opnd) : Statement (.pnot g d a) := ⟨rfl, rfl⟩
theorem pmov (g : Guard) (d a : Opnd) : Statement (.pmov g d a) := ⟨rfl, rfl⟩
theorem sel (g : BGuard) (n : BitVec 3) (d a b : Opnd) : Statement (.sel g n d a b) := ⟨rfl, rfl⟩
theorem steer (g : BGuard) (d a : Opnd) : Statement (.steer g d a) := ⟨rfl, rfl⟩
theorem merge (g : BGuard) (d a : Opnd) : Statement (.merge g d a) := ⟨rfl, rfl⟩
theorem mergeAny (g : BGuard) (d a : Opnd) : Statement (.mergeAny g d a) := ⟨rfl, rfl⟩
theorem gate (g : BGuard) (d a : Opnd) : Statement (.gate g d a) := ⟨rfl, rfl⟩
theorem done (g : BGuard) : Statement (.done g) := ⟨rfl, rfl⟩
theorem brk (g : Guard) (n : BitVec 6) : Statement (.brk g n) := ⟨rfl, rfl⟩
theorem trap (g : Guard) (n : BitVec 6) (a : Opnd) : Statement (.trap g n a) := ⟨rfl, rfl⟩
theorem mark (g : Guard) (n : BitVec 6) (a : Opnd) : Statement (.mark g n a) := ⟨rfl, rfl⟩
theorem sett (g : BGuard) (n : BitVec 3) (a : Opnd) : Statement (.sett g n a) := ⟨rfl, rfl⟩
theorem seamO (g : BGuard) (n : BitVec 3) : Statement (.seamO g n) := ⟨rfl, rfl⟩
theorem seamJ (g : BGuard) (n : BitVec 2) : Statement (.seamJ g n) := ⟨rfl, rfl⟩
theorem seamAll (g : BGuard) : Statement (.seamAll g) := ⟨rfl, rfl⟩
theorem deq (g : BGuard) (a b : Opnd) : Statement (.deq g a b) := ⟨rfl, rfl⟩
theorem kput (g : BGuard) (n : BitVec 2) (a : Opnd) : Statement (.kput g n a) := ⟨rfl, rfl⟩
theorem kget (g : BGuard) (d : Opnd) : Statement (.kget g d) := ⟨rfl, rfl⟩
theorem add (g : Guard) (d a b : Opnd) : Statement (.add g d a b) := ⟨rfl, rfl⟩
theorem sub (g : Guard) (d a b : Opnd) : Statement (.sub g d a b) := ⟨rfl, rfl⟩
theorem addi (g : Guard) (d a : Opnd) (imm : BitVec 12) : Statement (.addi g d a imm) := ⟨rfl, rfl⟩
theorem mul (g : Guard) (d a b : Opnd) : Statement (.mul g d a b) := ⟨rfl, rfl⟩
theorem mulh (g : Guard) (d a b : Opnd) : Statement (.mulh g d a b) := ⟨rfl, rfl⟩
theorem mulhu (g : Guard) (d a b : Opnd) : Statement (.mulhu g d a b) := ⟨rfl, rfl⟩
theorem div (g : Guard) (d a b : Opnd) : Statement (.div g d a b) := ⟨rfl, rfl⟩
theorem divu (g : Guard) (d a b : Opnd) : Statement (.divu g d a b) := ⟨rfl, rfl⟩
theorem rem (g : Guard) (d a b : Opnd) : Statement (.rem g d a b) := ⟨rfl, rfl⟩
theorem remu (g : Guard) (d a b : Opnd) : Statement (.remu g d a b) := ⟨rfl, rfl⟩
theorem and (g : Guard) (d a b : Opnd) : Statement (.and g d a b) := ⟨rfl, rfl⟩
theorem andi (g : Guard) (d a : Opnd) (imm : BitVec 12) : Statement (.andi g d a imm) := ⟨rfl, rfl⟩
theorem or (g : Guard) (d a b : Opnd) : Statement (.or g d a b) := ⟨rfl, rfl⟩
theorem ori (g : Guard) (d a : Opnd) (imm : BitVec 12) : Statement (.ori g d a imm) := ⟨rfl, rfl⟩
theorem xor (g : Guard) (d a b : Opnd) : Statement (.xor g d a b) := ⟨rfl, rfl⟩
theorem xori (g : Guard) (d a : Opnd) (imm : BitVec 12) : Statement (.xori g d a imm) := ⟨rfl, rfl⟩
theorem shl (g : Guard) (d a b : Opnd) : Statement (.shl g d a b) := ⟨rfl, rfl⟩
theorem shli (g : Guard) (d a : Opnd) (imm : BitVec 12) : Statement (.shli g d a imm) := ⟨rfl, rfl⟩
theorem shr (g : Guard) (d a b : Opnd) : Statement (.shr g d a b) := ⟨rfl, rfl⟩
theorem shri (g : Guard) (d a : Opnd) (imm : BitVec 12) : Statement (.shri g d a imm) := ⟨rfl, rfl⟩
theorem sra (g : Guard) (d a b : Opnd) : Statement (.sra g d a b) := ⟨rfl, rfl⟩
theorem srai (g : Guard) (d a : Opnd) (imm : BitVec 12) : Statement (.srai g d a imm) := ⟨rfl, rfl⟩
theorem rotl (g : Guard) (d a b : Opnd) : Statement (.rotl g d a b) := ⟨rfl, rfl⟩
theorem clz (g : Guard) (d a : Opnd) : Statement (.clz g d a) := ⟨rfl, rfl⟩
theorem ctz (g : Guard) (d a : Opnd) : Statement (.ctz g d a) := ⟨rfl, rfl⟩
theorem popc (g : Guard) (d a : Opnd) : Statement (.popc g d a) := ⟨rfl, rfl⟩
theorem min (g : Guard) (d a b : Opnd) : Statement (.min g d a b) := ⟨rfl, rfl⟩
theorem max (g : Guard) (d a b : Opnd) : Statement (.max g d a b) := ⟨rfl, rfl⟩
theorem minu (g : Guard) (d a b : Opnd) : Statement (.minu g d a b) := ⟨rfl, rfl⟩
theorem maxu (g : Guard) (d a b : Opnd) : Statement (.maxu g d a b) := ⟨rfl, rfl⟩
theorem abs (g : Guard) (d a : Opnd) : Statement (.abs g d a) := ⟨rfl, rfl⟩
theorem neg (g : Guard) (d a : Opnd) : Statement (.neg g d a) := ⟨rfl, rfl⟩
theorem cmpeq (g : Guard) (d a b : Opnd) : Statement (.cmpeq g d a b) := ⟨rfl, rfl⟩
theorem cmpne (g : Guard) (d a b : Opnd) : Statement (.cmpne g d a b) := ⟨rfl, rfl⟩
theorem cmplt (g : Guard) (d a b : Opnd) : Statement (.cmplt g d a b) := ⟨rfl, rfl⟩
theorem cmpltu (g : Guard) (d a b : Opnd) : Statement (.cmpltu g d a b) := ⟨rfl, rfl⟩
theorem cmple (g : Guard) (d a b : Opnd) : Statement (.cmple g d a b) := ⟨rfl, rfl⟩
theorem cmpleu (g : Guard) (d a b : Opnd) : Statement (.cmpleu g d a b) := ⟨rfl, rfl⟩
theorem cmpeqi (g : Guard) (d a : Opnd) (imm : BitVec 9) : Statement (.cmpeqi g d a imm) := ⟨rfl, rfl⟩
theorem cmpnei (g : Guard) (d a : Opnd) (imm : BitVec 9) : Statement (.cmpnei g d a imm) := ⟨rfl, rfl⟩
theorem cmplti (g : Guard) (d a : Opnd) (imm : BitVec 9) : Statement (.cmplti g d a imm) := ⟨rfl, rfl⟩
theorem cmpltui (g : Guard) (d a : Opnd) (imm : BitVec 9) : Statement (.cmpltui g d a imm) := ⟨rfl, rfl⟩
theorem cmplei (g : Guard) (d a : Opnd) (imm : BitVec 9) : Statement (.cmplei g d a imm) := ⟨rfl, rfl⟩
theorem cmpleui (g : Guard) (d a : Opnd) (imm : BitVec 9) : Statement (.cmpleui g d a imm) := ⟨rfl, rfl⟩
theorem movi (g : Guard) (d : Opnd) (imm : BitVec 18) : Statement (.movi g d imm) := ⟨rfl, rfl⟩
theorem movhi (g : Guard) (d : Opnd) (imm : BitVec 18) : Statement (.movhi g d imm) := ⟨rfl, rfl⟩
theorem bfx (g : Guard) (d a b : Opnd) : Statement (.bfx g d a b) := ⟨rfl, rfl⟩
theorem bfxS (g : Guard) (d a b : Opnd) : Statement (.bfxS g d a b) := ⟨rfl, rfl⟩
theorem bfi (g : Guard) (d a b : Opnd) : Statement (.bfi g d a b) := ⟨rfl, rfl⟩
theorem adds (g : Guard) (d a b : Opnd) : Statement (.adds g d a b) := ⟨rfl, rfl⟩
theorem subs (g : Guard) (d a b : Opnd) : Statement (.subs g d a b) := ⟨rfl, rfl⟩
theorem madd (g : Guard) (d a b : Opnd) : Statement (.madd g d a b) := ⟨rfl, rfl⟩
theorem lea (g : Guard) (sh : BitVec 2) (d a b : Opnd) : Statement (.lea g sh d a b) := ⟨rfl, rfl⟩
theorem fadd (g : Guard) (fmt : FFmt) (rm : Rm) (d a b : Opnd) : Statement (.fadd g fmt rm d a b) := ⟨rfl, rfl⟩
theorem fsub (g : Guard) (fmt : FFmt) (rm : Rm) (d a b : Opnd) : Statement (.fsub g fmt rm d a b) := ⟨rfl, rfl⟩
theorem fmul (g : Guard) (fmt : FFmt) (rm : Rm) (d a b : Opnd) : Statement (.fmul g fmt rm d a b) := ⟨rfl, rfl⟩
theorem ffma (g : Guard) (fmt : FFmt) (rm : Rm) (d a b : Opnd) : Statement (.ffma g fmt rm d a b) := ⟨rfl, rfl⟩
theorem ffms (g : Guard) (fmt : FFmt) (rm : Rm) (d a b : Opnd) : Statement (.ffms g fmt rm d a b) := ⟨rfl, rfl⟩
theorem fdiv (g : Guard) (fmt : FFmt) (rm : Rm) (d a b : Opnd) : Statement (.fdiv g fmt rm d a b) := ⟨rfl, rfl⟩
theorem fsqrt (g : Guard) (fmt : FFmt) (rm : Rm) (d a : Opnd) : Statement (.fsqrt g fmt rm d a) := ⟨rfl, rfl⟩
theorem frsq (g : Guard) (fmt : FFmt) (rm : Rm) (d a : Opnd) : Statement (.frsq g fmt rm d a) := ⟨rfl, rfl⟩
theorem fexp2 (g : Guard) (fmt : FFmt) (rm : Rm) (d a : Opnd) : Statement (.fexp2 g fmt rm d a) := ⟨rfl, rfl⟩
theorem flog2 (g : Guard) (fmt : FFmt) (rm : Rm) (d a : Opnd) : Statement (.flog2 g fmt rm d a) := ⟨rfl, rfl⟩
theorem fmin (g : Guard) (fmt : FFmt) (num : Bool) (d a b : Opnd) : Statement (.fmin g fmt num d a b) := ⟨rfl, rfl⟩
theorem fmax (g : Guard) (fmt : FFmt) (num : Bool) (d a b : Opnd) : Statement (.fmax g fmt num d a b) := ⟨rfl, rfl⟩
theorem fabs (g : Guard) (fmt : FFmt) (d a : Opnd) : Statement (.fabs g fmt d a) := ⟨rfl, rfl⟩
theorem fneg (g : Guard) (fmt : FFmt) (d a : Opnd) : Statement (.fneg g fmt d a) := ⟨rfl, rfl⟩
theorem fcmpeq (g : Guard) (fmt : FFmt) (d a b : Opnd) : Statement (.fcmpeq g fmt d a b) := ⟨rfl, rfl⟩
theorem fcmplt (g : Guard) (fmt : FFmt) (d a b : Opnd) : Statement (.fcmplt g fmt d a b) := ⟨rfl, rfl⟩
theorem fcmple (g : Guard) (fmt : FFmt) (d a b : Opnd) : Statement (.fcmple g fmt d a b) := ⟨rfl, rfl⟩
theorem fcmpun (g : Guard) (fmt : FFmt) (d a b : Opnd) : Statement (.fcmpun g fmt d a b) := ⟨rfl, rfl⟩
theorem fclass (g : Guard) (fmt : FFmt) (d a : Opnd) : Statement (.fclass g fmt d a) := ⟨rfl, rfl⟩
theorem fround (g : Guard) (fmt : FFmt) (rm : Rm) (d a : Opnd) : Statement (.fround g fmt rm d a) := ⟨rfl, rfl⟩
theorem fcvti (g : Guard) (fmt : FFmt) (rm : Rm) (u : Bool) (d a : Opnd) : Statement (.fcvti g fmt rm u d a) := ⟨rfl, rfl⟩
theorem icvtf (g : Guard) (fmt : FFmt) (rm : Rm) (u : Bool) (d a : Opnd) : Statement (.icvtf g fmt rm u d a) := ⟨rfl, rfl⟩
theorem fscale (g : Guard) (fmt : FFmt) (rm : Rm) (d a b : Opnd) : Statement (.fscale g fmt rm d a b) := ⟨rfl, rfl⟩
theorem sopen (g : BGuard) (port : Port) (n : BitVec 2) (a b : Opnd) : Statement (.sopen g port n a b) := ⟨rfl, rfl⟩
theorem sopenRe (g : BGuard) (port : Port) (n : BitVec 2) : Statement (.sopenRe g port n) := ⟨rfl, rfl⟩
theorem sclose (g : BGuard) (port : Port) (d : Opnd) : Statement (.sclose g port d) := ⟨rfl, rfl⟩
theorem vadd (g : BGuard) (fmt : VFmt) (rm : Rm) (a b : Opnd) : Statement (.vadd g fmt rm a b) := ⟨rfl, rfl⟩
theorem vsub (g : BGuard) (fmt : VFmt) (rm : Rm) (a b : Opnd) : Statement (.vsub g fmt rm a b) := ⟨rfl, rfl⟩
theorem vmul (g : BGuard) (fmt : FFmt) (rm : Rm) (a b : Opnd) : Statement (.vmul g fmt rm a b) := ⟨rfl, rfl⟩
theorem vfma (g : BGuard) (fmt : FFmt) (rm : Rm) (a : Opnd) : Statement (.vfma g fmt rm a) := ⟨rfl, rfl⟩
theorem vaxpy (g : BGuard) (fmt : FFmt) (rm : Rm) (a : Opnd) : Statement (.vaxpy g fmt rm a) := ⟨rfl, rfl⟩
theorem vmin (g : BGuard) (fmt : VFmt) (num : Bool) (a b : Opnd) : Statement (.vmin g fmt num a b) := ⟨rfl, rfl⟩
theorem vmax (g : BGuard) (fmt : VFmt) (num : Bool) (a b : Opnd) : Statement (.vmax g fmt num a b) := ⟨rfl, rfl⟩
theorem vabs (g : BGuard) (fmt : VFmt) (a : Opnd) : Statement (.vabs g fmt a) := ⟨rfl, rfl⟩
theorem vneg (g : BGuard) (fmt : VFmt) (a : Opnd) : Statement (.vneg g fmt a) := ⟨rfl, rfl⟩
theorem vsel (g : BGuard) (fmt : VFmt) (a b : Opnd) : Statement (.vsel g fmt a b) := ⟨rfl, rfl⟩
theorem vcmp (g : BGuard) (fmt : VFmt) (cond : FCond) (d a b : Opnd) : Statement (.vcmp g fmt cond d a b) := ⟨rfl, rfl⟩
theorem vredsum (g : BGuard) (fmt : VFmt) (rm : Rm) (d a : Opnd) : Statement (.vredsum g fmt rm d a) := ⟨rfl, rfl⟩
theorem vredmax (g : BGuard) (fmt : VFmt) (num : Bool) (d a : Opnd) : Statement (.vredmax g fmt num d a) := ⟨rfl, rfl⟩
theorem vamax (g : BGuard) (fmt : FFmt) (d a : Opnd) : Statement (.vamax g fmt d a) := ⟨rfl, rfl⟩
theorem vscan (g : BGuard) (fmt : FFmt) (rm : Rm) (a b : Opnd) : Statement (.vscan g fmt rm a b) := ⟨rfl, rfl⟩
theorem vexp2 (g : BGuard) (fmt : FFmt) (rm : Rm) (a : Opnd) : Statement (.vexp2 g fmt rm a) := ⟨rfl, rfl⟩
theorem vrsq (g : BGuard) (fmt : FFmt) (rm : Rm) (a : Opnd) : Statement (.vrsq g fmt rm a) := ⟨rfl, rfl⟩
theorem vcvt (g : BGuard) (rm : Rm) (a : Opnd) : Statement (.vcvt g rm a) := ⟨rfl, rfl⟩
theorem vqnt (g : BGuard) (a b : Opnd) : Statement (.vqnt g a b) := ⟨rfl, rfl⟩
theorem vdqnt (g : BGuard) (rm : Rm) (a b : Opnd) : Statement (.vdqnt g rm a b) := ⟨rfl, rfl⟩
theorem cvt (g : Guard) (rm : Rm) (d a : Opnd) (cf ct : CFmt) : Statement (.cvt g rm d a cf ct) := ⟨rfl, rfl⟩
theorem qnt (g : Guard) (k : KFmt) (d a b : Opnd) : Statement (.qnt g k d a b) := ⟨rfl, rfl⟩
theorem dqnt (g : Guard) (k : KFmt) (rm : Rm) (d a b : Opnd) : Statement (.dqnt g k rm d a b) := ⟨rfl, rfl⟩
theorem scalex (g : Guard) (k : KFmt) (d a : Opnd) : Statement (.scalex g k d a) := ⟨rfl, rfl⟩
theorem limb (g : Guard) (d a : Opnd) : Statement (.limb g d a) := ⟨rfl, rfl⟩
theorem unlimb (g : Guard) (d a : Opnd) : Statement (.unlimb g d a) := ⟨rfl, rfl⟩
theorem packH (g : Guard) (d a b : Opnd) : Statement (.packH g d a b) := ⟨rfl, rfl⟩
theorem packB (g : Guard) (d a b : Opnd) : Statement (.packB g d a b) := ⟨rfl, rfl⟩
theorem packN (g : Guard) (d a b : Opnd) : Statement (.packN g d a b) := ⟨rfl, rfl⟩
theorem unpackH (g : Guard) (u : Bool) (d a b : Opnd) : Statement (.unpackH g u d a b) := ⟨rfl, rfl⟩
theorem unpackB (g : Guard) (u : Bool) (d a b : Opnd) : Statement (.unpackB g u d a b) := ⟨rfl, rfl⟩
theorem unpackN (g : Guard) (u : Bool) (d a b : Opnd) : Statement (.unpackN g u d a b) := ⟨rfl, rfl⟩
theorem hdr (g : Guard) (d a b : Opnd) : Statement (.hdr g d a b) := ⟨rfl, rfl⟩
theorem hdrget (g : Guard) (fld : HdrField) (d a : Opnd) : Statement (.hdrget g fld d a) := ⟨rfl, rfl⟩
theorem oclaim (g : BGuard) (ms : BitVec 4) (xs : BitVec 3) : Statement (.oclaim g ms xs) := ⟨rfl, rfl⟩
theorem orelease (g : BGuard) (ms : BitVec 4) (xs : BitVec 3) : Statement (.orelease g ms xs) := ⟨rfl, rfl⟩
theorem ofillBank (g : BGuard) (fmt : SFmt) (n : BitVec 2) (a b : Opnd) : Statement (.ofillBank g fmt n a b) := ⟨rfl, rfl⟩
theorem ofillBus (g : BGuard) (fmt : SFmt) (n : BitVec 2) : Statement (.ofillBus g fmt n) := ⟨rfl, rfl⟩
theorem ostat (g : BGuard) (e : TileIdx) (d : Opnd) : Statement (.ostat g e d) := ⟨rfl, rfl⟩
theorem mbind (g : BGuard) (n : BitVec 2) (a : Opnd) : Statement (.mbind g n a) := ⟨rfl, rfl⟩
theorem mzero (g : BGuard) (n : BitVec 2) : Statement (.mzero g n) := ⟨rfl, rfl⟩
theorem mmacK8 (g : BGuard) (last : Bool) (n p q : BitVec 2) : Statement (.mmacK8 g last n p q) := ⟨rfl, rfl⟩
theorem mmacK4 (g : BGuard) (last : Bool) (n p q : BitVec 2) : Statement (.mmacK4 g last n p q) := ⟨rfl, rfl⟩
theorem mmacK16 (g : BGuard) (last : Bool) (p q : BitVec 2) : Statement (.mmacK16 g last p q) := ⟨rfl, rfl⟩
theorem mreconI64 (g : BGuard) (k16 : Bool) (n : BitVec 2) (a : Opnd) : Statement (.mreconI64 g k16 n a) := ⟨rfl, rfl⟩
theorem mreconF32 (g : BGuard) (k16 : Bool) (n : BitVec 2) (a : Opnd) : Statement (.mreconF32 g k16 n a) := ⟨rfl, rfl⟩
theorem mreconF32Add (g : BGuard) (k16 : Bool) (n : BitVec 2) (a : Opnd) : Statement (.mreconF32Add g k16 n a) := ⟨rfl, rfl⟩
theorem mdrain (g : BGuard) (n : BitVec 2) (a : Opnd) : Statement (.mdrain g n a) := ⟨rfl, rfl⟩
theorem mdrainZ (g : BGuard) (n : BitVec 2) (a : Opnd) : Statement (.mdrainZ g n a) := ⟨rfl, rfl⟩
theorem trienc (g : BGuard) (d a : Opnd) : Statement (.trienc g d a) := ⟨rfl, rfl⟩
theorem tridec (g : BGuard) (d a : Opnd) : Statement (.tridec g d a) := ⟨rfl, rfl⟩
theorem triadd (g : BGuard) (d a b : Opnd) : Statement (.triadd g d a b) := ⟨rfl, rfl⟩
theorem trimul (g : BGuard) (d a b : Opnd) : Statement (.trimul g d a b) := ⟨rfl, rfl⟩
theorem scanb (g : BGuard) (op : Bool) (k : BitVec 4) (d a b : Opnd) : Statement (.scanb g op k d a b) := ⟨rfl, rfl⟩
theorem scant (g : BGuard) (op : Bool) (k : BitVec 4) (d a b : Opnd) : Statement (.scant g op k d a b) := ⟨rfl, rfl⟩
theorem isect (g : BGuard) (mode : MMode) (d a b : Opnd) : Statement (.isect g mode d a b) := ⟨rfl, rfl⟩
theorem union (g : BGuard) (mode : MMode) (d a b : Opnd) : Statement (.union g mode d a b) := ⟨rfl, rfl⟩
theorem stopt (g : BGuard) (d a : Opnd) : Statement (.stopt g d a) := ⟨rfl, rfl⟩
theorem stoptImm (g : BGuard) (l : BitVec 4) (d : Opnd) : Statement (.stoptImm g l d) := ⟨rfl, rfl⟩
theorem stopqLower (g : BGuard) (d a : Opnd) : Statement (.stopqLower g d a) := ⟨rfl, rfl⟩
theorem stopqRaise (g : BGuard) (d a : Opnd) : Statement (.stopqRaise g d a) := ⟨rfl, rfl⟩
theorem spaccFadd (g : BGuard) (rm : Rm) (k : BitVec 4) (a b : Opnd) : Statement (.spaccFadd g rm k a b) := ⟨rfl, rfl⟩
theorem spaccAdd (g : BGuard) (k : BitVec 4) (a b : Opnd) : Statement (.spaccAdd g k a b) := ⟨rfl, rfl⟩
theorem spaccFmax (g : BGuard) (k : BitVec 4) (a b : Opnd) : Statement (.spaccFmax g k a b) := ⟨rfl, rfl⟩
theorem spdrain (g : BGuard) (k : BitVec 4) (d : Opnd) : Statement (.spdrain g k d) := ⟨rfl, rfl⟩
theorem spdrainV (g : BGuard) (k : BitVec 4) (d : Opnd) : Statement (.spdrainV g k d) := ⟨rfl, rfl⟩
theorem part (g : BGuard) (b : BitVec 5) (d a : Opnd) : Statement (.part g b d a) := ⟨rfl, rfl⟩
theorem isq (g : Guard) (w : BitVec 2) (d a : Opnd) : Statement (.isq g w d a) := ⟨rfl, rfl⟩
theorem probe (g : Guard) (w : BitVec 2) (d a : Opnd) : Statement (.probe g w d a) := ⟨rfl, rfl⟩
theorem unpin (g : Guard) (w : BitVec 2) (d a : Opnd) : Statement (.unpin g w d a) := ⟨rfl, rfl⟩
theorem hod (g : Guard) (w : BitVec 2) (d a : Opnd) : Statement (.hod g w d a) := ⟨rfl, rfl⟩
theorem coll (g : Guard) (w : BitVec 2) (d a : Opnd) : Statement (.coll g w d a) := ⟨rfl, rfl⟩
theorem jobwait (g : Guard) (w : BitVec 2) (d a : Opnd) : Statement (.jobwait g w d a) := ⟨rfl, rfl⟩
theorem ldb (g : BGuard) (sz : Size) (d a b : Opnd) : Statement (.ldb g sz d a b) := ⟨rfl, rfl⟩
theorem stb (g : BGuard) (sz : Size) (v a b : Opnd) : Statement (.stb g sz v a b) := ⟨rfl, rfl⟩
theorem ldv (g : Guard) (sz : Size) (d a b : Opnd) : Statement (.ldv g sz d a b) := ⟨rfl, rfl⟩
theorem stv (g : Guard) (sz : Size) (v a b : Opnd) : Statement (.stv g sz v a b) := ⟨rfl, rfl⟩
theorem ldg (g : Guard) (sz : Size) (w : BitVec 2) (d a b : Opnd) : Statement (.ldg g sz w d a b) := ⟨rfl, rfl⟩
theorem stg (g : Guard) (sz : Size) (w : BitVec 2) (v a b : Opnd) : Statement (.stg g sz w v a b) := ⟨rfl, rfl⟩
theorem ldp (g : Guard) (w : BitVec 2) (d a b : Opnd) : Statement (.ldp g w d a b) := ⟨rfl, rfl⟩
theorem stp (g : Guard) (w : BitVec 2) (v a b : Opnd) : Statement (.stp g w v a b) := ⟨rfl, rfl⟩
theorem clrp (g : Guard) (w : BitVec 2) (v a b : Opnd) : Statement (.clrp g w v a b) := ⟨rfl, rfl⟩
theorem pref (g : Guard) (w : BitVec 2) (a b : Opnd) : Statement (.pref g w a b) := ⟨rfl, rfl⟩
theorem amoadd (g : Guard) (ord : AOrd) (sc : Scope) (w : BitVec 2) (d a b : BitVec 4) : Statement (.amoadd g ord sc w d a b) := ⟨rfl, rfl⟩
theorem amoand (g : Guard) (ord : AOrd) (sc : Scope) (w : BitVec 2) (d a b : BitVec 4) : Statement (.amoand g ord sc w d a b) := ⟨rfl, rfl⟩
theorem amoor (g : Guard) (ord : AOrd) (sc : Scope) (w : BitVec 2) (d a b : BitVec 4) : Statement (.amoor g ord sc w d a b) := ⟨rfl, rfl⟩
theorem amoxor (g : Guard) (ord : AOrd) (sc : Scope) (w : BitVec 2) (d a b : BitVec 4) : Statement (.amoxor g ord sc w d a b) := ⟨rfl, rfl⟩
theorem amomin (g : Guard) (ord : AOrd) (sc : Scope) (w : BitVec 2) (d a b : BitVec 4) : Statement (.amomin g ord sc w d a b) := ⟨rfl, rfl⟩
theorem amomax (g : Guard) (ord : AOrd) (sc : Scope) (w : BitVec 2) (d a b : BitVec 4) : Statement (.amomax g ord sc w d a b) := ⟨rfl, rfl⟩
theorem amominu (g : Guard) (ord : AOrd) (sc : Scope) (w : BitVec 2) (d a b : BitVec 4) : Statement (.amominu g ord sc w d a b) := ⟨rfl, rfl⟩
theorem amomaxu (g : Guard) (ord : AOrd) (sc : Scope) (w : BitVec 2) (d a b : BitVec 4) : Statement (.amomaxu g ord sc w d a b) := ⟨rfl, rfl⟩
theorem amoswap (g : Guard) (ord : AOrd) (sc : Scope) (w : BitVec 2) (d a b : BitVec 4) : Statement (.amoswap g ord sc w d a b) := ⟨rfl, rfl⟩
theorem amofadd (g : Guard) (ord : AOrd) (sc : Scope) (w : BitVec 2) (d a b : BitVec 4) : Statement (.amofadd g ord sc w d a b) := ⟨rfl, rfl⟩
theorem cas (g : Guard) (ord : AOrd) (sc : Scope) (w : BitVec 2) (d a b : BitVec 4) : Statement (.cas g ord sc w d a b) := ⟨rfl, rfl⟩
theorem fence (g : Guard) (ord : FOrd) (sc : Scope) : Statement (.fence g ord sc) := ⟨rfl, rfl⟩
theorem fencex (g : Guard) (ord : FOrd) (sc : Scope) : Statement (.fencex g ord sc) := ⟨rfl, rfl⟩
theorem fencee (g : Guard) (ord : EOrd) (sc : Scope) : Statement (.fencee g ord sc) := ⟨rfl, rfl⟩
theorem peekt (g : BGuard) (d a : Opnd) : Statement (.peekt g d a) := ⟨rfl, rfl⟩
theorem routeaStep (g : BGuard) (d : Opnd) : Statement (.routeaStep g d) := ⟨rfl, rfl⟩
theorem routeaSet (g : Guard) (a b : Opnd) : Statement (.routeaSet g a b) := ⟨rfl, rfl⟩
theorem vcbind (g : Guard) (a b : Opnd) : Statement (.vcbind g a b) := ⟨rfl, rfl⟩
theorem qstat (g : BGuard) (q : QSel) (d : Opnd) : Statement (.qstat g q d) := ⟨rfl, rfl⟩
theorem call (g : Guard) (p : Option (BitVec 3)) (d a b : Opnd) : Statement (.call g p d a b) := ⟨rfl, rfl⟩
theorem ret (g : Guard) (a : Opnd) : Statement (.ret g a) := ⟨rfl, rfl⟩
theorem yield (g : Guard) (a : Opnd) : Statement (.yield g a) := ⟨rfl, rfl⟩
theorem resume (g : Guard) (d a b : Opnd) : Statement (.resume g d a b) := ⟨rfl, rfl⟩
theorem apply (g : Guard) (p : Option (BitVec 3)) (d a b : Opnd) : Statement (.apply g p d a b) := ⟨rfl, rfl⟩
theorem cseq (g : Guard) (d a b : Opnd) : Statement (.cseq g d a b) := ⟨rfl, rfl⟩
theorem cpar (g : Guard) (d a b : Opnd) : Statement (.cpar g d a b) := ⟨rfl, rfl⟩
theorem cpipe (g : Guard) (d a b : Opnd) : Statement (.cpipe g d a b) := ⟨rfl, rfl⟩
theorem cfarm (g : Guard) (pol : FarmPol) (d a b : Opnd) : Statement (.cfarm g pol d a b) := ⟨rfl, rfl⟩
theorem cloop (g : Guard) (d a b : Opnd) : Statement (.cloop g d a b) := ⟨rfl, rfl⟩
theorem cfree (g : Guard) (d a : Opnd) : Statement (.cfree g d a) := ⟨rfl, rfl⟩
theorem waitc (g : Guard) (p : Option (BitVec 3)) (d a : Opnd) : Statement (.waitc g p d a) := ⟨rfl, rfl⟩
theorem waitcS (g : Guard) (d a : Opnd) : Statement (.waitcS g d a) := ⟨rfl, rfl⟩
theorem fold (g : Guard) (d a : Opnd) : Statement (.fold g d a) := ⟨rfl, rfl⟩
theorem stow (g : Guard) (d a : Opnd) : Statement (.stow g d a) := ⟨rfl, rfl⟩
theorem cquery (g : Guard) (d a : Opnd) : Statement (.cquery g d a) := ⟨rfl, rfl⟩
theorem br (g : SGuard) : Statement (.br g) := ⟨rfl, rfl⟩
theorem bc (g : SGuard) (cond : Cond) (a b : Opnd) : Statement (.bc g cond a b) := ⟨rfl, rfl⟩
theorem jal (g : SGuard) (d : Opnd) : Statement (.jal g d) := ⟨rfl, rfl⟩
theorem jr (g : SGuard) (d a : Opnd) : Statement (.jr g d a) := ⟨rfl, rfl⟩
theorem loop (g : SGuard) (d : Opnd) : Statement (.loop g d) := ⟨rfl, rfl⟩
theorem scmd (g : SGuard) (a b : Opnd) : Statement (.scmd g a b) := ⟨rfl, rfl⟩
theorem sbar (g : SGuard) (p : BitVec 4) : Statement (.sbar g p) := ⟨rfl, rfl⟩
theorem cstep (g : SGuard) (n : BitVec 3) (a : Opnd) : Statement (.cstep g n a) := ⟨rfl, rfl⟩
theorem cload (g : SGuard) (n : BitVec 3) (a b : Opnd) : Statement (.cload g n a b) := ⟨rfl, rfl⟩
theorem arm (g : SGuard) (n : BitVec 3) (a : Opnd) : Statement (.arm g n a) := ⟨rfl, rfl⟩
theorem waitd (g : SGuard) (n : BitVec 3) : Statement (.waitd g n) := ⟨rfl, rfl⟩
theorem waitdT (g : SGuard) (n : BitVec 3) : Statement (.waitdT g n) := ⟨rfl, rfl⟩
theorem notify (g : SGuard) (a b : Opnd) : Statement (.notify g a b) := ⟨rfl, rfl⟩
theorem tlbinv (g : SGuard) (allas : Bool) (sz : BitVec 3) (a b : Opnd) : Statement (.tlbinv g allas sz a b) := ⟨rfl, rfl⟩
theorem tlbinvSpace (g : SGuard) (allas : Bool) (a b : Opnd) : Statement (.tlbinvSpace g allas a b) := ⟨rfl, rfl⟩
theorem tlbsync (g : SGuard) (d : Opnd) : Statement (.tlbsync g d) := ⟨rfl, rfl⟩
theorem migr (g : SGuard) (v a b : Opnd) : Statement (.migr g v a b) := ⟨rfl, rfl⟩
theorem svc (g : SGuard) (n : BitVec 6) : Statement (.svc g n) := ⟨rfl, rfl⟩
theorem eret (g : SGuard) : Statement (.eret g) := ⟨rfl, rfl⟩
theorem crd (g : Guard) (d a : Opnd) (c : BitVec 12) : Statement (.crd g d a c) := ⟨rfl, rfl⟩
theorem cwr (g : SGuard) (c : BitVec 12) (a b : Opnd) : Statement (.cwr g c a b) := ⟨rfl, rfl⟩
theorem rddig (g : Guard) (d a b : Opnd) : Statement (.rddig g d a b) := ⟨rfl, rfl⟩
theorem tokenDelivery (h : Handle) (f : FlowId) : Statement (.tokenDelivery h f) := ⟨rfl, rfl⟩
theorem headerDelivery (h : Handle) (f : FlowId) : Statement (.headerDelivery h f) := ⟨rfl, rfl⟩
theorem seamMarkerDelivery (h : Handle) (f : FlowId) : Statement (.seamMarkerDelivery h f) := ⟨rfl, rfl⟩
theorem stepWordForward (c : CtxAt) (o : BitVec 3) : Statement (.stepWordForward c o) := ⟨rfl, rfl⟩
theorem controlTokenDelivery (c : CtxAt) (j : BitVec 2) (arrive : Option (BitVec 2)) : Statement (.controlTokenDelivery c j arrive) := ⟨rfl, rfl⟩
theorem loopbackDelivery (c : CtxAt) (o : BitVec 3) : Statement (.loopbackDelivery c o) := ⟨rfl, rfl⟩
theorem outputInjection (c : CtxAt) (o : BitVec 3) : Statement (.outputInjection c o) := ⟨rfl, rfl⟩
theorem seamAutoAppend (c : CtxAt) : Statement (.seamAutoAppend c) := ⟨rfl, rfl⟩
theorem reconfigurationTokenArrival (c : CtxAt) : Statement (.reconfigurationTokenArrival c) := ⟨rfl, rfl⟩
theorem roundMark (h : Handle) : Statement (.roundMark h) := ⟨rfl, rfl⟩
theorem streamPatternDelivery (c : CtxAt) (p : Port) : Statement (.streamPatternDelivery c p) := ⟨rfl, rfl⟩
theorem streamPatternComplete (c : CtxAt) (p : Port) : Statement (.streamPatternComplete c p) := ⟨rfl, rfl⟩
theorem slotFillComplete (b : BrickAt) (m : BitVec 2) : Statement (.slotFillComplete b m) := ⟨rfl, rfl⟩
theorem busTransfer (h : Handle) (col : Bool) (n : BitVec 8) (did : BitVec 8) : Statement (.busTransfer h col n did) := ⟨rfl, rfl⟩
theorem arrayPassComplete (b : BrickAt) : Statement (.arrayPassComplete b) := ⟨rfl, rfl⟩
theorem tileReadComplete (b : BrickAt) (x : BitVec 2) : Statement (.tileReadComplete b x) := ⟨rfl, rfl⟩
theorem atomicPerform (a : AgentId) : Statement (.atomicPerform a) := ⟨rfl, rfl⟩
theorem ldpDeferredComplete (a : AgentId) : Statement (.ldpDeferredComplete a) := ⟨rfl, rfl⟩
theorem pagerService : Statement (.pagerService) := ⟨rfl, rfl⟩
theorem pagerAcknowledge : Statement (.pagerAcknowledge) := ⟨rfl, rfl⟩
theorem invalidationEffect (n : Nat) (u : CacheUnit) : Statement (.invalidationEffect n u) := ⟨rfl, rfl⟩
theorem migrationPerform (n : Nat) : Statement (.migrationPerform n) := ⟨rfl, rfl⟩
theorem tlbsyncComplete (h : Handle) : Statement (.tlbsyncComplete h) := ⟨rfl, rfl⟩
theorem jobAccept (e : EnginePort) : Statement (.jobAccept e) := ⟨rfl, rfl⟩
theorem jobStart (j : Nat) : Statement (.jobStart j) := ⟨rfl, rfl⟩
theorem hodRow (j : Nat) : Statement (.hodRow j) := ⟨rfl, rfl⟩
theorem iseProbePass (j : Nat) : Statement (.iseProbePass j) := ⟨rfl, rfl⟩
theorem iseElementMove (j : Nat) : Statement (.iseElementMove j) := ⟨rfl, rfl⟩
theorem collectiveForm (j : Nat) (others : List CollPart) : Statement (.collectiveForm j others) := ⟨rfl, rfl⟩
theorem jobComplete (j : Nat) : Statement (.jobComplete j) := ⟨rfl, rfl⟩
theorem bankTokenReceipt (h : Handle) : Statement (.bankTokenReceipt h) := ⟨rfl, rfl⟩
theorem notifyWrite (q : Nat) (tail : BitVec 32) : Statement (.notifyWrite q tail) := ⟨rfl, rfl⟩
theorem packetFetch (q : Nat) : Statement (.packetFetch q) := ⟨rfl, rfl⟩
theorem packetPresent (q : Nat) : Statement (.packetPresent q) := ⟨rfl, rfl⟩
theorem residentQueueChange (leaving entering : Nat) : Statement (.residentQueueChange leaving entering) := ⟨rfl, rfl⟩
theorem pasidTeardown (v : BitVec 64) : Statement (.pasidTeardown v) := ⟨rfl, rfl⟩
theorem teardownComplete : Statement (.teardownComplete) := ⟨rfl, rfl⟩
theorem claimArrival (c : Nat) : Statement (.claimArrival c) := ⟨rfl, rfl⟩
theorem claimGrant (c : Nat) (pl : List Place) (victims : List Handle) : Statement (.claimGrant c pl victims) := ⟨rfl, rfl⟩
theorem claimReservation (c : Nat) (pl : List Place) : Statement (.claimReservation c pl) := ⟨rfl, rfl⟩
theorem startBarrierOpen (c : Nat) : Statement (.startBarrierOpen c) := ⟨rfl, rfl⟩
theorem launchWaveOpen (h : Handle) : Statement (.launchWaveOpen h) := ⟨rfl, rfl⟩
theorem preEmption (c : Nat) (victim : Handle) : Statement (.preEmption c victim) := ⟨rfl, rfl⟩
theorem resumption (c : Nat) (pl : List Place) : Statement (.resumption c pl) := ⟨rfl, rfl⟩
theorem spurEnd (h : Handle) : Statement (.spurEnd h) := ⟨rfl, rfl⟩
theorem sequenceSecondPlace (i : Handle) : Statement (.sequenceSecondPlace i) := ⟨rfl, rfl⟩
theorem loopBodyRestart (i : Handle) : Statement (.loopBodyRestart i) := ⟨rfl, rfl⟩
theorem farmDistribution (i : Handle) (out : Bool) (p : BitVec 8) (r : Nat) : Statement (.farmDistribution i out p r) := ⟨rfl, rfl⟩
theorem domainQueueRecordWrite (d q : Nat) : Statement (.domainQueueRecordWrite d q) := ⟨rfl, rfl⟩
theorem inactivityWindowExpiry (h : Handle) : Statement (.inactivityWindowExpiry h) := ⟨rfl, rfl⟩
theorem deadlockDeclaration : Statement (.deadlockDeclaration) := ⟨rfl, rfl⟩
theorem faultActionResume (w : Writer) (h : Handle) : Statement (.faultActionResume w h) := ⟨rfl, rfl⟩
theorem faultActionSkip (w : Writer) (h : Handle) : Statement (.faultActionSkip w h) := ⟨rfl, rfl⟩
theorem faultActionRetire (w : Writer) (h : Handle) : Statement (.faultActionRetire w h) := ⟨rfl, rfl⟩
theorem faultActionBreaksOff (w : Writer) (h : Handle) : Statement (.faultActionBreaksOff w h) := ⟨rfl, rfl⟩
theorem faultActionNodeOff (w : Writer) (h : Handle) : Statement (.faultActionNodeOff w h) := ⟨rfl, rfl⟩
theorem uncorrectableError (e : ErrSite) : Statement (.uncorrectableError e) := ⟨rfl, rfl⟩
theorem correctedError : Statement (.correctedError) := ⟨rfl, rfl⟩
theorem scrub (bad : List BadWord) : Statement (.scrub bad) := ⟨rfl, rfl⟩
theorem linkFailure (link : BitVec 8) : Statement (.linkFailure link) := ⟨rfl, rfl⟩
theorem inactivityReport (r : Remote) (idle : Bool) : Statement (.inactivityReport r idle) := ⟨rfl, rfl⟩
theorem spanFormation (c : Nat) (ans : SpanAnswers) : Statement (.spanFormation c ans) := ⟨rfl, rfl⟩
theorem lintelReload : Statement (.lintelReload) := ⟨rfl, rfl⟩
theorem fatalStop (cause : BitVec 16) : Statement (.fatalStop cause) := ⟨rfl, rfl⟩
theorem keystoneWatchdogExpiry : Statement (.keystoneWatchdogExpiry) := ⟨rfl, rfl⟩
theorem thermalEmergency : Statement (.thermalEmergency) := ⟨rfl, rfl⟩
theorem warmReset : Statement (.warmReset) := ⟨rfl, rfl⟩
theorem ridgePowerOn : Statement (.ridgePowerOn) := ⟨rfl, rfl⟩
theorem throttleAdjust (pwr : BitVec 12) (tj : BitVec 8) : Statement (.throttleAdjust pwr tj) := ⟨rfl, rfl⟩
theorem ageingUpdate (ridge : Nat) (life : BitVec 32) (slow : BitVec 16) (mrg : BitVec 8) : Statement (.ageingUpdate ridge life slow mrg) := ⟨rfl, rfl⟩
theorem secureBoot : Statement (.secureBoot) := ⟨rfl, rfl⟩
theorem romLoaderRecovery (img : List (BitVec 8)) : Statement (.romLoaderRecovery img) := ⟨rfl, rfl⟩
theorem attestationRequest (nonce : BitVec 256) : Statement (.attestationRequest nonce) := ⟨rfl, rfl⟩
theorem debugUnlock (sig : List (BitVec 8)) : Statement (.debugUnlock sig) := ⟨rfl, rfl⟩
theorem atsInvalidation (base len : Nat) : Statement (.atsInvalidation base len) := ⟨rfl, rfl⟩
theorem registerWrite (w : Writer) (addr : Nat) (v : BitVec 64) : Statement (.registerWrite w addr v) := ⟨rfl, rfl⟩
theorem gatingSequence : Statement (.gatingSequence) := ⟨rfl, rfl⟩
theorem loadValueReturn (a : AgentId) : Statement (.loadValueReturn a) := ⟨rfl, rfl⟩
theorem powerLoss : Statement (.powerLoss) := ⟨rfl, rfl⟩

end Sys2Proof.Laws.Listed
end

