-- ==== Sys2Proof/Laws/State.lean ====
section
/-! SUPPORT. What the updates of the state and of a spur leave alone: one lemma per field per update, true by unfolding
the update, and the reads of a spur that has been put back. -/

namespace Sys2Proof.Machine

open Sys2Proof

/-! ## A spur put back -/

@[simp] theorem State.setSpur_agenda (s : State) (x : Spur) : (s.setSpur x).agenda = s.agenda := rfl
@[simp] theorem State.setSpur_tick (s : State) (x : Spur) : (s.setSpur x).tick = s.tick := rfl
@[simp] theorem State.setSpur_now (s : State) (x : Spur) : (s.setSpur x).now = s.now := rfl
@[simp] theorem State.setSpur_agent (s : State) (x : Spur) : (s.setSpur x).agent = s.agent := rfl
@[simp] theorem State.setSpur_late (s : State) (x : Spur) : (s.setSpur x).late = s.late := rfl
@[simp] theorem State.setSpur_pkg (s : State) (x : Spur) : (s.setSpur x).pkg = s.pkg := rfl
@[simp] theorem State.setSpur_mem (s : State) (x : Spur) : (s.setSpur x).mem = s.mem := rfl
@[simp] theorem State.setSpur_full (s : State) (x : Spur) : (s.setSpur x).full = s.full := rfl
@[simp] theorem State.setSpur_ctl (s : State) (x : Spur) : (s.setSpur x).ctl = s.ctl := rfl
@[simp] theorem State.setSpur_caches (s : State) (x : Spur) : (s.setSpur x).caches = s.caches := rfl
@[simp] theorem State.setSpur_posted (s : State) (x : Spur) : (s.setSpur x).posted = s.posted := rfl
@[simp] theorem State.setSpur_pins (s : State) (x : Spur) : (s.setSpur x).pins = s.pins := rfl
@[simp] theorem State.setSpur_nextPin (s : State) (x : Spur) : (s.setSpur x).nextPin = s.nextPin := rfl
@[simp] theorem State.setSpur_pagerQ (s : State) (x : Spur) : (s.setSpur x).pagerQ = s.pagerQ := rfl
@[simp] theorem State.setSpur_pagerAck (s : State) (x : Spur) : (s.setSpur x).pagerAck = s.pagerAck := rfl
@[simp] theorem State.setSpur_owners (s : State) (x : Spur) : (s.setSpur x).owners = s.owners := rfl
@[simp] theorem State.setSpur_lastOwner (s : State) (x : Spur) : (s.setSpur x).lastOwner = s.lastOwner := rfl
@[simp] theorem State.setSpur_banks (s : State) (x : Spur) : (s.setSpur x).banks = s.banks := rfl
@[simp] theorem State.setSpur_tiles (s : State) (x : Spur) : (s.setSpur x).tiles = s.tiles := rfl
@[simp] theorem State.setSpur_pagerFwd (s : State) (x : Spur) : (s.setSpur x).pagerFwd = s.pagerFwd := rfl
@[simp] theorem State.setSpur_powered (s : State) (x : Spur) : (s.setSpur x).powered = s.powered := rfl
@[simp] theorem State.setSpur_badWords (s : State) (x : Spur) : (s.setSpur x).badWords = s.badWords := rfl
@[simp] theorem State.setSpur_klog (s : State) (x : Spur) : (s.setSpur x).klog = s.klog := rfl
@[simp] theorem State.setSpur_corrected (s : State) (x : Spur) : (s.setSpur x).corrected = s.corrected := rfl
@[simp] theorem State.setSpur_seqs (s : State) (x : Spur) : (s.setSpur x).seqs = s.seqs := rfl
@[simp] theorem State.setSpur_comps (s : State) (x : Spur) : (s.setSpur x).comps = s.comps := rfl
@[simp] theorem State.setSpur_groups (s : State) (x : Spur) : (s.setSpur x).groups = s.groups := rfl
@[simp] theorem State.setSpur_taken (s : State) (x : Spur) : (s.setSpur x).taken = s.taken := rfl
@[simp] theorem State.setSpur_pols (s : State) (x : Spur) : (s.setSpur x).pols = s.pols := rfl
@[simp] theorem State.setSpur_claims (s : State) (x : Spur) : (s.setSpur x).claims = s.claims := rfl
@[simp] theorem State.setSpur_nextClaim (s : State) (x : Spur) : (s.setSpur x).nextClaim = s.nextClaim := rfl
@[simp] theorem State.setSpur_issued (s : State) (x : Spur) : (s.setSpur x).issued = s.issued := rfl
@[simp] theorem State.setSpur_wires (s : State) (x : Spur) : (s.setSpur x).wires = s.wires := rfl
@[simp] theorem State.setSpur_cmdq (s : State) (x : Spur) : (s.setSpur x).cmdq = s.cmdq := rfl
@[simp] theorem State.setSpur_jobs (s : State) (x : Spur) : (s.setSpur x).jobs = s.jobs := rfl
@[simp] theorem State.setSpur_nextJob (s : State) (x : Spur) : (s.setSpur x).nextJob = s.nextJob := rfl
@[simp] theorem State.setSpur_fetched (s : State) (x : Spur) : (s.setSpur x).fetched = s.fetched := rfl
@[simp] theorem State.setSpur_resident (s : State) (x : Spur) : (s.setSpur x).resident = s.resident := rfl
@[simp] theorem State.setSpur_leftAt (s : State) (x : Spur) : (s.setSpur x).leftAt = s.leftAt := rfl
@[simp] theorem State.setSpur_served (s : State) (x : Spur) : (s.setSpur x).served = s.served := rfl
@[simp] theorem State.setSpur_presented (s : State) (x : Spur) : (s.setSpur x).presented = s.presented := rfl
@[simp] theorem State.setSpur_teardown (s : State) (x : Spur) : (s.setSpur x).teardown = s.teardown := rfl
@[simp] theorem State.setSpur_gated (s : State) (x : Spur) : (s.setSpur x).gated = s.gated := rfl
@[simp] theorem State.setSpur_recq (s : State) (x : Spur) : (s.setSpur x).recq = s.recq := rfl
@[simp] theorem State.setSpur_signals (s : State) (x : Spur) : (s.setSpur x).signals = s.signals := rfl
@[simp] theorem State.setSpur_links (s : State) (x : Spur) : (s.setSpur x).links = s.links := rfl
@[simp] theorem State.setSpur_farIdle (s : State) (x : Spur) : (s.setSpur x).farIdle = s.farIdle := rfl
@[simp] theorem State.setSpur_heldUp (s : State) (x : Spur) : (s.setSpur x).heldUp = s.heldUp := rfl
@[simp] theorem State.setSpur_stopped (s : State) (x : Spur) : (s.setSpur x).stopped = s.stopped := rfl
@[simp] theorem State.setSpur_boot (s : State) (x : Spur) : (s.setSpur x).boot = s.boot := rfl
@[simp] theorem State.setSpur_flash (s : State) (x : Spur) : (s.setSpur x).flash = s.flash := rfl
@[simp] theorem State.setSpur_measurement (s : State) (x : Spur) : (s.setSpur x).measurement = s.measurement := rfl
@[simp] theorem State.setSpur_svn (s : State) (x : Spur) : (s.setSpur x).svn = s.svn := rfl
@[simp] theorem State.setSpur_fuse (s : State) (x : Spur) : (s.setSpur x).fuse = s.fuse := rfl
@[simp] theorem State.setSpur_resets (s : State) (x : Spur) : (s.setSpur x).resets = s.resets := rfl
@[simp] theorem State.setSpur_unlocked (s : State) (x : Spur) : (s.setSpur x).unlocked = s.unlocked := rfl
@[simp] theorem State.setSpur_reports (s : State) (x : Spur) : (s.setSpur x).reports = s.reports := rfl

/-! ## A spur changed -/

@[simp] theorem State.modSpur_agenda (s : State) (h : Handle) (f : Spur → Spur) : (s.modSpur h f).agenda = s.agenda := rfl
@[simp] theorem State.modSpur_tick (s : State) (h : Handle) (f : Spur → Spur) : (s.modSpur h f).tick = s.tick := rfl
@[simp] theorem State.modSpur_now (s : State) (h : Handle) (f : Spur → Spur) : (s.modSpur h f).now = s.now := rfl
@[simp] theorem State.modSpur_agent (s : State) (h : Handle) (f : Spur → Spur) : (s.modSpur h f).agent = s.agent := rfl
@[simp] theorem State.modSpur_late (s : State) (h : Handle) (f : Spur → Spur) : (s.modSpur h f).late = s.late := rfl
@[simp] theorem State.modSpur_pkg (s : State) (h : Handle) (f : Spur → Spur) : (s.modSpur h f).pkg = s.pkg := rfl
@[simp] theorem State.modSpur_mem (s : State) (h : Handle) (f : Spur → Spur) : (s.modSpur h f).mem = s.mem := rfl
@[simp] theorem State.modSpur_full (s : State) (h : Handle) (f : Spur → Spur) : (s.modSpur h f).full = s.full := rfl
@[simp] theorem State.modSpur_ctl (s : State) (h : Handle) (f : Spur → Spur) : (s.modSpur h f).ctl = s.ctl := rfl
@[simp] theorem State.modSpur_caches (s : State) (h : Handle) (f : Spur → Spur) : (s.modSpur h f).caches = s.caches := rfl
@[simp] theorem State.modSpur_posted (s : State) (h : Handle) (f : Spur → Spur) : (s.modSpur h f).posted = s.posted := rfl
@[simp] theorem State.modSpur_pins (s : State) (h : Handle) (f : Spur → Spur) : (s.modSpur h f).pins = s.pins := rfl
@[simp] theorem State.modSpur_nextPin (s : State) (h : Handle) (f : Spur → Spur) : (s.modSpur h f).nextPin = s.nextPin := rfl
@[simp] theorem State.modSpur_pagerQ (s : State) (h : Handle) (f : Spur → Spur) : (s.modSpur h f).pagerQ = s.pagerQ := rfl
@[simp] theorem State.modSpur_pagerAck (s : State) (h : Handle) (f : Spur → Spur) : (s.modSpur h f).pagerAck = s.pagerAck := rfl
@[simp] theorem State.modSpur_owners (s : State) (h : Handle) (f : Spur → Spur) : (s.modSpur h f).owners = s.owners := rfl
@[simp] theorem State.modSpur_lastOwner (s : State) (h : Handle) (f : Spur → Spur) : (s.modSpur h f).lastOwner = s.lastOwner := rfl
@[simp] theorem State.modSpur_banks (s : State) (h : Handle) (f : Spur → Spur) : (s.modSpur h f).banks = s.banks := rfl
@[simp] theorem State.modSpur_tiles (s : State) (h : Handle) (f : Spur → Spur) : (s.modSpur h f).tiles = s.tiles := rfl
@[simp] theorem State.modSpur_pagerFwd (s : State) (h : Handle) (f : Spur → Spur) : (s.modSpur h f).pagerFwd = s.pagerFwd := rfl
@[simp] theorem State.modSpur_powered (s : State) (h : Handle) (f : Spur → Spur) : (s.modSpur h f).powered = s.powered := rfl
@[simp] theorem State.modSpur_badWords (s : State) (h : Handle) (f : Spur → Spur) : (s.modSpur h f).badWords = s.badWords := rfl
@[simp] theorem State.modSpur_klog (s : State) (h : Handle) (f : Spur → Spur) : (s.modSpur h f).klog = s.klog := rfl
@[simp] theorem State.modSpur_corrected (s : State) (h : Handle) (f : Spur → Spur) : (s.modSpur h f).corrected = s.corrected := rfl
@[simp] theorem State.modSpur_seqs (s : State) (h : Handle) (f : Spur → Spur) : (s.modSpur h f).seqs = s.seqs := rfl
@[simp] theorem State.modSpur_comps (s : State) (h : Handle) (f : Spur → Spur) : (s.modSpur h f).comps = s.comps := rfl
@[simp] theorem State.modSpur_groups (s : State) (h : Handle) (f : Spur → Spur) : (s.modSpur h f).groups = s.groups := rfl
@[simp] theorem State.modSpur_taken (s : State) (h : Handle) (f : Spur → Spur) : (s.modSpur h f).taken = s.taken := rfl
@[simp] theorem State.modSpur_pols (s : State) (h : Handle) (f : Spur → Spur) : (s.modSpur h f).pols = s.pols := rfl
@[simp] theorem State.modSpur_claims (s : State) (h : Handle) (f : Spur → Spur) : (s.modSpur h f).claims = s.claims := rfl
@[simp] theorem State.modSpur_nextClaim (s : State) (h : Handle) (f : Spur → Spur) : (s.modSpur h f).nextClaim = s.nextClaim := rfl
@[simp] theorem State.modSpur_issued (s : State) (h : Handle) (f : Spur → Spur) : (s.modSpur h f).issued = s.issued := rfl
@[simp] theorem State.modSpur_wires (s : State) (h : Handle) (f : Spur → Spur) : (s.modSpur h f).wires = s.wires := rfl
@[simp] theorem State.modSpur_cmdq (s : State) (h : Handle) (f : Spur → Spur) : (s.modSpur h f).cmdq = s.cmdq := rfl
@[simp] theorem State.modSpur_jobs (s : State) (h : Handle) (f : Spur → Spur) : (s.modSpur h f).jobs = s.jobs := rfl
@[simp] theorem State.modSpur_nextJob (s : State) (h : Handle) (f : Spur → Spur) : (s.modSpur h f).nextJob = s.nextJob := rfl
@[simp] theorem State.modSpur_fetched (s : State) (h : Handle) (f : Spur → Spur) : (s.modSpur h f).fetched = s.fetched := rfl
@[simp] theorem State.modSpur_resident (s : State) (h : Handle) (f : Spur → Spur) : (s.modSpur h f).resident = s.resident := rfl
@[simp] theorem State.modSpur_leftAt (s : State) (h : Handle) (f : Spur → Spur) : (s.modSpur h f).leftAt = s.leftAt := rfl
@[simp] theorem State.modSpur_served (s : State) (h : Handle) (f : Spur → Spur) : (s.modSpur h f).served = s.served := rfl
@[simp] theorem State.modSpur_presented (s : State) (h : Handle) (f : Spur → Spur) : (s.modSpur h f).presented = s.presented := rfl
@[simp] theorem State.modSpur_teardown (s : State) (h : Handle) (f : Spur → Spur) : (s.modSpur h f).teardown = s.teardown := rfl
@[simp] theorem State.modSpur_gated (s : State) (h : Handle) (f : Spur → Spur) : (s.modSpur h f).gated = s.gated := rfl
@[simp] theorem State.modSpur_recq (s : State) (h : Handle) (f : Spur → Spur) : (s.modSpur h f).recq = s.recq := rfl
@[simp] theorem State.modSpur_signals (s : State) (h : Handle) (f : Spur → Spur) : (s.modSpur h f).signals = s.signals := rfl
@[simp] theorem State.modSpur_links (s : State) (h : Handle) (f : Spur → Spur) : (s.modSpur h f).links = s.links := rfl
@[simp] theorem State.modSpur_farIdle (s : State) (h : Handle) (f : Spur → Spur) : (s.modSpur h f).farIdle = s.farIdle := rfl
@[simp] theorem State.modSpur_heldUp (s : State) (h : Handle) (f : Spur → Spur) : (s.modSpur h f).heldUp = s.heldUp := rfl
@[simp] theorem State.modSpur_stopped (s : State) (h : Handle) (f : Spur → Spur) : (s.modSpur h f).stopped = s.stopped := rfl
@[simp] theorem State.modSpur_boot (s : State) (h : Handle) (f : Spur → Spur) : (s.modSpur h f).boot = s.boot := rfl
@[simp] theorem State.modSpur_flash (s : State) (h : Handle) (f : Spur → Spur) : (s.modSpur h f).flash = s.flash := rfl
@[simp] theorem State.modSpur_measurement (s : State) (h : Handle) (f : Spur → Spur) : (s.modSpur h f).measurement = s.measurement := rfl
@[simp] theorem State.modSpur_svn (s : State) (h : Handle) (f : Spur → Spur) : (s.modSpur h f).svn = s.svn := rfl
@[simp] theorem State.modSpur_fuse (s : State) (h : Handle) (f : Spur → Spur) : (s.modSpur h f).fuse = s.fuse := rfl
@[simp] theorem State.modSpur_resets (s : State) (h : Handle) (f : Spur → Spur) : (s.modSpur h f).resets = s.resets := rfl
@[simp] theorem State.modSpur_unlocked (s : State) (h : Handle) (f : Spur → Spur) : (s.modSpur h f).unlocked = s.unlocked := rfl
@[simp] theorem State.modSpur_reports (s : State) (h : Handle) (f : Spur → Spur) : (s.modSpur h f).reports = s.reports := rfl

/-! ## Passing time -/

@[simp] theorem State.pass_agenda (s : State) (dt : Nat) : (s.pass dt).agenda = s.agenda := rfl
@[simp] theorem State.pass_tick (s : State) (dt : Nat) : (s.pass dt).tick = s.tick := rfl
@[simp] theorem State.pass_now (s : State) (dt : Nat) : (s.pass dt).now = s.now + dt := rfl
@[simp] theorem State.pass_agent (s : State) (dt : Nat) : (s.pass dt).agent = s.agent := rfl
@[simp] theorem State.pass_late (s : State) (dt : Nat) : (s.pass dt).late = s.late := rfl
@[simp] theorem State.pass_pkg (s : State) (dt : Nat) : (s.pass dt).pkg = s.pkg := rfl
@[simp] theorem State.pass_mem (s : State) (dt : Nat) : (s.pass dt).mem = s.mem := rfl
@[simp] theorem State.pass_full (s : State) (dt : Nat) : (s.pass dt).full = s.full := rfl
@[simp] theorem State.pass_ctl (s : State) (dt : Nat) : (s.pass dt).ctl = s.ctl := rfl
@[simp] theorem State.pass_caches (s : State) (dt : Nat) : (s.pass dt).caches = s.caches := rfl
@[simp] theorem State.pass_posted (s : State) (dt : Nat) : (s.pass dt).posted = s.posted := rfl
@[simp] theorem State.pass_pins (s : State) (dt : Nat) : (s.pass dt).pins = s.pins := rfl
@[simp] theorem State.pass_nextPin (s : State) (dt : Nat) : (s.pass dt).nextPin = s.nextPin := rfl
@[simp] theorem State.pass_pagerQ (s : State) (dt : Nat) : (s.pass dt).pagerQ = s.pagerQ := rfl
@[simp] theorem State.pass_pagerAck (s : State) (dt : Nat) : (s.pass dt).pagerAck = s.pagerAck := rfl
@[simp] theorem State.pass_owners (s : State) (dt : Nat) : (s.pass dt).owners = s.owners := rfl
@[simp] theorem State.pass_lastOwner (s : State) (dt : Nat) : (s.pass dt).lastOwner = s.lastOwner := rfl
@[simp] theorem State.pass_banks (s : State) (dt : Nat) : (s.pass dt).banks = s.banks := rfl
@[simp] theorem State.pass_tiles (s : State) (dt : Nat) : (s.pass dt).tiles = s.tiles := rfl
@[simp] theorem State.pass_pagerFwd (s : State) (dt : Nat) : (s.pass dt).pagerFwd = s.pagerFwd := rfl
@[simp] theorem State.pass_powered (s : State) (dt : Nat) : (s.pass dt).powered = s.powered := rfl
@[simp] theorem State.pass_badWords (s : State) (dt : Nat) : (s.pass dt).badWords = s.badWords := rfl
@[simp] theorem State.pass_klog (s : State) (dt : Nat) : (s.pass dt).klog = s.klog := rfl
@[simp] theorem State.pass_corrected (s : State) (dt : Nat) : (s.pass dt).corrected = s.corrected := rfl
@[simp] theorem State.pass_seqs (s : State) (dt : Nat) : (s.pass dt).seqs = s.seqs := rfl
@[simp] theorem State.pass_spurs (s : State) (dt : Nat) : (s.pass dt).spurs =
    s.spurs.map fun sp => if s.drainsFor sp.handle then State.busied { s with now := s.now + dt } sp else sp := rfl
/-- With no posted operation, time passes for no spur in particular. -/
theorem State.pass_quiet (s : State) (dt : Nat) (h : s.posted = []) : s.pass dt = { s with now := s.now + dt } := by
  simp [State.pass, State.drainsFor, h]
@[simp] theorem State.pass_comps (s : State) (dt : Nat) : (s.pass dt).comps = s.comps := rfl
@[simp] theorem State.pass_groups (s : State) (dt : Nat) : (s.pass dt).groups = s.groups := rfl
@[simp] theorem State.pass_taken (s : State) (dt : Nat) : (s.pass dt).taken = s.taken := rfl
@[simp] theorem State.pass_pols (s : State) (dt : Nat) : (s.pass dt).pols = s.pols := rfl
@[simp] theorem State.pass_claims (s : State) (dt : Nat) : (s.pass dt).claims = s.claims := rfl
@[simp] theorem State.pass_nextClaim (s : State) (dt : Nat) : (s.pass dt).nextClaim = s.nextClaim := rfl
@[simp] theorem State.pass_issued (s : State) (dt : Nat) : (s.pass dt).issued = s.issued := rfl
@[simp] theorem State.pass_wires (s : State) (dt : Nat) : (s.pass dt).wires = s.wires := rfl
@[simp] theorem State.pass_cmdq (s : State) (dt : Nat) : (s.pass dt).cmdq = s.cmdq := rfl
@[simp] theorem State.pass_jobs (s : State) (dt : Nat) : (s.pass dt).jobs = s.jobs := rfl
@[simp] theorem State.pass_nextJob (s : State) (dt : Nat) : (s.pass dt).nextJob = s.nextJob := rfl
@[simp] theorem State.pass_fetched (s : State) (dt : Nat) : (s.pass dt).fetched = s.fetched := rfl
@[simp] theorem State.pass_resident (s : State) (dt : Nat) : (s.pass dt).resident = s.resident := rfl
@[simp] theorem State.pass_leftAt (s : State) (dt : Nat) : (s.pass dt).leftAt = s.leftAt := rfl
@[simp] theorem State.pass_served (s : State) (dt : Nat) : (s.pass dt).served = s.served := rfl
@[simp] theorem State.pass_presented (s : State) (dt : Nat) : (s.pass dt).presented = s.presented := rfl
@[simp] theorem State.pass_teardown (s : State) (dt : Nat) : (s.pass dt).teardown = s.teardown := rfl
@[simp] theorem State.pass_gated (s : State) (dt : Nat) : (s.pass dt).gated = s.gated := rfl
@[simp] theorem State.pass_recq (s : State) (dt : Nat) : (s.pass dt).recq = s.recq := rfl
@[simp] theorem State.pass_signals (s : State) (dt : Nat) : (s.pass dt).signals = s.signals := rfl
@[simp] theorem State.pass_links (s : State) (dt : Nat) : (s.pass dt).links = s.links := rfl
@[simp] theorem State.pass_farIdle (s : State) (dt : Nat) : (s.pass dt).farIdle = s.farIdle := rfl
@[simp] theorem State.pass_heldUp (s : State) (dt : Nat) : (s.pass dt).heldUp = s.heldUp := rfl
@[simp] theorem State.pass_stopped (s : State) (dt : Nat) : (s.pass dt).stopped = s.stopped := rfl
@[simp] theorem State.pass_boot (s : State) (dt : Nat) : (s.pass dt).boot = s.boot := rfl
@[simp] theorem State.pass_flash (s : State) (dt : Nat) : (s.pass dt).flash = s.flash := rfl
@[simp] theorem State.pass_measurement (s : State) (dt : Nat) : (s.pass dt).measurement = s.measurement := rfl
@[simp] theorem State.pass_svn (s : State) (dt : Nat) : (s.pass dt).svn = s.svn := rfl
@[simp] theorem State.pass_fuse (s : State) (dt : Nat) : (s.pass dt).fuse = s.fuse := rfl
@[simp] theorem State.pass_resets (s : State) (dt : Nat) : (s.pass dt).resets = s.resets := rfl
@[simp] theorem State.pass_unlocked (s : State) (dt : Nat) : (s.pass dt).unlocked = s.unlocked := rfl
@[simp] theorem State.pass_reports (s : State) (dt : Nat) : (s.pass dt).reports = s.reports := rfl

/-! ## A wire changed -/

@[simp] theorem State.modWire_agenda (s : State) (w : Wire) (f : List Flit → List Flit) : (s.modWire w f).agenda = s.agenda := rfl
@[simp] theorem State.modWire_tick (s : State) (w : Wire) (f : List Flit → List Flit) : (s.modWire w f).tick = s.tick := rfl
@[simp] theorem State.modWire_now (s : State) (w : Wire) (f : List Flit → List Flit) : (s.modWire w f).now = s.now := rfl
@[simp] theorem State.modWire_agent (s : State) (w : Wire) (f : List Flit → List Flit) : (s.modWire w f).agent = s.agent := rfl
@[simp] theorem State.modWire_late (s : State) (w : Wire) (f : List Flit → List Flit) : (s.modWire w f).late = s.late := rfl
@[simp] theorem State.modWire_pkg (s : State) (w : Wire) (f : List Flit → List Flit) : (s.modWire w f).pkg = s.pkg := rfl
@[simp] theorem State.modWire_mem (s : State) (w : Wire) (f : List Flit → List Flit) : (s.modWire w f).mem = s.mem := rfl
@[simp] theorem State.modWire_full (s : State) (w : Wire) (f : List Flit → List Flit) : (s.modWire w f).full = s.full := rfl
@[simp] theorem State.modWire_ctl (s : State) (w : Wire) (f : List Flit → List Flit) : (s.modWire w f).ctl = s.ctl := rfl
@[simp] theorem State.modWire_caches (s : State) (w : Wire) (f : List Flit → List Flit) : (s.modWire w f).caches = s.caches := rfl
@[simp] theorem State.modWire_posted (s : State) (w : Wire) (f : List Flit → List Flit) : (s.modWire w f).posted = s.posted := rfl
@[simp] theorem State.modWire_pins (s : State) (w : Wire) (f : List Flit → List Flit) : (s.modWire w f).pins = s.pins := rfl
@[simp] theorem State.modWire_nextPin (s : State) (w : Wire) (f : List Flit → List Flit) : (s.modWire w f).nextPin = s.nextPin := rfl
@[simp] theorem State.modWire_pagerQ (s : State) (w : Wire) (f : List Flit → List Flit) : (s.modWire w f).pagerQ = s.pagerQ := rfl
@[simp] theorem State.modWire_pagerAck (s : State) (w : Wire) (f : List Flit → List Flit) : (s.modWire w f).pagerAck = s.pagerAck := rfl
@[simp] theorem State.modWire_owners (s : State) (w : Wire) (f : List Flit → List Flit) : (s.modWire w f).owners = s.owners := rfl
@[simp] theorem State.modWire_lastOwner (s : State) (w : Wire) (f : List Flit → List Flit) : (s.modWire w f).lastOwner = s.lastOwner := rfl
@[simp] theorem State.modWire_banks (s : State) (w : Wire) (f : List Flit → List Flit) : (s.modWire w f).banks = s.banks := rfl
@[simp] theorem State.modWire_tiles (s : State) (w : Wire) (f : List Flit → List Flit) : (s.modWire w f).tiles = s.tiles := rfl
@[simp] theorem State.modWire_pagerFwd (s : State) (w : Wire) (f : List Flit → List Flit) : (s.modWire w f).pagerFwd = s.pagerFwd := rfl
@[simp] theorem State.modWire_powered (s : State) (w : Wire) (f : List Flit → List Flit) : (s.modWire w f).powered = s.powered := rfl
@[simp] theorem State.modWire_badWords (s : State) (w : Wire) (f : List Flit → List Flit) : (s.modWire w f).badWords = s.badWords := rfl
@[simp] theorem State.modWire_klog (s : State) (w : Wire) (f : List Flit → List Flit) : (s.modWire w f).klog = s.klog := rfl
@[simp] theorem State.modWire_corrected (s : State) (w : Wire) (f : List Flit → List Flit) : (s.modWire w f).corrected = s.corrected := rfl
@[simp] theorem State.modWire_seqs (s : State) (w : Wire) (f : List Flit → List Flit) : (s.modWire w f).seqs = s.seqs := rfl
@[simp] theorem State.modWire_spurs (s : State) (w : Wire) (f : List Flit → List Flit) : (s.modWire w f).spurs = s.spurs := rfl
@[simp] theorem State.modWire_comps (s : State) (w : Wire) (f : List Flit → List Flit) : (s.modWire w f).comps = s.comps := rfl
@[simp] theorem State.modWire_groups (s : State) (w : Wire) (f : List Flit → List Flit) : (s.modWire w f).groups = s.groups := rfl
@[simp] theorem State.modWire_taken (s : State) (w : Wire) (f : List Flit → List Flit) : (s.modWire w f).taken = s.taken := rfl
@[simp] theorem State.modWire_pols (s : State) (w : Wire) (f : List Flit → List Flit) : (s.modWire w f).pols = s.pols := rfl
@[simp] theorem State.modWire_claims (s : State) (w : Wire) (f : List Flit → List Flit) : (s.modWire w f).claims = s.claims := rfl
@[simp] theorem State.modWire_nextClaim (s : State) (w : Wire) (f : List Flit → List Flit) : (s.modWire w f).nextClaim = s.nextClaim := rfl
@[simp] theorem State.modWire_issued (s : State) (w : Wire) (f : List Flit → List Flit) : (s.modWire w f).issued = s.issued := rfl
@[simp] theorem State.modWire_cmdq (s : State) (w : Wire) (f : List Flit → List Flit) : (s.modWire w f).cmdq = s.cmdq := rfl
@[simp] theorem State.modWire_jobs (s : State) (w : Wire) (f : List Flit → List Flit) : (s.modWire w f).jobs = s.jobs := rfl
@[simp] theorem State.modWire_nextJob (s : State) (w : Wire) (f : List Flit → List Flit) : (s.modWire w f).nextJob = s.nextJob := rfl
@[simp] theorem State.modWire_fetched (s : State) (w : Wire) (f : List Flit → List Flit) : (s.modWire w f).fetched = s.fetched := rfl
@[simp] theorem State.modWire_resident (s : State) (w : Wire) (f : List Flit → List Flit) : (s.modWire w f).resident = s.resident := rfl
@[simp] theorem State.modWire_leftAt (s : State) (w : Wire) (f : List Flit → List Flit) : (s.modWire w f).leftAt = s.leftAt := rfl
@[simp] theorem State.modWire_served (s : State) (w : Wire) (f : List Flit → List Flit) : (s.modWire w f).served = s.served := rfl
@[simp] theorem State.modWire_presented (s : State) (w : Wire) (f : List Flit → List Flit) : (s.modWire w f).presented = s.presented := rfl
@[simp] theorem State.modWire_teardown (s : State) (w : Wire) (f : List Flit → List Flit) : (s.modWire w f).teardown = s.teardown := rfl
@[simp] theorem State.modWire_gated (s : State) (w : Wire) (f : List Flit → List Flit) : (s.modWire w f).gated = s.gated := rfl
@[simp] theorem State.modWire_recq (s : State) (w : Wire) (f : List Flit → List Flit) : (s.modWire w f).recq = s.recq := rfl
@[simp] theorem State.modWire_signals (s : State) (w : Wire) (f : List Flit → List Flit) : (s.modWire w f).signals = s.signals := rfl
@[simp] theorem State.modWire_links (s : State) (w : Wire) (f : List Flit → List Flit) : (s.modWire w f).links = s.links := rfl
@[simp] theorem State.modWire_farIdle (s : State) (w : Wire) (f : List Flit → List Flit) : (s.modWire w f).farIdle = s.farIdle := rfl
@[simp] theorem State.modWire_heldUp (s : State) (w : Wire) (f : List Flit → List Flit) : (s.modWire w f).heldUp = s.heldUp := rfl
@[simp] theorem State.modWire_stopped (s : State) (w : Wire) (f : List Flit → List Flit) : (s.modWire w f).stopped = s.stopped := rfl
@[simp] theorem State.modWire_boot (s : State) (w : Wire) (f : List Flit → List Flit) : (s.modWire w f).boot = s.boot := rfl
@[simp] theorem State.modWire_flash (s : State) (w : Wire) (f : List Flit → List Flit) : (s.modWire w f).flash = s.flash := rfl
@[simp] theorem State.modWire_measurement (s : State) (w : Wire) (f : List Flit → List Flit) : (s.modWire w f).measurement = s.measurement := rfl
@[simp] theorem State.modWire_svn (s : State) (w : Wire) (f : List Flit → List Flit) : (s.modWire w f).svn = s.svn := rfl
@[simp] theorem State.modWire_fuse (s : State) (w : Wire) (f : List Flit → List Flit) : (s.modWire w f).fuse = s.fuse := rfl
@[simp] theorem State.modWire_resets (s : State) (w : Wire) (f : List Flit → List Flit) : (s.modWire w f).resets = s.resets := rfl
@[simp] theorem State.modWire_unlocked (s : State) (w : Wire) (f : List Flit → List Flit) : (s.modWire w f).unlocked = s.unlocked := rfl
@[simp] theorem State.modWire_reports (s : State) (w : Wire) (f : List Flit → List Flit) : (s.modWire w f).reports = s.reports := rfl

/-! ## A claim put back -/

@[simp] theorem State.setClaim_agenda (s : State) (c : Claim) : (s.setClaim c).agenda = s.agenda := rfl
@[simp] theorem State.setClaim_tick (s : State) (c : Claim) : (s.setClaim c).tick = s.tick := rfl
@[simp] theorem State.setClaim_now (s : State) (c : Claim) : (s.setClaim c).now = s.now := rfl
@[simp] theorem State.setClaim_agent (s : State) (c : Claim) : (s.setClaim c).agent = s.agent := rfl
@[simp] theorem State.setClaim_late (s : State) (c : Claim) : (s.setClaim c).late = s.late := rfl
@[simp] theorem State.setClaim_pkg (s : State) (c : Claim) : (s.setClaim c).pkg = s.pkg := rfl
@[simp] theorem State.setClaim_mem (s : State) (c : Claim) : (s.setClaim c).mem = s.mem := rfl
@[simp] theorem State.setClaim_full (s : State) (c : Claim) : (s.setClaim c).full = s.full := rfl
@[simp] theorem State.setClaim_ctl (s : State) (c : Claim) : (s.setClaim c).ctl = s.ctl := rfl
@[simp] theorem State.setClaim_caches (s : State) (c : Claim) : (s.setClaim c).caches = s.caches := rfl
@[simp] theorem State.setClaim_posted (s : State) (c : Claim) : (s.setClaim c).posted = s.posted := rfl
@[simp] theorem State.setClaim_pins (s : State) (c : Claim) : (s.setClaim c).pins = s.pins := rfl
@[simp] theorem State.setClaim_nextPin (s : State) (c : Claim) : (s.setClaim c).nextPin = s.nextPin := rfl
@[simp] theorem State.setClaim_pagerQ (s : State) (c : Claim) : (s.setClaim c).pagerQ = s.pagerQ := rfl
@[simp] theorem State.setClaim_pagerAck (s : State) (c : Claim) : (s.setClaim c).pagerAck = s.pagerAck := rfl
@[simp] theorem State.setClaim_owners (s : State) (c : Claim) : (s.setClaim c).owners = s.owners := rfl
@[simp] theorem State.setClaim_lastOwner (s : State) (c : Claim) : (s.setClaim c).lastOwner = s.lastOwner := rfl
@[simp] theorem State.setClaim_banks (s : State) (c : Claim) : (s.setClaim c).banks = s.banks := rfl
@[simp] theorem State.setClaim_tiles (s : State) (c : Claim) : (s.setClaim c).tiles = s.tiles := rfl
@[simp] theorem State.setClaim_pagerFwd (s : State) (c : Claim) : (s.setClaim c).pagerFwd = s.pagerFwd := rfl
@[simp] theorem State.setClaim_powered (s : State) (c : Claim) : (s.setClaim c).powered = s.powered := rfl
@[simp] theorem State.setClaim_badWords (s : State) (c : Claim) : (s.setClaim c).badWords = s.badWords := rfl
@[simp] theorem State.setClaim_klog (s : State) (c : Claim) : (s.setClaim c).klog = s.klog := rfl
@[simp] theorem State.setClaim_corrected (s : State) (c : Claim) : (s.setClaim c).corrected = s.corrected := rfl
@[simp] theorem State.setClaim_seqs (s : State) (c : Claim) : (s.setClaim c).seqs = s.seqs := rfl
@[simp] theorem State.setClaim_spurs (s : State) (c : Claim) : (s.setClaim c).spurs = s.spurs := rfl
@[simp] theorem State.setClaim_comps (s : State) (c : Claim) : (s.setClaim c).comps = s.comps := rfl
@[simp] theorem State.setClaim_groups (s : State) (c : Claim) : (s.setClaim c).groups = s.groups := rfl
@[simp] theorem State.setClaim_taken (s : State) (c : Claim) : (s.setClaim c).taken = s.taken := rfl
@[simp] theorem State.setClaim_pols (s : State) (c : Claim) : (s.setClaim c).pols = s.pols := rfl
@[simp] theorem State.setClaim_nextClaim (s : State) (c : Claim) : (s.setClaim c).nextClaim = s.nextClaim := rfl
@[simp] theorem State.setClaim_issued (s : State) (c : Claim) : (s.setClaim c).issued = s.issued := rfl
@[simp] theorem State.setClaim_wires (s : State) (c : Claim) : (s.setClaim c).wires = s.wires := rfl
@[simp] theorem State.setClaim_cmdq (s : State) (c : Claim) : (s.setClaim c).cmdq = s.cmdq := rfl
@[simp] theorem State.setClaim_jobs (s : State) (c : Claim) : (s.setClaim c).jobs = s.jobs := rfl
@[simp] theorem State.setClaim_nextJob (s : State) (c : Claim) : (s.setClaim c).nextJob = s.nextJob := rfl
@[simp] theorem State.setClaim_fetched (s : State) (c : Claim) : (s.setClaim c).fetched = s.fetched := rfl
@[simp] theorem State.setClaim_resident (s : State) (c : Claim) : (s.setClaim c).resident = s.resident := rfl
@[simp] theorem State.setClaim_leftAt (s : State) (c : Claim) : (s.setClaim c).leftAt = s.leftAt := rfl
@[simp] theorem State.setClaim_served (s : State) (c : Claim) : (s.setClaim c).served = s.served := rfl
@[simp] theorem State.setClaim_presented (s : State) (c : Claim) : (s.setClaim c).presented = s.presented := rfl
@[simp] theorem State.setClaim_teardown (s : State) (c : Claim) : (s.setClaim c).teardown = s.teardown := rfl
@[simp] theorem State.setClaim_gated (s : State) (c : Claim) : (s.setClaim c).gated = s.gated := rfl
@[simp] theorem State.setClaim_recq (s : State) (c : Claim) : (s.setClaim c).recq = s.recq := rfl
@[simp] theorem State.setClaim_signals (s : State) (c : Claim) : (s.setClaim c).signals = s.signals := rfl
@[simp] theorem State.setClaim_links (s : State) (c : Claim) : (s.setClaim c).links = s.links := rfl
@[simp] theorem State.setClaim_farIdle (s : State) (c : Claim) : (s.setClaim c).farIdle = s.farIdle := rfl
@[simp] theorem State.setClaim_heldUp (s : State) (c : Claim) : (s.setClaim c).heldUp = s.heldUp := rfl
@[simp] theorem State.setClaim_stopped (s : State) (c : Claim) : (s.setClaim c).stopped = s.stopped := rfl
@[simp] theorem State.setClaim_boot (s : State) (c : Claim) : (s.setClaim c).boot = s.boot := rfl
@[simp] theorem State.setClaim_flash (s : State) (c : Claim) : (s.setClaim c).flash = s.flash := rfl
@[simp] theorem State.setClaim_measurement (s : State) (c : Claim) : (s.setClaim c).measurement = s.measurement := rfl
@[simp] theorem State.setClaim_svn (s : State) (c : Claim) : (s.setClaim c).svn = s.svn := rfl
@[simp] theorem State.setClaim_fuse (s : State) (c : Claim) : (s.setClaim c).fuse = s.fuse := rfl
@[simp] theorem State.setClaim_resets (s : State) (c : Claim) : (s.setClaim c).resets = s.resets := rfl
@[simp] theorem State.setClaim_unlocked (s : State) (c : Claim) : (s.setClaim c).unlocked = s.unlocked := rfl
@[simp] theorem State.setClaim_reports (s : State) (c : Claim) : (s.setClaim c).reports = s.reports := rfl

/-! ## A job put back -/

@[simp] theorem State.setJob_agenda (s : State) (j : Job) : (s.setJob j).agenda = s.agenda := rfl
@[simp] theorem State.setJob_tick (s : State) (j : Job) : (s.setJob j).tick = s.tick := rfl
@[simp] theorem State.setJob_now (s : State) (j : Job) : (s.setJob j).now = s.now := rfl
@[simp] theorem State.setJob_agent (s : State) (j : Job) : (s.setJob j).agent = s.agent := rfl
@[simp] theorem State.setJob_late (s : State) (j : Job) : (s.setJob j).late = s.late := rfl
@[simp] theorem State.setJob_pkg (s : State) (j : Job) : (s.setJob j).pkg = s.pkg := rfl
@[simp] theorem State.setJob_mem (s : State) (j : Job) : (s.setJob j).mem = s.mem := rfl
@[simp] theorem State.setJob_full (s : State) (j : Job) : (s.setJob j).full = s.full := rfl
@[simp] theorem State.setJob_ctl (s : State) (j : Job) : (s.setJob j).ctl = s.ctl := rfl
@[simp] theorem State.setJob_caches (s : State) (j : Job) : (s.setJob j).caches = s.caches := rfl
@[simp] theorem State.setJob_posted (s : State) (j : Job) : (s.setJob j).posted = s.posted := rfl
@[simp] theorem State.setJob_pins (s : State) (j : Job) : (s.setJob j).pins = s.pins := rfl
@[simp] theorem State.setJob_nextPin (s : State) (j : Job) : (s.setJob j).nextPin = s.nextPin := rfl
@[simp] theorem State.setJob_pagerQ (s : State) (j : Job) : (s.setJob j).pagerQ = s.pagerQ := rfl
@[simp] theorem State.setJob_pagerAck (s : State) (j : Job) : (s.setJob j).pagerAck = s.pagerAck := rfl
@[simp] theorem State.setJob_owners (s : State) (j : Job) : (s.setJob j).owners = s.owners := rfl
@[simp] theorem State.setJob_lastOwner (s : State) (j : Job) : (s.setJob j).lastOwner = s.lastOwner := rfl
@[simp] theorem State.setJob_banks (s : State) (j : Job) : (s.setJob j).banks = s.banks := rfl
@[simp] theorem State.setJob_tiles (s : State) (j : Job) : (s.setJob j).tiles = s.tiles := rfl
@[simp] theorem State.setJob_pagerFwd (s : State) (j : Job) : (s.setJob j).pagerFwd = s.pagerFwd := rfl
@[simp] theorem State.setJob_powered (s : State) (j : Job) : (s.setJob j).powered = s.powered := rfl
@[simp] theorem State.setJob_badWords (s : State) (j : Job) : (s.setJob j).badWords = s.badWords := rfl
@[simp] theorem State.setJob_klog (s : State) (j : Job) : (s.setJob j).klog = s.klog := rfl
@[simp] theorem State.setJob_corrected (s : State) (j : Job) : (s.setJob j).corrected = s.corrected := rfl
@[simp] theorem State.setJob_seqs (s : State) (j : Job) : (s.setJob j).seqs = s.seqs := rfl
@[simp] theorem State.setJob_spurs (s : State) (j : Job) : (s.setJob j).spurs = s.spurs := rfl
@[simp] theorem State.setJob_comps (s : State) (j : Job) : (s.setJob j).comps = s.comps := rfl
@[simp] theorem State.setJob_groups (s : State) (j : Job) : (s.setJob j).groups = s.groups := rfl
@[simp] theorem State.setJob_taken (s : State) (j : Job) : (s.setJob j).taken = s.taken := rfl
@[simp] theorem State.setJob_pols (s : State) (j : Job) : (s.setJob j).pols = s.pols := rfl
@[simp] theorem State.setJob_claims (s : State) (j : Job) : (s.setJob j).claims = s.claims := rfl
@[simp] theorem State.setJob_nextClaim (s : State) (j : Job) : (s.setJob j).nextClaim = s.nextClaim := rfl
@[simp] theorem State.setJob_issued (s : State) (j : Job) : (s.setJob j).issued = s.issued := rfl
@[simp] theorem State.setJob_wires (s : State) (j : Job) : (s.setJob j).wires = s.wires := rfl
@[simp] theorem State.setJob_cmdq (s : State) (j : Job) : (s.setJob j).cmdq = s.cmdq := rfl
@[simp] theorem State.setJob_nextJob (s : State) (j : Job) : (s.setJob j).nextJob = s.nextJob := rfl
@[simp] theorem State.setJob_fetched (s : State) (j : Job) : (s.setJob j).fetched = s.fetched := rfl
@[simp] theorem State.setJob_resident (s : State) (j : Job) : (s.setJob j).resident = s.resident := rfl
@[simp] theorem State.setJob_leftAt (s : State) (j : Job) : (s.setJob j).leftAt = s.leftAt := rfl
@[simp] theorem State.setJob_served (s : State) (j : Job) : (s.setJob j).served = s.served := rfl
@[simp] theorem State.setJob_presented (s : State) (j : Job) : (s.setJob j).presented = s.presented := rfl
@[simp] theorem State.setJob_teardown (s : State) (j : Job) : (s.setJob j).teardown = s.teardown := rfl
@[simp] theorem State.setJob_gated (s : State) (j : Job) : (s.setJob j).gated = s.gated := rfl
@[simp] theorem State.setJob_recq (s : State) (j : Job) : (s.setJob j).recq = s.recq := rfl
@[simp] theorem State.setJob_signals (s : State) (j : Job) : (s.setJob j).signals = s.signals := rfl
@[simp] theorem State.setJob_links (s : State) (j : Job) : (s.setJob j).links = s.links := rfl
@[simp] theorem State.setJob_farIdle (s : State) (j : Job) : (s.setJob j).farIdle = s.farIdle := rfl
@[simp] theorem State.setJob_heldUp (s : State) (j : Job) : (s.setJob j).heldUp = s.heldUp := rfl
@[simp] theorem State.setJob_stopped (s : State) (j : Job) : (s.setJob j).stopped = s.stopped := rfl
@[simp] theorem State.setJob_boot (s : State) (j : Job) : (s.setJob j).boot = s.boot := rfl
@[simp] theorem State.setJob_flash (s : State) (j : Job) : (s.setJob j).flash = s.flash := rfl
@[simp] theorem State.setJob_measurement (s : State) (j : Job) : (s.setJob j).measurement = s.measurement := rfl
@[simp] theorem State.setJob_svn (s : State) (j : Job) : (s.setJob j).svn = s.svn := rfl
@[simp] theorem State.setJob_fuse (s : State) (j : Job) : (s.setJob j).fuse = s.fuse := rfl
@[simp] theorem State.setJob_resets (s : State) (j : Job) : (s.setJob j).resets = s.resets := rfl
@[simp] theorem State.setJob_unlocked (s : State) (j : Job) : (s.setJob j).unlocked = s.unlocked := rfl
@[simp] theorem State.setJob_reports (s : State) (j : Job) : (s.setJob j).reports = s.reports := rfl

/-! ## A translation kept -/

@[simp] theorem State.fill_agenda (s : State) (c : CacheEnt) (va : Nat) : (s.fill c va).agenda = s.agenda := rfl
@[simp] theorem State.fill_tick (s : State) (c : CacheEnt) (va : Nat) : (s.fill c va).tick = s.tick := rfl
@[simp] theorem State.fill_now (s : State) (c : CacheEnt) (va : Nat) : (s.fill c va).now = s.now := rfl
@[simp] theorem State.fill_agent (s : State) (c : CacheEnt) (va : Nat) : (s.fill c va).agent = s.agent := rfl
@[simp] theorem State.fill_late (s : State) (c : CacheEnt) (va : Nat) : (s.fill c va).late = s.late := rfl
@[simp] theorem State.fill_pkg (s : State) (c : CacheEnt) (va : Nat) : (s.fill c va).pkg = s.pkg := rfl
@[simp] theorem State.fill_mem (s : State) (c : CacheEnt) (va : Nat) : (s.fill c va).mem = s.mem := rfl
@[simp] theorem State.fill_full (s : State) (c : CacheEnt) (va : Nat) : (s.fill c va).full = s.full := rfl
@[simp] theorem State.fill_ctl (s : State) (c : CacheEnt) (va : Nat) : (s.fill c va).ctl = s.ctl := rfl
@[simp] theorem State.fill_posted (s : State) (c : CacheEnt) (va : Nat) : (s.fill c va).posted = s.posted := rfl
@[simp] theorem State.fill_pins (s : State) (c : CacheEnt) (va : Nat) : (s.fill c va).pins = s.pins := rfl
@[simp] theorem State.fill_nextPin (s : State) (c : CacheEnt) (va : Nat) : (s.fill c va).nextPin = s.nextPin := rfl
@[simp] theorem State.fill_pagerQ (s : State) (c : CacheEnt) (va : Nat) : (s.fill c va).pagerQ = s.pagerQ := rfl
@[simp] theorem State.fill_pagerAck (s : State) (c : CacheEnt) (va : Nat) : (s.fill c va).pagerAck = s.pagerAck := rfl
@[simp] theorem State.fill_owners (s : State) (c : CacheEnt) (va : Nat) : (s.fill c va).owners = s.owners := rfl
@[simp] theorem State.fill_lastOwner (s : State) (c : CacheEnt) (va : Nat) : (s.fill c va).lastOwner = s.lastOwner := rfl
@[simp] theorem State.fill_banks (s : State) (c : CacheEnt) (va : Nat) : (s.fill c va).banks = s.banks := rfl
@[simp] theorem State.fill_tiles (s : State) (c : CacheEnt) (va : Nat) : (s.fill c va).tiles = s.tiles := rfl
@[simp] theorem State.fill_pagerFwd (s : State) (c : CacheEnt) (va : Nat) : (s.fill c va).pagerFwd = s.pagerFwd := rfl
@[simp] theorem State.fill_powered (s : State) (c : CacheEnt) (va : Nat) : (s.fill c va).powered = s.powered := rfl
@[simp] theorem State.fill_badWords (s : State) (c : CacheEnt) (va : Nat) : (s.fill c va).badWords = s.badWords := rfl
@[simp] theorem State.fill_klog (s : State) (c : CacheEnt) (va : Nat) : (s.fill c va).klog = s.klog := rfl
@[simp] theorem State.fill_corrected (s : State) (c : CacheEnt) (va : Nat) : (s.fill c va).corrected = s.corrected := rfl
@[simp] theorem State.fill_seqs (s : State) (c : CacheEnt) (va : Nat) : (s.fill c va).seqs = s.seqs := rfl
@[simp] theorem State.fill_spurs (s : State) (c : CacheEnt) (va : Nat) : (s.fill c va).spurs = s.spurs := rfl
@[simp] theorem State.fill_comps (s : State) (c : CacheEnt) (va : Nat) : (s.fill c va).comps = s.comps := rfl
@[simp] theorem State.fill_groups (s : State) (c : CacheEnt) (va : Nat) : (s.fill c va).groups = s.groups := rfl
@[simp] theorem State.fill_taken (s : State) (c : CacheEnt) (va : Nat) : (s.fill c va).taken = s.taken := rfl
@[simp] theorem State.fill_pols (s : State) (c : CacheEnt) (va : Nat) : (s.fill c va).pols = s.pols := rfl
@[simp] theorem State.fill_claims (s : State) (c : CacheEnt) (va : Nat) : (s.fill c va).claims = s.claims := rfl
@[simp] theorem State.fill_nextClaim (s : State) (c : CacheEnt) (va : Nat) : (s.fill c va).nextClaim = s.nextClaim := rfl
@[simp] theorem State.fill_issued (s : State) (c : CacheEnt) (va : Nat) : (s.fill c va).issued = s.issued := rfl
@[simp] theorem State.fill_wires (s : State) (c : CacheEnt) (va : Nat) : (s.fill c va).wires = s.wires := rfl
@[simp] theorem State.fill_cmdq (s : State) (c : CacheEnt) (va : Nat) : (s.fill c va).cmdq = s.cmdq := rfl
@[simp] theorem State.fill_jobs (s : State) (c : CacheEnt) (va : Nat) : (s.fill c va).jobs = s.jobs := rfl
@[simp] theorem State.fill_nextJob (s : State) (c : CacheEnt) (va : Nat) : (s.fill c va).nextJob = s.nextJob := rfl
@[simp] theorem State.fill_fetched (s : State) (c : CacheEnt) (va : Nat) : (s.fill c va).fetched = s.fetched := rfl
@[simp] theorem State.fill_resident (s : State) (c : CacheEnt) (va : Nat) : (s.fill c va).resident = s.resident := rfl
@[simp] theorem State.fill_leftAt (s : State) (c : CacheEnt) (va : Nat) : (s.fill c va).leftAt = s.leftAt := rfl
@[simp] theorem State.fill_served (s : State) (c : CacheEnt) (va : Nat) : (s.fill c va).served = s.served := rfl
@[simp] theorem State.fill_presented (s : State) (c : CacheEnt) (va : Nat) : (s.fill c va).presented = s.presented := rfl
@[simp] theorem State.fill_teardown (s : State) (c : CacheEnt) (va : Nat) : (s.fill c va).teardown = s.teardown := rfl
@[simp] theorem State.fill_gated (s : State) (c : CacheEnt) (va : Nat) : (s.fill c va).gated = s.gated := rfl
@[simp] theorem State.fill_recq (s : State) (c : CacheEnt) (va : Nat) : (s.fill c va).recq = s.recq := rfl
@[simp] theorem State.fill_signals (s : State) (c : CacheEnt) (va : Nat) : (s.fill c va).signals = s.signals := rfl
@[simp] theorem State.fill_links (s : State) (c : CacheEnt) (va : Nat) : (s.fill c va).links = s.links := rfl
@[simp] theorem State.fill_farIdle (s : State) (c : CacheEnt) (va : Nat) : (s.fill c va).farIdle = s.farIdle := rfl
@[simp] theorem State.fill_heldUp (s : State) (c : CacheEnt) (va : Nat) : (s.fill c va).heldUp = s.heldUp := rfl
@[simp] theorem State.fill_stopped (s : State) (c : CacheEnt) (va : Nat) : (s.fill c va).stopped = s.stopped := rfl
@[simp] theorem State.fill_boot (s : State) (c : CacheEnt) (va : Nat) : (s.fill c va).boot = s.boot := rfl
@[simp] theorem State.fill_flash (s : State) (c : CacheEnt) (va : Nat) : (s.fill c va).flash = s.flash := rfl
@[simp] theorem State.fill_measurement (s : State) (c : CacheEnt) (va : Nat) : (s.fill c va).measurement = s.measurement := rfl
@[simp] theorem State.fill_svn (s : State) (c : CacheEnt) (va : Nat) : (s.fill c va).svn = s.svn := rfl
@[simp] theorem State.fill_fuse (s : State) (c : CacheEnt) (va : Nat) : (s.fill c va).fuse = s.fuse := rfl
@[simp] theorem State.fill_resets (s : State) (c : CacheEnt) (va : Nat) : (s.fill c va).resets = s.resets := rfl
@[simp] theorem State.fill_unlocked (s : State) (c : CacheEnt) (va : Nat) : (s.fill c va).unlocked = s.unlocked := rfl
@[simp] theorem State.fill_reports (s : State) (c : CacheEnt) (va : Nat) : (s.fill c va).reports = s.reports := rfl

/-! ## The live body of a spur changed -/

@[simp] theorem Spur.modLive_handle (sp : Spur) (f : Body → Body) : (sp.modLive f).handle = sp.handle := rfl
@[simp] theorem Spur.modLive_dom (sp : Spur) (f : Body → Body) : (sp.modLive f).dom = sp.dom := rfl
@[simp] theorem Spur.modLive_asid (sp : Spur) (f : Body → Body) : (sp.modLive f).asid = sp.asid := rfl
@[simp] theorem Spur.modLive_seed (sp : Spur) (f : Body → Body) : (sp.modLive f).seed = sp.seed := rfl
@[simp] theorem Spur.modLive_qnt (sp : Spur) (f : Body → Body) : (sp.modLive f).qnt = sp.qnt := rfl
@[simp] theorem Spur.modLive_hq (sp : Spur) (f : Body → Body) : (sp.modLive f).hq = sp.hq := rfl
@[simp] theorem Spur.modLive_img (sp : Spur) (f : Body → Body) : (sp.modLive f).img = sp.img := rfl
@[simp] theorem Spur.modLive_arg (sp : Spur) (f : Body → Body) : (sp.modLive f).arg = sp.arg := rfl
@[simp] theorem Spur.modLive_target (sp : Spur) (f : Body → Body) : (sp.modLive f).target = sp.target := rfl
@[simp] theorem Spur.modLive_parent (sp : Spur) (f : Body → Body) : (sp.modLive f).parent = sp.parent := rfl
@[simp] theorem Spur.modLive_entry (sp : Spur) (f : Body → Body) : (sp.modLive f).entry = sp.entry := rfl
@[simp] theorem Spur.modLive_life (sp : Spur) (f : Body → Body) : (sp.modLive f).life = sp.life := rfl
@[simp] theorem Spur.modLive_site (sp : Spur) (f : Body → Body) : (sp.modLive f).site = sp.site := rfl
@[simp] theorem Spur.modLive_host (sp : Spur) (f : Body → Body) : (sp.modLive f).host = sp.host := rfl
@[simp] theorem Spur.modLive_area (sp : Spur) (f : Body → Body) : (sp.modLive f).area = sp.area := rfl
@[simp] theorem Spur.modLive_claim (sp : Spur) (f : Body → Body) : (sp.modLive f).claim = sp.claim := rfl
@[simp] theorem Spur.modLive_live (sp : Spur) (f : Body → Body) : (sp.modLive f).live = f sp.live := rfl
@[simp] theorem Spur.modLive_start (sp : Spur) (f : Body → Body) : (sp.modLive f).start = sp.start := rfl
@[simp] theorem Spur.modLive_causes (sp : Spur) (f : Body → Body) : (sp.modLive f).causes = sp.causes := rfl
@[simp] theorem Spur.modLive_stale (sp : Spur) (f : Body → Body) : (sp.modLive f).stale = sp.stale := rfl
@[simp] theorem Spur.modLive_retry (sp : Spur) (f : Body → Body) : (sp.modLive f).retry = sp.retry := rfl
@[simp] theorem Spur.modLive_badNow (sp : Spur) (f : Body → Body) : (sp.modLive f).badNow = sp.badNow := rfl
@[simp] theorem Spur.modLive_retried (sp : Spur) (f : Body → Body) : (sp.modLive f).retried = sp.retried := rfl
@[simp] theorem Spur.modLive_tries (sp : Spur) (f : Body → Body) : (sp.modLive f).tries = sp.tries := rfl
@[simp] theorem Spur.modLive_spared (sp : Spur) (f : Body → Body) : (sp.modLive f).spared = sp.spared := rfl
@[simp] theorem Spur.modLive_rnd (sp : Spur) (f : Body → Body) : (sp.modLive f).rnd = sp.rnd := rfl
@[simp] theorem Spur.modLive_roundAt (sp : Spur) (f : Body → Body) : (sp.modLive f).roundAt = sp.roundAt := rfl
@[simp] theorem Spur.modLive_rlenNow (sp : Spur) (f : Body → Body) : (sp.modLive f).rlenNow = sp.rlenNow := rfl
@[simp] theorem Spur.modLive_openedAt (sp : Spur) (f : Body → Body) : (sp.modLive f).openedAt = sp.openedAt := rfl
@[simp] theorem Spur.modLive_awayFrom (sp : Spur) (f : Body → Body) : (sp.modLive f).awayFrom = sp.awayFrom := rfl
@[simp] theorem Spur.modLive_lastBusy (sp : Spur) (f : Body → Body) : (sp.modLive f).lastBusy = sp.lastBusy := rfl
@[simp] theorem Spur.modLive_inactive (sp : Spur) (f : Body → Body) : (sp.modLive f).inactive = sp.inactive := rfl
@[simp] theorem Spur.modLive_dead (sp : Spur) (f : Body → Body) : (sp.modLive f).dead = sp.dead := rfl
@[simp] theorem Spur.modLive_atoms (sp : Spur) (f : Body → Body) : (sp.modLive f).atoms = sp.atoms := rfl
@[simp] theorem Spur.modLive_delivered (sp : Spur) (f : Body → Body) : (sp.modLive f).delivered = sp.delivered := rfl
@[simp] theorem Spur.modLive_collected (sp : Spur) (f : Body → Body) : (sp.modLive f).collected = sp.collected := rfl
@[simp] theorem Spur.modLive_bars (sp : Spur) (f : Body → Body) : (sp.modLive f).bars = sp.bars := rfl
@[simp] theorem Spur.modLive_launches (sp : Spur) (f : Body → Body) : (sp.modLive f).launches = sp.launches := rfl
@[simp] theorem Spur.modLive_gates (sp : Spur) (f : Body → Body) : (sp.modLive f).gates = sp.gates := rfl
@[simp] theorem Spur.modLive_kept (sp : Spur) (f : Body → Body) : (sp.modLive f).kept = sp.kept := rfl
@[simp] theorem Spur.modLive_final (sp : Spur) (f : Body → Body) : (sp.modLive f).final = sp.final := rfl
@[simp] theorem Spur.modLive_result (sp : Spur) (f : Body → Body) : (sp.modLive f).result = sp.result := rfl
@[simp] theorem Spur.modLive_sStop (sp : Spur) (f : Body → Body) : (sp.modLive f).sStop = sp.sStop := rfl
@[simp] theorem Spur.modLive_sFault (sp : Spur) (f : Body → Body) : (sp.modLive f).sFault = sp.sFault := rfl
@[simp] theorem Spur.modLive_paging (sp : Spur) (f : Body → Body) : (sp.modLive f).paging = sp.paging := rfl
@[simp] theorem Spur.modLive_sysMade (sp : Spur) (f : Body → Body) : (sp.modLive f).sysMade = sp.sysMade := rfl
@[simp] theorem Spur.modLive_move (sp : Spur) (f : Body → Body) : (sp.modLive f).move = sp.move := rfl
@[simp] theorem Spur.modLive_stowAt (sp : Spur) (f : Body → Body) : (sp.modLive f).stowAt = sp.stowAt := rfl
@[simp] theorem Spur.modLive_stowWait (sp : Spur) (f : Body → Body) : (sp.modLive f).stowWait = sp.stowWait := rfl
@[simp] theorem Spur.modLive_foldAt (sp : Spur) (f : Body → Body) : (sp.modLive f).foldAt = sp.foldAt := rfl
@[simp] theorem Spur.modLive_wasYielded (sp : Spur) (f : Body → Body) : (sp.modLive f).wasYielded = sp.wasYielded := rfl
@[simp] theorem Spur.modLive_placedAt (sp : Spur) (f : Body → Body) : (sp.modLive f).placedAt = sp.placedAt := rfl
@[simp] theorem Spur.modLive_waves (sp : Spur) (f : Body → Body) : (sp.modLive f).waves = sp.waves := rfl
@[simp] theorem Spur.modLive_phases (sp : Spur) (f : Body → Body) : (sp.modLive f).phases = sp.phases := rfl
@[simp] theorem Spur.modLive_linkDown (sp : Spur) (f : Body → Body) : (sp.modLive f).linkDown = sp.linkDown := rfl
@[simp] theorem Spur.modLive_deferred (sp : Spur) (f : Body → Body) : (sp.modLive f).deferred = sp.deferred := rfl

/-! ## A spur that did something -/

@[simp] theorem Spur.busy_handle (sp : Spur) (now : Nat) : (sp.busy now).handle = sp.handle := rfl
@[simp] theorem Spur.busy_dom (sp : Spur) (now : Nat) : (sp.busy now).dom = sp.dom := rfl
@[simp] theorem Spur.busy_asid (sp : Spur) (now : Nat) : (sp.busy now).asid = sp.asid := rfl
@[simp] theorem Spur.busy_seed (sp : Spur) (now : Nat) : (sp.busy now).seed = sp.seed := rfl
@[simp] theorem Spur.busy_qnt (sp : Spur) (now : Nat) : (sp.busy now).qnt = sp.qnt := rfl
@[simp] theorem Spur.busy_hq (sp : Spur) (now : Nat) : (sp.busy now).hq = sp.hq := rfl
@[simp] theorem Spur.busy_img (sp : Spur) (now : Nat) : (sp.busy now).img = sp.img := rfl
@[simp] theorem Spur.busy_arg (sp : Spur) (now : Nat) : (sp.busy now).arg = sp.arg := rfl
@[simp] theorem Spur.busy_target (sp : Spur) (now : Nat) : (sp.busy now).target = sp.target := rfl
@[simp] theorem Spur.busy_parent (sp : Spur) (now : Nat) : (sp.busy now).parent = sp.parent := rfl
@[simp] theorem Spur.busy_entry (sp : Spur) (now : Nat) : (sp.busy now).entry = sp.entry := rfl
@[simp] theorem Spur.busy_life (sp : Spur) (now : Nat) : (sp.busy now).life = sp.life := rfl
@[simp] theorem Spur.busy_site (sp : Spur) (now : Nat) : (sp.busy now).site = sp.site := rfl
@[simp] theorem Spur.busy_host (sp : Spur) (now : Nat) : (sp.busy now).host = sp.host := rfl
@[simp] theorem Spur.busy_area (sp : Spur) (now : Nat) : (sp.busy now).area = sp.area := rfl
@[simp] theorem Spur.busy_claim (sp : Spur) (now : Nat) : (sp.busy now).claim = sp.claim := rfl
@[simp] theorem Spur.busy_live (sp : Spur) (now : Nat) : (sp.busy now).live = sp.live := rfl
@[simp] theorem Spur.busy_start (sp : Spur) (now : Nat) : (sp.busy now).start = sp.start := rfl
@[simp] theorem Spur.busy_causes (sp : Spur) (now : Nat) : (sp.busy now).causes = sp.causes := rfl
@[simp] theorem Spur.busy_stale (sp : Spur) (now : Nat) : (sp.busy now).stale = sp.stale := rfl
@[simp] theorem Spur.busy_retry (sp : Spur) (now : Nat) : (sp.busy now).retry = sp.retry := rfl
@[simp] theorem Spur.busy_badNow (sp : Spur) (now : Nat) : (sp.busy now).badNow = sp.badNow := rfl
@[simp] theorem Spur.busy_retried (sp : Spur) (now : Nat) : (sp.busy now).retried = sp.retried := rfl
@[simp] theorem Spur.busy_tries (sp : Spur) (now : Nat) : (sp.busy now).tries = sp.tries := rfl
@[simp] theorem Spur.busy_spared (sp : Spur) (now : Nat) : (sp.busy now).spared = sp.spared := rfl
@[simp] theorem Spur.busy_rnd (sp : Spur) (now : Nat) : (sp.busy now).rnd = sp.rnd := rfl
@[simp] theorem Spur.busy_roundAt (sp : Spur) (now : Nat) : (sp.busy now).roundAt = sp.roundAt := rfl
@[simp] theorem Spur.busy_rlenNow (sp : Spur) (now : Nat) : (sp.busy now).rlenNow = sp.rlenNow := rfl
@[simp] theorem Spur.busy_openedAt (sp : Spur) (now : Nat) : (sp.busy now).openedAt = sp.openedAt := rfl
@[simp] theorem Spur.busy_awayFrom (sp : Spur) (now : Nat) : (sp.busy now).awayFrom = sp.awayFrom := rfl
@[simp] theorem Spur.busy_lastBusy (sp : Spur) (now : Nat) : (sp.busy now).lastBusy = now := rfl
@[simp] theorem Spur.busy_inactive (sp : Spur) (now : Nat) : (sp.busy now).inactive = false := rfl
@[simp] theorem Spur.busy_dead (sp : Spur) (now : Nat) : (sp.busy now).dead = sp.dead := rfl
@[simp] theorem Spur.busy_atoms (sp : Spur) (now : Nat) : (sp.busy now).atoms = sp.atoms := rfl
@[simp] theorem Spur.busy_delivered (sp : Spur) (now : Nat) : (sp.busy now).delivered = sp.delivered := rfl
@[simp] theorem Spur.busy_collected (sp : Spur) (now : Nat) : (sp.busy now).collected = sp.collected := rfl
@[simp] theorem Spur.busy_bars (sp : Spur) (now : Nat) : (sp.busy now).bars = sp.bars := rfl
@[simp] theorem Spur.busy_launches (sp : Spur) (now : Nat) : (sp.busy now).launches = sp.launches := rfl
@[simp] theorem Spur.busy_gates (sp : Spur) (now : Nat) : (sp.busy now).gates = sp.gates := rfl
@[simp] theorem Spur.busy_kept (sp : Spur) (now : Nat) : (sp.busy now).kept = sp.kept := rfl
@[simp] theorem Spur.busy_final (sp : Spur) (now : Nat) : (sp.busy now).final = sp.final := rfl
@[simp] theorem Spur.busy_result (sp : Spur) (now : Nat) : (sp.busy now).result = sp.result := rfl
@[simp] theorem Spur.busy_sStop (sp : Spur) (now : Nat) : (sp.busy now).sStop = sp.sStop := rfl
@[simp] theorem Spur.busy_sFault (sp : Spur) (now : Nat) : (sp.busy now).sFault = sp.sFault := rfl
@[simp] theorem Spur.busy_paging (sp : Spur) (now : Nat) : (sp.busy now).paging = sp.paging := rfl
@[simp] theorem Spur.busy_sysMade (sp : Spur) (now : Nat) : (sp.busy now).sysMade = sp.sysMade := rfl
@[simp] theorem Spur.busy_move (sp : Spur) (now : Nat) : (sp.busy now).move = sp.move := rfl
@[simp] theorem Spur.busy_stowAt (sp : Spur) (now : Nat) : (sp.busy now).stowAt = sp.stowAt := rfl
@[simp] theorem Spur.busy_stowWait (sp : Spur) (now : Nat) : (sp.busy now).stowWait = sp.stowWait := rfl
@[simp] theorem Spur.busy_foldAt (sp : Spur) (now : Nat) : (sp.busy now).foldAt = sp.foldAt := rfl
@[simp] theorem Spur.busy_wasYielded (sp : Spur) (now : Nat) : (sp.busy now).wasYielded = sp.wasYielded := rfl
@[simp] theorem Spur.busy_placedAt (sp : Spur) (now : Nat) : (sp.busy now).placedAt = sp.placedAt := rfl
@[simp] theorem Spur.busy_waves (sp : Spur) (now : Nat) : (sp.busy now).waves = sp.waves := rfl
@[simp] theorem Spur.busy_phases (sp : Spur) (now : Nat) : (sp.busy now).phases = sp.phases := rfl
@[simp] theorem Spur.busy_linkDown (sp : Spur) (now : Nat) : (sp.busy now).linkDown = sp.linkDown := rfl
@[simp] theorem Spur.busy_deferred (sp : Spur) (now : Nat) : (sp.busy now).deferred = sp.deferred := rfl

/-! ## A fault kept for the round mark -/

@[simp] theorem Spur.addCause_handle (sp : Spur) (c : Cause) : (sp.addCause c).handle = sp.handle := rfl
@[simp] theorem Spur.addCause_dom (sp : Spur) (c : Cause) : (sp.addCause c).dom = sp.dom := rfl
@[simp] theorem Spur.addCause_asid (sp : Spur) (c : Cause) : (sp.addCause c).asid = sp.asid := rfl
@[simp] theorem Spur.addCause_seed (sp : Spur) (c : Cause) : (sp.addCause c).seed = sp.seed := rfl
@[simp] theorem Spur.addCause_qnt (sp : Spur) (c : Cause) : (sp.addCause c).qnt = sp.qnt := rfl
@[simp] theorem Spur.addCause_hq (sp : Spur) (c : Cause) : (sp.addCause c).hq = sp.hq := rfl
@[simp] theorem Spur.addCause_img (sp : Spur) (c : Cause) : (sp.addCause c).img = sp.img := rfl
@[simp] theorem Spur.addCause_arg (sp : Spur) (c : Cause) : (sp.addCause c).arg = sp.arg := rfl
@[simp] theorem Spur.addCause_target (sp : Spur) (c : Cause) : (sp.addCause c).target = sp.target := rfl
@[simp] theorem Spur.addCause_parent (sp : Spur) (c : Cause) : (sp.addCause c).parent = sp.parent := rfl
@[simp] theorem Spur.addCause_entry (sp : Spur) (c : Cause) : (sp.addCause c).entry = sp.entry := rfl
@[simp] theorem Spur.addCause_life (sp : Spur) (c : Cause) : (sp.addCause c).life = sp.life := rfl
@[simp] theorem Spur.addCause_site (sp : Spur) (c : Cause) : (sp.addCause c).site = sp.site := rfl
@[simp] theorem Spur.addCause_host (sp : Spur) (c : Cause) : (sp.addCause c).host = sp.host := rfl
@[simp] theorem Spur.addCause_area (sp : Spur) (c : Cause) : (sp.addCause c).area = sp.area := rfl
@[simp] theorem Spur.addCause_claim (sp : Spur) (c : Cause) : (sp.addCause c).claim = sp.claim := rfl
@[simp] theorem Spur.addCause_live (sp : Spur) (c : Cause) : (sp.addCause c).live = sp.live := rfl
@[simp] theorem Spur.addCause_start (sp : Spur) (c : Cause) : (sp.addCause c).start = sp.start := rfl
@[simp] theorem Spur.addCause_stale (sp : Spur) (c : Cause) : (sp.addCause c).stale = sp.stale := rfl
@[simp] theorem Spur.addCause_retry (sp : Spur) (c : Cause) : (sp.addCause c).retry = sp.retry := rfl
@[simp] theorem Spur.addCause_badNow (sp : Spur) (c : Cause) : (sp.addCause c).badNow = sp.badNow := rfl
@[simp] theorem Spur.addCause_retried (sp : Spur) (c : Cause) : (sp.addCause c).retried = sp.retried := rfl
@[simp] theorem Spur.addCause_tries (sp : Spur) (c : Cause) : (sp.addCause c).tries = sp.tries := rfl
@[simp] theorem Spur.addCause_spared (sp : Spur) (c : Cause) : (sp.addCause c).spared = sp.spared := rfl
@[simp] theorem Spur.addCause_rnd (sp : Spur) (c : Cause) : (sp.addCause c).rnd = sp.rnd := rfl
@[simp] theorem Spur.addCause_roundAt (sp : Spur) (c : Cause) : (sp.addCause c).roundAt = sp.roundAt := rfl
@[simp] theorem Spur.addCause_rlenNow (sp : Spur) (c : Cause) : (sp.addCause c).rlenNow = sp.rlenNow := rfl
@[simp] theorem Spur.addCause_openedAt (sp : Spur) (c : Cause) : (sp.addCause c).openedAt = sp.openedAt := rfl
@[simp] theorem Spur.addCause_awayFrom (sp : Spur) (c : Cause) : (sp.addCause c).awayFrom = sp.awayFrom := rfl
@[simp] theorem Spur.addCause_lastBusy (sp : Spur) (c : Cause) : (sp.addCause c).lastBusy = sp.lastBusy := rfl
@[simp] theorem Spur.addCause_inactive (sp : Spur) (c : Cause) : (sp.addCause c).inactive = sp.inactive := rfl
@[simp] theorem Spur.addCause_dead (sp : Spur) (c : Cause) : (sp.addCause c).dead = sp.dead := rfl
@[simp] theorem Spur.addCause_atoms (sp : Spur) (c : Cause) : (sp.addCause c).atoms = sp.atoms := rfl
@[simp] theorem Spur.addCause_delivered (sp : Spur) (c : Cause) : (sp.addCause c).delivered = sp.delivered := rfl
@[simp] theorem Spur.addCause_collected (sp : Spur) (c : Cause) : (sp.addCause c).collected = sp.collected := rfl
@[simp] theorem Spur.addCause_bars (sp : Spur) (c : Cause) : (sp.addCause c).bars = sp.bars := rfl
@[simp] theorem Spur.addCause_launches (sp : Spur) (c : Cause) : (sp.addCause c).launches = sp.launches := rfl
@[simp] theorem Spur.addCause_gates (sp : Spur) (c : Cause) : (sp.addCause c).gates = sp.gates := rfl
@[simp] theorem Spur.addCause_kept (sp : Spur) (c : Cause) : (sp.addCause c).kept = sp.kept := rfl
@[simp] theorem Spur.addCause_final (sp : Spur) (c : Cause) : (sp.addCause c).final = sp.final := rfl
@[simp] theorem Spur.addCause_result (sp : Spur) (c : Cause) : (sp.addCause c).result = sp.result := rfl
@[simp] theorem Spur.addCause_sStop (sp : Spur) (c : Cause) : (sp.addCause c).sStop = sp.sStop := rfl
@[simp] theorem Spur.addCause_sFault (sp : Spur) (c : Cause) : (sp.addCause c).sFault = sp.sFault := rfl
@[simp] theorem Spur.addCause_paging (sp : Spur) (c : Cause) : (sp.addCause c).paging = sp.paging := rfl
@[simp] theorem Spur.addCause_sysMade (sp : Spur) (c : Cause) : (sp.addCause c).sysMade = sp.sysMade := rfl
@[simp] theorem Spur.addCause_move (sp : Spur) (c : Cause) : (sp.addCause c).move = sp.move := rfl
@[simp] theorem Spur.addCause_stowAt (sp : Spur) (c : Cause) : (sp.addCause c).stowAt = sp.stowAt := rfl
@[simp] theorem Spur.addCause_stowWait (sp : Spur) (c : Cause) : (sp.addCause c).stowWait = sp.stowWait := rfl
@[simp] theorem Spur.addCause_foldAt (sp : Spur) (c : Cause) : (sp.addCause c).foldAt = sp.foldAt := rfl
@[simp] theorem Spur.addCause_wasYielded (sp : Spur) (c : Cause) : (sp.addCause c).wasYielded = sp.wasYielded := rfl
@[simp] theorem Spur.addCause_placedAt (sp : Spur) (c : Cause) : (sp.addCause c).placedAt = sp.placedAt := rfl
@[simp] theorem Spur.addCause_waves (sp : Spur) (c : Cause) : (sp.addCause c).waves = sp.waves := rfl
@[simp] theorem Spur.addCause_phases (sp : Spur) (c : Cause) : (sp.addCause c).phases = sp.phases := rfl
@[simp] theorem Spur.addCause_linkDown (sp : Spur) (c : Cause) : (sp.addCause c).linkDown = sp.linkDown := rfl
@[simp] theorem Spur.addCause_deferred (sp : Spur) (c : Cause) : (sp.addCause c).deferred = sp.deferred := rfl

/-! ## A spur that has been put back -/

/-- Reading a list in which the first match has been replaced. -/
theorem find?_updFirst_same {α : Type} (p : α → Bool) (f : α → α) (hf : ∀ x, p x = true → p (f x) = true) :
    ∀ l : List α, (updFirst p f l).find? p = (l.find? p).map f
  | [] => rfl
  | x :: r => by
    by_cases h : p x = true
    · simp [updFirst, h, hf x h]
    · simp only [updFirst, h, if_false, List.find?_cons, Bool.false_eq_true]
      exact find?_updFirst_same p f hf r

/-- Reading another match of a list in which a match has been replaced. -/
theorem find?_updFirst_other {α : Type} (p q : α → Bool) (f : α → α)
    (h : ∀ x, p x = true → q x = false ∧ q (f x) = false) : ∀ l : List α, (updFirst p f l).find? q = l.find? q
  | [] => rfl
  | x :: r => by
    by_cases hp : p x = true
    · simp [updFirst, hp, h x hp]
    · simp only [updFirst, hp, if_false, List.find?_cons, Bool.false_eq_true]
      rw [find?_updFirst_other p q f h r]

/-- A spur that is there reads as it was put back. -/
theorem State.spur?_setSpur {s : State} {x y : Spur} (h : s.spur? x.handle = some y) :
    (s.setSpur x).spur? x.handle = some x := by
  have := find?_updFirst_same (fun z : Spur => z.handle == x.handle) (fun _ => x) (by simp) s.spurs
  unfold State.spur? State.setSpur at *
  simp only [this, h, Option.map_some]

/-- Putting a spur back changes no other. -/
theorem State.spur?_setSpur_other {s : State} {x : Spur} {h : Handle} (hn : h ≠ x.handle) :
    (s.setSpur x).spur? h = s.spur? h := by
  refine find?_updFirst_other _ _ _ (fun z hz => ?_) s.spurs
  simp only [beq_iff_eq] at hz
  simp [hz, Ne.symm hn]

/-- Changing a spur, its handle kept. -/
theorem State.spur?_modSpur {s : State} {h : Handle} {f : Spur → Spur} (hf : ∀ x, (f x).handle = x.handle) :
    (s.modSpur h f).spur? h = (s.spur? h).map f :=
  find?_updFirst_same (fun z : Spur => z.handle == h) f (by simp [hf]) s.spurs

/-- Changing a spur changes no other. -/
theorem State.spur?_modSpur_other {s : State} {h g : Handle} {f : Spur → Spur} (hf : ∀ x, (f x).handle = x.handle)
    (hn : g ≠ h) : (s.modSpur h f).spur? g = s.spur? g := by
  refine find?_updFirst_other _ _ _ (fun z hz => ?_) s.spurs
  simp only [beq_iff_eq] at hz
  simp [hf, hz, Ne.symm hn]

end Sys2Proof.Machine
end

