-- ==== Sys2Proof/Tests/Slice0.lean ====
section
/-! SUPPORT. The model's own tests: words written out from the spec's encodings, ill-formed terms that each check refuses,
results worked by hand from the rules, and for every statement states and operands that meet what it asks. Each runs one
step or one instruction on a small state. -/

namespace Sys2Proof.Tests

open Sys2Proof

set_option Elab.async false

/-- `when always`. -/
abbrev gN : BGuard := ⟨0, 0, false, 0, false, 0, false, 0, 0, false, false⟩
abbrev gO (n : BitVec 3) : BGuard := ⟨0, 0, false, 0, false, 0, true, n, 0, false, false⟩
abbrev gI : BGuard := ⟨0, 0, true, 0, false, 0, false, 0, 0, false, false⟩
abbrev gIO : BGuard := ⟨0, 0, true, 0, false, 0, true, 0, 0, false, false⟩
abbrev gIIO : BGuard := ⟨0, 0, true, 0, true, 1, true, 0, 0, false, false⟩
abbrev gK : BGuard := ⟨0, 0, false, 0, true, 3, false, 0, 0, false, true⟩
abbrev gKO2 : BGuard := ⟨0, 0, false, 0, true, 0, true, 2, 0, false, true⟩
abbrev gIK : BGuard := ⟨0, 0, true, 0, true, 0, false, 0, 0, false, true⟩
abbrev sN : SGuard := ⟨false, false, 0, 0⟩
abbrev sX (x : BitVec 27) : SGuard := ⟨false, false, 0, x⟩

abbrev bw (w : W64) : Form × W64 := (.brick, w)
abbrev sw (w : W64) : Form × W64 := (.seq, w)

def reads (l : List ((Form × W64) × Instr)) : Bool :=
  l.all (fun r => match decode r.1.1 r.1.2 with | .ok i => decide (i = r.2) | .error _ => false)

open Sys2Proof.Machine

/-! ## Small states -/

def here : CtxAt := ⟨placedHandle, 0, 0, 0⟩

/-- The placed spur, changed by `f`, with its one context about to fire slot 0. -/
def fire (f : Spur → Spur) : State :=
  { State.reset with spurs := [f (placedSpur 0 1 0)], agent := .firing here 0 }

/-- The placed spur, changed by `f`, with its thread about to issue. -/
def issue (f : Spur → Spur) : State :=
  { State.reset with spurs := [f (placedSpur 0 1 0)], agent := .thread placedHandle }

def cx (f : Ctx → Ctx) (sp : Spur) : Spur := sp.modLive fun b => { b with ctxs := b.ctxs.map f }
def br (f : Brick → Brick) (sp : Spur) : Spur := sp.modLive fun b => { b with bricks := b.bricks.map f }
def th (f : Thread → Thread) (sp : Spur) : Spur := sp.modLive fun b => { b with th := f b.th }

def dRegs (a b : W32) : Spur → Spur := cx fun k => { k with regs := ((k.regs.set 1 7).set 2 a).set 3 b }
def gRegs (a b : W64) : Spur → Spur := th fun t => { t with g := ((t.g.set 1 7).set 2 a).set 3 b }

/-- Instruction `i` begins, on a view that meets `p`. -/
def starts (i : Instr) (s : State) (p : Ex → Bool) : Bool :=
  match guardOf i with
  | some g => (begins i g s).any p
  | none => false

def after (i : Instr) (s : State) (p : State → Bool) : Bool := match exec i s with | .next t => p t | _ => false

/-- `d1` after the instruction, with 7 in `d1` and these values in `d2` and `d3`. -/
def gives (i : Instr) (a b v : W32) : Bool :=
  after i (fire (dRegs a b)) fun t => match t.ctx? here with | some k => k.reg 0 1 == v | none => false

/-- `g1` after the instruction, with 7 in `g1` and these values in `g2` and `g3`. -/
def yields (i : Instr) (a b v : W64) : Bool :=
  after i (issue (gRegs a b)) fun t => match t.thread? placedHandle with | some k => k.reg 1 == v && k.pc == 0x200008 | none => false

def all (l : List Bool) : Bool := l.all id

/-! ## Results: values worked by hand from the rules of the arithmetic and conversion chapters -/

theorem test_words_trigger_1 : reads [
  (bw 0x0000000000000000, .nop (.b gN)),
  (bw 0x0000000001005180, .pset (.b gN) (.d 5) (.d 6)),
  (bw 0x00000000028628C0, .pand (.b gN) (.q 1) (.q 2) (.q 3)),
  (sw 0x00000000028628C1, .por (.s sN) (.f 1) (.f 2) (.f 3)),
  (bw 0x00000000028628C2, .pxor (.b gN) (.q 1) (.q 2) (.q 3)),
  (bw 0x00000000028628C3, .pandn (.b gN) (.q 1) (.q 2) (.q 3)),
  (bw 0x0000000002862004, .pnot (.b gN) (.q 1) (.q 2)),
  (sw 0x00000000029E0005, .pmov (.s sN) (.f 7) (.f 0)),
  (bw 0x00000000030420C5, .sel gN 5 (.d 1) (.d 2) (.d 3)),
  (bw 0x000008A104A84000, .steer gKO2 (.o 2) (.d 4)),
  (bw 0x0000880105058000, .merge gIK (.d 1) (.iDeq 0)),
  (bw 0x0000800005050001, .mergeAny gI (.d 1) (.i 0)),
  (bw 0x000008A106A84000, .gate gKO2 (.o 2) (.d 4)),
  (bw 0x0000000007000000, .done gN),
  (bw 0x000000000800003F, .brk (.b gN) 63),
  (bw 0x000000000900700C, .trap (.b gN) 12 (.d 7))] = true := by decide

theorem test_words_trigger_2 : reads [
  (sw 0x000000000A01F009, .mark (.s sN) 9 (.g 31)),
  (bw 0x000000000B003006, .sett gN 6 (.d 3)),
  (bw 0x000000000C000003, .seamO gN 3),
  (bw 0x000000000C00000A, .seamJ gN 2),
  (bw 0x000000000C000010, .seamAll gN),
  (bw 0x000080000D018CC0, .deq gI (.iDeq 0) .z),
  (bw 0x000000000E005002, .kput gN 2 (.d 5)),
  (bw 0x00000B010F100000, .kget gK (.d 4)),
  (bw 0x00008000C0110000, .peekt gI (.d 4) (.i 0)),
  (bw 0x000000A0C1A80000, .routeaStep (gO 2) (.o 2)),
  (sw 0x00000000C1005181, .routeaSet (.s sN) (.g 5) (.g 6)),
  (bw 0x00000000C2005180, .vcbind (.b gN) (.d 5) (.d 6)),
  (bw 0x00000000C3100017, .qstat gN (.o 7) (.d 4))] = true := by decide

theorem test_words_integer_1 : reads [
  (sw 0x0000000010751180, .add (.s sN) (.g 29) (.g 17) (.g 6)),
  (sw 0x0000000012751180, .sub (.s sN) (.g 29) (.g 17) (.g 6)),
  (sw 0x0000000013751180, .mul (.s sN) (.g 29) (.g 17) (.g 6)),
  (sw 0x0000000013751181, .mulh (.s sN) (.g 29) (.g 17) (.g 6)),
  (sw 0x0000000013751182, .mulhu (.s sN) (.g 29) (.g 17) (.g 6)),
  (sw 0x0000000014751180, .div (.s sN) (.g 29) (.g 17) (.g 6)),
  (sw 0x0000000014751181, .divu (.s sN) (.g 29) (.g 17) (.g 6)),
  (sw 0x0000000014751182, .rem (.s sN) (.g 29) (.g 17) (.g 6)),
  (sw 0x0000000014751183, .remu (.s sN) (.g 29) (.g 17) (.g 6)),
  (sw 0x0000000015751180, .and (.s sN) (.g 29) (.g 17) (.g 6)),
  (sw 0x0000000017751180, .or (.s sN) (.g 29) (.g 17) (.g 6)),
  (sw 0x0000000019751180, .xor (.s sN) (.g 29) (.g 17) (.g 6)),
  (sw 0x000000001B751180, .shl (.s sN) (.g 29) (.g 17) (.g 6)),
  (sw 0x000000001D751180, .shr (.s sN) (.g 29) (.g 17) (.g 6)),
  (sw 0x000000001F751180, .sra (.s sN) (.g 29) (.g 17) (.g 6)),
  (sw 0x0000000021751180, .rotl (.s sN) (.g 29) (.g 17) (.g 6))] = true := by decide

theorem test_words_integer_2 : reads [
  (sw 0x0000000023751180, .min (.s sN) (.g 29) (.g 17) (.g 6)),
  (sw 0x0000000023751181, .max (.s sN) (.g 29) (.g 17) (.g 6)),
  (sw 0x0000000023751182, .minu (.s sN) (.g 29) (.g 17) (.g 6)),
  (sw 0x0000000023751183, .maxu (.s sN) (.g 29) (.g 17) (.g 6)),
  (sw 0x0000000025751180, .cmpeq (.s sN) (.g 29) (.g 17) (.g 6)),
  (sw 0x0000000025751181, .cmpne (.s sN) (.g 29) (.g 17) (.g 6)),
  (sw 0x0000000025751182, .cmplt (.s sN) (.g 29) (.g 17) (.g 6)),
  (sw 0x0000000025751183, .cmpltu (.s sN) (.g 29) (.g 17) (.g 6)),
  (sw 0x0000000025751184, .cmple (.s sN) (.g 29) (.g 17) (.g 6)),
  (sw 0x0000000025751185, .cmpleu (.s sN) (.g 29) (.g 17) (.g 6)),
  (sw 0x0000000029751180, .bfx (.s sN) (.g 29) (.g 17) (.g 6)),
  (sw 0x0000000029751181, .bfxS (.s sN) (.g 29) (.g 17) (.g 6)),
  (sw 0x000000002A751180, .bfi (.s sN) (.g 29) (.g 17) (.g 6)),
  (sw 0x000000002B751180, .adds (.s sN) (.g 29) (.g 17) (.g 6)),
  (sw 0x000000002B751181, .subs (.s sN) (.g 29) (.g 17) (.g 6)),
  (sw 0x000000002C751180, .madd (.s sN) (.g 29) (.g 17) (.g 6))] = true := by decide

theorem test_words_integer_3 : reads [
  (bw 0x000000002D0420C3, .lea (.b gN) 3 (.d 1) (.d 2) (.d 3)),
  (bw 0x0000000022042000, .clz (.b gN) (.d 1) (.d 2)),
  (bw 0x0000000022042001, .ctz (.b gN) (.d 1) (.d 2)),
  (bw 0x0000000022042002, .popc (.b gN) (.d 1) (.d 2)),
  (bw 0x0000000024042000, .abs (.b gN) (.d 1) (.d 2)),
  (bw 0x0000000024042001, .neg (.b gN) (.d 1) (.d 2)),
  (sw 0x07FFFFFF11146FFD, .addi (.s (sX 0x7FFFFFF)) (.g 5) (.g 6) 0xFFD),
  (bw 0x00000000161467FF, .andi (.b gN) (.d 5) (.d 6) 0x7FF),
  (bw 0x0000000018146800, .ori (.b gN) (.d 5) (.d 6) 0x800),
  (bw 0x000000001A146001, .xori (.b gN) (.d 5) (.d 6) 1),
  (bw 0x000000001C14601F, .shli (.b gN) (.d 5) (.d 6) 31),
  (sw 0x000000001E14603F, .shri (.s sN) (.g 5) (.g 6) 63),
  (bw 0x0000000020146001, .srai (.b gN) (.d 5) (.d 6) 1),
  (bw 0x0000000026846101, .cmpeqi (.b gN) (.q 1) (.d 6) 0x101),
  (bw 0x0000000026846301, .cmpnei (.b gN) (.q 1) (.d 6) 0x101),
  (bw 0x0000000026846501, .cmplti (.b gN) (.q 1) (.d 6) 0x101)] = true := by decide

theorem test_words_integer_4 : reads [
  (bw 0x0000000026846701, .cmpltui (.b gN) (.q 1) (.d 6) 0x101),
  (bw 0x0000000026846901, .cmplei (.b gN) (.q 1) (.d 6) 0x101),
  (bw 0x0000000026846B01, .cmpleui (.b gN) (.q 1) (.d 6) 0x101),
  (bw 0x0000000027160001, .movi (.b gN) (.d 5) 0x20001),
  (bw 0x000000002814FFFF, .movhi (.b gN) (.d 5) 0x0FFFF)] = true := by decide

theorem test_words_float_1 : reads [
  (bw 0x00000000300420D2, .fadd (.b gN) .bf16 .rtz (.d 1) (.d 2) (.d 3)),
  (bw 0x00000000310420D2, .fsub (.b gN) .bf16 .rtz (.d 1) (.d 2) (.d 3)),
  (bw 0x00000000320420D2, .fmul (.b gN) .bf16 .rtz (.d 1) (.d 2) (.d 3)),
  (bw 0x00000000330420D2, .ffma (.b gN) .bf16 .rtz (.d 1) (.d 2) (.d 3)),
  (bw 0x00000000340420D2, .ffms (.b gN) .bf16 .rtz (.d 1) (.d 2) (.d 3)),
  (bw 0x00000000350420D2, .fdiv (.b gN) .bf16 .rtz (.d 1) (.d 2) (.d 3)),
  (bw 0x00000000430420D2, .fscale (.b gN) .bf16 .rtz (.d 1) (.d 2) (.d 3)),
  (bw 0x000000003604202A, .fsqrt (.b gN) .f16 .dyn (.d 1) (.d 2)),
  (bw 0x000000003704202A, .frsq (.b gN) .f16 .dyn (.d 1) (.d 2)),
  (bw 0x000000003804202A, .fexp2 (.b gN) .f16 .dyn (.d 1) (.d 2)),
  (bw 0x000000003904202A, .flog2 (.b gN) .f16 .dyn (.d 1) (.d 2)),
  (bw 0x000000004004202A, .fround (.b gN) .f16 .dyn (.d 1) (.d 2)),
  (bw 0x000000003A0420C1, .fmin (.b gN) .f32 true (.d 1) (.d 2) (.d 3)),
  (bw 0x000000003B0420C0, .fmax (.b gN) .f32 false (.d 1) (.d 2) (.d 3)),
  (bw 0x000000003C042020, .fabs (.b gN) .f16 (.d 1) (.d 2)),
  (bw 0x000000003D042010, .fneg (.b gN) .bf16 (.d 1) (.d 2))] = true := by decide

theorem test_words_float_2 : reads [
  (bw 0x000000003E8420C0, .fcmpeq (.b gN) .f32 (.q 1) (.d 2) (.d 3)),
  (bw 0x000000003E8420C2, .fcmplt (.b gN) .f32 (.q 1) (.d 2) (.d 3)),
  (bw 0x000000003E8420C4, .fcmple (.b gN) .f32 (.q 1) (.d 2) (.d 3)),
  (bw 0x000000003E8420C6, .fcmpun (.b gN) .f32 (.q 1) (.d 2) (.d 3)),
  (bw 0x000000003F042010, .fclass (.b gN) .bf16 (.d 1) (.d 2)),
  (bw 0x0000000041042005, .fcvti (.b gN) .f32 .rdn true (.d 1) (.d 2)),
  (sw 0x0000000042042006, .icvtf (.s sN) .f32 .rup false (.g 1) (.g 2))] = true := by decide

theorem test_words_stream_1 : reads [
  (bw 0x00000000500010A1, .sopen gN .sw 1 (.d 1) (.d 2)),
  (bw 0x0000000050000017, .sopenRe gN .sb 3),
  (bw 0x0000000051100020, .sclose gN .sw (.d 4)),
  (bw 0x0000000052CB0C70, .vadd gN .i8 .rne .sa .sb),
  (bw 0x0000000053CB00D8, .vsub gN .bf16 .rsn .sa (.d 3)),
  (bw 0x0000000054CB0C42, .vmul gN .f32 .rtz .sa .sb),
  (bw 0x0000000055C83000, .vfma gN .f32 .rne (.d 3)),
  (bw 0x0000000062C83020, .vaxpy gN .f16 .rne (.d 3)),
  (bw 0x0000000056CB0C41, .vmin gN .f32 true .sa .sb),
  (bw 0x0000000057CB0C70, .vmax gN .i8 false .sa .sb),
  (bw 0x0000000058CB0000, .vabs gN .f32 .sa),
  (bw 0x0000000059CB1010, .vneg gN .bf16 .sb),
  (bw 0x000000005ACB0C40, .vsel gN .f32 .sa .sb),
  (bw 0x000000005B130C74, .vcmp gN .i8 .le (.d 4) .sa .sb),
  (bw 0x000000005C13000A, .vredsum gN .f32 .dyn (.d 4) .sa),
  (bw 0x000000005D130001, .vredmax gN .f32 true (.d 4) .sa)] = true := by decide

theorem test_words_stream_2 : reads [
  (bw 0x000000005E130010, .vamax gN .bf16 (.d 4) .sa),
  (bw 0x000000005FCB0100, .vscan gN .f32 .rne .sa (.d 4)),
  (bw 0x0000000060CB0004, .vexp2 gN .f32 .rdn .sa),
  (bw 0x0000000061CB0006, .vrsq gN .f32 .rup .sa),
  (bw 0x0000000063CB0002, .vcvt gN .rtz .sa),
  (bw 0x0000000064CB0100, .vqnt gN .sa (.d 4)),
  (bw 0x0000000065CB0102, .vdqnt gN .rtz .sa (.d 4))] = true := by decide

theorem test_words_convert : reads [
  (bw 0x0000000070040040, .cvt (.b gN) .rne (.d 1) (.d 0) .f32 .bf16),
  (bw 0x0000000070040DC2, .cvt (.b gN) .rtz (.d 1) (.d 0) .i16 .i8),
  (bw 0x00000000710420D0, .qnt (.b gN) .k4 (.d 1) (.d 2) (.d 3)),
  (bw 0x00000000720420E6, .dqnt (.b gN) .k16 .rup (.d 1) (.d 2) (.d 3)),
  (bw 0x0000000073042000, .scalex (.b gN) .k8 (.d 1) (.d 2)),
  (bw 0x0000000074042000, .limb (.b gN) (.d 1) (.d 2)),
  (bw 0x0000000075042000, .unlimb (.b gN) (.d 1) (.d 2)),
  (bw 0x00000000760420C0, .packH (.b gN) (.d 1) (.d 2) (.d 3)),
  (sw 0x00000000770420C4, .unpackH (.s sN) true (.g 1) (.g 2) (.g 3)),
  (bw 0x00000000760420C1, .packB (.b gN) (.d 1) (.d 2) (.d 3)),
  (sw 0x00000000770420C5, .unpackB (.s sN) true (.g 1) (.g 2) (.g 3)),
  (bw 0x00000000760420C2, .packN (.b gN) (.d 1) (.d 2) (.d 3)),
  (sw 0x00000000770420C6, .unpackN (.s sN) true (.g 1) (.g 2) (.g 3)),
  (bw 0x000000A078A81080, .hdr (.b (gO 2)) (.o 2) (.d 1) (.d 2)),
  (bw 0x0000800079050004, .hdrget (.b gI) .last (.d 1) (.i 0)),
  (sw 0x0000000079042005, .hdrget (.s sN) .high (.g 1) (.g 2))] = true := by decide

theorem test_words_matrix_1 : reads [
  (bw 0x00000000800C1000, .oclaim gN 3 1),
  (bw 0x0000000081204000, .orelease gN 8 4),
  (bw 0x0000000082084158, .ofillBank gN .k16l 2 (.d 4) (.d 5)),
  (bw 0x00000000820C000C, .ofillBus gN .k4 3),
  (bw 0x0000000083100006, .ostat gN .x2 (.d 4)),
  (bw 0x0000000084044000, .mbind gN 1 (.d 4)),
  (bw 0x0000000085080000, .mzero gN 2),
  (bw 0x0000000086000041, .mmacK8 gN true 0 0 1),
  (bw 0x0000000086083050, .mmacK4 gN false 2 3 1),
  (bw 0x00000000860000A0, .mmacK16 gN false 0 2),
  (bw 0x0000000087044000, .mreconI64 gN false 1 (.d 4)),
  (bw 0x0000000087004005, .mreconF32 gN true 0 (.d 4)),
  (bw 0x0000000087044002, .mreconF32Add gN false 1 (.d 4)),
  (bw 0x0000000088044000, .mdrain gN 1 (.d 4)),
  (bw 0x0000000088044001, .mdrainZ gN 1 (.d 4)),
  (bw 0x0000000089042000, .trienc gN (.d 1) (.d 2))] = true := by decide

theorem test_words_matrix_2 : reads [
  (bw 0x000000008A042000, .tridec gN (.d 1) (.d 2)),
  (bw 0x000000008B0420C0, .triadd gN (.d 1) (.d 2) (.d 3)),
  (bw 0x000000008C0420C0, .trimul gN (.d 1) (.d 2) (.d 3))] = true := by decide

theorem test_words_sparse : reads [
  (bw 0x0000898090A10443, .scanb gIIO false 3 (.o 0) (.i 0) (.i 1)),
  (bw 0x0000808091A10CED, .scant gIO true 13 (.o 0) (.i 0) .z),
  (bw 0x0000898092A10441, .isect gIIO .cvb (.o 0) (.i 0) (.i 1)),
  (bw 0x0000898093A10442, .union gIIO .vv (.o 0) (.i 0) (.i 1)),
  (bw 0x0000008094A04000, .stopt (gO 0) (.o 0) (.d 4)),
  (bw 0x0000008094A0001F, .stoptImm (gO 0) 15 (.o 0)),
  (bw 0x0000808095A18000, .stopqLower gIO (.o 0) (.iDeq 0)),
  (bw 0x0000808095A18001, .stopqRaise gIO (.o 0) (.iDeq 0)),
  (bw 0x00000000962420C2, .spaccFadd gN .rtz 9 (.d 2) (.d 3)),
  (bw 0x00000000962420D0, .spaccAdd gN 9 (.d 2) (.d 3)),
  (bw 0x00000000962420E0, .spaccFmax gN 9 (.d 2) (.d 3)),
  (bw 0x0000008097A00009, .spdrain (gO 0) 9 (.o 0)),
  (bw 0x0000008097A00019, .spdrainV (gO 0) 9 (.o 0)),
  (bw 0x0000008098A0401E, .part (gO 0) 30 (.o 0) (.d 4))] = true := by decide

theorem test_words_engine : reads [
  (bw 0x00000080F2A04003, .isq (.b (gO 0)) 3 (.o 0) (.d 4)),
  (bw 0x00000080F3A04003, .probe (.b (gO 0)) 3 (.o 0) (.d 4)),
  (bw 0x00000080F4A04003, .unpin (.b (gO 0)) 3 (.o 0) (.d 4)),
  (bw 0x00000080F0A04003, .hod (.b (gO 0)) 3 (.o 0) (.d 4)),
  (sw 0x00000000F1A04000, .coll (.s sN) 0 (.e 0) (.g 4)),
  (sw 0x00000000F5144000, .jobwait (.s sN) 0 (.g 5) (.g 4))] = true := by decide

theorem test_words_memory_1 : reads [
  (bw 0x00000000A00420C4, .ldb gN .h (.d 1) (.d 2) (.d 3)),
  (bw 0x00000000A10420C8, .stb gN .b (.d 1) (.d 2) (.d 3)),
  (sw 0x00000000A20420C0, .ldv (.s sN) .w (.g 1) (.g 2) (.g 3)),
  (bw 0x00000000A30420C8, .stv (.b gN) .b (.d 1) (.d 2) (.d 3)),
  (bw 0x00000000A4083CC1, .ldg (.b gN) .w 1 (.d 2) (.d 3) .z),
  (bw 0x00000000A5083CC6, .stg (.b gN) .h 2 (.d 2) (.d 3) .z),
  (bw 0x00000000A60420C3, .ldp (.b gN) 3 (.d 1) (.d 2) (.d 3)),
  (sw 0x00000000A71CBCC0, .stp (.s sN) 0 (.g 7) (.g 11) .z),
  (bw 0x00000000A80420C1, .clrp (.b gN) 1 (.d 1) (.d 2) (.d 3)),
  (bw 0x00000000A90020C1, .pref (.b gN) 1 (.d 2) (.d 3)),
  (bw 0x00000000B0CBA09C, .amoadd (.b gN) .rel .system 2 12 11 10),
  (bw 0x00000000B0CBA19C, .amoand (.b gN) .rel .system 2 12 11 10),
  (bw 0x00000000B0CBA29C, .amoor (.b gN) .rel .system 2 12 11 10),
  (bw 0x00000000B0CBA39C, .amoxor (.b gN) .rel .system 2 12 11 10),
  (bw 0x00000000B0CBA49C, .amomin (.b gN) .rel .system 2 12 11 10),
  (bw 0x00000000B0CBA59C, .amomax (.b gN) .rel .system 2 12 11 10)] = true := by decide

theorem test_words_memory_2 : reads [
  (bw 0x00000000B0CBA69C, .amominu (.b gN) .rel .system 2 12 11 10),
  (bw 0x00000000B0CBA79C, .amomaxu (.b gN) .rel .system 2 12 11 10),
  (bw 0x00000000B0CBA89C, .amoswap (.b gN) .rel .system 2 12 11 10),
  (bw 0x00000000B0CBA99C, .amofadd (.b gN) .rel .system 2 12 11 10),
  (sw 0x00000000B0CB081C, .amoswap (.s sN) .rel .system 0 12 11 0),
  (bw 0x00000000B1123028, .cas (.b gN) .sc .brick 0 1 2 3),
  (bw 0x00000000B200001B, .fence (.b gN) .rel .package),
  (sw 0x00000000B300001C, .fencex (.s sN) .rel .system),
  (sw 0x00000000B4000022, .fencee (.s sN) .ar .massif)] = true := by decide

theorem test_words_callctl : reads [
  (bw 0x00000000D00C108A, .call (.b gN) (some 2) (.d 3) (.d 1) (.d 2)),
  (sw 0x00000000D1033000, .ret (.s sN) .z),
  (sw 0x00000000D2004000, .yield (.s sN) (.g 4)),
  (bw 0x00000000D30420C0, .resume (.b gN) (.d 1) (.d 2) (.d 3)),
  (sw 0x00000000D4103089, .apply (.s sN) (some 1) (.g 4) (.g 3) (.g 2)),
  (bw 0x00000000D50420C0, .cseq (.b gN) (.d 1) (.d 2) (.d 3)),
  (bw 0x00000000D60420C0, .cpar (.b gN) (.d 1) (.d 2) (.d 3)),
  (bw 0x00000000D70420C0, .cpipe (.b gN) (.d 1) (.d 2) (.d 3)),
  (bw 0x00000000D90420C0, .cloop (.b gN) (.d 1) (.d 2) (.d 3)),
  (sw 0x00000000D8184142, .cfarm (.s sN) .key (.g 6) (.g 4) (.g 5)),
  (bw 0x00000000DA042000, .cfree (.b gN) (.d 1) (.d 2)),
  (sw 0x00000000DB144000, .waitc (.s sN) none (.g 5) (.g 4)),
  (sw 0x00000000DB144010, .waitcS (.s sN) (.g 5) (.g 4)),
  (bw 0x00000000DC042000, .fold (.b gN) (.d 1) (.d 2)),
  (bw 0x00000000DD042000, .stow (.b gN) (.d 1) (.d 2)),
  (bw 0x00000000DE042000, .cquery (.b gN) (.d 1) (.d 2))] = true := by decide

theorem test_words_sequencer_1 : reads [
  (sw 0x07FFFFFFE0000000, .br (sX 0x7FFFFFF)),
  (sw 0x07FFFFFFE100E340, .bc (sX 0x7FFFFFF) .eq (.g 14) (.g 13)),
  (sw 0x00000004E27C0000, .jal (sX 4) (.g 31)),
  (sw 0x00000000E3CDF000, .jr sN .z (.g 31)),
  (sw 0x07FFFFF9E4200000, .loop (sX 0x7FFFFF9) (.g 8)),
  (sw 0x00000000E5005180, .scmd sN (.g 5) (.g 6)),
  (sw 0x00000000E600000F, .sbar sN 15),
  (sw 0x00000000E7005007, .cstep sN 7 (.g 5)),
  (sw 0x00000000E8005187, .cload sN 7 (.g 5) (.g 6)),
  (sw 0x00000000E9005003, .arm sN 3 (.g 5)),
  (sw 0x00000000EA000003, .waitd sN 3),
  (sw 0x00000000EA00000B, .waitdT sN 3),
  (sw 0x00000000EB005180, .notify sN (.g 5) (.g 6)),
  (sw 0x00000000F6005182, .tlbinv sN false 2 (.g 5) (.g 6)),
  (sw 0x00000000F6033CD8, .tlbinvSpace sN true .z .z),
  (sw 0x00000000F7CC0000, .tlbsync sN .z)] = true := by decide

theorem test_words_sequencer_2 : reads [
  (sw 0x00000000F81C8240, .migr sN (.g 7) (.g 8) (.g 9)),
  (sw 0x00000000F9000021, .svc sN 33),
  (sw 0x00000000FA000000, .eret sN),
  (sw 0x00000000FB373005, .crd (.s sN) (.g 13) .z 5),
  (sw 0x00000000FC105180, .cwr sN 0x100 (.g 5) (.g 6)),
  (bw 0x00000000FD0730C0, .rddig (.b gN) (.d 1) .z (.d 3))] = true := by decide

/-! Ill-formed instructions: each check refuses one (R46, R47, R71, R145, R197, R211, R301). -/

def refuses (i : Instr) (e : DecodeError) : Bool := i.wf = false && leastFail i.checks = some e

def rejects (w : Form × W64) (e : DecodeError) : Bool :=
  match decode w.1 w.2 with | .ok _ => false | .error e' => decide (e' = e)

theorem test_wf_ok : (Instr.add (.b gN) (.d 1) (.d 2) (.d 3)).wf = true := by decide
theorem test_ill_operandUse : refuses (.add (.b gN) (.d 1) (.i 0) (.d 3)) .operandUse = true := by decide
theorem test_ill_operandUse_g : refuses (.add (.b gN) (.d 1) (.g 16) (.d 3)) .operandUse = true := by decide
theorem test_ill_guardPv : refuses (.done ⟨0x0A, 0x12, false, 0, false, 0, false, 0, 0, false, false⟩) .guardPv = true := by
  decide
theorem test_ill_guardTe : refuses (.done ⟨0, 0, false, 0, false, 0, false, 0, 1, true, false⟩) .guardTe = true := by decide
theorem test_ill_guardCk : refuses (.done ⟨0, 0, false, 0, true, 4, false, 0, 0, false, true⟩) .guardCk = true := by decide
theorem test_ill_guardIndex : refuses (.done ⟨0, 0, true, 2, true, 2, false, 0, 0, false, false⟩) .guardIndex = true := by
  decide
theorem test_ill_outputNotOq : refuses (.add (.b (gO 2)) (.o 3) (.d 2) (.d 3)) .outputNotOq = true := by decide
theorem test_ill_immRange : refuses (.shli (.b gN) (.d 1) (.d 2) 32) .immRange = true := by decide
theorem test_ill_xNonzero : refuses (.add (.s (sX 1)) (.g 1) (.g 2) (.g 3)) .xNonzero = true := by decide
theorem test_ill_guardOff : refuses (.svc ⟨false, true, 0, 0⟩ 3) .guardOff = true := by decide
theorem test_ill_splitKind : refuses (.steer gK (.d 1) (.d 2)) .splitKind = true := by decide
theorem test_ill_controlToken : refuses (.steer (gO 2) (.o 2) (.d 4)) .controlToken = true := by decide
theorem test_ill_operandKind : refuses (.pand (.b gN) (.q 1) (.d 2) (.q 3)) .operandKind = true := by decide
theorem test_ill_operandRule : refuses (.bfi (.b gN) (.q 1) (.d 2) (.d 3)) .operandRule = true := by decide
theorem test_ill_matrix : refuses (.mmacK16 gN true 2 3) .matrix = true := by decide
theorem test_ill_sparse : refuses (.scant gIIO false 14 (.o 0) (.i 0) (.i 1)) .sparse = true := by decide
theorem test_ill_engine : refuses (.hod (.s sN) 0 (.g 1) (.g 2)) .engine = true := by decide
theorem test_ill_reservedField : refuses (.vadd gN .i8 .rtz .sa .sb) .reservedField = true := by decide
theorem test_ill_unassigned : rejects (bw 0x2E000000) .unassigned = true := by decide
theorem test_ill_all_ones : rejects (sw 0xFFFFFFFFFFFFFFFF) .unassigned = true := by decide
theorem test_ill_formIllegal : rejects (bw 0xFA000000) .formIllegal = true := by decide
theorem test_ill_reservedFormat : rejects (bw 0x30042070) .reservedField = true := by decide
theorem test_ill_reservedOperand : rejects (bw 0x10F00000) .reservedOperand = true := by decide
theorem test_ill_unusedNonzero : rejects (bw 0x00000001) .unusedNonzero = true := by decide

/-- R47, R39: check 15 tests the use: `eret` of a thread in user mode. -/
theorem test_ill_privileged : privileged (.eret sN) = true ∧ DecodeError.privileged.code = 15 := by decide

theorem test_results_integer_1 : all [
  gives (.add (.b gN) (.d 1) (.d 2) (.d 3)) 0xFFFFFFFF 2 1,
  gives (.sub (.b gN) (.d 1) (.d 2) (.d 3)) 3 5 0xFFFFFFFE,
  gives (.mul (.b gN) (.d 1) (.d 2) (.d 3)) 0x10001 0x10001 0x00020001,
  gives (.mulh (.b gN) (.d 1) (.d 2) (.d 3)) 0x80000000 0x80000000 0x40000000,
  gives (.mulhu (.b gN) (.d 1) (.d 2) (.d 3)) 0xFFFFFFFF 2 1,
  gives (.div (.b gN) (.d 1) (.d 2) (.d 3)) 0xFFFFFFF9 2 0xFFFFFFFD,
  gives (.div (.b gN) (.d 1) (.d 2) (.d 3)) 7 0 0xFFFFFFFF,
  gives (.divu (.b gN) (.d 1) (.d 2) (.d 3)) 0xFFFFFFF9 2 0x7FFFFFFC,
  gives (.rem (.b gN) (.d 1) (.d 2) (.d 3)) 0xFFFFFFF9 2 0xFFFFFFFF,
  gives (.remu (.b gN) (.d 1) (.d 2) (.d 3)) 7 0 7,
  gives (.and (.b gN) (.d 1) (.d 2) (.d 3)) 0xF0F0 0xFF00 0xF000,
  gives (.or (.b gN) (.d 1) (.d 2) (.d 3)) 0xF0F0 0xFF00 0xFFF0,
  gives (.xor (.b gN) (.d 1) (.d 2) (.d 3)) 0xF0F0 0xFF00 0x0FF0,
  gives (.shl (.b gN) (.d 1) (.d 2) (.d 3)) 1 33 2,
  gives (.shr (.b gN) (.d 1) (.d 2) (.d 3)) 0x80000000 31 1,
  gives (.sra (.b gN) (.d 1) (.d 2) (.d 3)) 0x80000000 31 0xFFFFFFFF,
  gives (.rotl (.b gN) (.d 1) (.d 2) (.d 3)) 0x80000001 1 3] = true := by decide

theorem test_results_integer_2 : all [
  gives (.clz (.b gN) (.d 1) (.d 2)) 0x00010000 0 15,
  gives (.clz (.b gN) (.d 1) (.d 2)) 0 0 32,
  gives (.ctz (.b gN) (.d 1) (.d 2)) 0x00010000 0 16,
  gives (.popc (.b gN) (.d 1) (.d 2)) 0xFF 0 8,
  gives (.min (.b gN) (.d 1) (.d 2) (.d 3)) 0xFFFFFFFF 1 0xFFFFFFFF,
  gives (.max (.b gN) (.d 1) (.d 2) (.d 3)) 0xFFFFFFFF 1 1,
  gives (.minu (.b gN) (.d 1) (.d 2) (.d 3)) 0xFFFFFFFF 1 1,
  gives (.maxu (.b gN) (.d 1) (.d 2) (.d 3)) 0xFFFFFFFF 1 0xFFFFFFFF,
  gives (.abs (.b gN) (.d 1) (.d 2)) 0x80000000 0 0x80000000,
  gives (.neg (.b gN) (.d 1) (.d 2)) 1 0 0xFFFFFFFF,
  gives (.cmpeq (.b gN) (.d 1) (.d 2) (.d 3)) 5 5 1,
  gives (.cmpne (.b gN) (.d 1) (.d 2) (.d 3)) 5 5 0,
  gives (.cmplt (.b gN) (.d 1) (.d 2) (.d 3)) 0xFFFFFFFF 1 1,
  gives (.cmpltu (.b gN) (.d 1) (.d 2) (.d 3)) 0xFFFFFFFF 1 0,
  gives (.cmple (.b gN) (.d 1) (.d 2) (.d 3)) 5 5 1,
  gives (.cmpleu (.b gN) (.d 1) (.d 2) (.d 3)) 5 4 0] = true := by decide

theorem test_results_integer_3 : all [
  gives (.cmpeqi (.b gN) (.d 1) (.d 2) 0x1FF) 0xFFFFFFFF 0 1,
  gives (.cmpnei (.b gN) (.d 1) (.d 2) 0x1FF) 0xFFFFFFFF 0 0,
  gives (.cmplti (.b gN) (.d 1) (.d 2) 0x1FF) 0 0 0,
  gives (.cmpltui (.b gN) (.d 1) (.d 2) 0x1FF) 0 0 1,
  gives (.cmplei (.b gN) (.d 1) (.d 2) 0x1FF) 0xFFFFFFFE 0 1,
  gives (.cmpleui (.b gN) (.d 1) (.d 2) 0x100) 0xFFFFFFFF 0 0,
  gives (.addi (.b gN) (.d 1) (.d 2) 0xFFD) 5 0 2,
  gives (.andi (.b gN) (.d 1) (.d 2) 0xFFF) 0xABCD0123 0 0xABCD0123,
  gives (.ori (.b gN) (.d 1) (.d 2) 0x800) 1 0 0xFFFFF801,
  gives (.xori (.b gN) (.d 1) (.d 2) 1) 3 0 2,
  gives (.shli (.b gN) (.d 1) (.d 2) 31) 1 0 0x80000000,
  gives (.shri (.b gN) (.d 1) (.d 2) 31) 0x80000000 0 1,
  gives (.srai (.b gN) (.d 1) (.d 2) 31) 0x80000000 0 0xFFFFFFFF,
  gives (.movi (.b gN) (.d 1) 0x3FFFF) 0 0 0xFFFFFFFF,
  gives (.movhi (.b gN) (.d 1) 0xABCD) 0 0 0xABCD0007,
  gives (.bfx (.b gN) (.d 1) (.d 2) (.d 3)) 0xABCDEF12 0x704 0xF1,
  gives (.bfxS (.b gN) (.d 1) (.d 2) (.d 3)) 0xABCDEF12 0x704 0xFFFFFFF1,
  gives (.bfi (.b gN) (.d 1) (.d 2) (.d 3)) 0xF1 0x704 0xF17,
  gives (.adds (.b gN) (.d 1) (.d 2) (.d 3)) 0x7FFFFFFF 1 0x7FFFFFFF,
  gives (.subs (.b gN) (.d 1) (.d 2) (.d 3)) 0x80000000 1 0x80000000,
  gives (.madd (.b gN) (.d 1) (.d 2) (.d 3)) 3 5 22,
  gives (.lea (.b gN) 2 (.d 1) (.d 2) (.d 3)) 0x1000 3 0x100C] = true := by decide

theorem test_results_integer_thread : all [
  yields (.mulh (.s sN) (.g 1) (.g 2) (.g 3)) 0x8000000000000000 2 0xFFFFFFFFFFFFFFFF,
  yields (.divu (.s sN) (.g 1) (.g 2) (.g 3)) 0xFFFFFFFFFFFFFFFF 0 0xFFFFFFFFFFFFFFFF,
  yields (.rem (.s sN) (.g 1) (.g 2) (.g 3)) 0x8000000000000000 0xFFFFFFFFFFFFFFFF 0,
  yields (.shl (.s sN) (.g 1) (.g 2) (.g 3)) 1 65 2,
  yields (.bfi (.s sN) (.g 1) (.g 2) (.g 3)) 0xF1 0x73C 0x1000000000000007,
  yields (.addi (.s (sX 0x7FFFFFF)) (.g 1) (.g 2) 0xFFD) 5 0 2,
  yields (.addi (.s sN) (.g 1) (.g 2) 0xFFD) 5 0 0x1002,
  yields (.movhi (.s sN) (.g 1) 5) 0 0 0x500000007,
  yields (.movi (.s (sX 1)) (.g 1) 0) 0 0 0x40000,
  yields (.hdr (.s sN) (.g 1) (.g 2) (.g 3)) 1 0xF 0x800000001,
  yields (.hdrget (.s sN) .len (.g 1) (.g 2)) 0x0000AB0000000000 0 0xAB,
  yields (.hdrget (.s sN) .scale (.g 1) (.g 2)) 0x7F00000000000000 0 0x7F,
  yields (.fadd (.s sN) .f32 .rne (.g 1) (.g 2) (.g 3)) 0x3F800000 0x40000000 0x40400000,
  yields (.madd (.s sN) (.g 1) (.g 2) (.g 3)) 0xFFFFFFFFFFFFFFFF 8 0xFFFFFFFFFFFFFFFF,
  yields (.cvt (.s sN) .rne (.g 1) (.g 2) .i8 .i32) 0x80 0 0xFFFFFFFFFFFFFF80] = true := by decide

theorem test_results_float_1 : all [
  gives (.fadd (.b gN) .f32 .rne (.d 1) (.d 2) (.d 3)) 0x3F800000 0x40000000 0x40400000,
  gives (.fsub (.b gN) .f32 .rne (.d 1) (.d 2) (.d 3)) 0x3F800000 0x40000000 0xBF800000,
  gives (.fmul (.b gN) .f32 .rne (.d 1) (.d 2) (.d 3)) 0x40000000 0x40400000 0x40C00000,
  gives (.ffma (.b gN) .f32 .rne (.d 1) (.d 2) (.d 3)) 0x40000000 0x40400000 0x40C00000,
  gives (.ffms (.b gN) .f32 .rtz (.d 1) (.d 2) (.d 3)) 0x40000000 0x40400000 0x40BFFFFF,
  gives (.fdiv (.b gN) .f32 .rne (.d 1) (.d 2) (.d 3)) 0x3F800000 0x40000000 0x3F000000,
  gives (.fsqrt (.b gN) .f32 .rne (.d 1) (.d 2)) 0x40800000 0 0x40000000,
  gives (.frsq (.b gN) .f32 .rne (.d 1) (.d 2)) 0x40800000 0 0x3F000000,
  gives (.fexp2 (.b gN) .f32 .rne (.d 1) (.d 2)) 0x40400000 0 0x41000000,
  gives (.flog2 (.b gN) .f32 .rne (.d 1) (.d 2)) 0x41000000 0 0x40400000,
  gives (.fmin (.b gN) .f32 false (.d 1) (.d 2) (.d 3)) 0x3F800000 0x40000000 0x3F800000,
  gives (.fmax (.b gN) .f32 true (.d 1) (.d 2) (.d 3)) 0x7FC00000 0x40000000 0x40000000] = true := by decide +kernel

theorem test_results_float_2 : all [
  gives (.fabs (.b gN) .f32 (.d 1) (.d 2)) 0xBF800000 0 0x3F800000,
  gives (.fneg (.b gN) .f32 (.d 1) (.d 2)) 0x3F800000 0 0xBF800000,
  gives (.fcmpeq (.b gN) .f32 (.d 1) (.d 2) (.d 3)) 0x3F800000 0x3F800000 1,
  gives (.fcmplt (.b gN) .f32 (.d 1) (.d 2) (.d 3)) 0x40000000 0x3F800000 0,
  gives (.fcmple (.b gN) .f32 (.d 1) (.d 2) (.d 3)) 0x3F800000 0x3F800000 1,
  gives (.fcmpun (.b gN) .f32 (.d 1) (.d 2) (.d 3)) 0x7FC00000 0x3F800000 1,
  gives (.fclass (.b gN) .f32 (.d 1) (.d 2)) 0x3F800000 0 0x40,
  gives (.fclass (.b gN) .f32 (.d 1) (.d 2)) 0xFF800000 0 1,
  gives (.fround (.b gN) .f32 .rne (.d 1) (.d 2)) 0x3FC00000 0 0x40000000,
  gives (.fcvti (.b gN) .f32 .rtz false (.d 1) (.d 2)) 0xBFC00000 0 0xFFFFFFFF,
  gives (.fcvti (.b gN) .f32 .rup true (.d 1) (.d 2)) 0x3FC00000 0 2,
  gives (.icvtf (.b gN) .f32 .rne false (.d 1) (.d 2)) 0xFFFFFFFF 0 0xBF800000,
  gives (.fscale (.b gN) .f32 .rne (.d 1) (.d 2) (.d 3)) 0x3F800000 3 0x41000000] = true := by decide

theorem test_results_convert : all [
  gives (.cvt (.b gN) .rne (.d 1) (.d 2) .f32 .bf16) 0x3F808000 0 0x3F80,
  gives (.qnt (.b gN) .k8 (.d 1) (.d 2) (.d 3)) 0x40400000 0x7F 3,
  gives (.dqnt (.b gN) .k8 .rne (.d 1) (.d 2) (.d 3)) 3 0x80 0x40C00000,
  gives (.scalex (.b gN) .k8 (.d 1) (.d 2)) 0x42800000 0 0x7F,
  gives (.limb (.b gN) (.d 1) (.d 2)) 1000 0 0x08E8,
  gives (.unlimb (.b gN) (.d 1) (.d 2)) 0x08E8 0 1000,
  gives (.packH (.b gN) (.d 1) (.d 2) (.d 3)) 0x1234 0x5678 0x56781234,
  gives (.packB (.b gN) (.d 1) (.d 2) (.d 3)) 0x12 0x34 0x73412,
  gives (.packN (.b gN) (.d 1) (.d 2) (.d 3)) 0xA 0xB 0x7BA,
  gives (.unpackH (.b gN) false (.d 1) (.d 2) (.d 3)) 0x80001234 1 0xFFFF8000,
  gives (.unpackB (.b gN) false (.d 1) (.d 2) (.d 3)) 0x80001234 3 0xFFFFFF80,
  gives (.unpackN (.b gN) true (.d 1) (.d 2) (.d 3)) 0x80001234 7 8,
  gives (.trienc gN (.d 1) (.d 2)) 5 0 0xA02805,
  gives (.tridec gN (.d 1) (.d 2)) 0xA02805 0 5,
  gives (.triadd gN (.d 1) (.d 2) (.d 3)) 0xA02805 0xA02805 0x140500A,
  gives (.trimul gN (.d 1) (.d 2) (.d 3)) 0xA02805 0xA02805 0x320C819] = true := by decide

/-! ## Tokens and triggers -/

def tok (p : W32) : InEnt := .tok ⟨false, 0, p⟩ 0 0
def stop (l : W32) : InEnt := .tok ⟨true, 0, l⟩ 0 0
def inq (n : Nat) (l : List InEnt) : Spur → Spur := cx fun k => { k with iq := upd k.iq n fun q => { q with arm0 := l } }
def kq (n : Nat) (l : List KEnt) : Spur → Spur := cx fun k => { k with kq := k.kq.set n l }
def ctxHas (t : State) (p : Ctx → Bool) : Bool := (t.ctx? here).any p
def spurHas (t : State) (p : Spur → Bool) : Bool := (t.spur? placedHandle).any p
def threadHas (t : State) (p : Thread → Bool) : Bool := (t.thread? placedHandle).any p

/-- The instruction ends the round with a fault of this class and detail (a brick's at the mark, a thread's at once). -/
def faults (i : Instr) (s : State) (cls : Nat) (detail : W64) : Bool :=
  after i s fun t => spurHas t fun sp => match sp.causes ++ sp.sFault.toList with
    | [c] => c.cls == cls && c.detail == detail
    | _ => false

/-- R39: a word whose guard fails only advances `pc`. -/
theorem test_thread_guard_fails : after (.add (.s ⟨true, false, 0, 0⟩) (.g 1) (.g 2) (.g 3)) (issue (gRegs 1 2)) (fun t =>
    threadHas t fun k => k.reg 1 == 7 && k.pc == 0x200008) = true := by decide

/-- R37: the guard of the worked encoding of R35 (`when q1 !q3 i0 i4 o2 tag 1`). -/
def gSpec : BGuard := ⟨0x0A, 0x02, true, 0, true, 4, true, 2, 1, true, false⟩
def specState (tag : BitVec 2) (q : BitVec 8) : State :=
  fire (inq 0 [.tok ⟨false, tag, 0x3F800000⟩ 0 0] ∘ inq 4 [tok 0x40000000] ∘ cx fun k => { k with preds := k.preds.set 1 q })
def specWord : Instr := .fadd (.b gSpec) .f32 .rne (.o 2) (.iDeq 0) (.iDeq 4)
theorem test_guard_holds : after specWord (specState 1 2) (fun t => ctxHas t fun k =>
    k.outQ 2 == [⟨.tok ⟨false, 1, 0x40400000⟩, .a0⟩] && (k.inQ 0).arm0.isEmpty && (k.inQ 4).arm0.isEmpty && k.bfc == 1) = true := by
  decide
theorem test_guard_tag : after specWord (specState 2 2) (fun t => ctxHas t fun k => k.bfc == 0 && k.outQ 2 == []) = true := by
  decide
theorem test_guard_preds : after specWord (specState 1 0x0A) (fun t => ctxHas t fun k => k.bfc == 0) = true := by decide
theorem test_spec_word : reads [(bw 0x0A028CA630A98700, specWord)] = true := by decide

/-- R44, R47: `eret` in user mode ends the round with class 1 and check code 15; the body is the word and its address. -/
def user : Spur → Spur := th fun t => { t with sst := 0 }
theorem test_eret_in_user_mode : faults (.eret sN) (issue user) 1 15 = true := by decide
theorem test_lengths : (placedSpur 0 1 0).live.ctxs.all (fun k =>
    k.regs.length == 64 && k.preds.length == 4 && k.oq.length == 8 && k.iq.length == 8) = true := by decide

/-! ## Predicates, queues and tokens -/

def preds (q : BitVec 8) : Spur → Spur := cx fun k => { k with preds := k.preds.set 0 q }
def q1After (i : Instr) (v : Bool) : Bool := after i (fire (preds 0b100)) fun t => ctxHas t fun k => (k.predSet 0).getLsbD 1 == v
theorem test_predicates : all [
  q1After (.pand (.b gN) (.q 1) (.q 2) (.q 3)) false, q1After (.por (.b gN) (.q 1) (.q 2) (.q 3)) true,
  q1After (.pxor (.b gN) (.q 1) (.q 2) (.q 2)) false, q1After (.pandn (.b gN) (.q 1) (.q 2) (.q 3)) true,
  q1After (.pnot (.b gN) (.q 1) (.q 3)) true, q1After (.pmov (.b gN) (.q 1) (.q 2)) true] = true := by decide
theorem test_pset : after (.pset (.b gN) (.d 2) (.d 3)) (fire (preds 0xF0 ∘ dRegs 0x55 0x0F)) (fun t =>
    ctxHas t fun k => k.predSet 0 == 0xF5) = true := by decide
theorem test_pset_thread : after (.pset (.s sN) (.g 2) (.g 3)) (issue (gRegs 1 3)) (fun t => threadHas t fun k => k.f == 1) = true := by
  decide
def kgetAt : Instr := .kget ⟨0, 0, false, 0, true, 3, false, 0, 0, false, true⟩ (.d 1)
theorem test_kget : after kgetAt (fire (kq 3 [.bit true])) (fun t => ctxHas t fun k =>
    k.reg 0 1 == 1 && (nth k.kq 3 []).isEmpty) = true := by decide
theorem test_peekt : after (.peekt gI (.d 1) (.i 0)) (fire (inq 0 [.tok ⟨true, 0, 0x2A⟩ 0 0])) (fun t => ctxHas t fun k =>
    k.reg 0 1 == 0x4A && (k.inQ 0).arm0.length == 1) = true := by decide
theorem test_qstat : after (.qstat gN (.i 4) (.d 1)) (fire (inq 4 [tok 1, .seam, tok 2])) (fun t => ctxHas t fun k =>
    k.reg 0 1 == 2) = true := by decide
theorem test_routea_step : after (.routeaStep (gO 2) (.o 2)) (fire id) (fun t => ctxHas t fun k =>
    k.outQ 2 == [⟨.step, .both⟩]) = true := by decide
theorem test_sel : after (.sel gIO 2 (.o 0) (.iDeq 0) (.d 3)) (fire (preds 4 ∘ inq 0 [stop 3])) (fun t => ctxHas t fun k =>
    k.outQ 0 == [⟨.tok ⟨true, 0, 3⟩, .a0⟩] && (k.inQ 0).arm0.isEmpty) = true := by decide
theorem test_steer : after (.steer gKO2 (.o 2) (.d 2)) (fire (kq 0 [.bit true] ∘ dRegs 9 0)) (fun t => ctxHas t fun k =>
    k.outQ 2 == [⟨.tok ⟨false, 0, 9⟩, .a1⟩] && (nth k.kq 0 []).isEmpty) = true := by decide
def twoArms : Spur → Spur := cx fun k => { k with iq := upd k.iq 0 fun q =>
  { q with arm0 := [.tok ⟨false, 0, 10⟩ 0 5], arm1 := [.tok ⟨false, 0, 11⟩ 0 4] } }
theorem test_merge : after (.merge gIK (.d 1) (.iDeq 0)) (fire (twoArms ∘ kq 0 [.bit false])) (fun t => ctxHas t fun k =>
    k.reg 0 1 == 10 && (k.inQ 0).arm0.isEmpty && (k.inQ 0).arm1.length == 1) = true := by decide
theorem test_merge_any : after (.mergeAny gI (.d 1) (.iDeq 0)) (fire twoArms) (fun t => ctxHas t fun k =>
    k.reg 0 1 == 11 && (k.inQ 0).arm1.isEmpty) = true := by decide
def gate1 (b : Bool) : State := fire (kq 0 [.bit b] ∘ dRegs 9 0)
theorem test_gate : all [after (.gate gKO2 (.o 2) (.d 2)) (gate1 true) fun t => ctxHas t fun k => (k.outQ 2).length == 1,
    after (.gate gKO2 (.o 2) (.d 2)) (gate1 false) fun t => ctxHas t fun k =>
      (k.outQ 2).isEmpty && (nth k.kq 0 []).isEmpty] = true := by decide
theorem test_kput : after (.kput gN 2 (.d 2)) (fire (dRegs 3 0)) (fun t => ctxHas t fun k => nth k.jq 2 [] == [.bit true]) = true := by
  decide
/-- R39, R64: the frames' premises: a plain instruction begins with an output, a predicate or a register as destination. -/
theorem test_plain_destinations : all [starts (.add (.b (gO 2)) (.o 2) (.d 2) (.d 3)) (fire id) fun x => !x.cx.seamed.getLsbD 2,
    starts (.cmpeq (.b gN) (.q 1) (.d 2) (.d 3)) (fire id) fun _ => true,
    starts (.cmpeq (.s sN) (.f 1) (.g 2) (.g 3)) (issue id) fun _ => true,
    starts (.add (.s sN) (.g 0) (.g 2) (.g 3)) (issue id) fun _ => true] = true := by decide
theorem test_g0_discards : after (.add (.s sN) (.g 0) (.g 2) (.g 3)) (issue (gRegs 1 2)) (fun t =>
    threadHas t fun k => k.reg 0 == 0) = true := by decide

/-! ## Routes, bindings and control -/

/-- One route with two entries, both to channel 1 of the brick. -/
def route2 (sp : Spur) : Spur := { sp with
  img := { sp.img with routes := [[0x80000001, 0x80000002]] }
  live := { sp.live with routes := [⟨[0x80000001, 0x80000002], 0, 0x80000001, false, []⟩] } }
def reqIs (t : State) (r : Request) : Bool := spurHas t fun sp => sp.live.reqs == [r]
theorem test_routea_set : after (.routeaSet (.b gN) (.d 2) (.d 3)) (fire (route2 ∘ dRegs 1 0x80000003)) (fun t =>
    reqIs t (.route placedHandle 0 1 0x80000003)) = true := by decide
theorem test_routea_set_phase : faults (.routeaSet (.b gN) (.d 2) (.d 3)) (fire (route2 ∘ dRegs 2 0x80000003)) 2
    0x0A00000000000002 = true := by decide
theorem test_routea_set_thread : faults (.routeaSet (.s sN) (.g 2) (.g 3)) (issue (gRegs 0x1234500000000 0)) 2
    0x0A01234500000000 = true := by decide
theorem test_routea_set_unnamed : starts (.routeaSet (.s sN) (.g 2) (.g 3)) (issue (user ∘ gRegs 0x1234500000000 0)) (fun x =>
    (x.named 0x12345).isNone) = true := by decide
theorem test_vcbind : after (.vcbind (.b gN) (.d 2) (.d 3)) (fire (dRegs 5 0x80800000)) (fun t =>
    reqIs t (.vcbind placedHandle 0 0 5 0x80800000)) = true := by decide
theorem test_vcbind_reserved : faults (.vcbind (.b gN) (.d 2) (.d 3)) (fire (dRegs 0x25 0x80800000)) 2 0x0A00000000000025 = true := by
  decide
theorem test_vcbind_no_brick : faults (.vcbind (.s sN) (.g 2) (.g 3)) (issue (gRegs 0x01000000 0)) 2 0x0A00000001000000 = true := by
  decide
theorem test_vcbind_unnamed : starts (.vcbind (.s sN) (.g 2) (.g 3)) (issue (gRegs 0x1234500000000 0)) (fun x =>
    (x.named 0x12345).isNone) = true := by decide

theorem test_nop_deq : all [after (.nop (.b gN)) (fire id) fun t => ctxHas t fun k => k.bfc == 1,
    after (.nop (.s sN)) (issue id) fun t => threadHas t fun k => k.pc == 0x200008,
    after (.deq gI (.iDeq 0) .z) (fire (inq 0 [tok 1, tok 2])) fun t => ctxHas t fun k => (k.inQ 0).arm0 == [tok 2]] = true := by
  decide
theorem test_not_eligible : after (.deq gI (.iDeq 0) .z) (fire id) (fun t => ctxHas t fun k => k.bfc == 0) = true := by decide
theorem test_done : after (.done gN) (fire id) (fun t => ctxHas t fun k => k.cst == 0x8000) = true := by decide
def cst (v : W32) : Spur → Spur := cx fun k => { k with cst := v }
theorem test_break : all [after (.brk (.b gN) 5) (fire id) fun t => spurHas t fun sp => sp.causes.isEmpty,
    faults (.brk (.b gN) 5) (fire (cst 0x1000)) 15 5,
    faults (.brk (.s sN) 5) (issue (th fun t => { t with sst := 0x11000 })) 15 5] = true := by decide
theorem test_trap : faults (.trap (.b gN) 12 (.d 2)) (fire (dRegs 0xABC 0)) 14 0x0000000C00000ABC = true := by decide
theorem test_mark : all [after (.mark (.b gN) 5 (.d 2)) (fire id) fun t => spurHas t fun sp => sp.live.trace.isEmpty,
    after (.mark (.b gN) 5 (.d 2)) (fire (cst 0x2000)) fun t => spurHas t fun sp => sp.live.trace.length == 1] = true := by decide
theorem test_sett : all [after (.sett gN 2 (.d 2)) (fire (dRegs 7 0)) fun t => ctxHas t fun k => nth k.ovr 2 none == some 3,
    after (.sett gN 2 (.d 2)) (fire (dRegs 3 0)) fun t => ctxHas t fun k => nth k.ovr 2 none == none] = true := by decide
theorem test_seams : all [after (.seamO gN 2) (fire id) fun t => ctxHas t fun k =>
      k.outQ 2 == [⟨.seam, .both⟩] && k.seamed == 0b100,
    after (.seamO gN 2) (fire (cx fun k => { k with seamed := 4 })) fun t => ctxHas t fun k => k.outQ 2 == [],
    after (.seamJ gN 1) (fire id) fun t => ctxHas t fun k => nth k.jq 1 [] == [.seam],
    after (.seamAll gN) (fire id) fun t => ctxHas t fun k => k.cst.getLsbD 14] = true := by decide +kernel

/-! ## Addends, headers and the stream ports -/

theorem test_addend_head : after (.madd (.b gIIO) (.o 0) (.i 0) (.d 3)) (fire (inq 0 [tok 3] ∘ inq 1 [tok 100] ∘ dRegs 0 5)) (fun t =>
    ctxHas t fun k => k.outQ 0 == [⟨.tok ⟨false, 0, 115⟩, .a0⟩] && (k.inQ 1).arm0.isEmpty && (k.inQ 0).arm0.length == 1) = true := by
  decide
def addends : List Instr := [.ffma (.b gIIO) .f32 .rne (.o 0) (.i 0) (.d 3), .ffms (.b gIIO) .f32 .rne (.q 0) (.i 0) (.d 3),
  .packB (.b gIIO) (.o 0) (.i 0) (.d 3), .packN (.b gIIO) (.o 0) (.iDeq 1) (.d 3)]
theorem test_addends_begin : addends.all (fun i => starts i (fire (inq 0 [tok 3] ∘ inq 1 [tok 4])) fun x =>
    !x.cx.seamed.getLsbD 0) = true := by decide
theorem test_hdr : after (.hdr (.b (gO 2)) (.o 2) (.d 2) (.d 3)) (fire (dRegs 5 0x7F000017)) (fun t => ctxHas t fun k =>
    k.outQ 2 == [⟨.hdr 0x7F00001000000005, .a0⟩]) = true := by decide
theorem test_hdrget : after (.hdrget (.b gI) .user (.d 1) (.iDeq 0)) (fire (inq 0 [.tok ⟨false, 0, 1⟩ 0x7F00000000000055 0])) (fun t =>
    ctxHas t fun k => k.reg 0 1 == 0x55 && (k.inQ 0).arm0.isEmpty) = true := by decide

/-- Descriptor 0 at bank offset 0x40, stride 1, FP32, `n` elements, on port `p`; the bank holds 1.0, 2.0, 3.0 there. -/
def descs (l : List (Nat × Desc)) : Spur → Spur := cx fun k => { k with
  sd := l.foldl (fun s d => s.set d.1 d.2) k.sd
  att := (upTo 3).map fun p => if p < l.length then some (BitVec.ofNat 2 (nth l p (0, Desc.none)).1) else none }
def fp (base n : Nat) : Desc := ⟨BitVec.ofNat 16 base, 1, 2, n, 0⟩
def bankAt (off : Nat) (l : List W32) : Spur → Spur := br fun b => { b with bank := writeBytes b.bank off (l.flatMap fun w => toBytes 4 w.toNat) }
theorem test_sopen : all [after (.sopen gN .sa 1 (.d 2) (.d 3)) (fire (dRegs 0x00010040 0x00020003)) fun t => ctxHas t fun k =>
      nth k.sd 1 Desc.none == fp 0x40 3 && nth k.att 0 none == some 1,
    faults (.sopen gN .sa 1 (.d 2) (.d 3)) (fire (dRegs 0x00010041 0x00020003)) 2 0x0700000000010041,
    faults (.sopen gN .sa 1 (.d 2) (.d 3)) (fire (dRegs 0x00010040 0x000D0003)) 2 0x07000000000D0003,
    after (.sopenRe gN .sb 0) (fire (descs [(0, fp 0x40 3)])) fun t => ctxHas t fun k => nth k.att 1 none == some 0,
    faults (.sopenRe gN .sb 1) (fire id) 2 0x0700000000000001,
    after (.sclose gN .sa (.d 1)) (fire (descs [(0, fp 0x40 3)])) fun t => ctxHas t fun k =>
      k.reg 0 1 == 3 && nth k.att 0 none == none] = true := by decide
theorem test_sopen_reads : all [after (.sopen gN .sa 0 .sa (.d 3)) (fire (bankAt 0x40 [0x00010040] ∘ descs [(0, fp 0x40 3)] ∘ dRegs 0 0x00020003))
      fun t => ctxHas t fun k => nth k.sd 0 Desc.none == fp 0x40 3,
    after (.sclose gN .sw .sw) (fire (descs [(0, fp 0x40 3), (1, fp 0x80 3), (2, fp 0x100 3)])) fun t => spurHas t (fun sp => sp.live.bricks.all fun b => readNat b.bank 0x100 4 == 3) && ctxHas t fun k =>
      nth k.att 2 none == none] = true := by decide

/-! ## Lanes: one beat of two lanes, from 0x40 and 0x80 to 0x100 of the bank -/

def ports (fa fb fw : BitVec 4) : Spur → Spur :=
  descs [(0, { fp 0x40 2 with fmt := fa }), (1, { fp 0x80 2 with fmt := fb }), (2, { fp 0x100 2 with fmt := fw })]
def beat (a b : List W32) (fa fw : BitVec 4) : Spur → Spur := ports fa fa fw ∘ bankAt 0x40 a ∘ bankAt 0x80 b
def bankWord (t : State) (off : Nat) : Nat := (t.spur? placedHandle).elim 0 fun sp => readNat (sp.live.bricks.headD (Brick.blank 0 0)).bank off 4
def lanes (i : Instr) (v w : Nat) : Bool :=
  after i (fire (beat [0x3F800000, 0x40000000] [0x40000000, 0x40400000] 2 2 ∘ dRegs 0x3F800000 0 ∘
    cx fun k => { k with lm := [1, 0, 0, 0] })) fun t => bankWord t 0x100 == v && bankWord t 0x104 == w
theorem test_lanes : all [lanes (.vadd gN .f32 .rne .sa .sb) 0x40400000 0x40A00000,
    lanes (.vsub gN .f32 .rne .sb .sa) 0x3F800000 0x3F800000, lanes (.vmul gN .f32 .rne .sa .sb) 0x40000000 0x40C00000,
    lanes (.vfma gN .f32 .rne (.d 2)) 0x40400000 0x40E00000, lanes (.vaxpy gN .f32 .rne (.d 2)) 0x40400000 0x40A00000,
    lanes (.vmin gN .f32 false .sa .sb) 0x3F800000 0x40000000, lanes (.vmax gN .f32 true .sa .sb) 0x40000000 0x40400000,
    lanes (.vabs gN .f32 .sa) 0x3F800000 0x40000000, lanes (.vneg gN .f32 .sa) 0xBF800000 0xC0000000,
    lanes (.vsel gN .f32 .sa .sb) 0x3F800000 0x40400000, lanes (.vexp2 gN .f32 .rne .sa) 0x40000000 0x40800000,
    lanes (.vrsq gN .f32 .rne .sa) 0x3F800000 0x3F3504F3,
    lanes (.vcvt gN .rne .sa) 0x3F800000 0x40000000, lanes (.vscan gN .f32 .rne .sa (.d 2)) 0x40000000 0x40800000] = true := by
  decide +kernel
def bytes8 (i : Instr) (v : Nat) : Bool := after i (fire (beat [0x0000807F] [0x00000101] 12 12)) fun t => bankWord t 0x100 == v
theorem test_lanes_i8 : all [bytes8 (.vadd gN .i8 .rne .sa .sb) 0x8180, bytes8 (.vsub gN .i8 .rne .sa .sb) 0x7F7E,
    bytes8 (.vmin gN .i8 false .sa .sb) 0x8001, bytes8 (.vmax gN .i8 false .sa .sb) 0x017F, bytes8 (.vabs gN .i8 .sa) 0x807F,
    bytes8 (.vneg gN .i8 .sa) 0x8081] = true := by decide +kernel
theorem test_lane_formats : all [faults (.vadd gN .bf16 .rne .sa .sb) (fire (beat [0] [0] 2 2)) 4 0,
    faults (.vcvt gN .rne .sa) (fire (beat [0] [0] 2 7)) 4 0, faults (.vqnt gN .sa (.d 2)) (fire (beat [0] [0] 2 2)) 4 0,
    faults (.vdqnt gN .rne .sa (.d 2)) (fire (beat [0] [0] 2 2)) 4 0] = true := by decide +kernel
theorem test_lane_quantise : all [
    after (.vqnt gN .sa (.d 2)) (fire (beat [0x3F800000, 0x40000000] [] 2 7 ∘ dRegs 0x7F 0)) fun t => bankWord t 0x100 == 0x0201,
    after (.vdqnt gN .rne .sa (.d 2)) (fire (beat [0x0201] [] 7 2 ∘ dRegs 0x80 0)) fun t =>
      bankWord t 0x100 == 0x40000000 && bankWord t 0x104 == 0x40800000] = true := by decide +kernel
def reduces (i : Instr) (v : W32) : Bool :=
  after i (fire (beat [0x3F800000, 0xC0000000] [0x40000000, 0xC0400000] 2 2 ∘ dRegs 0 0)) fun t => ctxHas t fun k => k.reg 0 2 == v
theorem test_reductions : all [reduces (.vredsum gN .f32 .rne (.d 2) .sa) 0xBF800000, reduces (.vredmax gN .f32 false (.d 2) .sa) 0x3F800000,
    reduces (.vamax gN .f32 (.d 2) .sa) 0x40000000, reduces (.vcmp gN .f32 .lt (.d 2) .sa .sb) 1] = true := by decide +kernel
theorem test_vcmp_mask : after (.vcmp gN .f32 .lt (.d 2) .sa .sb) (fire (beat [0x3F800000, 0xC0000000] [0x40000000, 0xC0400000] 2 2))
    (fun t => ctxHas t fun k => nth k.lm 0 0 == 1) = true := by decide +kernel

/-! ## Stream records and patterns -/

/-- The first 512 GiB of virtual addresses mapped to the same physical ones, and words in memory. -/
def words (s : State) (l : List (Nat × W64)) : State :=
  { s with mem := l.foldl (fun m e => writeNat m e.1 8 e.2.toNat) (mapFirst s.mem) }
/-- The placed spur beside a second one of its domain. -/
def twoSpurs (s : State) : State :=
  { s with spurs := s.spurs ++ [{ placedSpur 0 1 0 with handle := 0x80000002 }] }
/-- Bank offset 0x40, three FP32 words in one row, phase 5. -/
def record : List (Nat × W64) := [(0x300000, 0x40), (0x300008, 0x0082000100010003), (0x300010, 0), (0x300018, 5)]
def pat (moved : Nat) : Pattern := { patternOf placedHandle (record.map (·.2)) with moved := moved }
def scmdAt (a b : W64) (f : Spur → Spur) : State := words (issue (gRegs a b ∘ f)) record
def scmd : Instr := .scmd sN (.g 2) (.g 3)
def boarded (b : Board) : Spur → Spur := cx fun k => { k with board := k.board.set 0 b }
theorem test_scmd : all [after scmd (scmdAt 0 0x300000 id) fun t => ctxHas t fun k =>
      (nth k.board 0 Board.idle).active == some (pat 0),
    faults scmd (scmdAt 0 0x300008 id) 8 0x300008,
    faults scmd (scmdAt 0x1234500000000 0x300000 id) 2 0x0301234500000000,
    faults scmd (scmdAt 0x100000 0x300000 id) 2 0x0700000000300000] = true := by decide +kernel
theorem test_scmd_other : after scmd (twoSpurs (scmdAt 0x8000000200000000 0x300000 id)) (fun t =>
    reqIs t (.scmd ⟨0x80000002, 0, 0, 0⟩ 0 (pat 0)) && (t.ctx? ⟨0x80000002, 0, 0, 0⟩).any fun k =>
      (nth k.board 0 Board.idle).active == some (pat 0)) = true := by decide +kernel
theorem test_scmd_waits : after scmd (scmdAt 0 0x300000 (boarded ⟨[], some (pat 0), [pat 0]⟩)) (fun t => threadHas t fun k =>
    k.pc == 0x200000) = true := by decide +kernel
theorem test_sbar : all [after (.sbar sN 4) (issue (boarded ⟨[], some (pat 0), []⟩)) fun t => threadHas t fun k => k.pc == 0x200000 + 8,
    after (.sbar sN 5) (issue (boarded ⟨[], some (pat 0), []⟩)) fun t => threadHas t fun k => k.pc == 0x200000] = true := by
  decide +kernel
def quiet (f : Spur → Spur) : State := { State.reset with spurs := [f (placedSpur 0 1 0)] }
theorem test_pattern_delivers : after (.streamPatternDelivery here .sa) (quiet (boarded ⟨[], some (pat 1), []⟩ ∘ bankAt 0x44 [9])) (fun t =>
    ctxHas t fun k => (nth k.board 0 Board.idle).active == some { pat 2 with buf := [9] }) = true := by decide +kernel
theorem test_pattern_completes : all [
    after (.streamPatternComplete here .sa) (quiet (boarded ⟨[], some (pat 3), [pat 0]⟩)) fun t =>
      ctxHas t fun k => (nth k.board 0 Board.idle).active == some (pat 0),
    after (.streamPatternComplete here .sa) (quiet (boarded ⟨[], some (pat 2), []⟩)) fun t =>
      ctxHas t fun k => (nth k.board 0 Board.idle).active == some (pat 2)] = true := by decide +kernel
/-- R100: the premises of the patterns' statement: a full port, a write pattern under way, and one that is done. -/
theorem test_pattern_premises : all [(enterCtx (quiet (boarded ⟨[], some { pat 3 with buf := List.replicate 256 0 }, []⟩)) here).any fun x =>
      !decide ((nth x.cx.board 0 Board.idle).waiting < Config.streamPort),
    (enterCtx (quiet (boarded ⟨[], some { pat 0 with write := true }, []⟩)) here).any fun x => x.s.active x.sp,
    (pat 0).row < (pat 0).rows, (pat 0).rows ≤ ({ pat 0 with row := 1 } : Pattern).row] = true := by decide +kernel

/-! ## Tiles -/

def owned : Spur → Spur := br fun b => { b with
  slots := b.slots.map fun t => { t with owner := some 0 }
  accs := b.accs.map fun t => { t with owner := some 0 } }
def slot (n : Nat) (f : SFmt) (l : List Int) (sc : BitVec 8) : Spur → Spur := br fun b => { b with slots := upd b.slots n fun t =>
  { t with st := .ready, fmt := some f, lines := l :: List.replicate 31 [], scales := List.replicate 32 sc } }
def acc (n : Nat) (f : Acc → Acc) : Spur → Spur := br fun b => { b with accs := upd b.accs n f }
def brickHas (t : State) (p : Brick → Bool) : Bool := spurHas t fun sp => sp.live.bricks.all p
def slotIs (t : State) (n : Nat) (p : Slot → Bool) : Bool := brickHas t fun b => p (b.slot n)
theorem test_oclaim : after (.oclaim gN 0b0011 0b001) (fire id) (fun t => brickHas t fun b =>
    b.slots.map (·.owner) == [some 0, some 0, none, none] && b.accs.map (·.owner) == [some 0, none, none]) = true := by decide
theorem test_orelease : after (.orelease gN 0b1000 0b100) (fire owned) (fun t => brickHas t fun b =>
    b.slots.map (·.owner) == [some 0, some 0, some 0, none] && b.accs.map (·.owner) == [some 0, some 0, none]) = true := by decide
theorem test_orelease_not_owned : faults (.orelease gN 0b1000 0) (fire id) 2 0x0800000000000003 = true := by decide
theorem test_ofill_bank : after (.ofillBank gN .k8 1 (.d 2) (.d 3)) (fire (owned ∘ dRegs 0x40 0x1000 ∘ bankAt 0x40 [0x0000FF02] ∘
    bankAt 0x1000 [0x7F])) (fun t => slotIs t 1 fun s =>
      s.st == .filling && !s.bus && s.fmt == some .k8 && (nth s.lines 0 []).take 3 == [2, -1, 0] && nth s.scales 0 0 == 0x7F) = true := by
  decide +kernel
theorem test_ofill_bus : after (.ofillBus gN .k4 3) (fire owned) (fun t => slotIs t 3 fun s =>
    s.st == .filling && s.bus && s.fmt == some .k4) = true := by decide
theorem test_mbind : all [after (.mbind gN 1 (.d 2)) (fire (owned ∘ dRegs 0xC003 0)) fun t => slotIs t 1 fun s => s.bind == 0xC003,
    starts (.mbind gN 1 (.d 2)) (fire (owned ∘ dRegs 0xC003 0)) fun x => !x.senderTaken 1 0xC003] = true := by decide
theorem test_mzero : after (.mzero gN 1) (fire (owned ∘ acc 1 fun a => { a with st := .ready, words := [5] })) (fun t =>
    brickHas t fun b => (b.acc 1).words.isEmpty && (b.acc 1).st == .empty) = true := by decide
theorem test_ostat : after (.ostat gN .x1 (.d 1)) (fire (owned ∘ acc 1 fun a => { a with st := .ready })) (fun t =>
    ctxHas t fun k => k.reg 0 1 != 7) = true := by decide
theorem test_not_owned : all [faults (.mmacK8 gN true 0 0 1) (fire id) 2 0x0800000000000000,
    faults (.mzero gN 2) (fire id) 2 0x0800000000000006, faults (.mdrain gN 1 (.d 2)) (fire id) 2 0x0800000000000005,
    faults (.ofillBus gN .k8 2) (fire id) 2 0x0800000000000002] = true := by decide +kernel
/-- The worked K16 product of the matrix chapter: 1,000 against −300. -/
def armed : Spur → Spur := cx fun k => { k with tcount := 1 }
def k16 : Spur → Spur := slot 0 .k16h [8] 0x78 ∘ slot 1 .k16l [-24] 0x78 ∘ slot 2 .k16h [-2] 0x7C ∘ slot 3 .k16l [-44] 0x7C ∘ owned ∘ armed
def residues (a b c : Nat) : W32 := BitVec.ofNat 32 (a * 2 ^ 21 + b * 2 ^ 11 + c)
theorem test_mmac_k16 : after (.mmacK16 gN true 0 2) (fire k16) (fun t => brickHas t fun b =>
    nth (b.acc 0).words 0 0 == residues 1007 1008 1009 && nth (b.acc 1).words 0 0 == residues 719 720 721 &&
    nth (b.acc 2).words 0 0 == residues 33 32 31 && b.slots.all fun s => s.st == .draining) = true := by decide +kernel
theorem test_mmac_k8 : after (.mmacK8 gN true 1 0 1) (fire (slot 0 .k8 [2, 3] 0x7F ∘ slot 1 .k8 [5, 7] 0x7F ∘ owned ∘ armed)) (fun t =>
    (brickHas t fun b => nth (b.acc 1).words 0 0 == residues 31 31 31) && ctxHas t fun k => k.tcount == 0) = true := by
  decide +kernel
/-- The scales of every pair agree with its target. -/
def scaled (b : Brick) (l : List MTarget) : Bool := l.all fun t => t.pairs.all fun p => !offPair b t p
theorem test_mmac_begins : all [
    starts (.mmacK4 gN false 1 0 1) (fire (slot 0 .k4 [2] 0 ∘ slot 1 .k4 [3] 0 ∘ owned ∘ armed)) fun x =>
      scaled x.br [⟨1, [(0, 1)]⟩],
    starts (.mmacK16 gN true 0 2) (fire k16) fun x =>
      scaled x.br [⟨0, [(0, 2)]⟩, ⟨1, [(0, 3), (1, 2)]⟩, ⟨2, [(1, 3)]⟩]] = true := by decide +kernel
def tileOf (w : W32) : Acc → Acc := fun a => { a with
  st := .ready, words := w :: List.replicate 1023 0, latch := some (List.replicate 32 0x78, List.replicate 32 0x7C) }
def product : Spur → Spur := acc 0 (tileOf (residues 1007 1008 1009)) ∘ acc 1 (tileOf (residues 719 720 721)) ∘
  acc 2 (tileOf (residues 33 32 31)) ∘ owned ∘ dRegs 0x4000 0
/-- What an `mrecon` or `mdrain` needs to complete, and the first word that it writes. -/
def tileReads (i : Instr) : Bool := starts i (fire product) fun x => x.br.ownsAcc 0 0 && x.nat (.d 2) == 0x4000
theorem test_tile_reads_begin : all [tileReads (.mreconI64 gN true 0 (.d 2)), tileReads (.mreconF32 gN true 0 (.d 2)),
    tileReads (.mreconF32Add gN true 0 (.d 2)), tileReads (.mdrain gN 0 (.d 2)), tileReads (.mdrainZ gN 0 (.d 2))] = true := by decide +kernel
/-- The reconstructed number of the worked K16 product is −300,000, and its value −292.96875. -/
theorem test_recon : (match (fire product).spurs with
    | [sp] => (sp.live.bricks.headD (Brick.blank 0 0)).recon true 0 |>.head? | _ => none) == some (-300000) := by decide +kernel
theorem test_recon_value : (roundV fp32 0 0 (reconV (-300000) (-10))).code == 0xC3927C00 := by decide +kernel
theorem test_triads : crt3 (triRead (trienc (-536870400))).1 = -536870400 ∧ crt3 (triRead (trienc 536870399)).1 = 536870399 := by
  decide +kernel
/-- The premises of the product's rule. -/
theorem test_product_lengths : (match (fire (acc 0 (tileOf 0) ∘ k16)).spurs with
    | [sp] => sp.live.bricks.all fun b => b.accs.length == 3 && (b.acc 0).words.length == 1024 && (b.slot 0).lines.length == 32
    | _ => false) = true := by decide +kernel
/-- A sender of DID 3 for one receiver, offered, and a receiver that waits. -/
def bus (n : Nat) (f : SFmt) : Spur → Spur := br fun b => { b with
  slots := upd (upd b.slots 0 fun t => { t with
    st := .draining, send := true, fmt := some .k8, lines := [[4]], bind := BitVec.ofNat 32 (0xC003 + 256 * n) })
    1 fun t => { t with st := .filling, bus := true, fmt := some f, bind := 0x8003 } }
theorem test_bus : all [after (.busTransfer placedHandle false 0 3) (quiet (bus 0 .k8)) fun t => slotIs t 1 fun s =>
      s.st == .ready && s.lines == [[4]],
    after (.busTransfer placedHandle false 0 3) (quiet (bus 1 .k8)) fun t => slotIs t 1 fun s => s.st == .filling,
    after (.busTransfer placedHandle false 0 3) (quiet (bus 0 .k4)) fun t => spurHas t fun sp =>
      sp.causes.any fun c => c.cls == 4] = true := by decide +kernel
theorem test_fill_completes : after (.slotFillComplete ⟨placedHandle, 0, 0⟩ 1) (quiet (owned ∘ br fun b => { b with
    slots := upd b.slots 1 fun t => { t with st := .filling } })) (fun t => slotIs t 1 fun s => s.st == .ready) = true := by decide +kernel
theorem test_pass_completes : after (.arrayPassComplete ⟨placedHandle, 0, 0⟩) (quiet (owned ∘ br fun b => { b with
    slots := upd b.slots 1 (fun t => { t with st := .draining }), passSlots := [1], passAccs := [0] })) (fun t =>
      slotIs t 1 fun s => s.st == .ready) = true := by decide +kernel
theorem test_tile_read_completes : after (.tileReadComplete ⟨placedHandle, 0, 0⟩ 0) (quiet (acc 0 fun a =>
    { a with st := .draining, before := .ready })) (fun t => brickHas t fun b => (b.acc 0).st == .ready) = true := by decide +kernel

/-! ## Sparse streams -/

def e (c v : Nat) : InEnt := tok (BitVec.ofNat 32 (c * 2 ^ 16 + v))
/-- The heads of `i0` and `i1`, and what the instruction leaves in `o0` and how much of the two queues. -/
def fibres (i : Instr) (ha hb : InEnt) (out : List Tok) (la lb : Nat) : Bool :=
  after i (fire (inq 0 [ha] ∘ inq 1 [hb])) fun t => ctxHas t fun k =>
    k.outQ 0 == out.map (fun t => ⟨.tok t, .a0⟩) && (k.inQ 0).arm0.length == la && (k.inQ 1).arm0.length == lb
def isect (m : MMode) : Instr := .isect gIIO m (.o 0) (.i 0) (.i 1)
def union (m : MMode) : Instr := .union gIIO m (.o 0) (.i 0) (.i 1)
theorem test_isect : all [fibres (isect .cv) (e 3 0x3C00) (e 3 0x4200) [⟨false, 0, 0x33C00⟩] 0 0,
    fibres (isect .cv) (stop 0) (stop 1) [⟨true, 0, 0⟩] 0 1, fibres (isect .cv) (e 6 0x4000) (stop 1) [] 0 1,
    fibres (isect .cv) (stop 1) (e 6 0) [] 1 0, fibres (isect .cvb) (e 2 1) (e 3 1) [] 0 1, fibres (isect .vv) (e 3 1) (e 2 1) [] 1 0] = true := by
  decide
theorem test_union : all [fibres (union .vv) (e 3 1) (e 3 2) [⟨false, 0, 0x20001⟩] 0 0,
    fibres (union .cvb) (e 2 7) (e 3 1) [⟨false, 0, 0x20000⟩] 0 1, fibres (union .cv) (e 4 7) (e 3 1) [⟨false, 0, 0x30000⟩] 1 0,
    fibres (union .cv) (stop 0) (e 3 1) [⟨false, 0, 0x30000⟩] 1 0, fibres (union .cv) (e 3 5) (stop 0) [⟨false, 0, 0x30005⟩] 0 1,
    fibres (union .cv) (stop 1) (stop 1) [⟨true, 0, 1⟩] 0 0] = true := by decide
def stops (i : Instr) (h : InEnt) (out : List Tok) : Bool :=
  after i (fire (inq 0 [h] ∘ dRegs 0x12 0)) fun t => ctxHas t fun k => k.outQ 0 == out.map fun t => ⟨.tok t, .a0⟩
theorem test_stop_levels : all [stops (.stopt gIO (.o 0) (.d 2)) (tok 0) [⟨true, 0, 2⟩], stops (.stoptImm gIO 15 (.o 0)) (tok 0) [⟨true, 0, 15⟩],
    stops (.stopqLower gIO (.o 0) (.iDeq 0)) (tok 9) [⟨false, 0, 9⟩], stops (.stopqLower gIO (.o 0) (.iDeq 0)) (stop 0) [],
    stops (.stopqLower gIO (.o 0) (.iDeq 0)) (stop 1) [⟨true, 0, 0⟩], stops (.stopqRaise gIO (.o 0) (.iDeq 0)) (tok 9) [⟨false, 0, 9⟩],
    stops (.stopqRaise gIO (.o 0) (.iDeq 0)) (stop 15) [⟨true, 0, 15⟩]] = true := by decide
theorem test_part : all [
    after (.part gIO 4 (.o 0) (.iDeq 0)) (fire (inq 0 [tok 0x10])) fun t => ctxHas t fun k => k.outQ 0 == [⟨.tok ⟨false, 0, 0x10⟩, .a1⟩],
    after (.part gIO 4 (.o 0) (.iDeq 0)) (fire (inq 0 [stop 2])) fun t => ctxHas t fun k => k.outQ 0 == [⟨.tok ⟨true, 0, 2⟩, .both⟩]] = true := by
  decide
def reg (n : Nat) (v : W32) : Spur → Spur := cx fun k => { k with regs := k.regs.set n v }
/-- The worked scan of R213: its three firings. -/
def scan1 (cur : W32) (out : List Tok) (next : W32) (len : Nat) : Bool :=
  after (.scanb gIIO false 3 (.o 0) (.i 0) (.i 1)) (fire (inq 0 [tok 0x116] ∘ inq 1 [tok 0x34] ∘ reg 3 cur)) fun t => ctxHas t fun k =>
    k.outQ 0 == out.map (fun t => ⟨.tok t, .a0⟩) && k.reg 0 3 == next && (k.inQ 0).arm0.length == len
theorem test_scanb : all [scan1 0 [⟨false, 0, 0x0002C000⟩] 3 1, scan1 3 [⟨false, 0, 0x0004C000⟩] 5 1, scan1 5 [] 0x40 0] = true := by decide
theorem test_scanb_stop : after (.scanb gIO true 3 (.o 0) (.i 0) .z) (fire (inq 0 [stop 1] ∘ reg 3 0x85)) (fun t => ctxHas t fun k =>
    k.outQ 0 == [⟨.tok ⟨true, 0, 1⟩, .a0⟩] && k.reg 0 3 == 0 && (k.inQ 0).arm0.isEmpty) = true := by decide
/-- `scant.or` with one tree: cursor, RA, the head, and what it leaves. -/
def tree (cur ra : W32) (h : InEnt) (out : List Tok) (cur' ra' : W32) (len : Nat) : Bool :=
  after (.scant gIO true 4 (.o 0) (.i 0) .z) (fire (inq 0 [h] ∘ reg 4 cur ∘ reg 5 ra)) fun t => ctxHas t fun k =>
    k.outQ 0 == out.map (fun t => ⟨.tok t, .a0⟩) && k.reg 0 4 == cur' && k.reg 0 5 == ra' && (k.inQ 0).arm0.length == len
theorem test_scant : all [tree 0 0 (tok 0x6) [] 0x80000 0x6 0, tree 0x80000 0x6 (tok 0x30) [] 0x380000 0x6 1,
    tree 0x380000 0x6 (tok 0x30) [⟨false, 0, 0x00248000⟩] 0x380005 0x6 1, tree 0x380006 0x6 (tok 0x30) [] 0x280006 0x4 0,
    tree 0x80000 0 (tok 1) [] 0x4000000 0 1, tree 0 0 (stop 2) [⟨true, 0, 2⟩] 0 0 0] = true := by decide +kernel
/-- Under `.and`, a leaf of one tree alone leaves unscanned. -/
theorem test_scant_and : after (.scant gIIO false 4 (.o 0) (.i 0) (.i 1)) (fire (inq 0 [tok 1] ∘ inq 1 [tok 2] ∘ reg 4 0x80000 ∘ reg 5 1 ∘
    reg 6 2)) (fun t => ctxHas t fun k => k.reg 0 5 == 0 && (k.inQ 0).arm0.isEmpty && (k.inQ 1).arm0.length == 1) = true := by
  decide +kernel
/-- A region at 0x100 with 32 coordinates; coordinate 3 holds `v` and is marked as `bits` says. -/
def region (k : W32) (v bits : W32) : Spur → Spur := reg 9 k ∘ bankAt 0x10C [v] ∘ bankAt 0x180 [bits] ∘ dRegs 0x30000 0x40000000
def sp1 (i : Instr) (v bits : W32) (w m : Nat) : Bool :=
  after i (fire (region 0x10100 v bits)) fun t => bankWord t 0x10C == w && bankWord t 0x180 == m
theorem test_spacc : all [sp1 (.spaccFadd gN .rne 9 (.d 2) (.d 3)) 0 0 0x40000000 8, sp1 (.spaccFadd gN .rne 9 (.d 2) (.d 3)) 0x3F800000 8 0x40400000 8,
    sp1 (.spaccAdd gN 9 (.d 2) (.d 3)) 0 0 0x40000000 8, sp1 (.spaccAdd gN 9 (.d 2) (.d 3)) 1 8 0x40000001 8,
    sp1 (.spaccFmax gN 9 (.d 2) (.d 3)) 0 0 0x40000000 8, sp1 (.spaccFmax gN 9 (.d 2) (.d 3)) 0x3F800000 8 0x40000000 8] = true := by
  decide +kernel
/-- IA and IB named, no output. -/
abbrev gII1 : BGuard := ⟨0, 0, true, 0, true, 1, false, 0, 0, false, false⟩
theorem test_spacc_stop : after (.spaccAdd gII1 9 (.iDeq 0) (.iDeq 1)) (fire (inq 0 [stop 0] ∘ inq 1 [tok 5])) (fun t => ctxHas t fun k =>
    (k.inQ 0).arm0.isEmpty && (k.inQ 1).arm0.length == 1) = true := by decide +kernel
theorem test_spacc_faults : all [faults (.spaccAdd gN 9 (.d 2) (.d 3)) (fire (region 0x100 0 0)) 2 0x0100000000000100,
    faults (.spaccFadd gN .rne 9 (.d 2) (.d 3)) (fire (dRegs 0x200000 0 ∘ reg 9 0x10100)) 2 0x0100000000000020] = true := by
  decide +kernel
def drain (i : Instr) (k bits : W32) (out : Tok) (k' : W32) (w m : Nat) : Bool :=
  after i (fire (region k 5 bits)) fun t => bankWord t 0x10C == w && bankWord t 0x180 == m && ctxHas t fun c =>
    c.outQ 0 == [⟨.tok out, .a0⟩] && c.reg 0 9 == k'
theorem test_spdrain : all [drain (.spdrain (gO 0) 9 (.o 0)) 0x10100 8 ⟨false, 0, 3⟩ 0x80010100 5 8,
    drain (.spdrain (gO 0) 9 (.o 0)) 0x80010100 8 ⟨false, 0, 5⟩ 0x10100 0 0, drain (.spdrainV (gO 0) 9 (.o 0)) 0x10100 8 ⟨false, 0, 5⟩ 0x10100 0 0,
    drain (.spdrain (gO 0) 9 (.o 0)) 0x80010100 0 ⟨true, 0, 0⟩ 0x10100 5 0, drain (.spdrainV (gO 0) 9 (.o 0)) 0x10100 0 ⟨true, 0, 0⟩ 0x10100 5 0] = true := by
  decide +kernel

/-! ## Memory -/

def d1Is (t : State) (v : W32) : Bool := ctxHas t fun k => k.reg 0 1 == v
theorem test_ldb : all [after (.ldb gN .h (.d 1) (.d 2) (.d 3)) (fire (dRegs 0xFFFFFFF0 0x12 ∘ bankAt 0 [0xABCD8123])) fun t => d1Is t 0xABCD,
    faults (.ldb gN .w (.d 1) (.d 2) (.d 3)) (fire (dRegs 2 0)) 8 2,
    faults (.ldb gN .w (.d 1) (.d 2) (.d 3)) (fire (dRegs 0x10000 0)) 2 0x0100000000010000] = true := by decide
theorem test_ldb_late : after (.ldb gN .w (.d 1) (.d 2) .z) { fire (dRegs 0 0 ∘ bankAt 0 [9]) with late := true } (fun t =>
    d1Is t 7 && after (.loadValueReturn (.ctx here)) t fun u => ctxHas u fun k => k.load.isNone) = true := by decide
theorem test_stb : all [after (.stb gN .b (.d 1) (.d 2) (.d 3)) (fire (dRegs 0xFFFF 0)) fun t => brickHas t fun b => readNat b.bank 0xFFFF 1 == 7,
    faults (.stb gN .h (.d 1) (.d 2) (.d 3)) (fire (dRegs 1 0)) 8 1,
    faults (.stb gN .w (.d 1) (.d 2) (.d 3)) (fire (dRegs 0x10000 0)) 2 0x0100000000010000] = true := by decide
def win (a b : W64) : Spur → Spur := cx fun k => { k with win := [a, b, 0, 0] }
/-- Window 0 leads to memory at 0x300000, window 1 to the vault; page 1 of 512 GiB has the presence attribute. -/
def mem (s : State) : State := words s [(0x300000, 0x1122334455667788), (0x101008, 0x1EF)]
def fireM (f : Spur → Spur) : State := mem (fire (win 0x300000 0x8000000000000000 ∘ f))
def issueM (f : Spur → Spur) : State := mem (issue f)
/-- R409: a walk meets an entry in a word that stays bad. -/
theorem test_walk_lost : after (.ldg (.s sN) .w 0 (.g 1) (.g 2) .z) { issueM (gRegs 0x300004 0) with badWords := [0x101000] } (fun t =>
    spurHas t (·.retry) && threadHas t fun k => k.reg 1 == 7 && k.pc == 0x200000) = true := by decide +kernel
theorem test_ldg : all [after (.ldg (.b gN) .b 0 (.d 1) (.d 2) .z) (fireM (dRegs 3 0)) fun t => d1Is t 0x55,
    after (.ldg (.s sN) .w 0 (.g 1) (.g 2) .z) (issueM (gRegs 0x300004 0)) fun t => threadHas t fun k => k.reg 1 == 0x11223344,
    faults (.ldg (.b gN) .w 2 (.d 1) (.d 2) .z) (fireM (dRegs 0 0)) 2 0x0200000000000002,
    faults (.ldg (.b gN) .w 0 (.d 1) (.d 2) .z) (fireM (dRegs 2 0)) 8 0x300002,
    faults (.ldg (.s sN) .w 0 (.g 1) (.g 2) .z) (issueM (gRegs 0x10000000000 0)) 7 0x10000000000] = true := by decide +kernel
theorem test_ldv : all [after (.ldv (.b gN) .w (.d 1) (.d 2) .z) (fire (dRegs 8 0 ∘ bankAt 8 [5])) fun t => d1Is t 5,
    faults (.ldv (.b gN) .w (.d 1) (.d 2) .z) (fire (dRegs 0x10000 0)) 2 0x0100000000010000,
    faults (.ldv (.b gN) .w (.d 1) (.d 2) .z) (fire (dRegs 1 0)) 8 1] = true := by decide +kernel
theorem test_load_late : after (.ldg (.s sN) .w 0 (.g 1) (.g 2) .z) { issueM (gRegs 0x300000 0) with late := true } (fun t =>
    threadHas t (fun k => k.reg 1 == 7 && k.pc == 0x200000) && after (.loadValueReturn (.thread placedHandle)) t fun u =>
      threadHas u fun k => k.reg 1 == 0x55667788 && k.pc == 0x200008) = true := by decide +kernel
def heldIs (t : State) (kind : WKind) (pa : Nat) (n : Nat) : Bool := spurHas t fun sp =>
  match sp.live.held with | [h] => h.kind == kind && h.pa == pa && h.bytes.length == n && h.bank.isNone | _ => false
theorem test_stg : all [after (.stg (.b gN) .h 0 (.d 1) (.d 2) .z) (fireM (dRegs 2 0)) fun t =>
      heldIs t .store 0x300002 2 && readNat t.mem 0x300002 2 == 0x5566,
    after (.stg (.b gN) .w 1 (.d 1) (.d 2) .z) (fireM (dRegs 4 0)) fun t => brickHas t fun b => readNat b.bank 4 4 == 7,
    faults (.stg (.b gN) .h 0 (.d 1) (.d 2) .z) (fireM (dRegs 1 0)) 8 0x300001] = true := by decide +kernel
theorem test_stv : all [after (.stv (.s sN) .w (.g 1) (.g 2) .z) (issue (gRegs 4 0)) fun t => brickHas t fun b => readNat b.bank 4 4 == 7,
    faults (.stv (.s sN) .w (.g 1) (.g 2) .z) (issue (gRegs 5 0)) 8 5] = true := by decide +kernel
/-- R397: a brick's store waits while the spur holds all that it can. -/
def holding (n : Nat) : Spur → Spur := fun sp => sp.modLive fun b => { b with
  held := List.replicate n ⟨.ctx here, .store, 1, 0, none, 0x400000, [1], false⟩ }
theorem test_stg_waits : starts (.stg (.b gN) .w 0 (.d 1) (.d 2) .z) (fireM (holding Config.heldWrites)) (fun x =>
    (x.place (x.window 0 0) 4 4 .write (some false)).1.ok && decide (Config.heldWrites ≤ x.heldCount)) = true := by decide +kernel
theorem test_held_visible : after (.ldg (.s sN) .b 0 (.g 1) (.g 2) .z) (issueM (holding 1 ∘ gRegs 0x400000 0)) (fun t =>
    threadHas t fun k => k.reg 1 == 1) = true := by decide +kernel
/-- The presence word at 0x300000 of memory, full or empty. -/
def pr (full : Bool) (f : Spur → Spur) : State :=
  { mem (issue (f ∘ gRegs 0x8000300000 5)) with full := if full then [0x300000] else [] }
def ldp1 : Instr := .ldp (.s sN) 0 (.g 1) (.g 2) .z
/-- A context's read of the word of `pr` is deferred. -/
def defers : Spur → Spur := cx fun k => { k with defer := some ⟨none, 0x300000, ⟨1, 0, 0, .d 1, some ⟨0x8000300000, 0x300000, 4⟩⟩⟩ }
/-- R246: the table of a bank is full of the reads of other contexts. -/
def bankFull (n : Nat) : Spur → Spur := fun sp => sp.modLive fun b => { b with
  ctxs := b.ctxs ++ (upTo n).map fun i => { Ctx.blank (BitVec.ofNat 8 (i + 1)) 0 0 with
    defer := some ⟨some (0, 0), 0x40, ⟨1, 0, 0, .d 1, none⟩⟩ } }
theorem test_ldp_refused : all [after (.ldp (.b gN) 1 (.d 1) (.d 2) .z) (fireM (bankFull 8 ∘ dRegs 0x40 0)) fun t => ctxHas t fun k =>
      k.defer.isNone && k.wait == some 0,
    after (.ldp (.b gN) 1 (.d 1) (.d 2) .z) (fireM (bankFull 7 ∘ dRegs 0x40 0)) fun t => ctxHas t fun k =>
      k.defer.any (·.bank == some (0, 0)) && k.wait == some 0] = true := by decide +kernel
theorem test_ldp : all [after ldp1 (pr true id) fun t => threadHas t fun k => k.reg 1 == 0x55667788 && k.pc == 0x200008,
    after ldp1 (pr false id) fun t => threadHas t fun k => k.pc == 0x200000] = true := by decide +kernel
def stp1 : Instr := .stp (.s sN) 0 (.g 3) (.g 2) .z
theorem test_stp : all [after stp1 (pr false id) fun t => heldIs t .stp 0x300000 4, faults stp1 (pr true id) 6 0x8000300000] = true := by
  decide +kernel
/-- R247: another spur's round fills the word. -/
def otherFills (s : State) : State :=
  { s with spurs := s.spurs.map fun x => if x.handle == 0x80000002 then x.modLive fun b =>
      { b with held := [⟨.thread 0x80000002, .stp, 1, 0x8000300000, none, 0x300000, [1, 0, 0, 0], false⟩] } else x }
theorem test_stp_waits : after stp1 (otherFills (twoSpurs (pr false id))) (fun t => threadHas t fun k => k.pc == 0x200000) = true := by
  decide +kernel
def clrp1 : Instr := .clrp (.s sN) 0 (.g 3) (.g 2) .z
theorem test_clrp : all [after clrp1 (pr true id) fun t => heldIs t .clrp 0x300000 20,
    faults clrp1 (pr true (th fun t => { t with g := t.g.set 3 1025 })) 2 0x0B00000000000401,
    faults clrp1 (pr true (th fun t => { t with g := t.g.set 3 0 })) 2 0x0B00000000000000,
    faults clrp1 (pr true (th fun t => { t with g := t.g.set 2 0x8000300FF0 })) 2 0x0B00008000300FF0] = true := by decide +kernel
/-- Presence words of the vault. -/
def vaultFull (l : List Nat) : Spur → Spur := br fun b => { b with full := l }
theorem test_vault_presence : all [
    after (.stp (.b gN) 1 (.d 1) (.d 2) .z) (fireM (dRegs 8 0)) fun t => brickHas t fun b => b.full == [8] && readNat b.bank 8 4 == 7,
    faults (.stp (.b gN) 1 (.d 1) (.d 2) .z) (fireM (dRegs 8 0 ∘ vaultFull [8])) 6 8,
    after (.ldp (.b gN) 1 (.d 1) (.d 2) .z) (fireM (dRegs 8 0 ∘ vaultFull [8] ∘ bankAt 8 [3])) fun t => d1Is t 3,
    after (.clrp (.b gN) 1 (.d 3) (.d 2) .z) (fireM (dRegs 8 2 ∘ vaultFull [4, 8, 12, 16])) fun t => brickHas t fun b => b.full == [4, 16]] = true := by
  decide +kernel

/-! ## Atomics, fences, notices and digests -/

def amoAt (b : W64) : State := issueM (gRegs 0x300000 b)
def amo (i : Instr) (b : W64) (v : Nat) : Bool :=
  after i (amoAt b) fun t => threadHas t (fun k => k.reg 1 == 0x1122334455667788) && readNat t.mem 0x300000 8 == v
theorem test_amo_1 : all [amo (.amoadd (.s sN) .rlx .system 0 1 2 3) 1 0x1122334455667789, amo (.amoand (.s sN) .rlx .system 0 1 2 3) 0xFF 0x88,
    amo (.amoor (.s sN) .rlx .system 0 1 2 3) 0x77 0x11223344556677FF, amo (.amoxor (.s sN) .rlx .system 0 1 2 3) 0xFF 0x1122334455667777,
    amo (.amoswap (.s sN) .rlx .system 0 1 2 3) 9 9, amo (.cas (.s sN) .rlx .system 0 1 2 3) 5 0x1122334455667788] = true := by decide +kernel
theorem test_amo_2 : all [amo (.amomin (.s sN) .rlx .system 0 1 2 3) 0xFFFFFFFFFFFFFFFF 0xFFFFFFFFFFFFFFFF,
    amo (.amomax (.s sN) .rlx .system 0 1 2 3) 0xFFFFFFFFFFFFFFFF 0x1122334455667788,
    amo (.amominu (.s sN) .rlx .system 0 1 2 3) 2 2, amo (.amomaxu (.s sN) .rlx .system 0 1 2 3) 2 0x1122334455667788] = true := by decide +kernel
theorem test_cas_writes : after (.cas (.s sN) .rlx .system 0 1 2 3) (mem (issue (th fun t =>
    { t with g := ((t.g.set 1 0x1122334455667788).set 2 0x300000).set 3 6 }))) (fun t => readNat t.mem 0x300000 8 == 6) = true := by decide +kernel
theorem test_amofadd : after (.amofadd (.b gN) .rlx .system 0 1 2 3) (words (fire (win 0x300000 0 ∘ dRegs 0 0x3F800000)) [(0x300000, 0x40000000)])
    (fun t => d1Is t 0x40000000 && readNat t.mem 0x300000 4 == 0x40400000) = true := by decide +kernel
/-- R235: a kept result is given again; an atomic on held bytes waits. -/
theorem test_amo_again : after (.amoadd (.s sN) .rlx .system 0 1 2 3) (issueM (gRegs 0x300000 1 ∘ fun sp =>
    { sp with atoms := [⟨.thread placedHandle, 0x200000, 0, 0x33, none⟩] })) (fun t =>
      threadHas t (fun k => k.reg 1 == 0x33) && readNat t.mem 0x300000 8 == 0x1122334455667788) = true := by decide +kernel
theorem test_amo_waits : after (.amoadd (.s sN) .rlx .system 0 1 2 3) (issueM (holding 1 ∘ gRegs 0x400000 1)) (fun t =>
    threadHas t fun k => k.pc == 0x200000) = true := by decide +kernel
def fences : List Instr := [.pref (.s sN) 0 (.g 2) .z, .fence (.s sN) .rel .package, .fencex (.s sN) .ar .system, .fencee (.s sN) .sc .system]
theorem test_fences : fences.all (fun i => after i (issue id) fun t => threadHas t fun k => k.pc == 0x200008) = true := by decide +kernel

/-- R235, R246: what waits is tried again by its event. -/
theorem test_ldp_deferred : all [
    after (.ldpDeferredComplete (.thread placedHandle)) { words (issue (th fun t => { t with g := t.g.set 11 0x8000300000 }))
      [(0x200000, 0xA630BCC0), (0x300000, 0x2A), (0x101008, 0x1EF)] with full := [0x300000] } fun t =>
        threadHas t fun k => k.reg 12 == 0x2A && k.pc == 0x200008,
    after (.ldpDeferredComplete (.ctx here)) { words (fire (win 0x8000300000 0 ∘ cx fun k =>
      { k with wait := some 0, slots := k.slots.set 0 0xA6042CC0 })) [(0x300000, 0x2A), (0x101008, 0x1EF)] with full := [0x300000] } fun t =>
        d1Is t 0x2A] = true := by decide +kernel
theorem test_atomic_perform : after (.atomicPerform (.thread placedHandle)) (words (issue (th fun t => { t with g := t.g.set 11 0x300000 }))
    [(0x200000, 0xB0CB081C), (0x300000, 0x2A)]) (fun t =>
      threadHas t (fun k => k.reg 12 == 0x2A && k.pc == 0x200008) && readNat t.mem 0x300000 8 == 0) = true := by decide +kernel

/-! ## Domains: a package with domain 0, its tables, and one command queue -/

/-- Domain 0 in address space 1: callable table at 0x50000, domain queues at 0x60000, budgets; PASID 3 bound to it; command
queue 2 with its ring at 0x70000. -/
def home (s : State) (l : List (Nat × W64)) : State :=
  words { s with ctl := { Ctl.reset with ddb := 0x80000, ptb := 0x800000, cqb := 0xC0000 } }
    ([(0x80000, 0x90001), (0x90018, 1), (0x90038, 0x7FFF00007FFF), (0x90040, 0x100000000), (0x90048, 0x001000100010),
      (0x90050, 0x50000), (0x90068, 0x60000), (0x90070, 4), (0x800018, 0x10001), (0xC0080, 0x8004000000030000), (0xC0088, 0x70000)] ++ l)
theorem test_home : ((home State.reset []).dom? 0).any (fun d => d.asid == 1 && d.dqn == 4 && d.ctb == 0x50000) = true := by decide +kernel
def notify : Instr := .notify sN (.g 2) (.g 3)
def noted (n : Nat) : Spur → Spur := fun sp => sp.modLive fun b => { b with
  recs := List.replicate n ⟨0, 2, record16 9 placedHandle 0 2 0⟩ }
theorem test_notify : all [after notify (home (issue (gRegs 2 9)) []) fun t => spurHas t fun sp =>
      sp.live.recs == [⟨0, 2, record16 9 placedHandle 0 2 0⟩],
    after notify (home (issue (gRegs 2 9 ∘ noted 16)) []) fun t => threadHas t fun k => k.pc == 0x200000,
    faults notify (home (issue (gRegs 4 9)) []) 2 0x0300000000000004] = true := by decide +kernel
def dig (v : W64) : Spur → Spur := br fun b => { b with dig := b.dig.set 5 v }
theorem test_rddig : all [after (.rddig (.b gN) (.d 1) .z (.d 2)) (fire (dig 0x1122334455667788 ∘ dRegs 37 0)) fun t => d1Is t 0x11223344,
    after (.rddig (.s sN) (.g 1) (.g 2) (.g 3)) (issue (dig 0x1122334455667788 ∘ gRegs 0 5)) fun t =>
      threadHas t fun k => k.reg 1 == 0x1122334455667788,
    after (.rddig (.s sN) (.g 1) (.g 2) (.g 3)) (issue (gRegs 0 0x120 ∘ fun sp => sp.modLive fun b => { b with portDig := [(0x20, 5)] })) fun t =>
      threadHas t fun k => k.reg 1 == 5] = true := by decide +kernel

/-! ## Branches, system entry and control registers -/

def goes (i : Instr) (s : State) (pc : W64) : Bool := after i s fun t => threadHas t fun k => k.pc == pc
def back2 : SGuard := sX 0x7FFFFFE
theorem test_branches : all [goes (.br back2) (issue id) 0x1FFFF0, goes (.bc back2 .eq (.g 2) (.g 3)) (issue (gRegs 5 5)) 0x1FFFF0,
    goes (.bc back2 .ne (.g 2) (.g 3)) (issue (gRegs 5 5)) 0x200008, goes (.bc back2 .lt (.g 2) (.g 3)) (issue (gRegs 0xFFFFFFFFFFFFFFFF 5)) 0x1FFFF0,
    goes (.bc back2 .ltu (.g 2) (.g 3)) (issue (gRegs 0xFFFFFFFFFFFFFFFF 5)) 0x200008, goes (.bc back2 .le (.g 2) (.g 3)) (issue (gRegs 5 5)) 0x1FFFF0,
    goes (.bc back2 .leu (.g 2) (.g 3)) (issue (gRegs 6 5)) 0x200008, goes (.jr sN .z (.g 2)) (issue (gRegs 0x300000 0)) 0x300000,
    faults (.jr sN .z (.g 2)) (issue (gRegs 0x300004 0)) 8 0x300004, goes (.loop back2 (.g 2)) (issue (gRegs 1 0)) 0x200008,
    goes (.loop back2 (.g 2)) (issue (gRegs 0 0)) 0x1FFFF0] = true := by decide
theorem test_jal : after (.jal back2 (.g 1)) (issue id) (fun t => threadHas t fun k => k.reg 1 == 0x200008 && k.pc == 0x1FFFF0) = true := by
  decide
theorem test_svc : all [after (.svc sN 33) (issue (th fun t => { t with evec := 0x400000, sst := 0x1000 })) fun t => threadHas t fun k =>
      k.pc == 0x400000 && k.epc == 0x200008 && k.ecause == 33 && k.sst == 0x11000,
    faults (.svc sN 33) (issue id) 1 15] = true := by decide
theorem test_eret : after (.eret sN) (issue (th fun t => { t with epc := 0x300000, sst := 0x11000 })) (fun t => threadHas t fun k =>
    k.pc == 0x300000 && k.sst == 0x1000) = true := by decide
def crd (c : BitVec 12) : Instr := .crd (.s sN) (.g 1) (.g 2) c
theorem test_crd : all [after (.crd (.b gN) (.d 1) .z 0x103) (fire (cx fun k => { k with mdc := 9 })) fun t => d1Is t 9,
    after (crd 4) (issue (gRegs 0 0)) fun t => threadHas t fun k => k.reg 1 == 256,
    after (crd 10) (issue (gRegs 0 0)) fun t => threadHas t fun k => k.reg 1 == 4096,
    faults (crd 4) (issue (gRegs 1 0)) 2 0x0300000000000001,
    after (crd 0x101) (issue (gRegs 0 0 ∘ cx fun k => { k with bfc := 3 })) fun t => threadHas t fun k => k.reg 1 == 3,
    faults (crd 0x101) (issue (gRegs 1 0)) 2 0x0300000000000001] = true := by decide
def cwr (c : BitVec 12) : Instr := .cwr sN c (.g 2) (.g 3)
def sets (c : BitVec 12) (v : W64) (p : Thread → Bool) : Bool := after (cwr c) (issue (gRegs v 0)) fun t => threadHas t fun k => p k && k.pc == 0x200008
theorem test_cwr : all [sets 0 0xFFFFFFFFFFFFFCFF fun k => k.sst == 0x534FF, sets 0 0x7FF fun k => k.sst == 0x100FF, sets 1 0x1007 fun k => k.epc == 0x1000,
    sets 2 0x1FF fun k => k.ecause == 0x3F, sets 3 0x1007 fun k => k.evec == 0x1000, sets 4 64 fun k => k.rlen == 64,
    sets 4 63 fun k => k.rlen == 256] = true := by decide
theorem test_cwr_ridge : all [after (cwr 8) (issue (gRegs 0x3FFFF 0)) fun t => (nth t.seqs 0 ⟨0, 0, 0⟩).phb == 0x20000,
    after (cwr 9) (issue (gRegs 5 0)) fun t => (nth t.seqs 0 ⟨0, 0, 0⟩).phi == 5,
    after (cwr 10) (issue (gRegs 256 0)) fun t => (nth t.seqs 0 ⟨0, 0, 0⟩).qwin == 256,
    after (cwr 10) (issue (gRegs 255 0)) fun t => (nth t.seqs 0 ⟨0, 0, 0⟩).qwin == 4096] = true := by decide +kernel
theorem test_cwr_user : [1, 2, 3, 8, 9, 10].all (fun c => faults (cwr c) (issue (user ∘ gRegs 0 0)) 1 15) = true := by decide +kernel
theorem test_cwr_context : all [after (cwr 0x102) (issue (gRegs 5 0)) fun t => ctxHas t fun k => k.stagedCst == [(0x102, 5)],
    faults (cwr 0x102) (issue (gRegs 5 1)) 2 0x0300000000000001,
    after (cwr 0x102) (twoSpurs (home (issue (gRegs 5 0x8000000200000000)) [])) fun t => reqIs t (.cwr ⟨0x80000002, 0, 0, 0⟩ 0x102 5)] = true := by
  decide +kernel
def sectionDone (b : Bool) : Spur → Spur := cx fun k => { k with cst := if b then 0x8000 else 0 }
theorem test_sections : all [after (.cstep sN 0 (.g 2)) (issue (gRegs 0 0)) fun t => threadHas t fun k => k.steps == [⟨0, 0⟩],
    faults (.cstep sN 0 (.g 2)) (issue (gRegs 0 0 ∘ cx fun k => { k with conf := false })) 2 0x0C00000000000000,
    after (.arm sN 0 (.g 2)) (issue (gRegs 6 0)) fun t => ctxHas t fun k => k.tcount == 6,
    goes (.waitd sN 0) (issue (sectionDone true)) 0x200008, goes (.waitd sN 0) (issue (sectionDone false)) 0x200000,
    goes (.waitdT sN 0) (issue id) 0x200008, goes (.waitdT sN 0) (issue armed) 0x200000,
    faults (.arm sN 3 (.g 2)) (issue id) 2 0x0C00000000000003, faults (.waitd sN 3) (issue id) 2 0x0C00000000000003,
    faults (.waitdT sN 3) (issue id) 2 0x0C00000000000003] = true := by decide +kernel
/-- An image of one brick and one context without tables, at 0x310000. -/
def bareImage (w0 : W64) : List (Nat × W64) := [(0x310000, w0), (0x310020, 128), (0x310070, 64)]
def cloadAt (w0 : W64) (f : Spur → Spur) : State := words (issue (gRegs 0 0x310000 ∘ f)) (bareImage w0)
def cload : Instr := .cload sN 0 (.g 2) (.g 3)
theorem test_cload : all [after cload (cloadAt 0x0001011010000000 id) fun t => ctxHas t fun k => k.recon.any fun r => r.section_ == 0 && !r.arrived,
    faults cload (cloadAt 0x0001011010000000 (cx fun k => { k with recon := some ⟨false, CtxCfg.blank, 0⟩ })) 5 0] = true := by decide +kernel
/-- R105: a system image in user mode. -/
theorem test_cload_system : after cload (cloadAt 0x8001011010000000 (th fun k => { k with sst := 0 })) (fun t => spurHas t fun sp =>
    sp.sFault.any fun c => c.cls == 1 && c.detail == 15) = true := by decide +kernel
theorem test_cload_refused : after cload (cloadAt 0x0001021010000000 id) (fun t => spurHas t fun sp =>
    sp.sFault.any fun c => c.cls == 2 && c.detail.toNat / 2 ^ 56 == 13) = true := by decide +kernel

/-! ## Translation commands, the pager and engine commands -/

def tlbinv (all : Bool) : Instr := .tlbinv sN all 0 (.g 2) (.g 3)
def invIs (t : State) (h : HeldInv) : Bool := spurHas t fun sp => sp.live.invs == [h]
theorem test_tlbinv : all [after (tlbinv false) (issue (gRegs 0x5000 0x0007000000000003)) fun t => invIs t (.inv false 7 0x5000 0x8000),
    after (tlbinv true) (issue (gRegs 0x5000 1)) fun t => invIs t (.inv true 0 0x5000 0x6000),
    faults (tlbinv false) (issue (gRegs 0x5001 1)) 8 0x5001, faults (tlbinv false) (issue (gRegs 0x5000 0)) 2 0x0300000000000000,
    faults (tlbinv true) (issue (gRegs 0x5000 0x0007000000000003)) 2 0x0307000000000003 ||
      faults (tlbinv true) (issue (gRegs 0x5000 0x0007000000000003)) 2 0x0300000000000003] = true := by decide +kernel
theorem test_tlbinv_top : all [after (tlbinv false) (issue (gRegs 0x1FFFFFFFFFFF000 1)) fun t =>
      invIs t (.inv false 0 0x1FFFFFFFFFFF000 0x200000000000000),
    after (tlbinv false) (issue (gRegs 0x1FFFFFFFFFFF000 2)) fun t => spurHas t fun sp => sp.live.invs == [] && sp.sStop,
    faults (tlbinv false) (issue (gRegs 0x1FFFFFFFFFFF000 2)) 2 0x03FFFFFFFFFFF000] = true := by decide +kernel
def space (all : Bool) : Instr := .tlbinvSpace sN all (.g 2) (.g 3)
theorem test_tlbinvSpace : all [after (space false) (issue (gRegs 0 0x0007000000000000)) fun t => invIs t (.inv false 7 0 (2 ^ 57)),
    faults (space false) (issue (gRegs 0 1)) 2 0x0300000000000001] = true := by decide +kernel
def posted (isOver gone : Bool) (k : PostedKind) (s : State) : State := { s with
  posted := [⟨0, placedHandle, k, if isOver then [] else [.bedrock 0], isOver, gone⟩] }
def sync : Instr := .tlbsync sN (.g 1)
theorem test_tlbsync : all [after sync (posted true true (.migr 1 0 0 4096 0 0) (issue (gRegs 0 0))) fun t =>
      threadHas t (fun k => k.reg 1 == 1 && k.pc == 0x200008 && k.synced == 1),
    after sync (posted true true (.migr 1 0 0 4096 0 0) (issue (th fun k => { k with synced := 1 }))) fun t => threadHas t fun k => k.reg 1 == 0,
    after sync (posted true false (.inv false 1 0x8000300000 0x8000301000) (issue (defers ∘ gRegs 0 0))) fun t => threadHas t fun k => k.pc == 0x200000,
    after sync (posted false false (.inv true 0 0 4096) (issue (gRegs 0 0))) fun t => threadHas t fun k => k.pc == 0x200000,
    after sync (issue (fun sp => sp.modLive fun b => { b with invs := [.inv true 0 0 4096] })) fun t => threadHas t fun k => k.pc == 0x200000,
    after (.tlbsyncComplete placedHandle) (posted true false (.inv true 0 0 4096)
      (words (quiet (gRegs 0 0)) [(0x200000, ((encode sync).getD 0))])) fun t => threadHas t fun k => k.reg 1 == 0 && k.pc == 0x200008] = true := by
  decide +kernel
def migr (v a b : W64) : State := words (issue (th fun t => { t with g := ((t.g.set 1 v).set 2 a).set 3 b })) []
def migr1 : Instr := .migr sN (.g 1) (.g 2) (.g 3)
theorem test_migr : all [after migr1 (migr 1 0 0x8000000000) fun t => invIs t (.migr 1 0 0x8000000000 0x8000000000),
    faults migr1 (migr 1 0x1000 0x8000000000) 8 0x1000, faults migr1 (migr 0x10000 0 0) 2 0x0300000000010000] = true := by decide +kernel
def cached (u : CacheUnit) : CacheEnt := ⟨u, 1, 3, 0, 0xFF, 0x101000⟩
theorem test_invalidationEffect : after (.invalidationEffect 0 (.bedrock 0)) (posted false false (.inv false 1 0x1000 0x2000)
    { State.reset with caches := [cached (.bedrock 0), cached (.bedrock 1)] }) (fun t =>
      t.caches == [cached (.bedrock 1)] && t.posted.all fun p => p.isOver && p.left.isEmpty) = true := by decide +kernel
def moves (f : State → State) : State := f (posted false false (.migr 1 0 0x8000000000 0x8000000000 0xFF 0x101000)
  { words (quiet id) [(0x300000, 5)] with caches := [cached (.bedrock 0)] })
/-- New translations of the page are held. -/
def held (s : State) : State := { s with posted := s.posted.map fun p => { p with left := [] } }
theorem test_migrationPerform : all [after (.migrationPerform 0) (moves held) fun t => readNat t.mem 0x8000300000 8 == 5 &&
      readNat t.mem 0x101000 8 == 0x80000000FF && t.caches == [] && t.posted.all (·.isOver),
    after (.migrationPerform 0) (moves fun s => { s with pins := [⟨3, none, placedHandle, false, [(1, 0, 0x1000, 0)]⟩] }) fun t => t.posted.all (!·.isOver),
    after (.migrationPerform 0) (moves fun s => { s with spurs := [holding 1 (placedSpur 0 1 0)] }) fun t =>
      t.posted.all (!·.isOver) && spurHas t (·.stale)] = true := by decide +kernel
/-- A page of 4 KiB at VA 0x8000000000 that is not present; its massif's ring holds the frame 0x500000. -/
def absent (leaf : W64) : State :=
  let s := words (quiet fun sp => { sp with paging := true }) [(0x101008, 0x102001), (0x102000, 0x103001), (0x103000, 0x104001),
    (0x104000, leaf), (0x700000, 0x500000), (0x500008, 1), (0x600008, 2)]
  { s with
    ctl := { s.ctl with rings := s.ctl.rings.set 0 ⟨0x700000, 4, 0, 1⟩ }
    pagerQ := [⟨.spur placedHandle, ⟨1, 0x8000000000, 1, 0, 0x104000⟩, 0, none⟩] }
theorem test_pagerService : all [after .pagerService (absent 0x43E) fun t =>
      readNat t.mem 0x104000 8 == 0x5000FF && readNat t.mem 0x500008 8 == 0 && t.pagerAck.length == 1 && t.pagerQ == [],
    after .pagerService (absent 0x60083E) fun t =>
      readNat t.mem 0x500008 8 == 2 && (nth t.ctl.rings 0 ⟨0, 0, 0, 0⟩).frt == 2 && readNat t.mem 0x700008 8 == 0x600000,
    after .pagerService (absent 0x43F) fun t => t.pagerAck.length == 1 && readNat t.mem 0x104000 8 == 0x43F,
    after .pagerService (absent 0x03E) fun t => t.pagerAck == [] && t.pagerQ == [] && t.pagerFwd == [],
    after .pagerService { absent 0x43E with badWords := [0x104000] } fun t => t.pagerAck == [] && t.pagerQ == [] && t.pagerFwd == [],
    after .pagerService { absent 0x03E with spurs := (absent 0x03E).spurs.map fun sp => { sp with move := some (.fold none) } } fun t =>
      t.pagerFwd.length == 1] = true := by decide +kernel
theorem test_pagerAcknowledge : after .pagerAcknowledge { quiet (fun sp => { sp with paging := true }) with
    pagerAck := [⟨.spur placedHandle, ⟨1, 0x1000, 1, 0, 0x104000⟩, 0, none⟩] } (fun t => spurHas t (!·.paging) && t.pagerAck == []) = true := by
  decide +kernel

def cmdIs (c : JobCls) (card : W64) : Cmd → Bool := fun k => k.cls == c && k.card == card && k.asid == 1 && k.sys
def engines : List ((Opnd → Instr) × JobCls) := [(fun d => .hod (.b (gO 2)) 0 d (.d 2), .hod),
  (fun d => .coll (.b (gO 2)) 0 d (.d 2), .coll), (fun d => .isq (.b (gO 2)) 0 d (.d 2), .isq),
  (fun d => .probe (.b (gO 2)) 0 d (.d 2), .probe), (fun d => .unpin (.b (gO 2)) 0 d (.d 2), .unpin)]
theorem test_engineCommands : engines.all (fun e =>
    after (e.1 (.o 2)) (fire (win 0x300000 0 ∘ dRegs 64 0)) (fun t => ctxHas t fun k => match k.outQ 2 with
      | [⟨.cmd c, .a0⟩] => cmdIs e.2 0x300040 c
      | _ => false) &&
    faults (e.1 (.o 2)) (fire (win 0 0)) 2 0x0200000000000000) = true := by decide +kernel
theorem test_engineCommands_e : ([(Instr.hod (.s sN) 0 (.e 1) (.g 2), JobCls.hod), (.coll (.s sN) 0 (.e 1) (.g 2), .coll),
    (.isq (.s sN) 0 (.e 1) (.g 2), .isq), (.probe (.s sN) 0 (.e 1) (.g 2), .probe), (.unpin (.s sN) 0 (.e 1) (.g 2), .unpin)]).all
  (fun e => after e.1 (issue (gRegs 0x300040 0)) fun t => spurHas t fun sp => match sp.live.cmds with
    | [(n, c)] => n == 1 && cmdIs e.2 0x300040 c
    | _ => false) = true := by decide +kernel
def hodCmd : Cmd := ⟨0, 0, .hod, 0x300000, .thread placedHandle, 0, 0, 1, true, 0⟩
def jobwait : Instr := .jobwait (.s sN) 0 (.g 1) (.g 2)
theorem test_jobwait : all [after jobwait (words (issue (gRegs 0x300000 0)) [(0x300030, 0x310000), (0x310000, 0x0000000700000005)]) fun t =>
      threadHas t fun k => k.reg 1 == 5 && k.pc == 0x200008,
    after jobwait { words (issue (gRegs 0x300000 0)) [] with cmdq := [(.hod 0 0, hodCmd)] } fun t =>
      threadHas t fun k => k.reg 1 == 7 && k.pc == 0x200000] = true := by decide +kernel

/-! ## Engine jobs -/

/-- A spur with an inbound port 0x20 and an outbound port 0x21. -/
def ported (sp : Spur) : Spur := { sp with
  img := { sp.img with ports := [⟨0x20, true, 0, 0, 3⟩, ⟨0x21, false, 0, 0, 0⟩] } }
/-- A footprint that reads 0x310000 and writes 0x320000, 4 KiB each. -/
def footprint : List (Nat × W64) := [(0x340000, 1), (0x340010, 0x4000000000310000), (0x340018, 0x1000),
  (0x340020, 0x8000000000320000), (0x340028, 0x1000)]
def feet : List Region := [⟨false, true, 0x310000, 0x1000⟩, ⟨true, false, 0x320000, 0x1000⟩]
/-- One row of two FP32 words. -/
def hodCard : List W64 := [0x0002000100012200, 0x310000, 0x320000, 0, 0, 0, 0x330000, 0x340000]
def cardAt (l : List W64) : List (Nat × W64) := (upTo l.length).map fun i => (0x300000 + 8 * i, nth l i 0)
def cmd (c : JobCls) : Cmd := { hodCmd with cls := c }
def asked (e : EnginePort) (k : Cmd) (l : List W64) : State :=
  { home (quiet ported) (footprint ++ cardAt l) with cmdq := [(e, k)] }
def took (p : Job → Bool) (t : State) : Bool := t.cmdq == [] && (match t.jobs with | [j] => p j | _ => false)
def hod0 : EnginePort := .hod 0 0
theorem test_jobAccept : all [after (.jobAccept hod0) (asked hod0 (cmd .hod) hodCard) (took fun j => j.code == 0 && j.foot == feet && j.card == hodCard),
    after (.jobAccept hod0) (asked hod0 { cmd .hod with card := 0x300008 } hodCard) (took fun j => j.code == 5 && j.value == 0x300008),
    after (.jobAccept hod0) (asked hod0 (cmd .hod) (hodCard.set 1 0x350000)) (took fun j => j.code == 7 && j.value == 0x350000),
    after (.jobAccept hod0) (asked hod0 (cmd .hod) (hodCard.set 0 0x2200)) (took fun j => j.code == 5),
    after (.jobAccept hod0) (asked hod0 (cmd .hod) (hodCard.set 5 9)) (took fun j => j.code == 6)] = true := by decide +kernel
theorem test_jobAccept_unpin : after (.jobAccept (.ise 0 0)) { home (quiet id) (cardAt [4, 0, 0, 0, 0, 9, 0x330000, 0]) with
    cmdq := [(.ise 0 0, cmd .unpin)]
    pins := [⟨9, none, placedHandle, false, []⟩] } (fun t => t.jobs.all fun j => j.code == 0 && j.foot == []) = true := by decide +kernel
def job (c : JobCls) (l : List W64) : Job := { Job.new hod0 (cmd c) with card := l, foot := feet, st := .running }
def jobs (f : Spur → Spur) (j : Job) (l : List (Nat × W64)) : State := { words (quiet (f ∘ ported)) l with jobs := [j] }
def jobIs (t : State) (p : Job → Bool) : Bool := (t.job? 0).any p
theorem test_jobStart : all [after (.jobStart 0) (jobs id { job .hod hodCard with st := .accepted } []) fun t => jobIs t (·.st == .running),
    after (.jobStart 1) { jobs id (job .hod hodCard) [] with
      jobs := [job .hod hodCard, { job .hod hodCard with id := 1, st := .accepted }] } fun t =>
        (t.job? 1).any (·.st == .accepted)] = true := by decide +kernel
def two : List (Nat × W64) := [(0x310000, 0x4000000038D1B717)]
def outIs (t : State) (l : List Flit) : Bool := t.wires == [⟨.job placedHandle 0x20, .spur placedHandle 0x20, l⟩]
def waitsAt (f : List Flit) : Wire := ⟨.spur placedHandle 0x21, .job placedHandle 0x21, f⟩
theorem test_hodRow : all [after (.hodRow 0) (jobs id (job .hod hodCard) two) fun t => readNat t.mem 0x320000 8 == 0x4000000038D1B717 &&
      jobIs t (fun j => j.n == 1 && j.flags == 0),
    after (.hodRow 0) (jobs id (job .hod (hodCard.set 0 0x0002000100012400)) [(0x310000, 0x40000000C0400000)]) fun t =>
      readNat t.mem 0x320000 4 == 0x4000C200 && jobIs t (·.n == 1),
    after (.hodRow 0) (jobs id (job .hod (hodCard.set 2 0x8000000000000020)) two) fun t =>
      outIs t [dataTok 0x38D1B717, dataTok 0x40000000, stopTok 0],
    after (.hodRow 0) { jobs id (job .hod (hodCard.set 1 0x8000000000000021)) [] with
      wires := [waitsAt [dataTok 5, stopTok 0, dataTok 6]] } fun t => readNat t.mem 0x320000 8 == 0x600000005 && jobIs t (·.n == 1),
    after (.hodRow 0) { jobs id (job .hod (hodCard.set 1 0x8000000000000021)) [] with wires := [waitsAt [dataTok 5]] } fun t =>
      jobIs t (fun j => j.n == 0 && j.toks == [5])] = true := by decide +kernel
/-- Two elements of one word, by indices of two bytes below 8; their port is 0x20 or 0x21. -/
def iseCard (kind port : W64) (base : W64) : List W64 := [0x200002000 + kind, 0x310100, base, port * 2 ^ 32 + 8, 0, 0, 0x330000, 0x340000]
def isq (kind port base : W64) : Job := { job .isq (iseCard kind port base) with engine := .ise 0 0 }
def idx : List (Nat × W64) := [(0x310100, 0x00010003)]
def pinned : List PinSet := [⟨5, some 0, placedHandle, false, [(1, 0, 0x8000000000, 0)]⟩]
theorem test_iseProbePass : all [after (.iseProbePass 0) (jobs id (isq 1 0x20 0x310000) idx) fun t => jobIs t (fun j => j.passed && j.value == 0) &&
      (match t.pins with | [p] => p.job == some 0 && p.pages == [(1, 0, 0x8000000000, 0)] | _ => false),
    after (.iseProbePass 0) (jobs id { isq 3 0 0x310000 with cmd := cmd .probe } idx) fun t => jobIs t (·.passed) &&
      (match t.pins with | [p] => p.job == none && p.pages.length == 1 | _ => false)] = true := by decide +kernel
def moving (kind port base : W64) (n : Nat) : State :=
  { jobs id { isq kind port base with passed := true, n := n } (idx ++ [(0x31000C, 7), (0x310004, 9)]) with pins := pinned }
theorem test_iseElementMove : all [after (.iseElementMove 0) (moving 1 0x20 0x310000 0) fun t => outIs t [dataTok 7] && jobIs t (·.n == 1),
    after (.iseElementMove 0) (moving 1 0x20 0x310000 1) fun t => outIs t [dataTok 9, stopTok 0],
    after (.iseElementMove 0) { moving 2 0x21 0x320000 0 with wires := [waitsAt [dataTok 5, dataTok 6]] } fun t =>
      readNat t.mem 0x32000C 4 == 5 && jobIs t (fun j => j.n == 1 && j.toks == []) && t.wires == [waitsAt [dataTok 6]],
    after (.iseElementMove 0) { moving 2 0x21 0x320000 0 with pins := [] } fun t =>
      jobIs t (fun j => j.code == 4 && j.errN == 0 && j.value == 0x32000C),
    after (.iseElementMove 0) { moving 2 0x21 0x320000 0 with jobs := (moving 2 0x21 0x320000 0).jobs.map fun j => { j with card := j.card.set 3 0x2100000001 } } fun t =>
      jobIs t (fun j => j.code == 4 && j.errN == 0 && j.value == 0x32000C)] = true := by decide +kernel
def collCard (kind : W64) : List W64 := [0x200000100 + kind, 0x310000, 0x320000, 0, 3, 0, 0x330000, 0x340000]
def part (kind : BitVec 4) : CollPart := ⟨1, true, kind, 0, 1, 2, [10, 20]⟩
theorem test_collectiveForm : all [after (.collectiveForm 0 [part 9]) (jobs id (job .coll (collCard 9)) [(0x310000, 0x0000000200000001)]) fun t =>
      readNat t.mem 0x320000 8 == 0x000000160000000B && jobIs t (·.formed),
    after (.collectiveForm 0 [part 10]) (jobs id (job .coll (collCard 10)) [(0x310000, 0x0000000200000001)]) fun t =>
      readNat t.mem 0x320000 8 == 0x0000000200000001 && readNat t.mem 0x320008 8 == 0x000000140000000A] = true := by decide +kernel
theorem test_jobComplete : after (.jobComplete 0) { jobs id { job .hod hodCard with n := 1, flags := 1 } [(0x330000, 0xFFFFFFFFFFFFFFFF)] with
    pins := pinned } (fun t => t.jobs == [] && t.pins == [] && readNat t.mem 0x330000 8 == 0x100) = true := by decide +kernel
theorem test_bankToken : after (.bankTokenReceipt placedHandle) { quiet id with
    wires := [⟨.spur 0x80000002 0x30, .gate placedHandle, [dataTok 0]⟩] } (fun t =>
      spurHas t (·.gates == [(0, 0)]) && t.wires.all (·.buf == [])) = true := by decide +kernel

/-! ## Calls, coroutines, builders and moves -/

def stowHome (s : State) (l : List (Nat × W64)) : State := home s ([(0x90058, 0x1000000), (0x90060, 0x1000000)] ++ l)
/-- Entry 1 of the callable table: the image at 0x310000, of one brick. -/
def callable1 : List (Nat × W64) := bareImage 0x0001011010000000 ++ [(0x50020, 0x1000000000000000), (0x50028, 0x310000)]
/-- Entry 2: the same image; entry 3: that at 0x318000, of two bricks in a row; entry 4: that at 0x320000, of two in a
column. -/
def callables : List (Nat × W64) := callable1 ++ [(0x50040, 0x1000000000000000), (0x50048, 0x310000), (0x50060, 0x1000000000000000),
  (0x50068, 0x318000), (0x50080, 0x1000000000000000), (0x50088, 0x320000), (0x318000, 0x0002011010000000), (0x318020, 128),
  (0x318070, 64), (0x320000, 0x0001021010000000), (0x320020, 128), (0x320070, 64)]
def calls (b : Bool) (f : Spur → Spur) : State := home (if b then fire f else issue f) callables
def callB (i : Option (BitVec 3) → Opnd → Opnd → Opnd → Instr) (f : Spur → Spur) (v : W32) (p : Bool) (q : Option Request) : Bool :=
  after (i (some 1) (.d 1) (.d 2) (.d 3)) (calls true f) fun t => ctxHas t (fun k => k.reg 0 1 == v && (k.predSet 0).getLsbD 1 == p) &&
    spurHas t fun sp => sp.live.reqs == q.toList
def atom (v : W64) (q : Option Request) : Spur → Spur := fun sp => { sp with atoms := [⟨.ctx here, 0, 0, v, q⟩] }
theorem test_launch_status : [fun p => Instr.call (.b gN) p, fun p => Instr.apply (.b gN) p].all (fun i =>
    callB i (dRegs 0 0x40) 2 true none && callB i (dRegs 9 0x40) 2 true none &&
    callB i (atom 0x80000009 (some (.launch 0x80000009)) ∘ dRegs 1 0x40) 0x80000009 false (some (.launch 0x80000009)) &&
    faults (i none (.d 1) (.d 2) (.d 3)) (calls true (dRegs 0x1001 0x40)) 2 0x0300000000001001) = true := by decide +kernel
theorem test_launch_full : all [after (.call (.b gN) (some 1) (.d 1) (.d 2) (.d 3)) (home (fire (dRegs 1 0x40)) (callables ++ [(0x90048, 0)])) fun t =>
      ctxHas t (fun k => k.reg 0 1 == 1 && (k.predSet 0).getLsbD 1) && spurHas t (·.deferred),
    faults (.apply (.b gN) none (.d 1) (.d 2) (.d 3)) (calls true (fun sp => { dRegs 1 0x40 sp with launches := List.replicate 8 0 })) 2
      0x0600000000000009] = true := by decide +kernel
/-- R345: what a launch of entry 1 or 3 asks holds here: the entry is read, the pool and the descriptor admit it. -/
theorem test_launch_bound : [1, 3].all (fun n => (begins (.apply (.s sN) none (.g 1) (.g 2) (.g 3)) (.s sN)
    (calls false (gRegs (BitVec.ofNat 64 n) 0x360000))).any fun x =>
      let (t, ws) := readTab x.s 0 0 n
      let (y, bd) := ({ x with s := t } : Ex).readBind 0x360000
      ws.any (fun ws => entKind ws == 1) && !t.poolFull 0 && y.ok && y.sp.launches.length < y.sp.img.hd.lch &&
        (match y.bindTarget 0x360000 bd with | .ok t => t == .none | .error _ => false)) = true := by decide +kernel
/-- A coroutine that the placed spur launched, in this state. -/
def coroutine (l : Life) (t : Target) (s : State) : State := { s with
  spurs := s.spurs ++ [{ placedSpur 0 1 0 with handle := 0x80000002, parent := some placedHandle, life := l, target := t }] }
def resume : Instr := .resume (.s sN) (.g 1) (.g 2) (.g 3)
def resumes (s : State) (v : W64) (q : Option Request) : Bool := after resume s fun t =>
  threadHas t (fun k => k.reg 1 == v && k.pc == 0x200008) && spurHas t fun sp => sp.live.reqs == q.toList
def bars (b : Barrier) : Spur → Spur := fun sp => { sp with bars := sp.bars.set 2 b, launches := [b.h] }
theorem test_resume : all [resumes (issue (gRegs 0x80000002 5)) 2 none,
    resumes (coroutine .running .none (issue (gRegs 0x80000002 5))) 1 none,
    resumes (coroutine .yielded (.barrier placedHandle 2) (issue (bars ⟨.complete, 0x80000002, 0, 0⟩ ∘ gRegs 0x80000002 5))) 3 none,
    resumes (coroutine .yielded .none (issue (gRegs 0x80000002 5))) 0 (some (.resume 0x80000002 5)),
    resumes (issue ((fun sp => { sp with atoms := [⟨.thread placedHandle, 0x200000, 0, 0, some (.resume 0x80000002 5)⟩] }) ∘ gRegs 0x80000002 5)) 0
      (some (.resume 0x80000002 5))] = true := by decide +kernel
theorem test_ret_yield : all [after (.ret (.b gN) (.d 2)) (fire (dRegs 9 0)) fun t => spurHas t fun sp => sp.live.rets == [(.ctx here, 9)],
    after (.ret (.s sN) (.g 2)) (issue (gRegs 9 0)) fun t => spurHas t (fun sp => sp.live.rets == [(.thread placedHandle, 9)]) &&
      threadHas t (·.retd),
    after (.yield (.s sN) (.g 2)) (issue (gRegs 9 0)) fun t => spurHas t (fun sp => sp.live.yld == some 9) && threadHas t (·.retd)] = true := by
  decide +kernel

def builds (i : Opnd → Opnd → Opnd → Instr) (s : State) (a b v : W64) (taken : List (Nat × List W64)) (q : Option Request) : Bool :=
  after (i (.g 1) (.g 2) (.g 3)) { s with spurs := s.spurs.map (gRegs a b) } fun t =>
    threadHas t (fun k => k.reg 1 == v && k.pc == 0x200008) && spurHas t (fun sp => sp.live.reqs == q.toList) &&
      t.taken.map (fun e => (e.va, e.words)) == taken
def table : State := calls false id
def members (k : Nat) (a b : W64) (par : W64) (i : Opnd → Opnd → Opnd → Instr) : Bool :=
  builds i table (a + b * 2 ^ 16) par 0x80000005 [(0x500A0, [BitVec.ofNat 64 (k * 2 ^ 60), a + b * 2 ^ 16, par, 0])]
    (some (.table 0x500A0))
theorem test_builders : all [members 3 1 2 0 (.cseq (.s sN)), members 4 1 2 0 (.cpar (.s sN)), members 5 1 2 0 (.cpipe (.s sN)),
    members 6 1 0 0x203 (.cfarm (.s sN) .key), members 7 1 0 31 (.cloop (.s sN))] = true := by decide +kernel
def builders : List (Opnd → Opnd → Opnd → Instr) := [.cseq (.s sN), .cpar (.s sN), .cpipe (.s sN), .cfarm (.s sN) .key, .cloop (.s sN)]
theorem test_builders_status : builders.all (fun i => builds i table 0x1001 0 5 [] none && builds i table 9 0 2 [] none) = true := by
  decide +kernel
theorem test_builders_full : all [builds (.cseq (.s sN)) table 0x40003 0 3 [] none,
    builds (.cloop (.s sN)) (home (issue id) (callables ++ [(0x90050, 0x7FFFFFF000)])) 1 0 2 [] none] = true := by decide +kernel
def cfree (a v : W64) (taken : List (Nat × List W64)) (q : Option Request) (l : List (Nat × W64)) : Bool :=
  builds (fun d a _ => .cfree (.s sN) d a) (home (issue id) (callables ++ l)) a 0 v taken q
theorem test_cfree : all [cfree 0 2 [] none [], cfree 9 2 [] none [], cfree 1 1 [] none [(0x50020, 0x1000000000000001)],
    cfree 1 0 [(0x50020, [0x1000000000000000, 0x310000, 0, 0])] (some (.cfree 0x50020 [])) [],
    cfree 5 0 [(0x500A0, [0x3000000000000000, 0x20001, 0, 0])] (some (.cfree 0x500A0 [1, 2])) [(0x500A0, 0x3000000000000000), (0x500A8, 0x20001)]] = true := by
  decide +kernel

def barred : Spur → Spur := bars ⟨.complete, 0x80000002, 2, 7⟩
theorem test_waitc : all [after (.waitc (.b gN) (some 1) (.d 1) (.d 2)) (fire (barred ∘ dRegs 0x80000002 0)) fun t =>
      ctxHas t (fun k => k.reg 0 1 == 7 && (k.predSet 0).getLsbD 1) &&
        spurHas t fun sp => sp.bars.all (·.st == .free) && sp.launches == [] && sp.collected.length == 1,
    after (.waitcS (.s sN) (.g 1) (.g 2)) (issue (barred ∘ gRegs 0x80000002 0)) fun t => threadHas t (fun k => k.reg 1 == 2) &&
      spurHas t fun sp => sp.bars.any (·.st == .complete),
    faults (.waitc (.s sN) none (.g 1) (.g 2)) (issue (gRegs 0x80000002 0)) 2 0x0500000080000002,
    faults (.waitcS (.s sN) (.g 1) (.g 2)) (issue (gRegs 0x80000002 0)) 2 0x0500000080000002] = true := by decide +kernel
def moved (i : Instr) (s : State) (v : W64) (q : Option Request) : Bool := after i s fun t =>
  threadHas t (fun k => k.reg 1 == v && k.pc == 0x200008) && spurHas t fun sp => sp.live.reqs == q.toList
theorem test_fold : all [moved (.fold (.s sN) (.g 1) (.g 2)) (stowHome (issue (gRegs 0x80000009 0)) []) 2 none,
    moved (.fold (.s sN) (.g 1) .z) (stowHome (issue id) []) 1 none,
    moved (.fold (.s sN) (.g 1) .z) (twoSpurs (stowHome (issue id) [])) 0 (some (.fold none)),
    moved (.fold (.s sN) (.g 1) (.g 2)) (twoSpurs (stowHome (issue (gRegs 0x80000002 0)) [])) 0 (some (.fold (some 0x80000002)))] = true := by
  decide +kernel
theorem test_stow : all [moved (.stow (.s sN) (.g 1) (.g 2)) (stowHome (issue (gRegs 0x80000009 0)) []) 2 none,
    moved (.stow (.s sN) (.g 1) .z) (home (issue id) []) 1 none, moved (.stow (.s sN) (.g 1) .z) (stowHome (issue id) []) 0 (some (.stow none)),
    moved (.stow (.s sN) (.g 1) (.g 2)) (stowHome (issue (barred ∘ gRegs 0x80000002 0)) []) 0 (some (.stow (some 2)))] = true := by
  decide +kernel
def cquery : Instr := .cquery (.s sN) (.g 1) (.g 2)
theorem test_cquery : all [moved cquery (home (issue (gRegs 2 0)) []) 0 none, moved cquery (home (issue (gRegs 3 0)) []) 4096 none,
    moved cquery (home (issue (gRegs 5 0)) []) 0x7FFE none, moved cquery (home (issue (gRegs 6 0)) []) 0x7FFE none,
    faults cquery (issue (gRegs 7 0)) 2 0x0C00000000000007, faults cquery (issue (gRegs 16 0)) 2 0x0C00000000000010] = true := by
  decide +kernel

/-! ## The network -/

/-- Channel 3 delivers to queue 1, with this format. -/
def vc3 (fmt : W32) : Spur → Spur := br fun b => { b with vc := b.vc.set 3 (0x80800000 + (fmt <<< 19)) }
/-- Route 0 leads to channel 3, then to channel 4, with these flits in flight. -/
def routed (l : List Flit) : Spur → Spur := fun sp => sp.modLive fun b => { b with
  routes := [⟨[0x80000003, 0x80000004], 0, 0x80000003, false, l.map fun f => ⟨0, 0, 0x80000003, f⟩⟩] }
def tok5 : Flit := dataTok 5
def path3 : FlowId := .route 0 0 0 3
def flying (l : List Flit) (f : Spur → Spur) : State := quiet (f ∘ routed l)
def arrived (t : State) (l : List InEnt) (n : Nat) : Bool := ctxHas t (fun k => (k.inQ 1).arm0 == l) &&
  spurHas t fun sp => sp.live.routes.all fun r => r.fly.length == n
theorem test_tokenDelivery : all [after (.tokenDelivery placedHandle path3) (flying [tok5] (vc3 0)) fun t => arrived t [tok 5] 0 &&
      spurHas t fun sp => sp.live.bricks.all fun b => nth b.dig 3 0 != 0 && nth b.dig 4 0 == 0,
    after (.tokenDelivery placedHandle path3) (flying [tok5] id) fun t => arrived t [] 1,
    after (.tokenDelivery placedHandle path3) (flying [tok5] (vc3 0 ∘ cx fun k => { k with conf := false })) fun t => arrived t [] 1,
    after (.tokenDelivery placedHandle path3) (flying [tok5] (vc3 0 ∘ inq 1 [tok 1, tok 2, tok 3, tok 4])) fun t =>
      arrived t [tok 1, tok 2, tok 3, tok 4] 1] = true := by decide +kernel
def spliced (w : W64) : InEnt := .tok ⟨false, 0, 5⟩ w 0
theorem test_headerDelivery : all [after (.headerDelivery placedHandle path3) (flying [.hdr 0x2000000000] (vc3 0)) fun t => arrived t [] 0 &&
      ctxHas t (fun k => (k.inQ 1).hdr0 == 0x2000000000) && spurHas t (·.causes == []),
    after (.headerDelivery placedHandle path3) (flying [.hdr 0x2000000000] (vc3 3)) fun t => spurHas t fun sp =>
      sp.causes.map (·.cls) == [4],
    after (.tokenDelivery placedHandle path3) (flying [tok5] (vc3 0 ∘ cx fun k => { k with
      iq := upd k.iq 1 fun q => { q with hdr0 := 0x2000000000 } })) fun t => arrived t [spliced 0x2000000000] 0] = true := by decide +kernel
def groutPath (l : List KEnt) : Spur → Spur := fun sp => sp.modLive fun b => { b with paths := [⟨0, 0, 0, 1, 0, 0x80000400, l⟩] }
theorem test_seamMarkerDelivery : all [after (.seamMarkerDelivery placedHandle path3) (flying [.seam] (vc3 0)) fun t => arrived t [.seam] 0,
    after (.seamMarkerDelivery placedHandle (.grout here 1 0)) (quiet (groutPath [.seam])) fun t => ctxHas t fun k => nth k.kq 1 [] == [.seam]] = true := by
  decide +kernel
theorem test_port : all [after (.tokenDelivery placedHandle (.port 0x20)) { quiet (vc3 0 ∘ ported) with
      wires := [⟨.spur 0x80000002 9, .spur placedHandle 0x20, [tok5, tok5]⟩] } fun t =>
        ctxHas t (fun k => (k.inQ 1).arm0 == [tok 5]) && t.wires.all (·.buf == [tok5]) && spurHas t fun sp => sp.delivered == [(0x20, tok5)],
    after (.tokenDelivery placedHandle (.port 0x20)) { quiet ported with
      wires := [⟨.spur 0x80000002 9, .spur placedHandle 0x20, [tok5]⟩] } fun t => t.wires.all (·.buf == [tok5])] = true := by decide +kernel

def bound (o : W32) (n : Nat) (l : List OutEnt) : Spur → Spur := cx fun k => { k with obind := k.obind.set n o, oq := k.oq.set n l }
def out5 : OutEnt := ⟨tok5, .a0⟩
def injected (t : State) (n : Nat) (q : BitVec 3) (l : List OutEnt) : Bool := ctxHas t (fun k => k.outQ q == l) &&
  spurHas t fun sp => sp.live.routes.map (·.fly.length) == [n]
theorem test_outputInjection : all [after (.outputInjection here 2) (flying [] (bound 0x80000000 2 [out5])) fun t => injected t 1 2 [],
    after (.outputInjection here 2) (flying (List.replicate 4 tok5) (bound 0x80000000 2 [out5])) fun t => injected t 4 2 [out5],
    after (.outputInjection here 2) (flying [] (bound 0xA0000000 2 [⟨tok5, .both⟩])) fun t => injected t 2 2 [],
    after (.outputInjection here 2) (flying [] (bound 0xA0000000 2 [⟨tok5, .a1⟩])) fun t => injected t 1 2 []] = true := by decide +kernel
theorem test_stepWordForward : after (.stepWordForward here 2) (flying [] (bound 0x80000000 2 [⟨.step, .a0⟩])) (fun t =>
    spurHas t fun sp => sp.live.routes.all fun r => r.cur == 1 && r.ent == 0x80000004) = true := by decide +kernel
theorem test_stepWord_last : after (.stepWordForward here 2) (quiet (bound 0x80000000 2 [⟨.step, .a0⟩] ∘ fun sp => sp.modLive fun b => { b with
    routes := [⟨[0x80000003, 0x80000004], 1, 0x80000004, false, []⟩] })) (fun t =>
      spurHas t fun sp => sp.live.routes.all fun r => r.cur == 0 && r.ent == 0x80000003) = true := by decide +kernel
theorem test_loopbackDelivery : after (.loopbackDelivery here 2) (quiet (bound 0xC0004000 2 [out5])) (fun t => ctxHas t fun k =>
    (k.inQ 1).arm0 == [tok 5] && k.outQ 2 == []) = true := by decide +kernel
def grouted (l : List KEnt) : Spur → Spur := cx fun k => { k with grout := k.grout.set 4 0x80000400, jq := k.jq.set 1 l }
def pathBits (t : State) : List (List KEnt) := (t.spur? placedHandle).elim [] fun sp => sp.live.paths.map (·.bits)
theorem test_controlTokenDelivery : all [after (.controlTokenDelivery here 1 none) (quiet (grouted [.bit true])) fun t => pathBits t == [[.bit true]] &&
      ctxHas t fun k => nth k.jq 1 [] == [],
    after (.controlTokenDelivery here 1 none) (quiet (grouted [.seam])) fun t => pathBits t == [[.seam]],
    after (.controlTokenDelivery here 1 (some 0)) (quiet (groutPath [.bit true])) fun t => pathBits t == [] &&
      ctxHas t fun k => nth k.kq 1 [] == [.bit true]] = true := by decide +kernel
def recon (b : Bool) : Spur → Spur := cx fun k => { k with recon := some ⟨b, CtxCfg.blank, 0⟩ }
theorem test_reconfiguration : all [after (.reconfigurationTokenArrival here) (quiet (recon false)) fun t => ctxHas t fun k =>
      k.recon.any (·.arrived),
    after (.seamAutoAppend here) (quiet (recon true ∘ bound 0x80000000 2 [] ∘ vc3 0 ∘ inq 1 [.seam])) fun t => ctxHas t fun k =>
      k.outQ 2 == [⟨.seam, .both⟩] && k.cst.getLsbD 14,
    after (.seamAutoAppend here) (quiet (recon true ∘ bound 0x80000000 2 [] ∘ vc3 0)) fun t => ctxHas t fun k => k.outQ 2 == []] = true := by
  decide +kernel

/-! ## Rounds, claims and the start barrier -/

def due (f : Spur → Spur) : State := { quiet f with now := 256 }
def cause (c : Nat) : Cause := ⟨c, 5, 0, 0xFF, 0xFF, [], [], 0, 0, none⟩
def moved1 : Spur → Spur := holding 1 ∘ th fun t => { t with pc := 0x200040 }
def marked (p : Spur → Bool) (q : State → Bool) (t : State) : Bool := spurHas t p && q t
theorem test_roundMark_voids : all [after (.roundMark placedHandle) (due fun sp => { moved1 sp with causes := [{ cause 3 with node := 2 }, cause 8] }) (marked
      (fun sp => sp.life == .stopped && sp.live.th.pc == 0x200000 && sp.rnd == 0 && sp.sFault == some (cause 8) && sp.final)
      (fun t => t.mem == [])),
    after (.roundMark placedHandle) (due fun sp => { moved1 sp with stale := true }) (marked
      (fun sp => sp.life == .running && sp.live.th.pc == 0x200000 && sp.rnd == 0 && !sp.stale && sp.roundAt == 256) (fun t => t.mem == [])),
    after (.roundMark placedHandle) { due moved1 with now := 255 } (marked (fun sp => sp.live.th.pc == 0x200040 && sp.roundAt == 0) (fun t => t.mem == []))] = true := by
  decide +kernel
def bare (f : Spur → Spur) : State := due fun sp => { f sp with phases := [] }
theorem test_roundMark_commits : all [after (.roundMark placedHandle) (bare moved1) (marked (fun sp => sp.live.th.pc == 0x200040 && sp.rnd == 1 && sp.start == sp.live &&
      sp.life == .running && sp.live.held == [] && !sp.final) (fun t => t.mem == [(0x400000, 1)])),
    after (.roundMark placedHandle) (bare fun sp => sp.modLive fun b => { b with rets := [(.thread placedHandle, 9)] }) (marked
      (fun sp => sp.final && sp.result == 9) fun _ => true),
    after (.roundMark placedHandle) (bare fun sp => sp.modLive fun b => { b with yld := some 9 }) (marked
      (fun sp => sp.life == .yielded && !sp.final) fun _ => true)] = true := by
  decide +kernel

/-- A launch of entry 1 that asks for a completion in domain queue 1. -/
def claim : Claim := { Claim.fresh 0 0 1 0x80000005 with
  st := .sent, nest := some (.leaf 1 0x310000 false), target := .queue 0 1, arg := 77, fromPool := true }
def claims (s : State) (c : Claim) (l : List (Nat × W64)) : State :=
  { home s (callable1 ++ l) with claims := [c], nextClaim := 1, powered := 192 }
def ends (st : Nat) (v : W64) (t : State) : Bool := t.claims == [] && t.recq.any (·.bytes == record16 v 0x80000005 0 1 st)
def wide : List (Nat × W64) := [(0x310000, 0x0080601010000000), (0x90038, 0x000FFFFF000FFFFF)]
theorem test_claimArrival : all [after (.claimArrival 0) (claims State.reset claim []) fun t => t.claims.map (·.st) == [.pending] &&
      t.claims.map (·.no) == [1] && t.claims.map (·.rects) == [[⟨1, 1, 1, 0, false⟩]],
    after (.claimArrival 0) (claims State.reset { claim with nest := none, bad := 9, queue := none } []) (ends 8 9),
    after (.claimArrival 0) (claims State.reset claim [(0x310018, 1)]) fun t => t.claims == [] && t.recq.length == 1,
    after (.claimArrival 0) (claims State.reset claim [(0x90038, 0x7FFF00000000)]) (ends 4 0)] = true := by decide +kernel
theorem test_claimArrival_large : after (.claimArrival 0) (claims State.reset { claim with nest := some (.farm 3 none 0 0 5 (.leaf 1 0x310000 false)) }
    wide) (ends 5 0) = true := by decide +kernel
theorem test_claimArrival_domain : after (.claimArrival 0) { claims State.reset { claim with dom := 5 } [] with claims := [{ claim with dom := 5 }] }
    (fun t => t.claims == []) = true := by decide +kernel
def pending : Claim := { claim with st := .pending, imgs := [placedImage 0], rects := [(placedImage 0).rect], no := 1 }
def free00 : Place := .free 0 0 0
def waits (t : State) : Bool := t.claims.map (·.st) == [.pending] && t.spurs.length ≤ 1
theorem test_claimGrant : all [after (.claimGrant 0 [free00] []) (claims State.reset pending []) fun t => t.claims.map (·.st) == [.granted] &&
      (t.spur? 0x80000005).any fun sp => sp.life == .loading && sp.img == placedImage 0 && sp.site == ⟨0, 0, 0⟩ && sp.arg == 77,
    after (.claimGrant 0 [free00] []) (claims (quiet id) pending []) waits,
    after (.claimGrant 0 [free00] []) (claims State.reset pending [(0x90038, 0)]) waits,
    after (.claimGrant 0 [free00] []) (claims State.reset claim []) fun t => t.claims.map (·.st) == [.sent]] = true := by decide +kernel
theorem test_claimReservation : all [after (.claimReservation 0 [free00]) (claims (quiet id) { pending with passed := 64 } []) fun t =>
      t.claims.map (·.reserve) == [some [free00]],
    after (.claimReservation 0 [free00]) (claims (quiet id) { pending with passed := 63 } []) fun t => t.claims.map (·.reserve) == [none]] = true := by
  decide +kernel
def granted : Claim := { pending with st := .granted }
def loading : Spur → Spur := fun sp => { sp with life := .loading, claim := some 0, asid := 0 }
theorem test_startBarrierOpen : all [after (.startBarrierOpen 0) (claims (quiet loading) granted []) fun t => t.claims == [] &&
      spurHas t fun sp => sp.life == .running && sp.asid == 1,
    after (.startBarrierOpen 0) (claims (quiet loading) pending []) fun t => spurHas t (·.life == .loading)] = true := by decide +kernel
def waved (now : Nat) : State := { quiet (fun sp => { sp with waves := ⟨upTo 65, 0, 1⟩ }) with now := now }
theorem test_launchWaveOpen : all [after (.launchWaveOpen placedHandle) (waved 2250) fun t => spurHas t (·.waves.opened == 2),
    after (.launchWaveOpen placedHandle) (waved 2249) fun t => spurHas t (·.waves.opened == 1)] = true := by decide +kernel
def spanned (st : ClaimSt) : State := claims (quiet loading) { pending with st := st, span := some (1, 7, []) } []
theorem test_spanFormation : all [after (.spanFormation 0 ⟨0, []⟩) (spanned .granted) fun t => t.claims.map (·.st) == [.formed],
    after (.spanFormation 0 ⟨6, []⟩) (spanned .granted) fun t => ends 10 6 t && t.spurs == [],
    after (.spanFormation 0 ⟨2, []⟩) (spanned .refused) (ends 10 3),
    after (.spanFormation 0 ⟨2, []⟩) (spanned .pending) (ends 10 2),
    after (.spanFormation 0 ⟨0, []⟩) (spanned .pending) fun t => t.claims.map (·.st) == [.pending],
    after (.spanFormation 0 ⟨2, []⟩) (spanned .sent) fun t => t.claims.map (·.st) == [.sent],
    after (.startBarrierOpen 0) (spanned .formed) fun t => spurHas t (·.life == .running)] = true := by decide +kernel

/-! ## Moves, ends, farms and quiescence -/

/-- Domain 1 is a child of domain 0 with no budget of its own; a claim of it waits, and the placed spur has yielded. -/
def contested (now : Nat) : State := { stowHome (quiet fun sp => { sp with life := .yielded })
    [(0x80008, 0x90101), (0x90108, 0x40)] with
  claims := [{ pending with dom := 1 }], nextClaim := 1, powered := 192, now := now }
theorem test_preEmption_ready : let s := contested 2250000; s.claims.all (fun c => s.scanned c && decide (s.quantumOf c.dom ≤ s.now - c.since) &&
    !s.grantable c && (s.preemptVictim c).any (fun v => v.handle == placedHandle && v.life == .yielded &&
      s.preemptible c v && decide (s.prio v.dom ≤ s.prio 0))) = true := by decide +kernel
theorem test_preEmption_early : after (.preEmption 0 placedHandle) (contested 2249999) (fun t => spurHas t (·.life == .yielded)) = true := by
  decide +kernel
/-- What a stow asks holds: units for the record, and pages for it (the record of a spur of no bricks, 4 KiB). -/
theorem test_stowSpur_ready : let s := stowHome (quiet fun sp => { sp with img := { sp.img with hd := { sp.img.hd with wd := 0 } } }) []
    s.spurs.all (fun v => (s.stowRun v).any fun r => (devPut s ⟨v.massif, v.dom, v.asid⟩ r.1
      (wordsOf (stowSize v.img.hd / 8) (stowRecord v 2 (stowSize v.img.hd) s.tick))).2.isNone) = true := by decide +kernel
def away : State := { stowHome (quiet fun sp => { sp with life := .stowed, stowAt := some (0x1000000, 24) }) [] with
  claims := [{ pending with kind := .resume placedHandle }], nextClaim := 1, powered := 192 }
theorem test_resumption_ready : away.claims.all (fun c => away.scanned c && away.isNext c && away.fitsNow c &&
    (layClaim away c [free00]).isSome) = true := by decide +kernel
theorem test_resumption_no_room : after (.resumption 0 [free00]) { away with mem := (stowHome State.reset [(0x90038, 0)]).mem }
    (fun t => spurHas t (·.life == .stowed) && t.claims.length == 1) = true := by decide +kernel

def ending (f : Spur → Spur) : State := home (quiet fun sp => f { sp with final := true, result := 9, target := .queue 0 1 }) []
def endsWith (v : W64) (st : Nat) (t : State) : Bool := t.spurs == [] && t.recq == [⟨0, 1, record16 v placedHandle 0 1 st⟩]
theorem test_spurEnd : all [after (.spurEnd placedHandle) (ending id) (endsWith 9 0),
    after (.spurEnd placedHandle) (ending fun sp => { sp with life := .stopped }) (endsWith 0 2),
    after (.spurEnd placedHandle) (ending fun sp => { sp with life := .stowed }) (endsWith 0 2),
    after (.spurEnd placedHandle) (ending fun sp => { sp with final := false }) fun t => t.spurs.length == 1,
    after (.spurEnd placedHandle) (ending fun sp => bars ⟨.armed, 0x80000002, 0, 0⟩ sp) fun t => t.spurs.length == 1] = true := by decide +kernel
def comp (n : Nest) (m : Member) : Comp where
  handle := 0x80000006
  dom := 0
  entry := 5
  nest := n
  imgs := [placedImage 0, placedImage 0]
  hq := none
  target := .none
  members := [m]
  second := false
  arg := 0
  base := 0
  parent := none
  sysMade := true
  inFrom := []
  outFrom := []
  areas := []
  area := none
  claim := none
  waves := none
def sequence : Nest := .seq 5 none (.leaf 1 0 true) (.leaf 1 0 true)
def composed (n : Nest) (m : Member) : State := { home State.reset [] with comps := [comp n m] }
def ended (v : W64) : Member := ⟨0x80000007, true, 0, v⟩
theorem test_members_wait : all [after (.sequenceSecondPlace 0x80000006) (composed sequence { ended 0 with ended := false }) fun t => t.spurs == [],
    after (.sequenceSecondPlace 0x80000006) (composed sequence { ended 0 with status := 2 }) fun t => t.spurs == [],
    after (.loopBodyRestart 0x80000006) (composed (.loop 5 none 3 (.leaf 1 0 true)) (ended 8)) fun t => t.spurs == []] = true := by decide +kernel
/-- R335: a sequence whose first member has returned, and a loop whose bit is 0, have an area for the next member. -/
theorem test_members_ready : [sequence, .loop 5 none 3 (.leaf 1 0 true)].all (fun n => let s := { composed n (ended 0) with
      comps := [{ comp n (ended 0) with areas := [⟨⟨0, 0, 0⟩, none, (placedImage 0).rect, false⟩] }] }
    s.comps.all fun c => (s.dom? c.dom).isSome && c.members.all (·.ended) && !c.second && (guestRuns s c.dom c.areas).isSome) = true := by
  decide +kernel

def farm (pol : BitVec 2) : Comp := comp (.farm 5 none pol 0 2 (.leaf 1 0 true)) (ended 0)
def into (f : Flit) (pol : BitVec 2) : State := { twoSpurs (quiet id) with
  comps := [farm pol]
  wires := [⟨.spur 0x80000002 9, .farm 0x80000006 0x20, [f]⟩, ⟨.farm 0x80000006 0x20, .spur placedHandle 0x20, []⟩,
    ⟨.farm 0x80000006 0x20, .spur 0x80000002 0x20, []⟩] }
def flits (t : State) : List Nat := t.wires.map (·.buf.length)
def tagged (k : BitVec 2) (p : W32) : Flit := .tok ⟨false, k, p⟩
theorem test_farmDistribution : all [after (.farmDistribution 0x80000006 false 0x20 0) (into tok5 0) fun t => flits t == [0, 1, 0],
    after (.farmDistribution 0x80000006 false 0x20 1) (into tok5 0) fun t => flits t == [1, 0, 0],
    after (.farmDistribution 0x80000006 false 0x20 1) (into (tagged 3 5) 1) fun t => flits t == [0, 0, 1],
    after (.farmDistribution 0x80000006 false 0x20 1) (into (tagged 0 5) 2) fun t => flits t == [0, 0, 1],
    after (.farmDistribution 0x80000006 false 0x20 0) (into (stopTok 0) 0) fun t => flits t == [0, 1, 0] &&
      t.comps.all fun c => (farmPos c.inFrom 0x20).1 == 1,
    after (.farmDistribution 0x80000006 false 0x20 1) (into (stopTok 1) 0) fun t => flits t == [1, 0, 1]] = true := by decide +kernel
def outof (a b : List Flit) : State := { twoSpurs (quiet id) with
  comps := [farm 0]
  wires := [⟨.spur placedHandle 9, .farm 0x80000006 0x20, a⟩, ⟨.spur 0x80000002 9, .farm 0x80000006 0x20, b⟩,
    ⟨.farm 0x80000006 0x20, .spur 0x80000002 0x20, []⟩] }
theorem test_farmCollection : all [after (.farmDistribution 0x80000006 true 0x20 0) (outof [tok5] [tok5]) fun t => flits t == [0, 1, 1],
    after (.farmDistribution 0x80000006 true 0x20 1) (outof [tok5] [tok5]) fun t => flits t == [1, 1, 0]] = true := by decide +kernel

def still (now : Nat) : State := { quiet (cx fun k => { k with sv := 0 }) with now := now }
/-- A party of package 3 sends on port 9 of the placed spur over its saddle port 7 (R394). -/
def far3 : Remote := ⟨3, 7, placedHandle, 9⟩
def saddled : State := { State.reset with wires := [⟨.saddle 3 7, .spur placedHandle 9, []⟩] }
theorem test_inactivity : all [after (.inactivityWindowExpiry placedHandle) (still 4096) fun t => spurHas t (·.inactive),
    after (.inactivityWindowExpiry placedHandle) (still 4095) fun t => spurHas t (!·.inactive),
    after (.inactivityReport far3 true) saddled fun t => t.farIdle == [far3],
    after (.inactivityReport far3 true) State.reset fun t => t.farIdle == [],
    after (.inactivityReport far3 false) { saddled with farIdle := [⟨4, 7, 5, 6⟩, far3] } fun t => t.farIdle == [⟨4, 7, 5, 6⟩]] =
      true := by decide +kernel
/-- Slot 0 waits for a token at queue 0, which nothing sends, and the thread has returned. -/
def starved (inactive : Bool) : State := quiet fun sp => { th (fun k => { k with retd := true }) (cx (fun k => { k with
  slots := k.slots.set 0 ((encode (.add (.b gI) (.d 1) (.iDeq 0) (.d 2))).getD 0) }) sp) with inactive := inactive }
def starvedAt (inactive : Bool) (now : Nat) : State := { starved inactive with now := now }
theorem test_deadlock : all [after .deadlockDeclaration (starvedAt true 4096) fun t => spurHas t fun sp => sp.dead.any fun c => c.cls == 13 && c.slot == 0,
    after .deadlockDeclaration (starvedAt false 4096) fun t => spurHas t (·.dead.isNone),
    after .deadlockDeclaration (starvedAt true 4095) fun t => spurHas t (·.dead.isNone)] = true := by decide +kernel
/-- A spur whose launch has waves still to open, or whose mark will give a flit out, is in no quiescent set (R357, R422, log 18). -/
theorem test_deadlockNot : all [
    after .deadlockDeclaration ((starvedAt true 4096).modSpur placedHandle fun sp => { sp with waves := ⟨upTo 65, 0, 1⟩ })
      fun t => spurHas t (·.dead.isNone),
    after .deadlockDeclaration ((starvedAt true 4096).modSpur placedHandle fun sp =>
      sp.modLive fun b => { b with edge := [⟨0, 9, .seam⟩] }) fun t => spurHas t (·.dead.isNone)] = true := by decide +kernel

/-! ## Queues, registers, handlers, errors and health -/

/-- The package has booted; queue 2, and queue 3 beside it, hold one packet that launches entry 1. -/
def queues : State := { home State.reset (callable1 ++ [(0x70000, 0x1000000000000001), (0x70008, 77), (0xC00C0, 0x8004000000030000),
    (0xC00C8, 0x71000), (0x60020, 0x61000), (0x60028, 0x50102), (0x60030, 0)]) with
  boot := .booted
  ctl := { (home State.reset []).ctl with notify := [⟨2, 1, false⟩] }
  resident := [⟨2, 0⟩] }
def booted : State := { home State.reset [] with boot := .booted }
theorem test_notifyWrite : all [after (.notifyWrite 2 16) booted fun t => (t.ctl.notify? 2).tail == 16 && t.resident == [⟨2, 0⟩] &&
      !(t.qDesc 2).df,
    after (.notifyWrite 2 17) booted fun t => (t.qDesc 2).df && t.resident == [],
    after (.notifyWrite 2 16) (home State.reset []) fun t => (t.ctl.notify? 2).wake && t.resident == [],
    after (.notifyWrite 3 1) booted fun t => t.ctl.notify == []] = true := by decide +kernel
theorem test_packetFetch : after (.packetFetch 2) queues (fun t => (t.qDesc 2).head == 1 &&
    t.fetched == [⟨2, [0x1000000000000001, 77, 0, 0, 0, 0, 0, 0]⟩]) = true := by decide +kernel
theorem test_packetPresent : after (.packetPresent 2) { queues with fetched := [⟨2, [0x1000000000000001, 77, 0, 0, 0, 0, 0, 0]⟩] } (fun t =>
    t.claims.map (fun c => (c.st, c.entry, c.arg, c.queue, c.target)) == [(.sent, 1, 77, some 2, .notice 0 2)] && t.fetched == [] &&
      t.presented == [(2, 0)] && readNat t.mem 0x50020 4 == 1) = true := by decide +kernel
theorem test_residentQueueChange : all [after (.residentQueueChange 2 3) { queues with
      ctl := { queues.ctl with notify := [⟨2, 1, false⟩, ⟨3, 1, false⟩] }
      presented := [(2, 0)] } fun t => t.resident == [⟨3, 0⟩],
    after (.residentQueueChange 2 3) { queues with ctl := { queues.ctl with notify := [⟨2, 1, false⟩, ⟨3, 1, false⟩] } } fun t =>
      t.resident == [⟨2, 0⟩]] = true := by decide +kernel
theorem test_teardown : all [after (.pasidTeardown 0x80000003) State.reset fun t => t.ctl.ptd == 0x80000003 && t.teardown == some ⟨3, []⟩,
    after (.pasidTeardown 0x80000004) { State.reset with ctl := { Ctl.reset with ptd := 0x80000003 } } fun t => t.ctl.ptd == 0x80000003,
    after .teardownComplete { home State.reset [] with teardown := some ⟨3, [(2, 1)]⟩ } fun t => t.teardown == some ⟨3, []⟩,
    after .teardownComplete { home State.reset [] with teardown := some ⟨3, []⟩ } fun t => t.teardown == none && t.ctl.ptd == 0 &&
      readNat t.mem 0x800018 8 == 1] = true := by decide +kernel
def due1 (l : List (Nat × W64)) : State := { home State.reset ([(0x60020, 0x61000), (0x60028, 0x50102), (0x60030, 0x700000005)] ++ l) with
  recq := [⟨0, 1, record16 9 7 0 1 0⟩] }
theorem test_domainQueue : all [after (.domainQueueRecordWrite 0 1) (due1 []) fun t => t.recq == [] && readNat t.mem 0x61030 8 == 9 &&
      readNat t.mem 0x60030 8 == 0x800000005 && t.signals == [.summit 5],
    after (.domainQueueRecordWrite 0 1) (due1 [(0x60030, 0x900000005)]) fun t => t.recq.length == 1] = true := by decide +kernel
theorem test_gating : all [after .gatingSequence State.reset (·.gated), after .gatingSequence queues (!·.gated)] = true := by decide +kernel
theorem test_registerWrite : all [after (.registerWrite .keystone (ctlBase + 0x10008) 0xFFF00000000FFFFF) State.reset fun t => t.ctl.ddb == 0x80000,
    after (.registerWrite (.host 0) (ctlBase + 0x10008) 0x80000) State.reset fun t => t.ctl.ddb == 0,
    after (.registerWrite .keystone (ctlBase + 0x10008) 0x80000) (quiet id) fun t => t.ctl.ddb == 0] = true := by decide +kernel

def stopped : State := quiet fun sp => { moved1 sp with life := .stopped, sStop := true, sFault := some (cause 3) }
def acted (act res : Nat) (p : Spur → Bool) (t : State) : Bool := spurHas t p &&
  t.ctl.fax == BitVec.ofNat 64 (0x80000001 * 2 ^ 32 + act * 2 ^ 28 + res)
theorem test_faultActions : all [after (.faultActionResume .keystone placedHandle) stopped (acted 1 0 fun sp => sp.life == .running && sp.live.held == [] &&
      sp.live.th.pc == 0x200040),
    after (.faultActionSkip .keystone placedHandle) stopped (acted 2 0 fun sp => sp.live.th.pc == 0x200048),
    after (.faultActionSkip .keystone placedHandle) { stopped with spurs := stopped.spurs.map fun sp => { sp with sStop := false } }
      (acted 2 3 fun sp => sp.life == .stopped),
    after (.faultActionRetire .keystone placedHandle) stopped (acted 3 0 fun sp => sp.final && sp.life == .stopped),
    after (.faultActionBreaksOff .keystone placedHandle) { stopped with spurs := stopped.spurs.map (cst 0x1000) } (acted 4 0 fun sp =>
      sp.life == .running && sp.live.ctxs.all fun k => !k.cst.getLsbD 12),
    after (.faultActionNodeOff .summit placedHandle) { stopped with spurs := stopped.spurs.map (cx fun k => { k with nodes := [⟨0, 5, []⟩] }),
                                                                    ctl := { Ctl.reset with faa := 5 } }
      (acted 5 0 fun sp => sp.live.ctxs.all fun k => k.off == 1),
    after (.faultActionResume .keystone placedHandle) (quiet id) (acted 1 1 fun sp => sp.life == .running),
    after (.faultActionResume .keystone 0x80000009) (quiet id) fun t => t.ctl.fax == 0x8000000910000002] = true := by decide +kernel
theorem test_uncorrectable : all [after (.uncorrectableError (.read (.thread placedHandle) none 2 0x40)) (quiet id) fun t => spurHas t fun sp => sp.retry && sp.causes == [],
    after (.uncorrectableError (.read (.thread placedHandle) none 2 0x40)) (quiet fun sp => { sp with retried := [2 * 2 ^ 64 + 0x40] }) fun t =>
      spurHas t fun sp => sp.causes.map (·.cls) == [11],
    after (.uncorrectableError (.read (.thread placedHandle) none 2 0x40)) (quiet fun sp => { sp with retried := [1, 2, 3, 4], tries := 4 }) fun t =>
      spurHas t fun sp => sp.causes.map (·.detail) == [0x40],
    after (.uncorrectableError (.spurState placedHandle true)) (quiet id) fun t => spurHas t (·.retry),
    after (.uncorrectableError (.spurState placedHandle false)) (quiet id) fun t => spurHas t fun sp => sp.causes.map (·.cls) == [11],
    after (.uncorrectableError (.heldWrite placedHandle)) (quiet id) fun t => spurHas t (·.retry),
    after (.uncorrectableError (.engineRead 0 0x40)) (jobs id (job .hod hodCard) []) fun t => jobIs t fun j => j.code == 9 && j.value == 0x40,
    after .correctedError State.reset (·.corrected == 1), after (.scrub [.mem 0x40, .sram 1 8]) State.reset fun t => t.klog.length == 2 && t.badWords == [0x40],
    after .lintelReload { State.reset with gated := true } (!·.gated)] = true := by decide +kernel
def farWire : Wire := ⟨.spur 0x80000002 9, .spur placedHandle 0x20, []⟩
def linked : State := { twoSpurs (quiet fun sp => { ported sp with site := ⟨1, 0, 0⟩ }) with wires := [farWire] }
theorem test_link : linked.linksOf farWire = [(Config.colLink 0 1, Config.linkChannel 0x80000002 9)] := by rfl
theorem test_fatalStop : all [after (.fatalStop 2) State.reset fun t => t.stopped && t.ctl.fds == 0x20000 && t.signals == [],
    after (.fatalStop 7) State.reset (!·.stopped),
    after .keystoneWatchdogExpiry State.reset fun t => t.stopped && t.ctl.fds == 0x30000,
    after .thermalEmergency { State.reset with ctl := { Ctl.reset with fdb := 0x100000, fdl := 0x100000, fds := 0x500000000 } } fun t =>
      t.stopped && t.signals == [.dump 4]] = true := by decide +kernel

theorem test_power : all [after .ridgePowerOn State.reset (·.powered == 1), after .ridgePowerOn { State.reset with powered := 1, now := 4499 } (·.powered == 1),
    after .ridgePowerOn { State.reset with powered := 1, now := 4500 } (·.powered == 2),
    after (.throttleAdjust 2601 50) State.reset (·.ctl.pws == 0x13200000A29), after (.throttleAdjust 100 95) State.reset (·.ctl.pws == 0x15F00000064),
    after (.throttleAdjust 2550 90) { State.reset with ctl := { Ctl.reset with pws := 0x30000000000 } } (·.ctl.pws == 0x25A000009F6),
    after (.throttleAdjust 2551 90) { State.reset with ctl := { Ctl.reset with pws := 0x30000000000 } } (·.ctl.pws == 0x35A000009F7),
    after (.ageingUpdate 5 999 7 3) State.reset fun t => nth t.ctl.agm 5 0 == 0x000003E700070301] = true := by decide +kernel
theorem test_secureBoot_starts : State.reset.boot = .off := by rfl
theorem test_resets : all [after .warmReset { words (quiet id) [(0x300000, 5)] with flash := [9], ctl := { Ctl.reset with fds := 0x500000003 } } fun t =>
      t.spurs == [] && t.resets == 1 && t.flash == [9] && readByte t.mem 0x300000 == 5 && t.ctl.fds == 0x500000000,
    after .powerLoss { words (quiet id) [(0x300000, 5)] with flash := [9] } fun t => t.mem == [] && t.flash == [9],
    after (.attestationRequest 5) { State.reset with resets := 3 } fun t => t.reports.map (fun r => (r.nonce, r.resets)) == [(5, 3)]] = true := by
  decide +kernel
def hostWrite : Spur → Spur := fun sp => sp.modLive fun b => { b with held := [⟨.ctx here, .store, 1, 0, none, hostBase + 0x1000, [1], false⟩] }
theorem test_ats : all [after (.atsInvalidation 0x1000 0x1000) (quiet hostWrite) fun t => spurHas t (·.stale) && t.signals == [],
    after (.atsInvalidation 0x1000 0x1000) (quiet (cx fun k => { k with load := some ⟨1, 0, 0, .d 1, some ⟨0x5000, hostBase + 0x1000, 4⟩⟩ }))
      fun t => spurHas t (!·.stale) && t.signals == [],
    after (.atsInvalidation 0x2000 0x1000) (quiet hostWrite) fun t => spurHas t (!·.stale) && t.signals == [.ats 0x2000 0x1000]] = true := by
  decide +kernel

/-! ## Steps -/

def steps (s : State) (p : State → Bool) : Bool := match step s with | .next t => p t | _ => false
def placed (i : Instr) : State := State.reset.withFetchWord 64 ((encode i).getD 0).toNat
theorem test_step_thread : steps (placed (.addi (.s sN) (.g 3) (.g 1) 5)) (fun t => threadHas t fun k => k.reg 3 == 0x80000006 && k.pc == 0x200008) = true := by
  decide +kernel
theorem test_step_brick : steps (placed (.clz (.b { gN with pm := 2 }) (.d 3) (.d 2))) (fun t => ctxHas t fun k => k.reg 0 3 == 32 && k.bfc == 1) = true := by decide +kernel
theorem test_step_undefined : steps (State.reset.withFetchWord 64 0x2E000000) (fun t => spurHas t fun sp =>
    sp.life == .stopped && sp.sFault.any fun c => c.cls == 1) = true := by decide +kernel
theorem test_step_event : steps { State.reset with agenda := [.event .ridgePowerOn 5] } (fun t => t.powered == 1 && t.now == 5 && t.agenda == []) = true := by
  decide +kernel
theorem test_step_stopped : all [steps { State.reset with stopped := true, agenda := [.event .ridgePowerOn 0] } (·.powered == 0),
    steps { placed (.clz (.b { gN with pm := 2 }) (.d 3) (.d 2)) with stopped := true } fun t => ctxHas t fun k => k.bfc == 0,
    steps { placed (.addi (.s sN) (.g 3) (.g 1) 5) with stopped := true } fun t => threadHas t fun k => k.pc == 0x200000] = true := by
  decide +kernel
theorem test_step_memory : Memory.wf State.reset.mem = true ∧ (steps { State.reset with agenda := [.outside 0x40 [5, 0]] } fun t =>
    t.mem == [(0x40, 5)] && Memory.wf t.mem) = true := by decide +kernel

/-! ## What a commit does, sharers, folds and control space -/

def ringed (n : W64) (t : W64) (s : State) : State := { s with ctl := { s.ctl with traces := s.ctl.traces.set 0 ⟨0x700000, n, 0, t⟩ } }
def holdsAll : Spur → Spur := fun sp => sp.modLive fun b => { b with
  invs := [.inv true 0 0 4096], cmds := [(1, hodCmd)], trace := [(here, List.replicate 64 1)] }
/-- R397: the premises of the commit's statement, with invalidations, commands and trace records held. -/
theorem test_commit_holds : all [after (.roundMark placedHandle) (ringed 4 3 (bare (holdsAll ∘ moved1))) (marked
      (fun sp => sp.rnd == 1 && sp.live.invs == [] && sp.live.cmds == [] && sp.live.trace == [])
      (fun t => t.posted.map (·.kind) == [.inv true 0 0 4096] && t.cmdq == [(.hod 0 1, hodCmd)] &&
        readNat t.mem 0x400000 1 == 1 && readNat t.mem 0x7000C0 8 == 0x0101010101010101 && (nth t.ctl.traces 0 ⟨0, 0, 0, 0⟩).trt == 4)),
    (bare (holdsAll ∘ moved1)).spurs.all fun sp => (bare (holdsAll ∘ moved1)).markDue sp && sp.move == none && sp.live.reqs == [] &&
      !(sp.live.withdraw.settle.busFaults.foldl Spur.addCause sp).voids && sp.live.held.all fun w => !isCtlSpace w.pa] = true := by
  decide +kernel
def oneSpur (s : State) (p : State → Spur → Bool) : Bool := match s.spurs with | [sp] => p s sp | _ => false
/-- R79, R412: a full ring drops a record and counts it, a thread's apart. -/
theorem test_trace_full : oneSpur (ringed 1 2 (quiet id)) (fun s sp =>
    spurHas (writeTrace sp s (here, List.replicate 64 1)) (fun y => y.live.ctxs.all (·.mdc == 1) && y.live.th.mdc == 0) &&
    spurHas (writeTrace sp s (here, List.replicate 64 0xFF)) fun y => y.live.ctxs.all (·.mdc == 0) && y.live.th.mdc == 1) = true := by
  decide +kernel
def logged (f : Spur → Spur) : State := { words (quiet f) [] with seqs := State.reset.seqs.set 0 ⟨0x300000, 1, 4096⟩, now := 50 }
def phase0 : Phase := ⟨0, 0, 10, some 30, none, none, none, 7⟩
/-- R112: a token that loops back ends the fill of a phase. -/
theorem test_loopback_fill : after (.loopbackDelivery here 2) (quiet fun sp => { bound 0xC0004000 2 [out5] sp with phases := [{ phase0 with filled := none }] })
  (fun t => spurHas t fun sp => sp.phases.map (·.filled) == [some 0]) = true := by decide +kernel
/-- R113, R114: a phase record goes to the log; without a mapping it is dropped and LD set. -/
theorem test_writePhase : all [readNat (writePhase (logged id) placedHandle phase0 true).mem 0x300028 8 == 20 * 2 ^ 32 + 20,
    (nth (writePhase (logged id) placedHandle phase0 true).seqs 0 ⟨0, 0, 0⟩).phi == 2,
    spurHas (writePhase (logged fun sp => { sp with asid := 9 }) placedHandle phase0 true) fun sp => sp.live.th.sst.getLsbD 18,
    (nth (writePhase (logged fun sp => { sp with asid := 9 }) placedHandle phase0 true).seqs 0 ⟨0, 0, 0⟩).phi == 1] = true := by decide +kernel
/-- R104, R278, R344, R347: a step, a posting, and the requests of a round. -/
theorem test_commitParts : oneSpur (words (quiet fun sp => { moved1 sp with life := .yielded }) []) (fun s sp =>
    (stepSection sp sp.live ⟨0, 0⟩).any (fun b => b.bricks.all (·.active == 0)) &&
    (stepSection sp { sp.live with ctxs := sp.live.ctxs.map fun k => { k with conf := false } } ⟨0, 0⟩).isNone &&
    (postInv 9 s (.inv true 0 0 (2 ^ 57))).spurs.all (·.stale) && (postInv 9 s (.migr 1 0 0 4096)).posted.all (fun p => p.isOver && p.gone) &&
    (postInv 9 s (.migr 1 0 0 0x8000000000)).posted.map (fun p => (p.kind, p.isOver)) == [(.migr 1 0 0 0x8000000000 0xFF 0x101000, false)] &&
    spurHas (sendReq sp s (.resume placedHandle 5)) (fun y => y.life == .running && nth y.live.th.g 2 0 == 5) &&
    spurHas (sendReq sp s (.vcbind placedHandle 0 0 4 0x80000000)) (fun y => y.live.bricks.all (·.staged == [(4, 0x80000000)])) &&
    spurHas (sendReq sp s (.cwr here 0x102 5)) (fun y => y.live.ctxs.all (·.stagedCst == [(0x102, 5)])) &&
    (sendReq sp { s with claims := [{ claim with st := .held }] } (.launch 0x80000005)).claims.map (·.st) == [.sent]) = true := by
  decide +kernel
def outWire : Wire := ⟨.spur placedHandle 0x21, .spur 0x80000002 0x20, []⟩
theorem test_releaseFlit : oneSpur { quiet ported with wires := [outWire] } (fun s sp =>
    all [(releaseFlit sp s ⟨0, 0x21, tok5⟩).wires == [outWire],
      (releaseFlit sp { s with wires := [{ outWire with dst := .spur placedHandle 0x20 }] } ⟨0, 0x21, tok5⟩).wires.map (·.buf) == [[tok5]],
      (releaseFlit sp { s with wires := [{ outWire with dst := .saddle 1 0x20 }, { outWire with dst := .saddle 2 0x20 }] } ⟨0, 0x21, tok5⟩).wires.map
        (·.buf) == [[tok5], [tok5]]]) = true := by
  decide +kernel

/-- R330: two sharers, and the turn is the first one's. -/
def shared (f : Spur → Spur) : State := { twoSpurs (due f) with groups := [⟨[placedHandle, 0x80000002], 0⟩] }
theorem test_sharers : all [after (.roundMark placedHandle) (shared id) fun t => t.groups == [⟨[placedHandle, 0x80000002], 1⟩] &&
      (t.spur? 0x80000002).any (·.roundAt == 256),
    after (.roundMark placedHandle) (shared fun sp => { sp with stale := true }) fun t => t.groups == [⟨[placedHandle, 0x80000002], 1⟩],
    after (.roundMark 0x80000002) (shared id) fun t => t.groups == [⟨[placedHandle, 0x80000002], 0⟩]] = true := by decide +kernel
/-- A fold is asked for in the round. -/
def asks : Spur → Spur := fun sp => sp.modLive fun b => { b with reqs := [.fold none] }
/-- R351: a fold onto the other spur of the domain; the stow region holds the bank of one brick, and no record. -/
def folds (len : W64) (f : Spur → Spur) : State :=
  let s := stowHome (due fun sp => f { sp with phases := [] }) [(0x90060, len)]
  { s with spurs := s.spurs ++ [{ placedSpur 0 1 0 with handle := 0x80000002, site := ⟨0, 0, 4⟩ }] }
theorem test_fold_moves : all [after (.roundMark placedHandle) (folds 0x10000 asks) fun t => spurHas t fun sp => sp.site == ⟨0, 0, 4⟩ &&
      sp.host == some 0x80000002 && sp.move == none && sp.foldAt == some (0x1000000, 16) && sp.rnd == 1,
    after (.roundMark placedHandle) { folds 0x10000 (fun sp => { sp with move := some (.fold none) }) with now := 0 } fun t => spurHas t fun sp => sp.site == ⟨0, 0, 4⟩ && sp.move == none && sp.rnd == 0,
    after (.roundMark placedHandle) (folds 0xF000 asks) fun t => spurHas t fun sp => sp.site == ⟨0, 0, 0⟩ && sp.host == none && sp.move == none] = true := by
  decide +kernel
/-- R275, R412, R419, R424, R440: registers beside the roots. -/
theorem test_controlSpace : all [after (.registerWrite .keystone (ctlBase + 0x20020) 0x7FFFFF) State.reset fun t =>
      (nth t.ctl.rings 1 ⟨0, 0, 0, 0⟩).frb == 0x7FF000,
    after (.registerWrite .summit (ctlBase + 0x30028) 0xFF) State.reset fun t => (nth t.ctl.traces 1 ⟨0, 0, 0, 0⟩).trn == 0x1F,
    after (.registerWrite .management (ctlBase + 0x40000) 400) State.reset (·.ctl.pwl == 400),
    after (.registerWrite .management (ctlBase + 0x40000) 399) State.reset (·.ctl.pwl == 2600),
    after (.registerWrite .keystone (ctlBase + 0x10030) 0x1FFFFF) State.reset (·.ctl.fdb == 0x100000),
    after (.registerWrite .keystone (ctlBase + 0x10040) 5) State.reset (·.ctl.fds == 0)] = true := by decide +kernel
/-- R100, R101: a pattern that reads memory, and one whose page is not mapped. -/
def memPat : Pattern := { pat 1 with space := 0 }
theorem test_pattern_memory : all [after (.streamPatternDelivery here .sa) (words (quiet (boarded ⟨[], some memPat, []⟩)) [(0x40, 0x900000000)]) fun t =>
      ctxHas t fun k => (nth k.board 0 Board.idle).active == some { memPat with moved := 2, buf := [9] },
    after (.streamPatternDelivery here .sa) (quiet (boarded ⟨[], some memPat, []⟩)) fun t => spurHas t fun sp =>
      sp.causes.map (fun c => (c.cls, c.slot)) == [(7, 0xFF)]] = true := by decide +kernel
/-- R235: `amofadd` gives its kept result again. R218: a region of no words. -/
theorem test_again_and_region : all [after (.amofadd (.b gN) .rlx .system 0 1 2 3) (words (fire ((fun sp =>
      { sp with atoms := [⟨.ctx here, 0, 0, 9, none⟩] }) ∘ win 0x300000 0 ∘ dRegs 0 0x3F800000)) [(0x300000, 0x40000000)])
      (fun t => d1Is t 9 && readNat t.mem 0x300000 4 == 0x40000000),
    after (.spdrain (gO 0) 9 (.o 0)) (fire (region 0x100 5 8)) fun t => spurHas t fun sp => sp.causes.map (·.cls) == [2]] = true := by
  decide +kernel
theorem test_cwr_others : all [after (cwr 5) (issue (gRegs 7 0)) fun t => threadHas t (·.pc == 0x200008) && spurHas t (·.rnd == 0),
    after (cwr 6) (issue (gRegs 7 0)) fun t => threadHas t (·.pc == 0x200008) && t.now == 0,
    faults (cwr 3) (issue (gRegs 0 1)) 2 0x0300000000000001] = true := by decide +kernel
/-- R362: a running victim whose mark is due; after the mark it is still one that the claim may take. -/
def contestedRun : State := { contested 2250000 with spurs := (contested 2250000).spurs.map fun sp =>
  { sp with life := .running, img := { sp.img with hd := { sp.img.hd with stw := 1 } } } }
theorem test_preEmption_running : contestedRun.claims.all (fun c => contestedRun.scanned c && !contestedRun.grantable c &&
    decide (contestedRun.quantumOf c.dom ≤ contestedRun.now - c.since) && (contestedRun.preemptVictim c).any fun v =>
      v.handle == placedHandle && v.life == .running && contestedRun.runsNow v && contestedRun.markDue v && v.move == none &&
        ((roundMark contestedRun placedHandle none).spur? placedHandle).any fun w =>
          w.move == none && w.site == v.site && (roundMark contestedRun placedHandle none).preemptible c w) = true := by decide +kernel
/-- R411: what the device reads of a stow region that nothing has written, and the check of zeros, whose CRC is 0. -/
def tiny : State := stowHome (quiet fun sp => { sp with img := { sp.img with hd := { sp.img.hd with wd := 0 } } }) []
theorem test_stow_read : oneSpur tiny (fun s sp => match (devGet s ⟨sp.massif, sp.dom, sp.asid⟩ .read 0x1000000 8).2 with
    | .ok l => l == List.replicate 8 0
    | .error _ => false) = true := by decide +kernel
theorem test_stow_check : stowCheck (List.replicate 8 0) = true := by
  have z : crcByte 0 0 = 0 := by decide
  have h : ∀ n, crcBytes 0 (List.replicate n 0) = 0 := by
    intro n
    induction n with
    | zero => rfl
    | succ n ih =>
      show (List.replicate n (0 : Byte)).foldl crcByte (crcByte 0 0) = 0
      rw [z]
      exact ih
  have e : (bytesOf (List.replicate 8 (0 : W64))).take 24 ++ (bytesOf (List.replicate 8 (0 : W64))).drop 32 =
      List.replicate 56 0 := by decide
  unfold stowCheck
  simp only [e, h]
  decide

end Sys2Proof.Tests
end

section
/-! SUPPORT. What the device's own accesses leave alone: a translation, a page that the pager brings in, and a read or write of a
structure in memory may change memory, control registers, caches and queues of records, and no spur, composite, group, claim or
wire (R14, R271, R274, R309). -/

namespace Sys2Proof.Machine

open Sys2Proof

/-! ## Folds and replaced elements -/

/-- A fold keeps what each of its steps keeps. -/
theorem foldl_keeps {α β γ : Type} (g : β → γ) {f : β → α → β} (hf : ∀ b a, g (f b a) = g b) (l : List α) :
    ∀ b, g (l.foldl f b) = g b := by
  induction l with
  | nil => exact fun _ => rfl
  | cons a r ih => exact fun b => (ih (f b a)).trans (hf b a)

/-- A part of the elements that the replacement of one keeps. -/
theorem map_updFirst {α β : Type} (g : α → β) (p : α → Bool) {f : α → α} (hf : ∀ x, g (f x) = g x) :
    ∀ l : List α, (updFirst p f l).map g = l.map g
  | [] => rfl
  | x :: r => by
    by_cases h : p x = true
    · simp [updFirst, h, hf]
    · simp [updFirst, h, map_updFirst g p hf r]

/-! ## The fabric -/

/-- What stands on the fabric, waits for it, or joins it. -/
structure Fabric where
  spurs : List Spur
  comps : List Comp
  groups : List Group
  claims : List Claim
  wires : List Wire

/-- The fabric of a package. -/
def State.fabric (s : State) : Fabric := ⟨s.spurs, s.comps, s.groups, s.claims, s.wires⟩

theorem spurs_of_fabric {s t : State} (h : t.fabric = s.fabric) : t.spurs = s.spurs := congrArg Fabric.spurs h

theorem comps_of_fabric {s t : State} (h : t.fabric = s.fabric) : t.comps = s.comps := congrArg Fabric.comps h

/-! ## Control space and memory -/

@[simp] theorem setDefunct_fabric (s : State) (q : Nat) : (s.setDefunct q).fabric = s.fabric := by
  unfold State.setDefunct
  simp only
  split <;> rfl

@[simp] theorem writeNotify_fabric (s : State) (q : Nat) (v : W32) : (writeNotify s q v).fabric = s.fabric := by
  unfold writeNotify
  simp only
  split <;> rfl

/-- Control registers are no part of the fabric. -/
@[simp] theorem ctl_fabric (s : State) (c : Ctl) : ({ s with ctl := c } : State).fabric = s.fabric := rfl

/-- A teardown is no part of the fabric. -/
theorem teardown_fabric (s : State) (x : Option Teardown) : ({ s with teardown := x } : State).fabric = s.fabric := rfl

/-- A teardown that starts makes queues defunct, whose descriptors are in memory (R391). -/
@[simp] theorem writePtd_fabric (s : State) (v : W64) : (writePtd s v).fabric = s.fabric := by
  unfold writePtd
  split
  · rfl
  · simp only
    split
    · exact ctl_fabric ..
    · exact (teardown_fabric ..).trans ((foldl_keeps State.fabric setDefunct_fabric ..).trans (ctl_fabric ..))

/-- The fabric is no handler: it takes no action on a spur (R407). -/
@[simp] theorem writeFax_by_fabric (s : State) (v : W64) : writeFax s .fabric v = s := rfl

/-- A register written by the fabric. -/
@[simp] theorem ctlWrite_fabric (s : State) (o : Nat) (v : W64) : (ctlWrite s .fabric o v).fabric = s.fabric := by
  unfold ctlWrite
  split
  · rfl
  · simp only
    split <;> simp [isPriv, faxWriter]

@[simp] theorem ctlPut_fabric (n : Nat) : ∀ (pa : Nat) (l : List Byte) (s : State),
    (ctlPut .fabric n pa l s).fabric = s.fabric := by
  induction n with
  | zero => exact fun _ _ _ => rfl
  | succ n ih =>
    intro pa l s
    unfold ctlPut
    split
    · rfl
    · exact (ih ..).trans (ctlWrite_fabric ..)

@[simp] theorem physWrite_fabric (s : State) (pa : Nat) (l : List Byte) : (s.physWrite .fabric pa l).fabric = s.fabric := by
  unfold State.physWrite
  split
  · exact ctlPut_fabric ..
  · rfl

@[simp] theorem putNat_fabric (s : State) (pa n v : Nat) : (s.putNat pa n v).fabric = s.fabric := by
  unfold State.putNat
  split
  · exact physWrite_fabric ..
  · rfl

/-! ## Translations -/

@[simp] theorem fill_fabric (s : State) (c : CacheEnt) (va : Nat) : (s.fill c va).fabric = s.fabric := rfl

@[simp] theorem setAD_fabric (s : State) (c : CacheEnt) (va : Nat) (acc : AccK) : (setAD s c va acc).fabric = s.fabric := by
  unfold setAD
  cases acc
  all_goals
    simp only
    split
    · rfl
    · exact putNat_fabric ..

@[simp] theorem walkLeaf_fabric (s : State) (u : CacheUnit) (asid va level : Nat) (n : Need) (path : List CacheEnt)
    (f : Found) : (walkLeaf s u asid va level n path f).1.fabric = s.fabric := by
  unfold walkLeaf
  simp only
  split
  · rfl
  · split
    · rfl
    · exact (setAD_fabric ..).trans (foldl_keeps State.fabric (fun s c => fill_fabric s c va) _ _)

@[simp] theorem walkFrom_fabric (u : CacheUnit) (asid va : Nat) (n : Need) (level : Nat) : ∀ (table : Nat)
    (path : List CacheEnt) (s : State), (walkFrom u asid va n level table path s).1.fabric = s.fabric := by
  induction level with
  | zero =>
    intro table path s
    unfold walkFrom
    simp only
    split_ifs <;> simp
  | succ k ih =>
    intro table path s
    unfold walkFrom
    simp only
    split_ifs <;> simp [ih]

@[simp] theorem translateWalk_fabric (s : State) (u : CacheUnit) (asid va : Nat) (n : Need) :
    (translate.translateWalk s u asid va n).1.fabric = s.fabric := by
  unfold translate.translateWalk
  simp only
  split_ifs <;> simp

@[simp] theorem translate_fabric (s : State) (u : CacheUnit) (asid va : Nat) (n : Need) :
    (translate s u asid va n).1.fabric = s.fabric := by
  unfold translate
  split
  · rfl
  · simp only
    split
    · split
      · exact translateWalk_fabric ..
      · exact walkLeaf_fabric ..
    · exact translateWalk_fabric ..

/-! ## Records -/

@[simp] theorem postHandler_fabric (s : State) (q : Option (Nat × Nat)) (l : List Byte) :
    (s.postHandler q l).fabric = s.fabric := by
  cases q <;> rfl

@[simp] theorem notice_fabric (s : State) (d cause detail : Nat) (h : Handle) (l : List Byte) :
    (s.notice d cause detail h l).fabric = s.fabric := postHandler_fabric ..

/-! ## The pager within an access -/

@[simp] theorem skipped_fabric (s : State) (t : FaultTok) (level v : Nat) : (s.skipped t level v).fabric = s.fabric :=
  postHandler_fabric ..

@[simp] theorem takeFrame_fabric (t : FaultTok) (level n : Nat) : ∀ s : State,
    (takeFrame t level n s).1.fabric = s.fabric := by
  induction n with
  | zero => exact fun _ => rfl
  | succ n ih =>
    intro s
    unfold takeFrame
    simp only
    repeat' split
    · rfl
    · exact (ih _).trans (skipped_fabric ..)
    · rfl
    · exact (ih _).trans (skipped_fabric ..)

@[simp] theorem giveFrame_fabric (s : State) (t : FaultTok) (level f : Nat) : (s.giveFrame t level f).fabric = s.fabric := by
  unfold State.giveFrame
  simp only
  split
  · exact putNat_fabric ..
  · exact notice_fabric ..

@[simp] theorem pageIn_fabric (s : State) (t : FaultTok) : (pageIn s t).1.fabric = s.fabric := by
  unfold pageIn
  simp only
  split
  · rfl
  · split
    · rfl
    · split
      · rfl
      · have hf := takeFrame_fabric t t.ask.level 65536 s
        split
        next u h => exact (congrArg (fun x => x.1.fabric) h).symm.trans hf
        next u frame h =>
          rw [h] at hf
          split
          · exact (giveFrame_fabric ..).trans ((putNat_fabric ..).trans hf)
          · exact (putNat_fabric ..).trans hf

@[simp] theorem serve_fabric (s : State) (t : FaultTok) : (s.serve t).fabric = s.fabric := by
  have hp := pageIn_fabric s t
  unfold State.serve
  split
  all_goals
    next h => rw [h] at hp; exact hp

@[simp] theorem serveAll_fabric (s : State) : s.serveAll.fabric = s.fabric := foldl_keeps State.fabric serve_fabric _ _

/-! ## Words of the device -/

@[simp] theorem devTrans_fabric (s : State) (d : DevAt) (va : Nat) (acc : AccK) : (devTrans s d va acc).1.fabric = s.fabric := by
  have ht : (translate (s.holdFor d.asid va) d.unit d.asid va ⟨acc, false, none⟩).1.fabric = s.fabric := translate_fabric ..
  unfold devTrans
  split
  next u pa _ h => rw [h] at ht; exact ht
  next u f h =>
    rw [h] at ht
    split
    · exact ht
    · have hp := (pageIn_fabric u.serveAll ⟨.device d.dom, ⟨d.asid, va, acc.code, f.level, f.addr⟩, d.massif, none⟩).trans
        ((serveAll_fabric u).trans ht)
      split
      next w _ _ h => rw [h] at hp; exact hp
      next w h =>
        rw [h] at hp
        have hw := (translate_fabric w d.unit d.asid va ⟨acc, false, none⟩).trans hp
        split
        all_goals
          next h => rw [h] at hw; exact hw

@[simp] theorem devWords_fabric (d : DevAt) (acc : AccK) (n : Nat) : ∀ (va : Nat) (s : State),
    (devWords d acc n va s).1.fabric = s.fabric := by
  induction n with
  | zero => exact fun _ _ => rfl
  | succ n ih =>
    intro va s
    have ht := devTrans_fabric s d va acc
    unfold devWords
    split
    next h => rw [h] at ht; exact ht
    next u pa h =>
      rw [h] at ht
      split
      · exact ht
      · have hw := (ih (va + 8) u).trans ht
        split
        all_goals
          next h => rw [h] at hw; exact hw

@[simp] theorem devPut_fabric (s : State) (d : DevAt) (va : Nat) (ws : List W64) : (devPut s d va ws).1.fabric = s.fabric := by
  have hw := devWords_fabric d .write ws.length va s
  unfold devPut
  split
  next h => rw [h] at hw; exact hw
  next h =>
    rw [h] at hw
    exact (foldl_keeps State.fabric (fun _ _ => putNat_fabric ..) _ _).trans hw

/-! ## Tables -/

/-- What rounds have done to tables is no part of the fabric. -/
theorem taken_fabric (s : State) (l : List TabEnt) : ({ s with taken := l } : State).fabric = s.fabric := rfl

@[simp] theorem addUse_fabric (s : State) (massif d id n : Nat) : (addUse s massif d id n).fabric = s.fabric := by
  unfold addUse
  split
  · rfl
  next y _ =>
    have ht := devTrans_fabric s ⟨massif, d, y.asid⟩ (y.ctb + 32 * id) .write
    split
    next h =>
      rw [h] at ht
      exact ht
    next h =>
      rw [h] at ht
      exact (putNat_fabric ..).trans ht

@[simp] theorem decUse_fabric (s : State) (massif d id : Nat) : (decUse s massif d id).fabric = s.fabric := by
  unfold decUse
  split
  · rfl
  · exact addUse_fabric ..

@[simp] theorem dropMembers_fabric (s : State) (massif d : Nat) (l : List Nat) :
    (dropMembers s massif d l).fabric = s.fabric := foldl_keeps State.fabric (fun s id => decUse_fabric s massif d id) _ _

@[simp] theorem dropTaken_fabric (s : State) (massif d : Nat) (h : Handle) : (dropTaken s massif d h).fabric = s.fabric := by
  unfold dropTaken
  simp only
  refine (taken_fabric ..).trans (foldl_keeps State.fabric (fun s e => ?_) ..)
  rw [dropMembers_fabric, devPut_fabric]
  exact taken_fabric ..

end Sys2Proof.Machine
end

section
/-! SUPPORT. Ends and members placed again (R24, R334, R335, R346): what a spur that ends leaves, and the events' cases. -/

namespace Sys2Proof.Machine

open Sys2Proof

/-! ## The handles that stand -/

/-- The handles of the spurs that stand. -/
def State.handles (s : State) : List Handle := s.spurs.map (·.handle)

theorem handles_of_fabric {s t : State} (h : t.fabric = s.fabric) : t.handles = s.handles :=
  congrArg (·.map (·.handle)) (spurs_of_fabric h)

/-- No spur has a handle that does not stand. -/
theorem spur?_eq_none {s : State} {h : Handle} (hn : h ∉ s.handles) : s.spur? h = none := by
  simpa [State.spur?, State.handles] using hn

/-- A spur that is found has the handle it was asked for. -/
theorem handle_of_spur? {s : State} {h : Handle} {sp : Spur} (hs : s.spur? h = some sp) : sp.handle = h := by
  simpa using List.find?_some hs

@[simp] theorem notOut_handles (s : State) (h : Handle) : (s.notOut h).handles = s.handles := by
  simp [State.notOut, State.handles]

/-- A part of the spurs that a change of one keeps. -/
theorem modSpur_map {α : Type} (g : Spur → α) (s : State) (h : Handle) {f : Spur → Spur} (hf : ∀ x, g (f x) = g x) :
    (s.modSpur h f).spurs.map g = s.spurs.map g := map_updFirst g _ hf _

/-- A claim that is made is no spur and no composite. -/
@[simp] theorem makeClaim_stands (s : State) (p : Handle) (n : Nat) :
    (s.makeClaim p n).spurs = s.spurs ∧ (s.makeClaim p n).comps = s.comps := by
  unfold State.makeClaim
  extract_lets waits
  split <;> exact ⟨rfl, rfl⟩

/-- A completion tells a caller, a composite or a queue: no spur comes or goes (R321, R322, R335). -/
@[simp] theorem complete_handles (s : State) (t : Target) (h : Handle) (dom status : Nat) (v : W64) :
    (s.complete t h dom status v).handles = s.handles := by
  cases t with
  | none => exact notOut_handles ..
  | queue d q => exact notOut_handles ..
  | notice d q => exact handles_of_fabric (notice_fabric ..)
  | barrier p n => exact (congrArg _ (makeClaim_stands ..).1).trans (modSpur_map _ s p (by intro; rfl))
  | member i n => rfl

/-- The composites that end above a member are no spurs (R335). -/
@[simp] theorem compUp_handles (massif : Nat) (n : Nat) : ∀ (t : Target) (s : State),
    (compUp massif n t s).handles = s.handles := by
  induction n with
  | zero =>
    intro t s
    cases t <;> rfl
  | succ n ih =>
    intro t s
    cases t with
    | member i k =>
      unfold compUp
      split
      · rfl
      · split
        · rfl
        · simp only
          rw [ih, complete_handles, handles_of_fabric (decUse_fabric ..)]
          rfl
    | none => rfl
    | queue d q => rfl
    | notice d q => rfl
    | barrier p n => rfl

/-! ## A spur that ends -/

/-- A spur that ends stands no more (R24). -/
theorem finishSpur_spur? (s : State) (sp : Spur) (status : Nat) (v : W64) :
    (finishSpur s sp status v).spur? sp.handle = none := by
  refine spur?_eq_none ?_
  unfold finishSpur
  simp only
  rw [compUp_handles, complete_handles, handles_of_fabric (decUse_fabric ..)]
  simp [State.handles, State.tidy, State.reown]

/-- The armed barriers of a spur (R346). -/
theorem armed_iff (sp : Spur) : sp.armed = true ↔ ∃ b ∈ sp.bars, b.st = .armed := by
  simp [Spur.armed]

section SpurEnd

variable {s : State} {h : Handle} {sp : Spur} (hs : s.spur? h = some sp)
include hs

/-- The end of a spur that is there, case by case. -/
theorem execSpurEnd_eq : exec (.spurEnd h) s = .next (
    if !sp.final || s.jobsOf h then s
    else if sp.life == .stopped || sp.life == .stowed then finishSpur s sp 2 0
    else if sp.armed then s
    else finishSpur s sp 0 sp.result) := by
  change execSpurEnd h s = _
  rw [execSpurEnd, hs]

/-- A spur whose final round is not over, or whose jobs are not, does not end. -/
theorem execSpurEnd_waits (hw : sp.final = false ∨ s.jobsOf h = true) : exec (.spurEnd h) s = .next s := by
  rw [execSpurEnd_eq hs, if_pos (by simpa using hw)]

/-- A spur that neither stopped nor is stowed waits for its barriers. -/
theorem execSpurEnd_armed (hl : sp.life ≠ .stopped) (hl' : sp.life ≠ .stowed) (hb : ∃ b ∈ sp.bars, b.st = .armed) :
    exec (.spurEnd h) s = .next s := by
  have hn : (sp.life == .stopped || sp.life == .stowed) = false := by simp [hl, hl']
  simp only [execSpurEnd_eq hs, hn, (armed_iff sp).2 hb, Bool.false_eq_true, if_false, if_true, ite_self]

/-- A spur that a fault stopped, or whose record is lost, ends with status 2. -/
theorem execSpurEnd_stopped (hf : sp.final = true) (hj : s.jobsOf h = false) (hl : sp.life = .stopped ∨ sp.life = .stowed) :
    exec (.spurEnd h) s = .next (finishSpur s sp 2 0) := by
  rw [execSpurEnd_eq hs, if_neg (by simp [hf, hj]), if_pos (by simpa using hl)]

/-- Any other spur ends with its result. -/
theorem execSpurEnd_returns (hf : sp.final = true) (hj : s.jobsOf h = false) (hl : sp.life ≠ .stopped)
    (hl' : sp.life ≠ .stowed) (hb : ∀ b ∈ sp.bars, b.st ≠ .armed) :
    exec (.spurEnd h) s = .next (finishSpur s sp 0 sp.result) := by
  have ha : ¬ sp.armed = true := fun h => let ⟨b, hm, he⟩ := (armed_iff sp).1 h; hb b hm he
  rw [execSpurEnd_eq hs, if_neg (by simp [hf, hj]), if_neg (by simp [hl, hl']), if_neg ha]

end SpurEnd

theorem spursEnd : Says.SpursEnd := by
  intro s h sp hs
  refine ⟨execSpurEnd_waits hs, fun _ hl hl' hb => execSpurEnd_armed hs hl hl' hb, execSpurEnd_stopped hs,
    execSpurEnd_returns hs, fun st v => ?_⟩
  rw [← handle_of_spur? hs]
  exact finishSpur_spur? ..

/-! ## Members placed again -/

section Members

variable {s : State} {i : Handle} {c : Comp} {m : Member} {ms : List Member}
  (hc : s.comps.find? (fun c => c.handle == i) = some c) (hm : c.members = m :: ms)
include hc hm

/-- The event of a sequence's second member, for a sequence that stands (R335). -/
theorem execSequenceSecondPlace_eq {id : Nat} {hq : Option Nat} {a b : Nest} (hn : c.nest = .seq id hq a b) :
    exec (.sequenceSecondPlace i) s = .next (
      if c.second || !m.ended || m.status == 2 || (s.dom? c.dom).isNone then s
      else placeMember s c b (c.imgs.drop a.leaves.length) 1 m.result fun c h =>
        { c with second := true, members := c.members.take 1 ++ [⟨h, false, 0, 0⟩] }) := by
  change execSequenceSecondPlace i s = _
  simp only [execSequenceSecondPlace, hc, hn, hm]

/-- The event of a loop's body, for a loop that stands (R335). -/
theorem execLoopBodyRestart_eq {id bit : Nat} {hq : Option Nat} {a : Nest} (hn : c.nest = .loop id hq bit a) :
    exec (.loopBodyRestart i) s = .next (
      if !m.ended || m.status == 2 || m.result.getLsbD bit || (s.dom? c.dom).isNone then s
      else placeMember s c a c.imgs 0 m.result fun c h => { c with members := [⟨h, false, 0, 0⟩] }) := by
  change execLoopBodyRestart i s = _
  simp only [execLoopBodyRestart, hc, hn, hm]

end Members

theorem membersPlacedAgain : Says.MembersPlacedAgain := by
  intro s i c id bit hq a b m ms hc hm hd
  have hd' : (s.dom? c.dom).isNone = false := Option.isNone_eq_false_iff.2 hd
  refine ⟨fun hn => ?_, fun hn => ?_⟩
  · rw [execSequenceSecondPlace_eq hc hm hn]
    constructor
    · intro hw
      rw [if_pos (by rcases hw with hw | hw | hw <;> simp [hw])]
    · intro h1 h2 h3
      rw [if_neg (by simpa [h1, h2, hd'] using h3)]
  · rw [execLoopBodyRestart_eq hc hm hn]
    constructor
    · intro hw
      rw [if_pos (by rcases hw with hw | hw | hw <;> simp [hw])]
    · intro h1 h2 h3
      rw [if_neg (by simpa [h1, h3, hd'] using h2)]

/-- Settles O54: the events' cases, and that no step of a spur's end puts a spur back. -/
theorem endsAndMembers : Obligations.EndsAndMembers := ⟨spursEnd, membersPlacedAgain⟩

end Sys2Proof.Machine
end

section
/-! SUPPORT. Claims that arrive (R23, R327, R338, R390): one lemma per answer of the check, and what a refusal leaves in place. -/

namespace Sys2Proof.Machine

open Sys2Proof

/-! ## The areas in use -/

/-- What the areas in use ask of a spur. -/
def Spur.stand (sp : Spur) : Bool × Nat × Area := (sp.placed && sp.area.isNone, sp.dom, sp.ownArea)

/-- What the areas in use ask of a composite. -/
def Comp.stand (c : Comp) : Nat × List Area := (c.dom, c.areas)

/-- The areas in use, from what each spur and composite says of itself. -/
theorem areas_eq (s : State) : s.areas =
    ((s.spurs.map Spur.stand).filter (·.1)).map (·.2) ++
      (s.comps.map Comp.stand).flatMap fun c => (c.2.filter fun a => !a.away).map fun a => (c.1, a) := by
  simp only [State.areas, List.filter_map, List.map_map, List.flatMap_map]
  rfl

theorem areas_congr {s t : State} (h : t.spurs.map Spur.stand = s.spurs.map Spur.stand)
    (hc : t.comps.map Comp.stand = s.comps.map Comp.stand) : t.areas = s.areas := by
  rw [areas_eq, areas_eq, h, hc]

theorem areas_of_fabric {s t : State} (h : t.fabric = s.fabric) : t.areas = s.areas := by
  rw [areas_eq, areas_eq, spurs_of_fabric h, comps_of_fabric h]

theorem notOut_areas (s : State) (h : Handle) : (s.notOut h).areas = s.areas :=
  areas_congr (by simp only [State.notOut, List.map_map]; rfl) rfl

theorem makeClaim_areas (s : State) (p : Handle) (n : Nat) : (s.makeClaim p n).areas = s.areas :=
  have ⟨hs, hc⟩ := makeClaim_stands s p n
  areas_congr (congrArg _ hs) (congrArg _ hc)

/-- A completion moves nothing (R321, R322, R335). -/
theorem complete_areas (s : State) (t : Target) (h : Handle) (dom status : Nat) (v : W64) :
    (s.complete t h dom status v).areas = s.areas := by
  cases t with
  | none => exact notOut_areas ..
  | queue d q => exact notOut_areas s h
  | notice d q => exact areas_of_fabric (notice_fabric ..)
  | barrier p n => exact (makeClaim_areas ..).trans (areas_congr (modSpur_map Spur.stand s p (by intro; rfl)) rfl)
  | member i n => exact areas_congr rfl (map_updFirst Comp.stand _ (by intro; rfl) _)

/-- A claim that ends without a grant takes and frees no area (R340, R345). -/
theorem endClaim_areas (s : State) (c : Claim) (status : Nat) (v : W64) : (endClaim s c status v).areas = s.areas := by
  unfold endClaim
  simp only
  rw [complete_areas, areas_of_fabric (decUse_fabric ..)]
  rfl

/-! ## Arrival -/

/-- A claim of no span that is refused ends. -/
theorem refuseClaim_eq {c : Claim} (h : c.span = none) (s : State) (status : Nat) (v : W64) :
    refuseClaim s c status v = endClaim s c status v := by
  simp [refuseClaim, h]

section Arrival

variable {s t : State} {n : Nat} {c : Claim} (hc : s.claim? n = some c) (hst : c.st = .sent) (hsp : c.span = none)
include hc hst hsp

/-- The domain of the launch is invalid. -/
theorem claimArrival_invalid (hd : s.dom? c.dom = none) :
    exec (.claimArrival n) s = .next (endClaim s c 7 (BitVec.ofNat 64 c.dom)) := by
  change execClaimArrival n s = _
  simp [execClaimArrival, hc, hst, hd, refuseClaim_eq hsp]

/-- Its nest could not be read. -/
theorem claimArrival_noNest {y : Dom} (hd : s.dom? c.dom = some y) (hn : c.nest = none) :
    exec (.claimArrival n) s = .next (endClaim s c 8 (BitVec.ofNat 64 c.bad)) := by
  change execClaimArrival n s = _
  simp [execClaimArrival, hc, hst, hd, hn, refuseClaim_eq hsp]

variable {y : Dom} {nest : Nest} {rs : List ReadImg} (hd : s.dom? c.dom = some y) (hn : c.nest = some nest)
  (hr : readImages ⟨s.claimMassif c, c.dom, y.asid⟩ nest.leaves s = (t, rs))
include hd hn hr

/-- An image is refused (R315). -/
theorem claimArrival_image {w : W64} (hi : imagesRefused c.sysMade rs = some w) :
    exec (.claimArrival n) s = .next (endClaim t c 3 w) := by
  change execClaimArrival n s = _
  simp [execClaimArrival, hc, hst, hd, hn, hr, hi, refuseClaim_eq hsp]

variable (hi : imagesRefused c.sysMade rs = none)
include hi

/-- A race is refused by the domain's policy (R253). -/
theorem claimArrival_race {a b : MNode} {more : List (MNode × MNode)}
    (hx : launchRaces t c (rs.map (·.img)) (nest.ports (rs.map (·.img)) 0).1 (nest.ports (rs.map (·.img)) 0).2 =
      (a, b) :: more) (hp : y.rp = false) :
    exec (.claimArrival n) s = .next (endClaim t c 3 (raceRefused a).word) := by
  change execClaimArrival n s = _
  simp [execClaimArrival, hc, hst, hd, hn, hr, hi, hx, hp, refuseClaim_eq hsp]

/-- A launch with sound images, no race and sound ports is computed. -/
theorem claimArrival_computed
    (hx : launchRaces t c (rs.map (·.img)) (nest.ports (rs.map (·.img)) 0).1 (nest.ports (rs.map (·.img)) 0).2 = [])
    (hp : firstBadPort (nest.ports (rs.map (·.img)) 0).1 ((c.parent.bind t.spur?).map (·.img)) c.ports = none) :
    exec (.claimArrival n) s = .next (computeClaim t c y (rs.map (·.img)) (nest.rects (rs.map (·.img)))) := by
  change execClaimArrival n s = _
  simp [execClaimArrival, hc, hst, hd, hn, hr, hi, hx, hsp, -Option.map_bind, hp]

end Arrival

section Computed

variable {c : Claim} (hsp : c.span = none) (s : State) (y : Dom) (imgs : List Image) (rects : List Rect)
include hsp

/-- Larger than a whole budget (R372). -/
theorem computeClaim_large (hw : ¬ s.wholeFor c.dom (usesOf rects) = true) :
    computeClaim s c y imgs rects = endClaim s c 4 0 := by
  simp [computeClaim, hw, refuseClaim_eq hsp]

/-- Within the budget, and no empty package takes it (R23). -/
theorem computeClaim_unfit (hw : s.wholeFor c.dom (usesOf rects) = true)
    (hf : ¬ fitsEmpty rects ⟨[], [], [], [], ⟨0, 0, 0⟩⟩ = true) : computeClaim s c y imgs rects = endClaim s c 5 0 := by
  simp [computeClaim, hw, hf, refuseClaim_eq hsp]

end Computed

/-- A launch that passes is pending at its domain's priority, behind every earlier one (R327). -/
theorem computeClaim_pending (s : State) {c : Claim} (y : Dom) (imgs : List Image) {rects : List Rect}
    (hw : s.wholeFor c.dom (usesOf rects) = true)
    (hf : fitsEmpty rects ⟨[], [], [], [], ⟨0, 0, 0⟩⟩ = true) :
    computeClaim s c y imgs rects = { s.setClaim { c with
      st := .pending, imgs := imgs, rects := rects, no := s.nextClaim, prio := y.pri, since := s.now } with
        nextClaim := s.nextClaim + 1 } := by
  simp [computeClaim, hw, hf]

/-- Settles O50: each answer of the check, and that a claim which ends takes no area. -/
theorem claimsChecked : Obligations.ClaimsChecked := by
  intro s t n c y nest rs hc hst hsp
  refine ⟨claimArrival_invalid hc hst hsp, claimArrival_noNest hc hst hsp, ?_, ?_, ?_, ?_, ?_, endClaim_areas s c⟩
  · rintro w ⟨hd, hn, hr⟩ hi
    exact claimArrival_image hc hst hsp hd hn hr hi
  · rintro a b more ⟨hd, hn, hr⟩ hi hx hp
    exact claimArrival_race hc hst hsp hd hn hr hi hx hp
  · rintro ⟨⟨hd, hn, hr⟩, hi, hx, hp⟩ hw
    rw [claimArrival_computed hc hst hsp hd hn hr hi hx hp, computeClaim_large hsp _ _ _ _ hw]
  · rintro ⟨⟨hd, hn, hr⟩, hi, hx, hp⟩ hw hf
    rw [claimArrival_computed hc hst hsp hd hn hr hi hx hp, computeClaim_unfit hsp _ _ _ _ hw hf]
  · rintro ⟨⟨hd, hn, hr⟩, hi, hx, hp⟩ hw hf
    rw [claimArrival_computed hc hst hsp hd hn hr hi hx hp, computeClaim_pending _ _ _ hw hf]

end Sys2Proof.Machine
end

section
/-! SUPPORT. Reservations (R329), the start barrier with its waves (R21, R381, R422), and spans of packages (R393). -/

namespace Sys2Proof.Machine

open Sys2Proof

/-! ## Reservations -/

/-- A claim that is found has the number it was asked for. -/
theorem id_of_claim? {s : State} {n : Nat} {c : Claim} (hc : s.claim? n = some c) : c.id = n := by
  simpa using List.find?_some hc

/-- Another claim of a claim's priority reserves a placement (R329). -/
def State.reservedBeside (s : State) (c : Claim) : Bool :=
  s.claims.any fun x => x.id != c.id && x.prio == c.prio && x.reserve.isSome

theorem reservedBeside_iff (s : State) (c : Claim) :
    s.reservedBeside c = true ↔ ∃ x ∈ s.claims, x.id ≠ c.id ∧ x.prio = c.prio ∧ x.reserve ≠ none := by
  simp [State.reservedBeside, Option.isSome_iff_ne_none, and_assoc]

/-- The reservation of a claim that is there. -/
theorem claimReservation_eq {s : State} {n : Nat} {c : Claim} (hc : s.claim? n = some c) (pl : List Place) :
    exec (.claimReservation n pl) s = .next (
      if s.scanned c && decide (64 ≤ c.passed) && c.reserve.isNone && !s.reservedBeside c && pl.length == c.rects.length &&
          reservable s.powered (c.rects.zip pl) [] then s.setClaim { c with reserve := some pl }
      else s) := by
  change execClaimReservation n pl s = _
  rw [execClaimReservation, hc]
  rfl

theorem claimsReserve : Says.ClaimsReserve := by
  intro s n c pl hc
  simp only [← reservedBeside_iff, claimReservation_eq hc]
  constructor
  · rintro (hp | ht)
    · rw [if_neg (by simp [Nat.not_le.2 hp])]
    · rw [if_neg (by simp [ht])]
  · intro hs hp hr ht hl hv
    rw [if_pos (by simp [hs, hp, hr, ht, hl, hv])]

/-! ## The ground that opening spurs leaves -/

/-- What the turns of sharers and the opening of spurs leave alone. -/
def State.ground (s : State) : List Host.Cell × Ctl × List Nat × Nat × List Claim :=
  (s.mem, s.ctl, s.badWords, s.now, s.claims)

@[simp] theorem claimTurn_ground (s : State) (h : Handle) : (claimTurn s h).ground = s.ground := by
  unfold claimTurn
  split
  · rfl
  · split
    · rfl
    · split <;> rfl

/-- A directory entry is what memory holds at its place. -/
theorem dcbAddr_congr {s t : State} (hm : t.mem = s.mem) (hd : t.ctl.ddb = s.ctl.ddb) (hb : t.badWords = s.badWords)
    (d : Nat) : t.dcbAddr d = s.dcbAddr d := by
  unfold State.dcbAddr State.spoilt
  rw [hm, hd, hb]

/-- A domain is what its control blocks in memory say (R377 to R379). -/
theorem dom?_congr {s t : State} (hm : t.mem = s.mem) (hd : t.ctl.ddb = s.ctl.ddb) (hb : t.badWords = s.badWords) (d : Nat) :
    t.dom? d = s.dom? d := by
  unfold State.dom?
  generalize 17 = n
  induction n generalizing d with
  | zero => rfl
  | succ n ih =>
    unfold domFrom State.spoilt
    simp only [dcbAddr_congr hm hd hb, ih]
    rw [hm, hb]

theorem dom?_of_ground {s t : State} (h : t.ground = s.ground) (d : Nat) : t.dom? d = s.dom? d := by
  simp only [State.ground, Prod.mk.injEq] at h
  obtain ⟨hm, hc, hb, -⟩ := h
  exact dom?_congr hm (congrArg Ctl.ddb hc) hb d

theorem now_of_ground {s t : State} (h : t.ground = s.ground) : t.now = s.now := congrArg (·.2.2.2.1) h

theorem claims_of_ground {s t : State} (h : t.ground = s.ground) : t.claims = s.claims := congrArg (·.2.2.2.2) h

/-! ## Spurs but for their rounds' clocks -/

/-- A spur but for the cycles that the rotation of sharers counts from (R330). -/
def Spur.unclocked (sp : Spur) : Spur := { sp with roundAt := 0, awayFrom := 0, lastBusy := 0 }

theorem handle_of_unclocked {x z : Spur} (h : z.unclocked = x.unclocked) : z.handle = x.handle := (congrArg Spur.handle h :)

theorem dom_of_unclocked {x z : Spur} (h : z.unclocked = x.unclocked) : z.dom = x.dom := (congrArg Spur.dom h :)

/-- A change of clocks leaves every spur as it was but for them. -/
theorem modSpur_unclocked (s : State) (g h : Handle) {f : Spur → Spur} (hf : ∀ x, (f x).unclocked = x.unclocked) :
    ((s.modSpur g f).spur? h).map Spur.unclocked = (s.spur? h).map Spur.unclocked := by
  have hh : ∀ x, (f x).handle = x.handle := fun x => handle_of_unclocked (hf x)
  by_cases he : h = g
  · subst he
    rw [State.spur?_modSpur hh, Option.map_map]
    congr 1
    exact funext hf
  · rw [State.spur?_modSpur_other hh he]

@[simp] theorem giveTurn_unclocked (s : State) (g : Group) (t : Nat) (h : Handle) :
    ((s.giveTurn g t).spur? h).map Spur.unclocked = (s.spur? h).map Spur.unclocked :=
  (modSpur_unclocked _ _ h (by intro; rfl)).trans (modSpur_unclocked s _ h (by intro; rfl))

@[simp] theorem claimTurn_unclocked (s : State) (g h : Handle) :
    ((claimTurn s g).spur? h).map Spur.unclocked = (s.spur? h).map Spur.unclocked := by
  unfold claimTurn
  split
  · rfl
  · split
    · rfl
    · split
      · exact giveTurn_unclocked ..
      · rfl

/-- A spur of the list is the one that its handle finds, where no two have one handle. -/
theorem spur?_of_nodup {s : State} (hn : (s.spurs.map (·.handle)).Nodup) {sp : Spur} (hm : sp ∈ s.spurs) :
    s.spur? sp.handle = some sp := by
  cases hf : s.spur? sp.handle with
  | none => exact absurd (List.find?_eq_none.1 hf sp hm) (by simp)
  | some y =>
    exact congrArg some (List.inj_on_of_nodup_map hn (List.mem_of_find?_eq_some hf) hm (handle_of_spur? hf))

/-! ## Opening -/

/-- What a spur that enters running has of its domain, its launch and the clock (R381, R422). -/
structure Spur.Entered (sp : Spur) (y : Dom) (w : Waves) (now : Nat) : Prop where
  life : sp.life = .running
  asid : sp.asid = y.asid
  seed : sp.seed = y.seed
  qnt : sp.qnt = y.qnt
  openedAt : sp.openedAt = now
  waves : sp.waves = w

theorem opened_entered (sp : Spur) (y : Dom) (hq : Option (Nat × Nat)) (w : Waves) (now : Nat) :
    (sp.opened y hq w now).Entered y w now := ⟨rfl, rfl, rfl, rfl, rfl, rfl⟩

theorem opened_handle (sp : Spur) (y : Dom) (hq : Option (Nat × Nat)) (w : Waves) (now : Nat) :
    (sp.opened y hq w now).handle = sp.handle := rfl

/-- Whether a spur has entered does not turn on its clocks. -/
theorem entered_of_unclocked {x z : Spur} {y : Dom} {w : Waves} {now : Nat} (hu : z.unclocked = x.unclocked)
    (hx : x.Entered y w now) : z.Entered y w now where
  life := (congrArg Spur.life hu).trans hx.life
  asid := (congrArg Spur.asid hu).trans hx.asid
  seed := (congrArg Spur.seed hu).trans hx.seed
  qnt := (congrArg Spur.qnt hu).trans hx.qnt
  openedAt := (congrArg Spur.openedAt hu).trans hx.openedAt
  waves := (congrArg Spur.waves hu).trans hx.waves

/-- The loading spurs of a launch. -/
def State.loadingOf (s : State) (claim : Nat) : List Handle :=
  (s.spurs.filter fun x => x.claim == some claim && x.life == .loading).map (·.handle)

/-- A spur enters running and takes its bricks where no sharer has them. -/
def openSpur (w : Waves) (s : State) (h : Handle) : State :=
  match s.spur? h with
  | none => s
  | some sp =>
    match s.dom? sp.dom with
    | none => s
    | some y => claimTurn (s.setSpur (sp.opened y (s.handlerQ sp.dom) w s.now)) h

/-- A launch opens spur by spur. -/
theorem openLaunch_eq (s : State) (claim : Nat) : openLaunch s claim =
    ((s.setWaves (some claim) (s.wavesOf claim)).loadingOf claim).foldl (openSpur (s.wavesOf claim))
      (s.setWaves (some claim) (s.wavesOf claim)) := rfl

@[simp] theorem openSpur_ground (w : Waves) (s : State) (h : Handle) : (openSpur w s h).ground = s.ground := by
  unfold openSpur
  split
  · rfl
  · split
    · rfl
    · exact claimTurn_ground ..

theorem openLaunch_claims (s : State) (claim : Nat) : (openLaunch s claim).claims = s.claims := by
  rw [openLaunch_eq]
  exact claims_of_ground (foldl_keeps State.ground (openSpur_ground _) _ _)

/-- A spur of a valid domain that opens has entered. -/
theorem openSpur_same {w : Waves} {s : State} {h : Handle} {sp : Spur} {y : Dom} (hs : s.spur? h = some sp)
    (hd : s.dom? sp.dom = some y) :
    ∃ z, (openSpur w s h).spur? h = some z ∧ z.dom = sp.dom ∧ z.Entered y w s.now := by
  have hh := handle_of_spur? hs
  let x := sp.opened y (s.handlerQ sp.dom) w s.now
  have hx : (s.setSpur x).spur? h = some x := by
    rw [← hh]
    exact State.spur?_setSpur (x := x) (hh ▸ hs)
  have hu := claimTurn_unclocked (s.setSpur x) h h
  have ho : openSpur w s h = claimTurn (s.setSpur x) h := by
    unfold openSpur
    simp only [hs, hd]
    rfl
  rw [hx, Option.map_some, ← ho, Option.map_eq_some_iff] at hu
  obtain ⟨z, hz, hu⟩ := hu
  exact ⟨z, hz, show z.dom = x.dom from dom_of_unclocked hu, entered_of_unclocked hu (opened_entered ..)⟩

/-- A spur that opens leaves every other as it was but for clocks. -/
theorem openSpur_other {w : Waves} {s : State} {g h : Handle} (hn : h ≠ g) :
    ((openSpur w s g).spur? h).map Spur.unclocked = (s.spur? h).map Spur.unclocked := by
  unfold openSpur
  split
  · rfl
  next sp hs =>
    split
    · rfl
    next y _ =>
      rw [claimTurn_unclocked, State.spur?_setSpur_other (by rwa [opened_handle, handle_of_spur? hs])]

/-- After spurs have opened, one of a valid domain that was among them, or had entered before, has entered. -/
theorem foldl_openSpur_entered {w : Waves} {h : Handle} {d : Nat} {y : Dom} (l : List Handle) : ∀ {s : State},
    s.dom? d = some y → (∃ z, s.spur? h = some z ∧ z.dom = d ∧ (h ∉ l → z.Entered y w s.now)) →
    ∃ z, (l.foldl (openSpur w) s).spur? h = some z ∧ z.Entered y w s.now := by
  induction l with
  | nil => exact fun _ ⟨z, hz, _, he⟩ => ⟨z, hz, he (by simp)⟩
  | cons g r ih =>
    intro s hd ⟨z, hz, hzd, he⟩
    have hg := openSpur_ground w s g
    have hnow := now_of_ground hg
    rw [List.foldl_cons, ← hnow]
    refine ih ((dom?_of_ground hg d).trans hd) ?_
    rw [hnow]
    by_cases hgh : h = g
    · subst hgh
      obtain ⟨x, hx, hxd, hxe⟩ := openSpur_same (w := w) hz (hzd ▸ hd)
      exact ⟨x, hx, hxd.trans hzd, fun _ => hxe⟩
    · have hu := openSpur_other (w := w) (s := s) hgh
      rw [hz, Option.map_some, Option.map_eq_some_iff] at hu
      obtain ⟨x, hx, hu⟩ := hu
      refine ⟨x, hx, (dom_of_unclocked hu).trans hzd, fun hr => entered_of_unclocked hu (he ?_)⟩
      simp [hgh, hr]

/-! ## Waves -/

/-- A spur after the waves of a launch have been put. -/
theorem setWaves_spur? (s : State) (claim : Option Nat) (w : Waves) (h : Handle) : (s.setWaves claim w).spur? h =
    (s.spur? h).map fun x => if x.claim == claim then { x with waves := w } else x := by
  have hh : ((fun x : Spur => x.handle == h) ∘ fun x => if x.claim == claim then { x with waves := w } else x) =
      fun x => x.handle == h := by
    funext x
    simp only [Function.comp]
    split <;> rfl
  simp only [State.spur?, State.setWaves, List.find?_map, hh]

/-- Every loading spur of a launch that opens, of a valid domain, enters running with the launch's waves. -/
theorem openLaunch_entered {s : State} {n : Nat} {sp : Spur} {y : Dom} (hn : (s.spurs.map (·.handle)).Nodup)
    (hm : sp ∈ s.spurs) (hc : sp.claim = some n) (hl : sp.life = .loading) (hd : s.dom? sp.dom = some y) :
    ∃ z, (openLaunch s n).spur? sp.handle = some z ∧ z.Entered y (s.wavesOf n) s.now := by
  have hs : (s.setWaves (some n) (s.wavesOf n)).spur? sp.handle = some { sp with waves := s.wavesOf n } := by
    simp [setWaves_spur?, spur?_of_nodup hn hm, hc]
  have hin : sp.handle ∈ (s.setWaves (some n) (s.wavesOf n)).loadingOf n := by
    simp only [State.loadingOf, List.mem_map, List.mem_filter]
    exact ⟨_, ⟨List.mem_of_find?_eq_some hs, by simp [hc, hl]⟩, rfl⟩
  rw [openLaunch_eq]
  exact foldl_openSpur_entered (s := s.setWaves (some n) (s.wavesOf n)) _ ((dom?_congr rfl rfl rfl _).trans hd)
    ⟨_, hs, rfl, fun h => absurd hin h⟩

/-! ## The start barrier -/

section Barrier

variable {s : State} {n : Nat} {c : Claim} (hc : s.claim? n = some c)
include hc

/-- The start barrier of a claim that is there. -/
theorem startBarrierOpen_eq : exec (.startBarrierOpen n) s = .next (
    if !(if c.span.isSome then c.st == .formed else c.st == .granted) || (s.dom? c.dom).isNone then s
    else openLaunch { s with claims := s.claims.filter fun x => x.id != c.id } c.id) := by
  change execStartBarrierOpen n s = _
  rw [execStartBarrierOpen, hc]

/-- A launch that is not granted waits. -/
theorem startBarrierOpen_ungranted (hs : c.span = none) (hst : c.st ≠ .granted) :
    exec (.startBarrierOpen n) s = .next s := by
  rw [startBarrierOpen_eq hc, if_pos (by simp [hs, hst])]

/-- A span that has not formed waits. -/
theorem startBarrierOpen_unformed (hs : c.span ≠ none) (hst : c.st ≠ .formed) :
    exec (.startBarrierOpen n) s = .next s := by
  rw [startBarrierOpen_eq hc, if_pos (by simp [Option.isSome_iff_ne_none.2 hs, hst])]

/-- A launch that is granted whole, or a span that has formed, opens (R21, R393). -/
theorem startBarrierOpen_opens (hr : c.span = none ∧ c.st = .granted ∨ c.span ≠ none ∧ c.st = .formed)
    (hd : (s.dom? c.dom).isSome = true) :
    exec (.startBarrierOpen n) s = .next (openLaunch { s with claims := s.claims.filter fun x => x.id != n } n) := by
  have hid := id_of_claim? hc
  rw [startBarrierOpen_eq hc, hid, if_neg]
  rcases hr with ⟨hs, hst⟩ | ⟨hs, hst⟩
  · simp [hs, hst, Option.isSome_iff_ne_none.1 hd]
  · simp [Option.isSome_iff_ne_none.2 hs, hst, Option.isSome_iff_ne_none.1 hd]

end Barrier

/-- The next wave of a launch, for a spur that is there (R422). -/
theorem launchWaveOpen_eq {s : State} {h : Handle} {sp : Spur} (hs : s.spur? h = some sp) :
    exec (.launchWaveOpen h) s = .next (
      if sp.waves.ridges.length ≤ 16 * sp.waves.opened ∨ s.now - sp.waves.since < Config.cyclesPerUs * sp.waves.opened then s
      else s.setWaves sp.claim { sp.waves with opened := sp.waves.opened + 1 }) := by
  change execLaunchWaveOpen h s = _
  simp only [execLaunchWaveOpen, hs, Bool.or_eq_true, decide_eq_true_eq]

theorem setWaves_spurs_waves {s : State} {claim : Option Nat} {w : Waves} {x : Spur} (hx : x ∈ (s.setWaves claim w).spurs)
    (hc : x.claim = claim) : x.waves = w := by
  obtain ⟨z, _, rfl⟩ := List.mem_map.1 hx
  by_cases hz : z.claim = claim <;> simp_all

theorem setWaves_comps_waves {s : State} {claim : Option Nat} {w : Waves} {x : Comp} (hx : x ∈ (s.setWaves claim w).comps)
    (hc : x.claim = claim) : x.waves = some w := by
  obtain ⟨z, _, rfl⟩ := List.mem_map.1 hx
  by_cases hz : z.claim = claim <;> simp_all

theorem startBarriers : Says.StartBarriers := by
  intro s n c hc
  refine ⟨startBarrierOpen_ungranted hc, startBarrierOpen_unformed hc, fun hr hd => ?_, fun h sp hs hw => ?_⟩
  · refine ⟨_, startBarrierOpen_opens hc hr hd, ?_, fun hn sp hm y hcl hl hy => ?_⟩
    · simp [State.claim?, openLaunch_claims]
    · obtain ⟨z, hz, he⟩ := openLaunch_entered (s := { s with claims := s.claims.filter fun x => x.id != n }) hn hm hcl hl
        ((dom?_congr rfl rfl rfl _).trans hy)
      exact ⟨z, hz, he.life, he.asid, he.seed, he.qnt, he.openedAt, he.waves⟩
  · rw [launchWaveOpen_eq hs]
    constructor
    · exact fun hl => by rw [if_pos (.inr hl)]
    · intro hl
      refine ⟨_, by rw [if_neg (by omega)], fun x => setWaves_spurs_waves, fun x => setWaves_comps_waves, ?_⟩
      simp [setWaves_spur?, hs]

/-! ## Spans -/

/-- This package acknowledges a span: its claim waits for area, or is granted, and every port that the entries of others name
is a declared `in` port of it (R393). -/
def State.acknowledges (s : State) (c : Claim) (named : List (BitVec 5 × BitVec 8)) : Bool :=
  c.st == .pending || (c.st == .granted && named.all fun x => s.wires.any fun w => s.wireIn c w == some x)

theorem acknowledges_pending {s : State} {c : Claim} (h : c.st = .pending) (named : List (BitVec 5 × BitVec 8)) :
    s.acknowledges c named = true := by
  simp [State.acknowledges, h]

theorem acknowledges_granted {s : State} {c : Claim} (h : c.st = .granted) (named : List (BitVec 5 × BitVec 8)) :
    s.acknowledges c named = true ↔ ∀ x ∈ named, ∃ w ∈ s.wires, s.wireIn c w = some x := by
  simp [State.acknowledges, h]

theorem acknowledges_refused {s : State} {c : Claim} (h : c.st = .refused) (named : List (BitVec 5 × BitVec 8)) :
    s.acknowledges c named = false := by
  simp [State.acknowledges, h]

/-- The other packages of a mask that refuse. -/
def State.otherRefusers (s : State) (mask refused : BitVec 32) : BitVec 32 :=
  refused &&& mask &&& ~~~(1#32 <<< s.pkg.toNat)

/-- The packages that refuse a span, this one's own bit among them where it does not acknowledge (log 77). -/
def State.refusers (s : State) (c : Claim) (mask refused : BitVec 32) (named : List (BitVec 5 × BitVec 8)) : BitVec 32 :=
  s.otherRefusers mask refused ||| (if s.acknowledges c named then 0 else 1#32 <<< s.pkg.toNat)

theorem refusers_acknowledged {s : State} {c : Claim} {mask refused : BitVec 32} {named : List (BitVec 5 × BitVec 8)}
    (h : s.acknowledges c named = true) : s.refusers c mask refused named = s.otherRefusers mask refused := by
  simp [State.refusers, h]

theorem refusers_refused {s : State} {c : Claim} {mask refused : BitVec 32} {named : List (BitVec 5 × BitVec 8)}
    (h : s.acknowledges c named = false) :
    s.refusers c mask refused named = s.otherRefusers mask refused ||| 1#32 <<< s.pkg.toNat := by
  simp [State.refusers, h]

/-- A mask with a package's own bit is not empty. -/
theorem or_own_ne_zero (x : BitVec 32) (p : BitVec 5) : x ||| 1#32 <<< p.toNat ≠ 0 := by
  have hp : ∀ p : BitVec 5, 1#32 <<< p.toNat ≠ 0 := by decide
  exact fun h => hp p (BitVec.or_eq_zero_iff.1 h).2

section Span

variable {s : State} {n : Nat} {c : Claim} {k mask : BitVec 32} {l : List (BitVec 32)} (hc : s.claim? n = some c)
  (hs : c.span = some (k, mask, l)) (refused : BitVec 32) {named : List (BitVec 5 × BitVec 8)}
include hc hs

/-- The forming of a span whose claim is there. -/
theorem spanFormation_eq : exec (.spanFormation n ⟨refused, named⟩) s = .next (
    if c.st != .granted && c.st != .refused && !(c.st == .pending && s.refusers c mask refused named != 0) then s
    else if s.refusers c mask refused named = 0 then (s.keepNamed c named).setClaim { c with st := .formed }
    else endClaim (revoke s c) c 10 ((s.refusers c mask refused named).zeroExtend 64)) := by
  change execSpanFormation n ⟨refused, named⟩ s = _
  rw [execSpanFormation, hc]
  simp only [hs]
  rfl

/-- Where this package acknowledges, the others alone decide. -/
theorem spanFormation_acknowledged (ha : s.acknowledges c named = true) (hst : c.st = .granted ∨ c.st = .pending) :
    exec (.spanFormation n ⟨refused, named⟩) s = .next (
      if s.otherRefusers mask refused = 0 then
        (if c.st = .granted then (s.keepNamed c named).setClaim { c with st := .formed } else s)
      else endClaim (revoke s c) c 10 ((s.otherRefusers mask refused).zeroExtend 64)) := by
  rw [spanFormation_eq hc hs refused, refusers_acknowledged ha]
  rcases hst with hst | hst
  · simp [hst]
  · by_cases ho : s.otherRefusers mask refused = 0#32 <;> simp [hst, ho]

/-- Where this package refuses, the span does not form, and its own bit is set (log 77). -/
theorem spanFormation_refused (ha : s.acknowledges c named = false) (hst : c.st = .granted ∨ c.st = .refused) :
    exec (.spanFormation n ⟨refused, named⟩) s = .next (endClaim (revoke s c) c 10
      ((s.otherRefusers mask refused ||| 1#32 <<< s.pkg.toNat).zeroExtend 64)) := by
  rw [spanFormation_eq hc hs refused, refusers_refused ha, if_neg (by rcases hst with hst | hst <;> simp [hst]),
    if_neg (or_own_ne_zero _ _)]

/-- Before its claim is granted, refused or waiting, a package takes no part; one that waits goes on while no other refuses. -/
theorem spanFormation_waits (hg : c.st ≠ .granted) (hr : c.st ≠ .refused)
    (hp : c.st ≠ .pending ∨ s.otherRefusers mask refused = 0) : exec (.spanFormation n ⟨refused, named⟩) s = .next s := by
  by_cases hst : c.st = .pending
  · rw [spanFormation_acknowledged hc hs refused (acknowledges_pending hst named) (.inr hst),
      if_pos (hp.resolve_left (absurd hst)), if_neg hg]
  · rw [spanFormation_eq hc hs refused, if_pos (by simp [hg, hr, hst])]

end Span

/-- Link failures are told to spurs and leave every wire (R394). -/
@[simp] theorem failLinks_wires (s : State) (down : BitVec 8 → Bool) (mine : Handle → Bool) :
    (s.failLinks down mine).wires = s.wires := by
  unfold State.failLinks
  refine foldl_keeps (·.wires) (fun s w => ?_) _ s
  split
  · exact foldl_keeps (·.wires) (fun s h => State.modSpur_wires s h _) _ s
  · rfl

/-- Of the wires from other packages, those whose port is named stay (R393). -/
theorem keepNamed_named {s : State} {c : Claim} {named : List (BitVec 5 × BitVec 8)} {w : Wire} {x : BitVec 5 × BitVec 8}
    (hw : w ∈ (s.keepNamed c named).wires) (hx : s.wireIn c w = some x) : x ∈ named := by
  simp only [State.keepNamed, failLinks_wires, List.mem_filter, hx] at hw
  simpa using hw.2

/-- No spur of a launch that is taken back stands (R393). -/
theorem revoke_spurs {s : State} {c : Claim} {x : Spur} (hx : x ∈ (revoke s c).spurs) : x.claim ≠ some c.id := by
  have h := (List.mem_filter.1 hx).2
  simpa using h

theorem spansForm : Says.SpansForm := by
  intro s n c k mask refused l named hc hs
  refine ⟨spanFormation_waits hc hs refused, fun hst ho => ?_, fun hst hd ho => ?_, fun hst hd ho => ?_, fun hst hd => ?_,
    fun hst => ?_, fun w hw x => keepNamed_named hw, fun x => revoke_spurs⟩
  · exact (spanFormation_acknowledged hc hs refused (acknowledges_pending hst named) (.inr hst)).trans
      (congrArg _ (if_neg ho))
  · exact (spanFormation_acknowledged hc hs refused ((acknowledges_granted hst named).2 hd) (.inl hst)).trans
      (congrArg _ ((if_pos ho).trans (if_pos hst)))
  · exact (spanFormation_acknowledged hc hs refused ((acknowledges_granted hst named).2 hd) (.inl hst)).trans
      (congrArg _ (if_neg ho))
  · exact spanFormation_refused hc hs refused (Bool.eq_false_iff.2 (mt (acknowledges_granted hst named).1 hd)) (.inl hst)
  · exact spanFormation_refused hc hs refused (acknowledges_refused hst named) (.inr hst)

/-- Settles O52: reservations by their one condition, the start barrier spur by spur, and a span by who refuses. -/
theorem reservationsAndBarriers : Obligations.ReservationsAndBarriers := ⟨claimsReserve, startBarriers, spansForm⟩

end Sys2Proof.Machine
end

section
/-! SUPPORT. Command queues and the lintels' events (R22, R360, R361, R387, R389). -/

namespace Sys2Proof.Machine

open Sys2Proof

/-! ## Notify registers -/

/-- A value put in order is found by its key. -/
theorem find?_insertKey {α : Type} (key : α → Nat) (x : α) : ∀ l : List α,
    (insertKey key x l).find? (fun y => key y == key x) = some x
  | [] => by simp [insertKey]
  | y :: r => by
    simp only [insertKey]
    split
    · simp
    · split
      · simp
      · rename_i hn
        simp [Ne.symm hn, find?_insertKey key x r]

/-- The notify register of a queue is that queue's. -/
@[simp] theorem notify?_q (c : Ctl) (q : Nat) : (c.notify? q).q = q := by
  unfold Ctl.notify?
  split
  next n h => simpa using List.find?_some h
  · rfl

/-- A notify register that has been put is read back. -/
theorem notify?_setNotify (c : Ctl) (n : NotifyReg) : (c.setNotify n).notify? n.q = n := by
  simp [Ctl.notify?, Ctl.setNotify, find?_insertKey (·.q) n]

/-! ## Queues that were written -/

/-- A lintel handles no queue whose wake flag is clear. -/
theorem lintelWake_asleep {s : State} {q : Nat} (h : (s.ctl.notify? q).wake = false) : lintelWake s q = s := by
  simp [lintelWake, h]

/-- A write to a queue that is not in use, or is defunct, is ignored (R387). -/
theorem writeNotify_ignored {s : State} {q : Nat} (h : (s.qDesc q).v = false ∨ (s.qDesc q).df = true) (tail : W32) :
    writeNotify s q tail = s := by
  unfold writeNotify
  rw [if_pos (by simpa using h)]

/-- The notify register of a queue as a write leaves it (R392). -/
def State.writtenReg (s : State) (q : Nat) (tail : W32) : NotifyReg := { s.ctl.notify? q with tail := tail, wake := true }

/-- The package with a notify register written. -/
def State.written (s : State) (q : Nat) (tail : W32) : State := { s with ctl := s.ctl.setNotify (s.writtenReg q tail) }

@[simp] theorem written_notify? (s : State) (q : Nat) (tail : W32) :
    (s.written q tail).ctl.notify? q = s.writtenReg q tail := by
  have h := notify?_setNotify s.ctl (s.writtenReg q tail)
  rwa [show (s.writtenReg q tail).q = q from notify?_q ..] at h

/-- A write to a queue in use stores TAIL and sets the wake flag (R392). -/
theorem writeNotify_stores {s : State} {q : Nat} (hv : (s.qDesc q).v = true) (hd : (s.qDesc q).df = false) (tail : W32) :
    writeNotify s q tail = s.written q tail := by
  unfold writeNotify
  rw [if_neg (by simp [hv, hd])]
  rfl

/-- A descriptor that names a binding and a domain of one address space, with no more packets than its ring, has no fault. -/
theorem queueFault_eq_none {s : State} {q a : Nat} {y : Dom} (hok : (s.qDesc q).ok = true)
    (hp : s.pasid (s.qDesc q).pasid = some a) (hy : s.dom? (s.qDesc q).dom = some y) (ha : y.asid = a)
    (hu : s.unfetched q ≤ 2 ^ (s.qDesc q).lgs) : s.queueFault q = none := by
  simp [State.queueFault, hok, hp, hy, ha, Nat.not_lt.2 hu]

/-- The package where a queue has a resident slot: the one it has, or a free one (R360). -/
def State.seated (s : State) (q : Nat) : State :=
  if s.resident.any (fun r => r.q == q) || decide (Config.residentQueues ≤ s.resident.length) then s
  else { s with resident := s.resident ++ [⟨q, s.now⟩], leftAt := s.leftAt.filter fun x => x.1 != q }

@[simp] theorem seated_ctl (s : State) (q : Nat) : (s.seated q).ctl = s.ctl := by unfold State.seated; split <;> rfl
@[simp] theorem seated_gated (s : State) (q : Nat) : (s.seated q).gated = s.gated := by unfold State.seated; split <;> rfl
@[simp] theorem seated_mem (s : State) (q : Nat) : (s.seated q).mem = s.mem := by unfold State.seated; split <;> rfl

/-- A slot that is free is given. -/
theorem seated_resident {s : State} (q : Nat) (hl : s.resident.length < Config.residentQueues) :
    ∃ r ∈ (s.seated q).resident, r.q = q := by
  unfold State.seated
  by_cases ha : s.resident.any (fun r => r.q == q) = true
  · rw [if_pos (by simp [ha])]
    simpa using ha
  · rw [if_neg (by simp [ha, Nat.not_le.2 hl])]
    exact ⟨⟨q, s.now⟩, by simp, rfl⟩

/-- The package as the lintel handles a notify register: its wake flag is clear, and gating is over (R392). -/
def State.awake (s : State) (n : NotifyReg) : State :=
  { s with ctl := s.ctl.setNotify { n with wake := false }, gated := false }

theorem awake_notify? (s : State) (n : NotifyReg) : (s.awake n).ctl.notify? n.q = { n with wake := false } :=
  notify?_setNotify s.ctl { n with wake := false }

/-- A queue without a fault that was written has a slot where one is free (R360, R387). -/
theorem lintelWake_sound {s : State} {q : Nat} {n : NotifyReg} (hn : s.ctl.notify? q = n) (hw : n.wake = true)
    (hb : s.boot = .booted) (hf : (s.awake n).queueFault q = none) : lintelWake s q = (s.awake n).seated q := by
  subst hn
  unfold State.awake at hf ⊢
  unfold lintelWake State.seated
  rw [if_neg (by simp [hw, hb])]
  simp only
  rw [hf]

/-- The package after a notify write that its lintel has handled. -/
def State.handled (s : State) (q : Nat) (tail : W32) : State := (s.written q tail).awake (s.writtenReg q tail)

theorem handled_notify? (s : State) (q : Nat) (tail : W32) :
    ((s.handled q tail).ctl.notify? q).tail = tail ∧ ((s.handled q tail).ctl.notify? q).wake = false := by
  have h := awake_notify? (s.written q tail) (s.writtenReg q tail)
  rw [show (s.writtenReg q tail).q = q from notify?_q ..] at h
  rw [State.handled, h]
  exact ⟨rfl, rfl⟩

/-- A notify write to a sound queue (R387, R392). -/
theorem notifyWrite_sound {s : State} {q a : Nat} {y : Dom} {tail : W32} (hq : q < 4096) (hv : (s.qDesc q).v = true)
    (hdf : (s.qDesc q).df = false) (hok : (s.qDesc q).ok = true) (hp : s.pasid (s.qDesc q).pasid = some a)
    (hy : s.dom? (s.qDesc q).dom = some y) (ha : y.asid = a) (hb : s.boot = .booted)
    (hu : (tail.toNat + 2 ^ 32 - (s.qDesc q).head) % 2 ^ 32 ≤ 2 ^ (s.qDesc q).lgs) :
    exec (.notifyWrite q tail) s = .next ((s.handled q tail).seated q) := by
  have hf : (s.handled q tail).queueFault q = none :=
    queueFault_eq_none (s := s.handled q tail) hok hp ((dom?_congr rfl rfl rfl _).trans hy) ha (by
      rw [State.unfetched, (handled_notify? ..).1]
      exact hu)
  change execNotifyWrite q tail s = _
  rw [execNotifyWrite, if_pos hq, writeNotify_stores hv hdf, lintelWake_sound (written_notify? s q tail) rfl hb hf]
  rfl

/-- A notify write to a queue that is not in use, or is defunct, is ignored (R387). -/
theorem notifyWrite_ignored {s : State} {q : Nat} (h : (s.qDesc q).v = false ∨ (s.qDesc q).df = true)
    (hw : (s.ctl.notify? q).wake = false) (tail : W32) : exec (.notifyWrite q tail) s = .next s := by
  change execNotifyWrite q tail s = _
  rw [execNotifyWrite, writeNotify_ignored h, lintelWake_asleep hw, ite_self]

/-! ## Packets -/

/-- A resident queue with a packet and no fault has the packet at HEAD fetched, and HEAD moves on (R387). -/
theorem packetFetch_fetches {s t : State} {q a : Nat} {ws : List W64} (hw : (s.ctl.notify? q).wake = false)
    (hb : s.boot = .booted) (hg : s.gated = false) (hpt : ∀ f ∈ s.pagerToks, f.who ≠ .lintel q)
    (hv : (s.qDesc q).v = true) (hdf : (s.qDesc q).df = false) (hu : s.unfetched q ≠ 0) (hr : ∃ r ∈ s.resident, r.q = q)
    (hf : s.queueFault q = none) (hp : s.pasid (s.qDesc q).pasid = some a)
    (hm : s.migrHolds a ((s.qDesc q).ring + 64 * ((s.qDesc q).head % 2 ^ (s.qDesc q).lgs)) = false)
    (hx : packetWords (.lintel (BitVec.ofNat 2 (lintelOf q))) a 8
      ((s.qDesc q).ring + 64 * ((s.qDesc q).head % 2 ^ (s.qDesc q).lgs)) s = (t, .ok ws)) :
    exec (.packetFetch q) s =
      .next { t.setHead q ((s.qDesc q).head + 1) with fetched := t.fetched ++ [⟨q, ws⟩] } := by
  have hwait : (s.pagerToks.any fun t => t.who == .lintel q) = false := by simpa using hpt
  have hres : (s.resident.any fun r => r.q == q) = true := by simpa using hr
  change execPacketFetch q s = _
  simp only [execPacketFetch, lintelWake_asleep hw]
  rw [if_neg (by simp [hb, hg, hwait, hv, hdf, hu, hres]), hf, hp]
  simp only [hm, hx, Bool.false_eq_true, if_false]

/-- The package whose lintel takes up the fetched packet of a queue in a slot (R360). -/
def State.takesUp (s : State) (q slot : Nat) : State :=
  { s with
    fetched := s.fetched.eraseP fun p => p.q == q
    served := (4 * s.queuePrio q + lintelOf q, slot + 1) :: s.served.filter fun x => x.1 != 4 * s.queuePrio q + lintelOf q }

/-- The next packet in turn is presented. -/
theorem packetPresent_presents {s : State} {q slot : Nat} {ws : List W64} (hn : s.nextQueue (lintelOf q) = some (slot, q))
    (hf : s.fetched.find? (fun p => p.q == q) = some ⟨q, ws⟩) (hb : s.boot = .booted) (hg : s.gated = false) :
    exec (.packetPresent q) s = .next (presentPacket (s.takesUp q slot) q ws) := by
  change execPacketPresent q s = _
  simp [execPacketPresent, hn, hf, hb, hg, State.takesUp]

/-- A packet of a valid domain whose fields are sound and that names a callable launches it (R389). -/
theorem presentPacket_launches {s t : State} {q : Nat} {ws e : List W64} {y : Dom} (hd : s.dom? (s.qDesc q).dom = some y)
    (hp : packetOk s.pkg ws = true) (hi : bitsOf (nth ws 0 0).toNat 0 12 ≠ 0)
    (hr : readTab s (lintelOf q) (s.qDesc q).dom (bitsOf (nth ws 0 0).toNat 0 12) = (t, some e)) (h1 : 1 ≤ entKind e)
    (h7 : entKind e ≤ 7) : presentPacket s q ws = launchPacket t q ws (s.packetTarget q ws) := by
  simp only [presentPacket, hd, if_neg hi, hr]
  simp [hp, h1, h7]

/-- The claim of a packet that launches leaves for the masons (R22, R316). -/
theorem launchPacket_claim (s : State) (q : Nat) (ws : List W64) (t : Target) :
    ∃ c, (launchPacket s q ws t).claims.getLast? = some c ∧ c.st = .sent ∧ c.kind = .launch ∧
      c.entry = bitsOf (nth ws 0 0).toNat 0 12 ∧ c.arg = nth ws 1 0 ∧ c.target = t ∧ c.queue = some q ∧
      (launchPacket s q ws t).presented.getLast? = some (q, c.id) := by
  unfold launchPacket
  exact ⟨_, List.getLast?_concat, rfl, rfl, rfl, rfl, rfl, rfl, List.getLast?_concat⟩

/-! ## Residence -/

/-- A queue whose time is up gives its slot to the waiting queue of the highest priority that has waited longest (R361). -/
theorem residentQueueChange_changes {s : State} {q n : Nat} {r : Resident}
    (hr : s.resident.find? (fun r => r.q == q) = some r) (hg : s.gated = false) (hn : n ∈ s.waiting)
    (hbest : ∀ m ∈ s.waiting, lexLt [15 - s.queuePrio m, s.awaySince m] [15 - s.queuePrio n, s.awaySince n] = false)
    (hup : (∃ x ∈ s.presented, x.1 = q) ∨ s.unfetched q = 0 ∨
      s.now ≠ r.since ∧ r.since ≤ s.now ∧ (s.now - r.since) % s.residence q = 0 ∧ s.queuePrio q ≤ s.queuePrio n) :
    exec (.residentQueueChange q n) s = .next { s with
      resident := updFirst (fun x => x.q == q) (fun _ => ⟨n, s.now⟩) s.resident
      leftAt := (q, s.now) :: s.leftAt.filter fun x => x.1 != q && x.1 != n } := by
  have hin : s.waiting.contains n = true := by simpa using hn
  have hnone : (s.waiting.any fun m =>
      lexLt [15 - s.queuePrio m, s.awaySince m] [15 - s.queuePrio n, s.awaySince n]) = false := by simpa using hbest
  have hout : ((s.presented.any fun x => x.1 == q) || s.unfetched q = 0 || (s.now - r.since != 0 &&
      (s.now - r.since) % s.residence q == 0 && decide (s.queuePrio q ≤ s.queuePrio n))) = true := by
    rcases hup with hp | hz | ⟨hne, hle, hq, hpr⟩
    · have : (s.presented.any fun x => x.1 == q) = true := by simpa using hp
      simp [this]
    · simp [hz]
    · have : s.now - r.since ≠ 0 := by omega
      simp [this, hq, hpr]
  change execResidentQueueChange q n s = _
  simp only [execResidentQueueChange, hr, hg, hin, hnone, hout]
  rfl

theorem queueEvents : Says.QueueEvents := by
  intro s t q ws e
  refine ⟨?_, fun tail h hw => notifyWrite_ignored h hw tail, fun a => packetFetch_fetches, ?_,
    fun n r => residentQueueChange_changes⟩
  · rintro tail hq hv hdf ⟨hok, a, y, hp, hy, ha⟩ hb hu
    refine ⟨_, notifyWrite_sound hq hv hdf hok hp hy ha hb hu, ?_, ?_, seated_gated .., seated_mem ..,
      seated_resident (s := s.handled q tail) q⟩
    · rw [seated_ctl, (handled_notify? ..).1]
    · rw [seated_ctl, (handled_notify? ..).2]
  · intro slot y hn hf hb hg key u id hd hp hi hr h1 h7
    have hd' : (s.takesUp q slot).dom? (s.qDesc q).dom = some y := (dom?_congr rfl rfl rfl _).trans hd
    have hl : exec (.packetPresent q) s = .next (launchPacket t q ws (u.packetTarget q ws)) :=
      (packetPresent_presents hn hf hb hg).trans (congrArg _ (presentPacket_launches hd' hp hi hr h1 h7))
    have ht : u.packetTarget q ws = s.packetTarget q ws := by
      simp only [State.packetTarget, show u.dom? (u.qDesc q).dom = s.dom? (s.qDesc q).dom from dom?_congr rfl rfl rfl _]
      rfl
    obtain ⟨c, h⟩ := launchPacket_claim t q ws (s.packetTarget q ws)
    exact ⟨_, c, ht ▸ hl, h⟩

end Sys2Proof.Machine
end

section
/-! SUPPORT. The device's registers and its own queues: PASID teardown (R391), domain queues (R382), gating (R392) and the root
registers (R264, R376). -/

namespace Sys2Proof.Machine

open Sys2Proof

/-! ## Teardown -/

/-- A field of one bit is that bit. -/
theorem bitsOf_one (v i : Nat) : bitsOf v i 1 = (v.testBit i).toNat := by
  rw [Nat.toNat_testBit]
  rfl

/-- The PASID and BSY of a write of `ptd`, as the register keeps them (R391). -/
theorem ptd_fields {v : W64} (hv : v.getLsbD 31 = true) :
    BitVec.ofNat 64 (v.toNat % 2 ^ 20 + 1 * 2 ^ 31) = v &&& 0x800FFFFF := by
  have mask : ∀ i < 64, (0x800FFFFF#64).getLsbD i = (decide (i < 20) || i == 31) := by decide
  have sum (i : Nat) : (v.toNat % 2 ^ 20 + 1 * 2 ^ 31).testBit i =
      if i < 31 then (v.toNat % 2 ^ 20).testBit i else Nat.testBit 1 (i - 31) := by
    rw [Nat.add_comm, Nat.mul_comm, Nat.testBit_two_pow_mul_add 1 (by omega)]
  refine BitVec.eq_of_getLsbD_eq fun i hi => ?_
  rw [BitVec.getLsbD_ofNat, BitVec.getLsbD_and, sum, show (0x800FFFFF : W64).getLsbD i = _ from mask i hi]
  rcases Nat.lt_trichotomy i 31 with hl | rfl | hg
  · rw [if_pos hl, Nat.testBit_mod_two_pow, decide_eq_true hi, beq_eq_false_iff_ne.2 (Nat.ne_of_lt hl), Bool.or_false,
      Bool.true_and, Bool.and_comm]
    rfl
  · simpa using hv.symm
  · rw [if_neg (Nat.not_lt.2 hg.le), Nat.testBit_lt_two_pow (Nat.one_lt_two_pow (by omega))]
    simp [show ¬ i < 20 by omega, Nat.ne_of_gt hg]

/-- A write of `ptd` during a teardown does nothing. -/
theorem pasidTeardown_busy {s : State} (h : s.ctl.ptd.getLsbD 31 = true) (v : W64) :
    exec (.pasidTeardown v) s = .next s := by
  change execPasidTeardown v s = _
  rw [execPasidTeardown, writePtd, if_pos h]

/-- A write of `ptd` with BSY set starts the teardown of the PASID that it names (R391, step 1). -/
theorem writePtd_starts {s : State} {v : W64} (h : s.ctl.ptd.getLsbD 31 = false) (hv : v.getLsbD 31 = true) :
    ∃ l, (writePtd s v).ctl.ptd = v &&& 0x800FFFFF ∧ (writePtd s v).teardown = some ⟨v.toNat % 2 ^ 20, l⟩ := by
  have hb : bitsOf v.toNat 31 1 = 1 := by
    rw [bitsOf_one]
    exact congrArg Bool.toNat hv
  have hp : bitsOf v.toNat 0 20 = v.toNat % 2 ^ 20 := by simp [bitsOf]
  have hk : ∀ (l : List Nat) (s : State), (l.foldl State.setDefunct s).ctl = s.ctl :=
    foldl_keeps State.ctl fun s q => by
      unfold State.setDefunct
      simp only
      split <;> rfl
  unfold writePtd
  generalize upTo 4096 = qs
  rw [if_neg (Bool.eq_false_iff.1 h)]
  simp only [hb, if_neg Nat.one_ne_zero, hp]
  refine ⟨_, ?_, rfl⟩
  rw [hk, ← ptd_fields hv]

/-- Outstanding fetches of a teardown complete, and their records are queued (R391, step 2). -/
theorem teardownComplete_gone {s : State} {p : Nat} {l : List (Nat × Nat)} (h : s.teardown = some ⟨p, l⟩) (hl : l ≠ []) :
    ∃ t, exec .teardownComplete s = .next t ∧ t.teardown = some ⟨p, []⟩ := by
  have hb : (!l.isEmpty) = true := by simpa using hl
  refine ⟨_, rfl, ?_⟩
  simp only [h, hb, if_true]

/-- A teardown whose records are written ends: the PASID's V is 0, and BSY clears (R391, step 4). -/
theorem teardownComplete_ends {s : State} {p : Nat} (h : s.teardown = some ⟨p, []⟩) (hr : ∀ r ∈ s.recq, r.isGone = false) :
    exec .teardownComplete s = .next { s with
      mem := writeNat s.mem (s.ctl.ptb.toNat / 2 ^ 23 * 2 ^ 23 % 2 ^ 52 + 8 * p) 8
        (readNat s.mem (s.ctl.ptb.toNat / 2 ^ 23 * 2 ^ 23 % 2 ^ 52 + 8 * p) 8 -
          readNat s.mem (s.ctl.ptb.toNat / 2 ^ 23 * 2 ^ 23 % 2 ^ 52 + 8 * p) 8 / 2 ^ 16 % 2 * 2 ^ 16)
      ctl := { s.ctl with ptd := s.ctl.ptd &&& ~~~0x80000000#64 }
      teardown := none } := by
  have hg : s.recq.any QRec.isGone = false := by simpa using hr
  change execTeardownComplete s = _
  simp only [execTeardownComplete, h, hg]
  rfl

/-! ## Domain queues -/

section Records

variable {s a : State} {r : QRec} {y : Dom} {ws : List W64} (hd : s.dom? r.dom = some y) (hq : r.q < y.dqn)
  (hg : devGet s ⟨0, r.dom, y.asid⟩ .read (y.dqb + 32 * r.q) 4 = (a, .ok ws)) (hok : dqOk ws = true)
include hd hq hg hok

/-- A queue without room for a record takes none (R108). -/
theorem writeRecord_full (hf : 2 ^ bitsOf (nth ws 1 0).toNat 0 5 <
      ((nth ws 2 0).toNat / 2 ^ 32 + 2 ^ 32 - (nth ws 2 0).toNat % 2 ^ 32) % 2 ^ 32 + (r.bytes.length + 15) / 16) :
    writeRecord s r = none := by
  simp only [writeRecord, hd, if_neg (Nat.not_le.2 hq), hg, hok, Bool.not_true, Bool.false_eq_true, if_false, if_pos hf]

/-- A record is written into its slots, TAIL moves on, and the queue's signal goes out (R382). -/
theorem writeRecord_writes {b c : State} (hf : ((nth ws 2 0).toNat / 2 ^ 32 + 2 ^ 32 - (nth ws 2 0).toNat % 2 ^ 32) % 2 ^ 32 +
      (r.bytes.length + 15) / 16 ≤ 2 ^ bitsOf (nth ws 1 0).toNat 0 5)
    (hw : writeSlots ⟨0, r.dom, y.asid⟩ (nth ws 0 0).toNat (bitsOf (nth ws 1 0).toNat 0 5) ((nth ws 2 0).toNat / 2 ^ 32)
      ((r.bytes.length + 15) / 16) r.bytes a = (b, true))
    (hp : devPut b ⟨0, r.dom, y.asid⟩ (y.dqb + 32 * r.q + 16) [BitVec.ofNat 64
      (((nth ws 2 0).toNat / 2 ^ 32 + (r.bytes.length + 15) / 16) % 2 ^ 32 * 2 ^ 32 + (nth ws 2 0).toNat % 2 ^ 32)] =
      (c, none)) :
    writeRecord s r = some { c with signals := c.signals ++
      (if bitsOf (nth ws 1 0).toNat 8 2 = 1 then [.summit (bitsOf (nth ws 1 0).toNat 16 10)]
       else if bitsOf (nth ws 1 0).toNat 8 2 = 2 then [.msix y.fn (bitsOf (nth ws 1 0).toNat 16 10)] else []) } := by
  simp only [writeRecord, hd, if_neg (Nat.not_le.2 hq), hg, hok, Bool.not_true, Bool.false_eq_true, if_false,
    if_neg (Nat.not_lt.2 hf), hw, hp]

end Records

/-- The oldest record of a domain queue is written, or waits. -/
theorem domainQueueRecordWrite_eq {s : State} {d q : Nat} {r : QRec}
    (h : s.recq.find? (fun r => r.dom == d && r.q == q) = some r) :
    exec (.domainQueueRecordWrite d q) s =
      .next ((writeRecord { s with recq := s.recq.eraseP fun x => x.dom == d && x.q == q } r).getD s) := by
  change execDomainQueueRecordWrite d q s = _
  simp only [execDomainQueueRecordWrite, h]
  split <;> rename_i hw <;> rw [hw] <;> rfl

/-! ## Gating -/

/-- A queue wakes its lintel, or a packet is still to be fetched or presented (R392). -/
def State.busyQueues (s : State) : Bool := (s.ctl.notify.any fun n => n.wake || s.hasPacket n.q) || !s.fetched.isEmpty

theorem gatingSequence_eq (s : State) :
    exec .gatingSequence s = .next (if s.busyQueues then s else { s with gated := true }) := rfl

/-- Queues are busy by a flag, a packet in a ring, or one that is fetched. -/
theorem busyQueues_iff (s : State) : s.busyQueues = true ↔
    (∃ n ∈ s.ctl.notify, n.wake = true ∨ s.hasPacket n.q = true) ∨ s.fetched ≠ [] := by
  simp [State.busyQueues]

/-! ## Root registers -/

/-- The writers of the root registers, while no spur is placed (R264). -/
def State.mayRoot (s : State) (w : Writer) : Bool := isPriv (unheld w) && s.noneplaced

theorem mayRoot_iff (s : State) (w : Writer) :
    s.mayRoot w = true ↔ (w = .keystone ∨ w = .summit) ∧ ∀ x ∈ s.spurs, x.placed = false := by
  cases w <;> simp [State.mayRoot, isPriv, unheld, State.noneplaced]

/-- A write of a root register reaches device control space (R440). -/
theorem registerWrite_eq (s : State) (w : Writer) {o : Nat} (ho : o ∈ [0x10000, 0x10008, 0x10010, 0x10018]) (v : W64) :
    exec (.registerWrite w (ctlBase + o) v) s = .next (ctlWrite s (unheld w) o v) := by
  change execRegisterWrite w (ctlBase + o) v s = _
  rw [execRegisterWrite, Nat.add_sub_cancel_left, if_pos]
  revert o
  decide

/-- Nobody else writes the root registers. -/
theorem ctlWrite_root_kept {s : State} {w : Writer} (h : s.mayRoot w = false) {o : Nat}
    (ho : o ∈ [0x10000, 0x10008, 0x10010, 0x10018]) (v : W64) : ctlWrite s (unheld w) o v = s := by
  have hr : (isPriv (unheld w) && s.noneplaced) = false := h
  unfold ctlWrite
  split
  · rfl
  · simp only [List.mem_cons, List.not_mem_nil, or_false] at ho
    rcases ho with rfl | rfl | rfl | rfl <;> simp [ctlReg, hr]

/-- The keystone core and the summit write each root register's field (R264). -/
theorem ctlWrite_root {s : State} {w : Writer} (h : s.mayRoot w = true) (v : W64) :
    ctlWrite s (unheld w) 0x10000 v = { s with ctl := { s.ctl with atb := keepBits v 19 51 } } ∧
    ctlWrite s (unheld w) 0x10008 v = { s with ctl := { s.ctl with ddb := keepBits v 19 51 } } ∧
    ctlWrite s (unheld w) 0x10010 v = { s with ctl := { s.ctl with ptb := keepBits v 23 51 } } ∧
    ctlWrite s (unheld w) 0x10018 v = { s with ctl := { s.ctl with cqb := keepBits v 18 51 } } := by
  have hr : (isPriv (unheld w) && s.noneplaced) = true := h
  have hw : ∀ o, ctlReaches (unheld w) o = true := by
    rcases ((mayRoot_iff s w).1 h).1 with rfl | rfl <;> exact fun _ => rfl
  simp [ctlWrite, hw, ctlReg, hr]

theorem deviceRegisters : Says.DeviceRegisters := by
  intro s w v
  refine ⟨fun h => pasidTeardown_busy h v, fun h hv => ?_, fun p l => teardownComplete_gone, fun p => teardownComplete_ends,
    ?_, fun h hf => ?_, fun h => ?_, fun hw hs => ?_, fun h o ho => ?_⟩
  · obtain ⟨l, h⟩ := writePtd_starts h hv
    exact ⟨_, l, rfl, h⟩
  · intro d q r y a b c ws hr u at_ va w1 w2 k hd hq hg hok
    rw [domainQueueRecordWrite_eq hr]
    constructor
    · intro hf
      rw [writeRecord_full hd hq hg hok hf]
      rfl
    · intro hf hw hp
      rw [writeRecord_writes hd hq hg hok hf hw hp]
      rfl
  · have hb : ¬ s.busyQueues = true := by
      rw [busyQueues_iff]
      rintro (⟨n, hn, hx⟩ | hx)
      · simp [h n hn] at hx
      · exact hx hf
    rw [gatingSequence_eq, if_neg hb]
  · rw [gatingSequence_eq, if_pos ((busyQueues_iff s).2 h)]
  · obtain ⟨h1, h2, h3, h4⟩ := ctlWrite_root ((mayRoot_iff s w).2 ⟨hw, hs⟩) v
    have he (o : Nat) (ho : o ∈ [0x10000, 0x10008, 0x10010, 0x10018]) := registerWrite_eq s w ho v
    exact ⟨(he _ (by decide)).trans (congrArg _ h1), (he _ (by decide)).trans (congrArg _ h2),
      (he _ (by decide)).trans (congrArg _ h3), (he _ (by decide)).trans (congrArg _ h4)⟩
  · have hm : s.mayRoot w = false := by
      refine Bool.eq_false_iff.2 fun hm => ?_
      obtain ⟨hw, hs⟩ := (mayRoot_iff s w).1 hm
      rcases h with h | ⟨x, hx, hp⟩
      · exact hw.elim h.1 h.2
      · simp [hs x hx] at hp
    rw [registerWrite_eq s w ho, ctlWrite_root_kept hm ho]

/-- Settles O57: each event of a command queue, and each register and queue of the device. -/
theorem queuesAndRegisters : Obligations.QueuesAndRegisters := ⟨queueEvents, deviceRegisters⟩

end Sys2Proof.Machine
end

section
/-! SUPPORT. Words and their fields (R26 to R28): what the fields of a word in each layout are, what a guard's half of a word
gives back (R35 to R39), and the round trips of operand codes and of the names in a word (R30, R31). -/

namespace Sys2Proof

open Machine

/-! ## Fields of a word -/

@[simp] theorem extract_append_low {v w s l : Nat} (x : BitVec v) (y : BitVec w) (h : s + l ≤ w) :
    BitVec.extractLsb' (n := no_index (v + w)) s l (no_index (x ++ y)) = y.extractLsb' s l :=
  BitVec.extractLsb'_append_eq_of_add_le h

@[simp] theorem extract_append_high {v w s l : Nat} (x : BitVec v) (y : BitVec w) (h : w ≤ s) :
    BitVec.extractLsb' (n := no_index (v + w)) s l (no_index (x ++ y)) = x.extractLsb' (s - w) l :=
  BitVec.extractLsb'_append_eq_of_le h

@[simp] theorem getLsbD_append_low {v w i : Nat} (x : BitVec v) (y : BitVec w) (h : i < w) :
    BitVec.getLsbD (w := no_index (v + w)) (no_index (x ++ y)) i = y.getLsbD i := by
  simp [BitVec.getLsbD_append, h]

@[simp] theorem getLsbD_append_high {v w i : Nat} (x : BitVec v) (y : BitVec w) (h : w ≤ i) :
    BitVec.getLsbD (w := no_index (v + w)) (no_index (x ++ y)) i = x.getLsbD (i - w) := by
  simp [BitVec.getLsbD_append, Nat.not_lt.2 h]

@[simp] theorem extract_extract {w s l t m : Nat} (x : BitVec w) (h : t + m ≤ l) :
    (x.extractLsb' s l).extractLsb' t m = x.extractLsb' (s + t) m := by
  ext i hi
  simp [show t + i < l by omega, Nat.add_assoc]

@[simp] theorem extract_setWidth_above {v w s l : Nat} (x : BitVec w) (h : w ≤ s) :
    (x.setWidth v).extractLsb' s l = 0#l := by
  refine BitVec.eq_of_getLsbD_eq fun i _ => ?_
  simp [BitVec.getLsbD_of_ge x (s + i) (by omega)]

/-- Two fields side by side are a value exactly when each is its part of it. -/
theorem append_eq_iff {v w : Nat} (x : BitVec v) (y : BitVec w) (z : BitVec (v + w)) :
    @Eq (no_index (BitVec (v + w))) (no_index (x ++ y)) z ↔ x = z.extractLsb' w v ∧ y = z.extractLsb' 0 w := by
  constructor
  · rintro rfl
    simp
  · rintro ⟨rfl, rfl⟩
    exact BitVec.extractLsb'_append_extractLsb'

/-- A value widened is a wider one exactly when it is its low part and the rest is 0. -/
theorem setWidth_eq_iff {v w : Nat} (h : w ≤ v) (x : BitVec w) (z : BitVec v) :
    x.setWidth v = z ↔ x = z.extractLsb' 0 w ∧ z.extractLsb' w (v - w) = 0#(v - w) := by
  constructor
  · rintro rfl
    simp [BitVec.extractLsb'_setWidth_of_le, h]
  · rintro ⟨rfl, hz⟩
    refine BitVec.eq_of_getLsbD_eq fun i hi => ?_
    by_cases hw : i < w
    · simp [hi, hw]
    · have hi' : z.getLsbD i = false := by
        simpa [show i - w < v - w by omega, show w + (i - w) = i by omega] using congrArg (·.getLsbD (i - w)) hz
      simp [hw, hi', -BitVec.getLsbD_eq_getElem]

theorem ofBool_getLsbD {w : Nat} (x : BitVec w) (i : Nat) : BitVec.ofBool (x.getLsbD i) = x.extractLsb' i 1 := by
  refine BitVec.eq_of_getLsbD_eq ?_
  simp

@[simp] theorem ofBool_beq_one : ∀ x : BitVec 1, BitVec.ofBool (x == 1#1) = x := by decide

@[simp] theorem beq_one_ofBool (b : Bool) : (BitVec.ofBool b == 1#1) = b := by cases b <;> rfl

/-- A word is its guard's half and its fields (R26). -/
theorem word_ext {v w : W64} (hh : v.extractLsb' 32 32 = w.extractLsb' 32 32) (hf : Fields.of v = Fields.of w) : v = w := by
  have h (u : W64) : u.extractLsb' 32 32 ++ (Fields.of u).op ++ (Fields.of u).d ++ (Fields.of u).a ++ (Fields.of u).b ++
      (Fields.of u).f = u := by
    simp only [Fields.of, BitVec.extractLsb'_append_extractLsb'_eq_extractLsb', BitVec.extractLsb'_eq_self]
  rw [← h v, ← h w, hh, hf]

/-! ## Layouts (R28) -/

@[simp] theorem of_wordA3 (hi op d a b f) : Fields.of (wordA3 hi op d a b f) = ⟨op, d, a, b, f⟩ := by
  simp [wordA3, Fields.of]

@[simp] theorem high_wordA3 (hi op d a b f) : (wordA3 hi op d a b f).extractLsb' 32 32 = hi := by
  simp [wordA3]

@[simp] theorem of_wordI12 (hi op d a imm) :
    Fields.of (wordI12 hi op d a imm) = ⟨op, d, a, imm.extractLsb' 6 6, imm.extractLsb' 0 6⟩ := by
  simp [wordI12, Fields.of]

@[simp] theorem high_wordI12 (hi op d a imm) : (wordI12 hi op d a imm).extractLsb' 32 32 = hi := by
  simp [wordI12]

@[simp] theorem of_wordI18 (hi op d imm) :
    Fields.of (wordI18 hi op d imm) = ⟨op, d, imm.extractLsb' 12 6, imm.extractLsb' 6 6, imm.extractLsb' 0 6⟩ := by
  simp [wordI18, Fields.of]

@[simp] theorem high_wordI18 (hi op d imm) : (wordI18 hi op d imm).extractLsb' 32 32 = hi := by
  simp [wordI18]

@[simp] theorem of_wordC9 (hi op d a c imm) :
    Fields.of (wordC9 hi op d a c imm) = ⟨op, d, a, c ++ imm.extractLsb' 6 3, imm.extractLsb' 0 6⟩ := by
  simp [wordC9, Fields.of, eq_comm, append_eq_iff]

@[simp] theorem high_wordC9 (hi op d a c imm) : (wordC9 hi op d a c imm).extractLsb' 32 32 = hi := by
  simp [wordC9]

@[simp] theorem of_wordAM (hi op d a b o w ord sc) :
    Fields.of (wordAM hi op d a b o w ord sc) = ⟨op, d ++ a.extractLsb' 2 2, a.extractLsb' 0 2 ++ b, o ++ w, ord ++ sc⟩ := by
  simp [wordAM, Fields.of, eq_comm, append_eq_iff]

@[simp] theorem high_wordAM (hi op d a b o w ord sc) : (wordAM hi op d a b o w ord sc).extractLsb' 32 32 = hi := by
  simp [wordAM]

@[simp] theorem Fields.imm12_mk (op d a b f) : (Fields.mk op d a b f).imm12 = b ++ f := rfl
@[simp] theorem Fields.imm9_mk (op d a b f) : (Fields.mk op d a b f).imm9 = b.extractLsb' 0 3 ++ f := rfl
@[simp] theorem Fields.cond_mk (op d a b f) : (Fields.mk op d a b f).cond = b.extractLsb' 3 3 := rfl
@[simp] theorem Fields.imm18_mk (op d a b f) : (Fields.mk op d a b f).imm18 = a ++ b ++ f := rfl

@[simp] theorem Fields.amD_mk (op d a b f) : (Fields.mk op d a b f).amD = d.extractLsb' 2 4 := by
  simp [Fields.amD, Fields.low24]

@[simp] theorem Fields.amA_mk (op d a b f) : (Fields.mk op d a b f).amA = d.extractLsb' 0 2 ++ a.extractLsb' 4 2 := by
  simp [Fields.amA, Fields.low24, eq_comm, append_eq_iff]

@[simp] theorem Fields.amB_mk (op d a b f) : (Fields.mk op d a b f).amB = a.extractLsb' 0 4 := by
  simp [Fields.amB, Fields.low24]

@[simp] theorem Fields.amOp_mk (op d a b f) : (Fields.mk op d a b f).amOp = b.extractLsb' 2 4 := by
  simp [Fields.amOp, Fields.low24]

@[simp] theorem Fields.amW_mk (op d a b f) : (Fields.mk op d a b f).amW = b.extractLsb' 0 2 := by
  simp [Fields.amW, Fields.low24]

@[simp] theorem Fields.amOrd_mk (op d a b f) : (Fields.mk op d a b f).amOrd = f.extractLsb' 3 3 := by
  simp [Fields.amOrd, Fields.low24]

@[simp] theorem Fields.amScope_mk (op d a b f) : (Fields.mk op d a b f).amScope = f.extractLsb' 0 3 := by
  simp [Fields.amScope, Fields.low24]

/-! ## Guards (R35 to R39) -/

@[simp] theorem Guard.form_b (g : BGuard) : (Guard.b g).form = .brick := rfl
@[simp] theorem Guard.form_s (g : SGuard) : (Guard.s g).form = .seq := rfl
@[simp] theorem Guard.bits_b (g : BGuard) : (Guard.b g).bits = g.bits := rfl
@[simp] theorem Guard.bits_s (g : SGuard) : (Guard.s g).bits = g.bits := rfl

theorem Guard.ofBits_bits (g : Guard) : Guard.ofBits g.form g.bits = g := by
  cases g with
  | b g =>
    obtain ⟨pm, pv, iae, ia, ibe, ib, oe, oq, tg, te, ck⟩ := g
    simp [Guard.ofBits, BGuard.ofBits, BGuard.bits, -BitVec.getLsbD_eq_getElem]
  | s g => simp [Guard.ofBits, SGuard.ofBits, SGuard.bits, -BitVec.getLsbD_eq_getElem]

@[simp] theorem Guard.bits_ofBits (fm : Form) (h : BitVec 32) : (Guard.ofBits fm h).bits = h := by
  cases fm with
  | brick =>
    simp [Guard.ofBits, BGuard.ofBits, BGuard.bits, append_eq_iff, ofBool_getLsbD, -BitVec.getLsbD_eq_getElem]
  | seq => simp [Guard.ofBits, SGuard.ofBits, SGuard.bits, append_eq_iff, ofBool_getLsbD, -BitVec.getLsbD_eq_getElem]

@[simp] theorem Guard.form_ofBits (fm : Form) (h : BitVec 32) : (Guard.ofBits fm h).form = fm := by
  cases fm <;> rfl

/-! ## Operand codes (R30, R31) -/

theorem opndOf_code {fm : Form} {o : Opnd} (h : o.inForm fm = true) : opndOf fm o.code = some o := by
  cases fm <;> cases o <;> first | contradiction | rfl | (rename_i n; revert n; decide)

theorem code_opndOf {fm : Form} {c : BitVec 6} (h : (opndOf fm c).isNone = false) : ((opndOf fm c).getD .z).code = c := by
  revert c
  cases fm <;> decide

theorem Opnd.inForm_of_srcOk {g : Guard} {o : Opnd} (h : o.srcOk g = true) : o.inForm g.form = true := by
  cases g <;> cases o <;> first | rfl | exact absurd h Bool.false_ne_true

theorem Opnd.inForm_of_dstUse {g : Guard} {o : Opnd} (h : o.dstUse g = true) : o.inForm g.form = true := by
  cases g <;> cases o <;> first | rfl | exact absurd h Bool.false_ne_true

theorem opndOf_code_of_srcOk {g : Guard} {o : Opnd} (h : o.srcOk g = true) : opndOf g.form o.code = some o :=
  opndOf_code (Opnd.inForm_of_srcOk h)

theorem opndOf_code_of_dstUse {g : Guard} {o : Opnd} (h : o.dstUse g = true) : opndOf g.form o.code = some o :=
  opndOf_code (Opnd.inForm_of_dstUse h)

@[simp] theorem opndOf_code_z : opndOf .seq Opnd.z.code = some .z := rfl
@[simp] theorem opndOf_code_sw : opndOf .brick 0x32#6 = some .sw := rfl
@[simp] theorem opndOf_code_d : ∀ k : BitVec 4, opndOf .brick (k.setWidth 6) = some (.d k) := by decide
@[simp] theorem Opnd.dstUse_sw {g : BGuard} : Opnd.dstUse (.b g) .sw = true := rfl
@[simp] theorem Opnd.dstUse_d {g : BGuard} {k} : Opnd.dstUse (.b g) (.d k) = true := rfl
@[simp] theorem Opnd.outOk_sw {g : BGuard} : Opnd.outOk (.b g) .sw = true := rfl
@[simp] theorem Opnd.outOk_d {g : BGuard} {k} : Opnd.outOk (.b g) (.d k) = true := rfl

/-! ## Names in a word -/

@[simp] theorem FFmt.ofBits_bits (x : FFmt) : FFmt.ofBits x.bits = some x := by cases x <;> rfl
@[simp] theorem FFmt.bits_ofBits : ∀ b, (FFmt.ofBits b).isNone = false → ((FFmt.ofBits b).getD .f32).bits = b := by
  decide

@[simp] theorem VFmt.ofBits_bits (x : VFmt) : VFmt.ofBits x.bits = some x := by cases x <;> rfl
@[simp] theorem VFmt.bits_ofBits : ∀ b, (VFmt.ofBits b).isNone = false → ((VFmt.ofBits b).getD .f32).bits = b := by
  decide

@[simp] theorem Rm.ofBits_bits (x : Rm) : Rm.ofBits x.bits = some x := by cases x <;> rfl
@[simp] theorem Rm.bits_ofBits : ∀ b, (Rm.ofBits b).isNone = false → ((Rm.ofBits b).getD .rne).bits = b := by
  decide

@[simp] theorem FCond.ofBits_bits (x : FCond) : FCond.ofBits x.bits = some x := by cases x <;> rfl
@[simp] theorem FCond.bits_ofBits : ∀ b, (FCond.ofBits b).isNone = false → ((FCond.ofBits b).getD .eq).bits = b := by
  decide

@[simp] theorem Cond.ofBits_bits (x : Cond) : Cond.ofBits x.bits = some x := by cases x <;> rfl
@[simp] theorem Cond.bits_ofBits : ∀ b, (Cond.ofBits b).isNone = false → ((Cond.ofBits b).getD .eq).bits = b := by
  decide

@[simp] theorem CFmt.ofBits_bits (x : CFmt) : CFmt.ofBits x.bits = some x := by cases x <;> rfl
@[simp] theorem CFmt.bits_ofBits : ∀ b, (CFmt.ofBits b).isNone = false → ((CFmt.ofBits b).getD .f32).bits = b := by
  decide

@[simp] theorem KFmt.ofBits_bits (x : KFmt) : KFmt.ofBits x.bits = some x := by cases x <;> rfl
@[simp] theorem KFmt.bits_ofBits : ∀ b, (KFmt.ofBits b).isNone = false → ((KFmt.ofBits b).getD .k8).bits = b := by
  decide

@[simp] theorem SFmt.ofBits_bits (x : SFmt) : SFmt.ofBits x.bits = some x := by cases x <;> rfl
@[simp] theorem SFmt.bits_ofBits : ∀ b, (SFmt.ofBits b).isNone = false → ((SFmt.ofBits b).getD .k8).bits = b := by
  decide

@[simp] theorem MMode.ofBits_bits (x : MMode) : MMode.ofBits x.bits = some x := by cases x <;> rfl
@[simp] theorem MMode.bits_ofBits : ∀ b, (MMode.ofBits b).isNone = false → ((MMode.ofBits b).getD .cv).bits = b := by
  decide

@[simp] theorem Size.ofBits_bits (x : Size) : Size.ofBits x.bits = some x := by cases x <;> rfl
@[simp] theorem Size.bits_ofBits : ∀ b, (Size.ofBits b).isNone = false → ((Size.ofBits b).getD .w).bits = b := by
  decide

@[simp] theorem AOrd.ofBits_bits (x : AOrd) : AOrd.ofBits x.bits = some x := by cases x <;> rfl
@[simp] theorem AOrd.bits_ofBits : ∀ b, (AOrd.ofBits b).isNone = false → ((AOrd.ofBits b).getD .rlx).bits = b := by
  decide

@[simp] theorem FOrd.ofBits_bits (x : FOrd) : FOrd.ofBits x.bits = some x := by cases x <;> rfl
@[simp] theorem FOrd.bits_ofBits : ∀ b, (FOrd.ofBits b).isNone = false → ((FOrd.ofBits b).getD .acq).bits = b := by
  decide

@[simp] theorem EOrd.ofBits_bits (x : EOrd) : EOrd.ofBits x.bits = some x := by cases x <;> rfl
@[simp] theorem EOrd.bits_ofBits : ∀ b, (EOrd.ofBits b).isNone = false → ((EOrd.ofBits b).getD .rel).bits = b := by
  decide

@[simp] theorem Scope.ofBits_bits (x : Scope) : Scope.ofBits x.bits = some x := by cases x <;> rfl
@[simp] theorem Scope.bits_ofBits : ∀ b, (Scope.ofBits b).isNone = false → ((Scope.ofBits b).getD .brick).bits = b := by
  decide

@[simp] theorem Port.ofBits_bits (x : Port) : Port.ofBits x.bits = some x := by cases x <;> rfl
@[simp] theorem Port.bits_ofBits : ∀ b, (Port.ofBits b).isNone = false → ((Port.ofBits b).getD .sa).bits = b := by
  decide

@[simp] theorem HdrField.ofBits_bits (x : HdrField) : HdrField.ofBits x.bits = some x := by cases x <;> rfl
@[simp] theorem HdrField.bits_ofBits : ∀ b, (HdrField.ofBits b).isNone = false → ((HdrField.ofBits b).getD .user).bits = b := by
  decide

@[simp] theorem TileIdx.ofBits_bits (x : TileIdx) : TileIdx.ofBits x.bits = some x := by cases x <;> rfl
@[simp] theorem TileIdx.bits_ofBits : ∀ b, (TileIdx.ofBits b).isNone = false → ((TileIdx.ofBits b).getD .m0).bits = b := by
  decide

@[simp] theorem FarmPol.ofBits_bits (x : FarmPol) : FarmPol.ofBits x.bits = some x := by cases x <;> rfl
@[simp] theorem FarmPol.bits_ofBits : ∀ b, (FarmPol.ofBits b).isNone = false → ((FarmPol.ofBits b).getD .rr).bits = b := by
  decide

@[simp] theorem CFmt.isNone_ofBits : ∀ b, (CFmt.ofBits b).isNone = false := by decide

@[simp] theorem QSel.ofBits_bits (q : QSel) : QSel.ofBits q.bits = some q := by
  cases q <;> (rename_i n; revert n; decide)

@[simp] theorem QSel.bits_bit3 (q : QSel) : q.bits.extractLsb' 3 1 = 0#1 := by
  cases q <;> (rename_i n; revert n; decide)

theorem QSel.bits_ofBits : ∀ f, (QSel.ofBits f).isSome = true → f.extractLsb' 3 1 = 0#1 →
    ((QSel.ofBits f).getD (.i 0#3)).bits = f := by decide

/-! ## A predicate that may be absent -/

theorem optPred_predBits (f : BitVec 2) (p : Option (BitVec 3)) : optPred (f ++ predBits p) = p := by
  revert f p
  decide

theorem predBits_optPred : ∀ f, ¬(f.extractLsb' 3 1 = 0 ∧ f.extractLsb' 0 3 ≠ 0) →
    predBits (optPred f) = f.extractLsb' 0 4 := by decide

theorem predBits_absent (p : Option (BitVec 3)) (h : (predBits p).extractLsb' 3 1 = 0#1) :
    (predBits p).extractLsb' 0 3 = 0#3 := by
  revert p
  decide

theorem low4_eq_zero : ∀ f : BitVec 6,
    0#4 = f.extractLsb' 0 4 ↔ f.extractLsb' 3 1 = 0#1 ∧ f.extractLsb' 0 3 = 0#3 := by decide

/-! ## Checks (R47) -/

theorem leastFail_eq_none {l : List Chk} : leastFail l = none ↔ ∀ c ∈ l, c.1 = false := by
  induction l with
  | nil => simp [leastFail]
  | cons c l ih =>
    obtain ⟨b, e⟩ := c
    cases b with
    | false => simpa [leastFail] using ih
    | true => cases h : leastFail l <;> simp [leastFail, h]; split <;> simp

/-- No check of a list fails. -/
def Passes (l : List Chk) : Prop := ∀ c ∈ l, c.1 = false

@[simp] theorem passes_nil : Passes [] := by simp [Passes]

@[simp] theorem passes_cons {b e l} : Passes ((b, e) :: l) ↔ b = false ∧ Passes l := by
  simp [Passes, -Prod.forall]

@[simp] theorem passes_append {l m} : Passes (l ++ m) ↔ Passes l ∧ Passes m := by
  simp only [Passes, List.forall_mem_append]

theorem Instr.wf_iff {i : Instr} : i.wf = true ↔ i.isEvent = false ∧ Passes i.checks := by
  simp [Instr.wf, Passes]

@[simp] theorem passes_srcC {g o} : Passes (srcC g o) ↔ o.srcOk g = true ∧ opndOf g.form o.code = some o := by
  simpa [srcC] using opndOf_code_of_srcOk

@[simp] theorem passes_dstEC {g o} :
    Passes (dstEC g o) ↔ (o.dstUse g = true ∧ o.outOk g = true) ∧ opndOf g.form o.code = some o := by
  simpa [dstEC] using fun h _ => opndOf_code_of_dstUse h

theorem dstC_eq (g o) : dstC g o = dstEC g o ++ [(o.isE, .operandRule)] := rfl

@[simp] theorem passes_dstC {g o} : Passes (dstC g o) ↔ Passes (dstEC g o) ∧ o.isE = false := by simp [dstC_eq]
@[simp] theorem passes_regC {g o} : Passes (regC g o) ↔ Passes (dstC g o) ∧ o.isReg = true := by simp [regC]
@[simp] theorem passes_oqC {g e o} : Passes (oqC g e o) ↔ Passes (dstC (.b g) o) ∧ o.isOut = true := by simp [oqC]

@[simp] theorem passes_predC {g dst o} :
    Passes (predC g dst o) ↔ Passes (if dst then dstC g o else srcC g o) ∧ o.isPred = true := by
  cases dst <;> simp [predC]

@[simp] theorem passes_headC {g z o} :
    Passes (headC g z o) ↔ Passes (srcC g o) ∧ (!(o.isHead || (z && o == .z))) = false := by
  simp only [headC, passes_append, passes_srcC, passes_cons, passes_nil, and_true]

@[simp] theorem passes_engC {g o} :
    Passes (engC g o) ↔ Passes (dstEC g o) ∧ (match g with | .b _ => o.isOut | .s _ => o.isE) = true := by
  cases g <;> simp [engC]

@[simp] theorem passes_gzC {o} : Passes (gzC o) ↔ ((∃ n, o = .g n) ∨ o = .z) ∧ opndOf .seq o.code = some o := by
  have h (o : Opnd) (ho : (∃ n, o = .g n) ∨ o = .z) : opndOf .seq o.code = some o := by
    obtain ⟨n, rfl⟩ | rfl := ho <;> exact opndOf_code rfl
  rw [and_iff_left_of_imp (h o)]
  cases o <;> simp [gzC]

end Sys2Proof
end

section
/-! SUPPORT. Decoding an encoded word (R46, R47): each instruction's own word leads the decoder to that instruction. -/

namespace Sys2Proof

open Machine

/-- What a decoder's answer says of an instruction whose checks pass: it is that instruction, and the word's own checks
pass too. -/
def Gives (r : Except DecodeError Raw) (i : Instr) : Prop := Passes i.checks → ∃ raw, r = finish raw i ∧ Passes raw

theorem gives_finish {raw i j} (h : Passes i.checks → j = i ∧ Passes raw) : Gives (finish raw j) i := by
  intro hw
  obtain ⟨rfl, hr⟩ := h hw
  exact ⟨raw, rfl, hr⟩

/-- A decoder that asks for one more field gives the instruction on the side that the field takes. -/
theorem gives_ite {i n} {x y : BitVec n} {p q} (h : x ≠ y ∧ Gives q i ∨ x = y ∧ Gives p i) :
    Gives (if x == y then p else q) i := by
  obtain ⟨h, hq⟩ | ⟨h, hp⟩ := h
  · simpa [h] using hq
  · simpa [h] using hp

theorem decode_of_gives {g : Guard} {i w f} (hh : w.extractLsb' 32 32 = g.bits) (hf : Fields.of w = f)
    (h : Gives (decodeOp g f) i) (hw : i.wf = true) : decode g.form w = .ok i := by
  obtain ⟨-, hc⟩ := Instr.wf_iff.1 hw
  obtain ⟨raw, he, hr⟩ := h hc
  have hn : leastFail (raw ++ i.checks) = none := leastFail_eq_none.2 (passes_append.2 ⟨hr, hc⟩)
  simp [decode, decodeRaw, hh, hf, Guard.ofBits_bits, he, finish, hn]

/-- The word of a well-formed instruction decodes to it. -/
def DecodesOwnWord (i : Instr) : Prop :=
  ∀ (w : W64) (g : Guard), i.wf = true → encode i = some w → guardOf i = some g → decode g.form w = .ok i

/-- `loop` asks for a register other than `g0`, a check that the others do not share. -/
theorem loop_decodesOwnWord (g : SGuard) (d : Opnd) : DecodesOwnWord (.loop g d) := by
  rintro w _ hw ⟨⟩ ⟨⟩
  refine decode_of_gives (by simp) (by simp; rfl) ?_ hw
  refine gives_finish fun hc => ?_
  simp [Instr.checks] at hc
  obtain ⟨-, hd⟩ := hc
  cases d with
  | g n => simp [show opndOf .seq (Opnd.g n).code = some (.g n) from opndOf_code rfl]
  | _ => exact absurd hd Bool.false_ne_true

/-- `crd` in a brick names no operand A, and in a thread it does (R98). -/
theorem crd_decodesOwnWord (g : Guard) (d a : Opnd) (c : BitVec 12) : DecodesOwnWord (.crd g d a c) := by
  rintro w _ hw ⟨⟩ ⟨⟩
  refine decode_of_gives (by simp) (by simp; rfl) ?_ hw
  refine gives_finish fun hc => ?_
  simp [Instr.checks] at hc
  obtain ⟨-, -, -, hb, hs⟩ := id hc
  have ha : opndOf g.form a.code = some a := by
    cases g with
    | b g => rw [hb rfl]; rfl
    | s g => exact opndOf_code_of_srcOk (hs rfl)
  simp [append_eq_iff, hc, ha]

/-! The instructions in the order of their constructors, in ranges that each fit one declaration: the decoder is led along
the opcode and the fields of function to the instruction's own name, whose operands and fields come back by the round trips
above. -/

/-- The instructions of a range of constructors decode from their own words. -/
def DecodeOwnWords (lo hi : Nat) : Prop := ∀ i : Instr, lo ≤ i.ctorIdx → i.ctorIdx < hi → DecodesOwnWord i

/-- Predicates, tokens, integers, floats and the opening of streams. -/
theorem decodeOwnWords_0_105 : DecodeOwnWords 0 105 := by
  intro i hl hu w g hw he hg
  cases i
  all_goals first
    | exact absurd hu (Nat.not_lt_of_le (Nat.le_of_ble_eq_true rfl))
    | (cases he; cases hg; refine decode_of_gives (by simp) (by simp; rfl) ?_ hw)
  all_goals
    repeat' first
      | refine gives_finish fun hc => ?_
      | refine gives_ite ?_
      | (refine Or.inl ⟨?_, ?_⟩; focus (simp; done))
      | (refine Or.inr ⟨?_, ?_⟩; focus simp)
  all_goals
    simp [Instr.checks] at hc
    simp +contextual [append_eq_iff, hc]

/-- Streams, packing, matrices, sparse fibres, jobs, and the loads and stores. -/
theorem decodeOwnWords_105_180 : DecodeOwnWords 105 180 := by
  intro i hl hu w g hw he hg
  cases i
  all_goals first
    | exact absurd hl (Nat.not_le_of_lt (Nat.le_of_ble_eq_true rfl))
    | exact absurd hu (Nat.not_lt_of_le (Nat.le_of_ble_eq_true rfl))
    | (cases he; cases hg; refine decode_of_gives (by simp) (by simp; rfl) ?_ hw)
  all_goals
    repeat' first
      | refine gives_finish fun hc => ?_
      | refine gives_ite ?_
      | (refine Or.inl ⟨?_, ?_⟩; focus (simp; done))
      | (refine Or.inr ⟨?_, ?_⟩; focus simp)
  all_goals
    simp [Instr.checks] at hc
    simp +contextual [BitVec.extractLsb'_setWidth_of_le, hc]

/-- Atomics, the sequencer, spurs and control; an event has no word. -/
theorem decodeOwnWords_from_180 (i : Instr) (hl : 180 ≤ i.ctorIdx) : DecodesOwnWord i := by
  intro w g hw he hg
  cases i
  case loop => exact loop_decodesOwnWord _ _ w g hw he hg
  case crd => exact crd_decodesOwnWord _ _ _ _ w g hw he hg
  all_goals first
    | exact absurd hl (Nat.not_le_of_lt (Nat.le_of_ble_eq_true rfl))
    | exact nomatch (show none = some w from he)
    | (cases he; cases hg; refine decode_of_gives (by simp) (by simp; rfl) ?_ hw)
  all_goals
    repeat' first
      | refine gives_finish fun hc => ?_
      | refine gives_ite ?_
      | (refine Or.inl ⟨?_, ?_⟩; focus (simp; done))
      | (refine Or.inr ⟨?_, ?_⟩; focus simp)
  all_goals
    simp [Instr.checks] at hc
    simp +contextual [append_eq_iff, optPred_predBits, predBits_absent, hc]

/-- Settles O1: each range of instructions decodes from its own words. -/
theorem decodeOfEncode : Obligations.DecodeOfEncode := by
  intro i w g hw he hg
  rcases Nat.lt_or_ge i.ctorIdx 105 with h | h
  · exact decodeOwnWords_0_105 i (Nat.zero_le _) h w g hw he hg
  rcases Nat.lt_or_ge i.ctorIdx 180 with h' | h'
  · exact decodeOwnWords_105_180 i h h' w g hw he hg
  · exact decodeOwnWords_from_180 i h' w g hw he hg

end Sys2Proof
end

section
/-! SUPPORT. Encoding a decoded word (R46, R47): what the decoder answers on the fields of a word encodes to them again. -/

namespace Sys2Proof

open Machine

/-- What the decoder answers on the fields `f` under the guard `g`: where no check fails, it is a well-formed instruction
under that guard, whose word has these fields and this guard. -/
def Reads (g : Guard) (f : Fields) (r : Except DecodeError Raw) : Prop :=
  ∀ l i, r = .ok (l, i) → leastFail l = none →
    (∃ w, encode i = some w ∧ w.extractLsb' 32 32 = g.bits ∧ Fields.of w = f) ∧ i.wf = true ∧ guardOf i = some g

theorem reads_error {g f e} : Reads g f (.error e) := by rintro _ _ ⟨⟩

theorem reads_ite {g f n} {x y : BitVec n} {p q} (hp : x = y → Reads g f p) (hq : Reads g f q) :
    Reads g f (if x == y then p else q) := by
  split
  · exact hp (by simp_all)
  · exact hq

theorem reads_finish {g f raw i w} (hw : encode i = some w) (hg : guardOf i = some g) (he : i.isEvent = false)
    (h : (∀ c ∈ raw, c.1 = false) → w.extractLsb' 32 32 = g.bits ∧ Fields.of w = f) : Reads g f (finish raw i) := by
  rintro l j hl hn
  cases hl
  obtain ⟨hr, hi⟩ := passes_append.1 (leastFail_eq_none.1 hn)
  exact ⟨⟨w, hw, h hr⟩, Instr.wf_iff.2 ⟨he, hi⟩, hg⟩

/-! The opcodes in ranges that each fit one declaration. An opcode's decoder asks for fields of function and then names the
instruction; the word of that instruction is the layout that it was read in, and a field that no operand fills is 0 by a
check. Where a form decides what is read, the guard's form is split first. -/

/-- The decoder reads every word whose opcode is in a range. -/
def ReadsOpcodes (lo hi : Nat) : Prop :=
  ∀ g d a b f n, lo ≤ n → n < hi → Reads g ⟨BitVec.ofNat 8 n, d, a, b, f⟩ (decodeOp g ⟨BitVec.ofNat 8 n, d, a, b, f⟩)

theorem readsOpcodes_00_20 : ReadsOpcodes 0x00 0x20 := by
  intro g d a b f n hl hu
  interval_cases n
  all_goals
    repeat' first
      | exact reads_error
      | refine reads_ite (fun hc => ?_) ?_
      | refine reads_finish rfl rfl rfl fun h => ?_
      | (show Reads g _ _; cases g)
  all_goals
    simp_all [code_opndOf, append_eq_iff, -BitVec.reduceAppend]

theorem readsOpcodes_20_40 : ReadsOpcodes 0x20 0x40 := by
  intro g d a b f n hl hu
  interval_cases n
  all_goals
    repeat' first
      | exact reads_error
      | refine reads_ite (fun hc => ?_) ?_
      | refine reads_finish rfl rfl rfl fun h => ?_
  all_goals
    simp_all [code_opndOf, append_eq_iff, -BitVec.reduceAppend]

theorem readsOpcodes_40_60 : ReadsOpcodes 0x40 0x60 := by
  intro g d a b f n hl hu
  cases g <;> interval_cases n
  all_goals
    repeat' first
      | exact reads_error
      | refine reads_ite (fun hc => ?_) ?_
      | refine reads_finish rfl rfl rfl fun h => ?_
  all_goals
    simp_all [code_opndOf, append_eq_iff, -BitVec.reduceAppend]

theorem readsOpcodes_60_80 : ReadsOpcodes 0x60 0x80 := by
  intro g d a b f n hl hu
  interval_cases n
  all_goals
    repeat' first
      | exact reads_error
      | refine reads_ite (fun hc => ?_) ?_
      | refine reads_finish rfl rfl rfl fun h => ?_
      | (show Reads g _ _; cases g)
  all_goals
    simp_all [code_opndOf, append_eq_iff, -BitVec.reduceAppend]

theorem readsOpcodes_80_A0 : ReadsOpcodes 0x80 0xA0 := by
  intro g d a b f n hl hu
  cases g <;> interval_cases n
  all_goals
    repeat' first
      | exact reads_error
      | refine reads_ite (fun hc => ?_) ?_
      | refine reads_finish rfl rfl rfl fun h => ?_
  all_goals
    simp_all [code_opndOf, append_eq_iff, setWidth_eq_iff, -BitVec.reduceAppend]

theorem readsOpcodes_A0_D0 : ReadsOpcodes 0xA0 0xD0 := by
  intro g d a b f n hl hu
  interval_cases n
  all_goals
    repeat' first
      | exact reads_error
      | refine reads_ite (fun hc => ?_) ?_
      | refine reads_finish rfl rfl rfl fun h => ?_
      | (show Reads g _ _; cases g)
  all_goals
    simp_all [code_opndOf, append_eq_iff, QSel.bits_ofBits, -BitVec.reduceAppend]

theorem readsOpcodes_D0_E0 : ReadsOpcodes 0xD0 0xE0 := by
  intro g d a b f n hl hu
  interval_cases n
  all_goals
    repeat' first
      | exact reads_error
      | refine reads_ite (fun hc => ?_) ?_
      | refine reads_finish rfl rfl rfl fun h => ?_
  all_goals
    simp_all [code_opndOf, append_eq_iff, predBits_optPred, low4_eq_zero, -BitVec.reduceAppend]

theorem readsOpcodes_E0_F0 : ReadsOpcodes 0xE0 0xF0 := by
  intro g d a b f n hl hu
  cases g <;> interval_cases n
  all_goals
    repeat' first
      | exact reads_error
      | refine reads_ite (fun hc => ?_) ?_
      | refine reads_finish rfl rfl rfl fun h => ?_
  all_goals
    simp_all [code_opndOf, append_eq_iff, -BitVec.reduceAppend]

theorem readsOpcodes_F0_100 : ReadsOpcodes 0xF0 0x100 := by
  intro g d a b f n hl hu
  cases g <;> interval_cases n
  all_goals
    repeat' first
      | exact reads_error
      | refine reads_ite (fun hc => ?_) ?_
      | refine reads_finish rfl rfl rfl fun h => ?_
  all_goals
    simp_all [code_opndOf, append_eq_iff, -BitVec.reduceAppend]

theorem decodeOp_reads (g : Guard) (f : Fields) : Reads g f (decodeOp g f) := by
  obtain ⟨op, d, a, b, f⟩ := f
  have hop : op = BitVec.ofNat 8 op.toNat := BitVec.eq_of_toNat_eq (by simp)
  have hn : op.toNat < 0x100 := op.isLt
  rw [hop]
  generalize op.toNat = n at hn
  rcases Nat.lt_or_ge n 0x20 with h20 | h20
  · exact readsOpcodes_00_20 g d a b f n (Nat.zero_le n) h20
  rcases Nat.lt_or_ge n 0x40 with h40 | h40
  · exact readsOpcodes_20_40 g d a b f n h20 h40
  rcases Nat.lt_or_ge n 0x60 with h60 | h60
  · exact readsOpcodes_40_60 g d a b f n h40 h60
  rcases Nat.lt_or_ge n 0x80 with h80 | h80
  · exact readsOpcodes_60_80 g d a b f n h60 h80
  rcases Nat.lt_or_ge n 0xA0 with hA0 | hA0
  · exact readsOpcodes_80_A0 g d a b f n h80 hA0
  rcases Nat.lt_or_ge n 0xD0 with hD0 | hD0
  · exact readsOpcodes_A0_D0 g d a b f n hA0 hD0
  rcases Nat.lt_or_ge n 0xE0 with hE0 | hE0
  · exact readsOpcodes_D0_E0 g d a b f n hD0 hE0
  rcases Nat.lt_or_ge n 0xF0 with hF0 | hF0
  · exact readsOpcodes_E0_F0 g d a b f n hE0 hF0
  exact readsOpcodes_F0_100 g d a b f n hF0 hn

/-- Settles O2: the instruction that the decoder reads has the word's fields and guard, and these are the word. -/
theorem encodeOfDecode : Obligations.EncodeOfDecode := by
  intro fm w i h
  unfold decode at h
  split at h
  · cases h
  · next l j hr =>
    split at h
    · cases h
    · next hn =>
      cases h
      obtain ⟨⟨v, hv, hh, hf⟩, hwf, hg⟩ := decodeOp_reads _ _ l i hr hn
      rw [Guard.bits_ofBits] at hh
      exact ⟨word_ext hh hf ▸ hv, hwf, _, hg, Guard.form_ofBits _ _⟩

end Sys2Proof
end

section
/-! SUPPORT. Guards (R37, R39) and the privilege check (R44): what each asks, and what an instruction does that does not get
past it. -/

namespace Sys2Proof.Machine

open Sys2Proof

/-! ## A thread's instruction -/

/-- A thread's view holds its spur and carries no fault. -/
theorem enterS_view {s : State} {h : Handle} {x : Ex} (hx : enterS s h = some x) :
    s.spur? h = some x.sp ∧ x.s = s ∧ x.who = .thread h ∧ x.th = x.sp.live.th ∧ x.ok = true := by
  unfold enterS at hx
  split at hx
  · cases hx
  · next sp hs =>
    cases hx
    exact ⟨hs, rfl, rfl, rfl, rfl⟩

/-- A thread's view goes back into its spur, of whose body only the thread is the view's. -/
theorem Ex.back_thread {x : Ex} {h : Handle} (hw : x.who = .thread h) (hh : x.sp.handle = h) :
    x.back = x.s.modSpur h fun _ => { x.sp with live := { x.sp.live with th := x.th } } := by
  subst hh
  simp [Ex.back, Ex.isB, hw, State.setSpur, State.modSpur]

/-- An S-form word whose guard fails only advances `pc` (R39). -/
theorem run_guardFails {i : Instr} {g : SGuard} {body : Ex → Ex} {s : State} {h : Handle} {x : Ex}
    (ha : s.agent = .thread h) (hx : enterS s h = some x) (hg : sGuardHolds g x.th = false) :
    run i (.s g) body s =
      .next ({ x with th := { x.th with pc := x.th.pc + 8 }, sp := x.sp.busy x.s.now } : Ex).back := by
  simp [run, ha, hx, hg]

/-- A privileged word outside system mode takes the fault of check 15 (R44, R47). -/
theorem run_privileged {i : Instr} {g : SGuard} {body : Ex → Ex} {s : State} {h : Handle} {x : Ex}
    (ha : s.agent = .thread h) (hx : enterS s h = some x) (hg : sGuardHolds g x.th = true) (hp : privileged i = true)
    (hm : x.th.sysMode = false) : run i (.s g) body s = .next (leaveS h (x.raise (undefAt (wordOf i) x.th.pc 15))) := by
  simp [run, ha, hx, hg, hp, hm, DecodeError.code]

theorem threadGuardFails : Says.ThreadGuardFails := by
  intro i g s h sp hi ha hs hg
  obtain ⟨body, he⟩ := exec_run hi
  obtain ⟨x, hx⟩ : ∃ x, enterS s h = some x := by simp [enterS, hs]
  obtain ⟨hsp, rfl, hw, hth, -⟩ := enterS_view hx
  obtain rfl : sp = x.sp := Option.some.inj (hs.symm.trans hsp)
  rw [he, run_guardFails ha hx (hth ▸ hg), Ex.back_thread (h := h), hth]
  · rfl
  · exact hw
  · exact (handle_of_spur? hs :)

/-- Settles O9: the run reaches the privilege check, whose fault the thread leaves with. -/
theorem privilegedOutsideSystem : Obligations.PrivilegedOutsideSystem := by
  intro i g s h x hp hi ha hx hg hm
  obtain ⟨body, he⟩ := exec_run hi
  obtain ⟨-, -, -, -, hok⟩ := enterS_view hx
  rw [he, run_privileged ha hx hg hp hm, raise_ok hok]
  rfl

/-! ## A brick's guard -/

/-- The predicates that a mask names are as wanted exactly when the masked bytes agree (R37). -/
theorem masked_eq_iff (p m v : BitVec 8) :
    p &&& m = v &&& m ↔ ∀ n : BitVec 3, m.getLsbD n.toNat = true → p.getLsbD n.toNat = v.getLsbD n.toNat := by
  constructor
  · intro h n hn
    simpa [hn, -BitVec.getLsbD_eq_getElem] using congrArg (·.getLsbD n.toNat) h
  · intro h
    refine BitVec.eq_of_getLsbD_eq fun k hk => ?_
    have hn := h (BitVec.ofNat 3 k)
    rw [BitVec.toNat_ofNat, Nat.mod_eq_of_lt (by omega)] at hn
    cases hm : m.getLsbD k <;> simp_all [-BitVec.getLsbD_eq_getElem]

/-- A list of entries shows a head exactly when its first entry is a token. -/
theorem headTok_isSome {l : List InEnt} : (headTok l).isSome = true ↔ ∃ t h a r, l = .tok t h a :: r := by
  unfold headTok
  split <;> simp_all

/-- A control queue shows a bit exactly when its first entry is one (R67). -/
theorem frontBits_isEmpty {l : List KEnt} : (frontBits l).isEmpty = false ↔ ∃ b r, l = .bit b :: r := by
  unfold frontBits
  split <;> simp_all

/-- A field of a guard asks only where it is enabled. -/
theorem asks_iff (e p : Bool) : (!e || p) = true ↔ (e = true → p = true) := by cases e <;> simp

theorem brickGuard : Says.BrickGuard := by
  intro g x
  have hroom : (decide (x.s.cmdsAt x.who g.oq + 1 ≤ outRoom (x.cx0.outQ g.oq)) && !x.outHeld g.oq) = true ↔
      outCount (x.cx0.outQ g.oq) + x.s.cmdsAt x.who g.oq < 2 ∧ x.outHeld g.oq = false := by
    simp [outRoom]
    omega
  simp only [guardHolds, Bool.and_eq_true, asks_iff, beq_iff_eq, masked_eq_iff, hroom, headTok_isSome, frontBits_isEmpty,
    Bool.not_eq_true', and_imp, and_assoc]
  rcases x.head g.ia with _ | ⟨t, h, a⟩ <;> simp

/-! ## A slot that is not eligible -/

theorem slotNotEligible : Says.SlotNotEligible := by
  intro i g s c n x hi ha hx hg
  obtain ⟨body, he⟩ := exec_run hi
  rw [he]
  simp only [run, ha, hx, hg, Bool.false_eq_true, if_false]

/-- Settles O8, by what the run of an instruction does before its body. -/
theorem guardsDecide : Obligations.GuardsDecide := ⟨threadGuardFails, brickGuard, slotNotEligible⟩

end Sys2Proof.Machine
end

section
/-! SUPPORT. A thread's turn that meets an undefined word (R47, R99): the machine that its fault leaves. -/

namespace Sys2Proof.Machine

open Sys2Proof

/-- A thread's turn, its loads late, at a word whose opcode is reserved. -/
def lateUndefinedTurn : State :=
  { State.reset.withFetchWord 64 0x2E000000 with agenda := [.thread placedHandle 0 true] }

/-- The machine in that turn, before its thread fetches. -/
def lateUndefinedPassed : State := (nextTurn lateUndefinedTurn).2.pass 0

/-- The view of its thread. -/
def lateUndefinedView : Ex := (enterS lateUndefinedPassed placedHandle).get (by decide +kernel)

/-- That view once `pc` is translated, and the word's address. -/
def lateUndefinedFetch : Ex × Nat := lateUndefinedView.translate lateUndefinedView.th.pc.toNat .fetch none

/-- The word that it fetches. -/
def lateUndefinedWord : W64 := BitVec.ofNat 64 (ofBytes (lateUndefinedFetch.1.physBytes lateUndefinedFetch.2 8))

/-- Whether the loads of the turn that an outcome leaves are late. -/
def leavesLate : Out → Bool
  | .next t => t.late
  | _ => false

/-- The word has the reserved opcode 0x2E. -/
theorem lateUndefinedWord_reserved : decode .seq lateUndefinedWord = .error .unassigned := by
  have h : lateUndefinedWord = 0x2E000000 := by decide +kernel
  rw [h]
  rfl

/-- The fault of a fetch is taken in the machine as it stands before the turn's instruction, whose late loads are not set. -/
theorem step_lateUndefined : leavesLate (step lateUndefinedTurn) = false := by decide +kernel

/-- Refutes O4: a thread's turn with late loads that meets a reserved word faults and leaves `late` as the state before
held it, where the statement faults in a state whose `late` is the turn's. -/
theorem not_stepsRunWords : ¬ Obligations.StepsRunWords := by
  intro h
  obtain ⟨hthread, -⟩ := h lateUndefinedTurn (nextTurn lateUndefinedTurn).2 0 0 true
  obtain ⟨-, hfault⟩ := hthread placedHandle lateUndefinedView lateUndefinedFetch.1 lateUndefinedFetch.2 rfl
    (by decide +kernel) (Option.some_get _).symm (by decide +kernel) (by decide +kernel) (by decide +kernel)
    (by decide +kernel) (by decide +kernel) rfl (by decide +kernel) (by decide +kernel)
  obtain ⟨hstep, -⟩ := hfault .unassigned lateUndefinedWord_reserved
  have hlate := congrArg leavesLate (hstep (.inl (by decide)))
  rw [step_lateUndefined] at hlate
  exact absurd hlate (by decide +kernel)

end Sys2Proof.Machine
end

section
/-! SUPPORT. The frame of a firing (R64) for an instruction whose destination its form does not have: the frame's statement
does not ask that the instruction is well formed. -/

namespace Sys2Proof.Machine

open Sys2Proof

/-- A spur put in the place of another reads as it was put. -/
theorem State.spur?_modSpur_const {s : State} {h : Handle} {x y : Spur} (hx : s.spur? h = some x) (hy : y.handle = h) :
    (s.modSpur h fun _ => y).spur? h = some y := by
  have hr := find?_updFirst_same (fun z : Spur => z.handle == h) (fun _ => y) (by simp [hy]) s.spurs
  unfold State.spur? State.modSpur at *
  simp only [hr, hx, Option.map_some]

/-- A frame that puts back the spur of a firing with one context changed leaves the spur's thread as it was. -/
theorem State.thread?_modSpur_setCtx {s : State} {h : Handle} {sp : Spur} (hs : s.spur? h = some sp) (k : Ctx) (n : Nat) :
    (s.modSpur h fun _ => { sp with live := sp.live.setCtx k, lastBusy := n, inactive := false }).thread? h =
      some sp.live.th := by
  have hy : ({ sp with live := sp.live.setCtx k, lastBusy := n, inactive := false } : Spur).handle = h :=
    (handle_of_spur? hs :)
  rw [State.thread?, State.spur?_modSpur_const hs hy]
  rfl

/-- A move to a sequencer register, in the form of a brick. -/
def moviToThread : Instr := .movi (.b BGuard.always) (.g 2) 5

/-- The slot whose firing it is. -/
def moviSlot : CtxAt := ⟨placedHandle, 0, 0, 0⟩

/-- A machine in which it fires. -/
def moviFires : State := { State.reset.withFetchWord 64 0x06000000 with agent := .firing moviSlot 0 }

/-- The view with which it begins. -/
def moviView : Ex := (begins moviToThread (.b BGuard.always) moviFires).get (by decide +kernel)

theorem moviView_begins : begins moviToThread (.b BGuard.always) moviFires = some moviView := (Option.some_get _).symm

/-- Its effect: a register of the spur's thread. -/
def moviEffect : Ex := moviView.intImm (.g 2) .z (imm18 (.b BGuard.always) 5) fun _ _ v => v

theorem exec_moviToThread : exec moviToThread moviFires = .next (ended moviToThread moviFires moviEffect) :=
  run_begins (fun x => x.intImm (.g 2) .z (imm18 (.b BGuard.always) 5) fun _ _ v => v) moviView_begins

/-- Refutes O10: `movi` with the destination `g2` in the form of a brick, which no check of the frame's statement rules out,
writes the register of its spur's thread, where the frame changes the firing context alone. -/
theorem not_plainFrames : ¬ Obligations.PlainFrames := by
  rintro ⟨-, hframe, -⟩
  obtain ⟨k, ht, -⟩ := hframe moviToThread BGuard.always moviFires _ moviView moviSlot 0 (.g 2) rfl rfl rfl (by decide)
    moviView_begins rfl trivial exec_moviToThread
  have hs : moviFires.spur? moviSlot.h = some moviView.sp := by decide +kernel
  have hth := State.thread?_modSpur_setCtx hs k moviFires.now
  rw [← ht] at hth
  exact absurd hth (by decide +kernel)

end Sys2Proof.Machine
end

section
/-! SUPPORT. The rules by which a claim about the control instructions (R70 to R86) follows from their bodies. -/

namespace Sys2Proof.Machine

open Sys2Proof

/-- A claim that an instruction without a word for `sw` completes follows from its body, where its effect stops
nothing. -/
theorem does_of_noSw {i : Instr} {g : Guard} {p : Ex → Prop} {f : Ex → Ex} (body : Ex → Ex)
    (hx : ∀ s, exec i s = run i g body s) (hw : writesSw i = false) (hk : ∀ x, (f x).ok = x.ok)
    (hb : ∀ s x, begins i g s = some x → p x → body x = f x) : Does i g p f :=
  does_of body hx fun s x h hp => ⟨hb s x h hp, by rw [stored_same hw, hk, begins_ok h]⟩

/-- An instruction whose body does nothing, and that writes no `sw`, completes and does nothing. -/
theorem does_nothing {i : Instr} {g : Guard} {p : Ex → Prop} (body : Ex → Ex) (hx : ∀ s, exec i s = run i g body s)
    (hw : writesSw i = false) (hb : ∀ x, p x → body x = x) : Does i g p fun x => x :=
  does_of_noSw body hx hw (fun _ => rfl) fun _ x _ hp => hb x hp

/-- A claim that an instruction raises a fault follows from a body that raises it. -/
theorem faults_of_raise {i : Instr} {g : Guard} {p : Ex → Prop} {f : Ex → Flt} (body : Ex → Ex)
    (hx : ∀ s, exec i s = run i g body s) (hb : ∀ x, p x → body x = x.raise (f x)) : Faults i g p f :=
  faults_of body hx fun _ x h hp => by rw [hb x hp, raise_ok (begins_ok h)]

/-- A claim about a truth value written to a destination follows from a body that writes it (R72). -/
theorem result_of_putBit {i : Instr} {g : Guard} {d : Opnd} {v : Ex → Nat} (b : Ex → Bool)
    (hx : ∀ s, exec i s = run i g (fun x => x.putBit d (b x)) s) (hd : dstOf i = some d) (hl : laneSw i = false)
    (hv : ∀ x, (b x).toNat = v x) : Result i g d v :=
  result_of (fun x => ofBool 64 (b x)) hx hd hl fun _ x _ => by
    rw [← hv]
    cases b x <;> rfl

/-- A flit goes to an output queue that carries no seam (R69). -/
theorem pushOut_unseamed {x : Ex} {n : BitVec 3} (h : x.cx.seamed.getLsbD n.toNat = false) (f : Flit) (a : Arm) :
    x.pushOut n f a = { x with cx := { x.cx with oq := upd x.cx.oq n.toNat (· ++ [⟨f, a⟩]) } } := by
  rw [Ex.pushOut, h]
  rfl

/-- A bit goes to a control output that carries no seam (R69). -/
theorem pushK_unseamed {x : Ex} {n : Nat} (h : x.cx.seamed.getLsbD (8 + n) = false) (b : Bool) :
    x.pushK n b = { x with cx := { x.cx with jq := upd x.cx.jq n (· ++ [.bit b]) } } := by
  rw [Ex.pushK, h]
  rfl

end Sys2Proof.Machine
end

section
/-! SUPPORT. The predicate instructions, and what shows and steps a queue (R72, R83 to R85). -/

namespace Sys2Proof.Machine

open Sys2Proof

theorem pset_brick (g : BGuard) (a b : Opnd) : Does (.pset (.b g) a b) (.b g) (fun _ => True) fun x =>
    let q := (x.cx0.predSet x.bank &&& ~~~((x.get b).setWidth 8)) ||| ((x.get a).setWidth 8 &&& (x.get b).setWidth 8)
    { x with cx := x.cx.setPreds x.bank q } :=
  does_of_noSw _ (fun _ => rfl) rfl (fun _ => rfl) fun _ _ h _ => if_pos (begins_isB h)

theorem pset_thread (g : SGuard) (a b : Opnd) : Does (.pset (.s g) a b) (.s g) (fun _ => True) fun x =>
    { x with th := { x.th with f :=
      (x.th.f &&& ~~~((x.get b).setWidth 8)) ||| ((x.get a).setWidth 8 &&& (x.get b).setWidth 8) } } :=
  does_of_noSw _ (fun _ => rfl) rfl (fun _ => rfl) fun _ _ h _ => if_neg (by simp [begins_isB h])

/-- The predicate instructions write the truth values of R72. -/
theorem predicateResults : Says.PredicateResults := by
  intro g gb d a b
  refine ⟨result_of_putBit (fun x => x.pred a && x.pred b) (fun _ => rfl) rfl rfl fun x => ?pand,
    result_of_putBit (fun x => x.pred a || x.pred b) (fun _ => rfl) rfl rfl fun x => ?por,
    result_of_putBit (fun x => x.pred a != x.pred b) (fun _ => rfl) rfl rfl fun x => ?pxor,
    result_of_putBit (fun x => x.pred a && !x.pred b) (fun _ => rfl) rfl rfl fun x => ?pandn,
    result_of_putBit (fun x => !x.pred a) (fun _ => rfl) rfl rfl fun x => ?pnot,
    result_of_putBit (fun x => x.pred a) (fun _ => rfl) rfl rfl fun x => ?pmov,
    result_of_putBit (fun x => x.c) (fun _ => rfl) rfl rfl fun x => ?kget,
    pset_brick gb a b, fun gs => pset_thread gs a b⟩
  case pand | por | pxor | pandn => cases x.pred a <;> cases x.pred b <;> rfl
  case pnot | pmov => cases x.pred a <;> rfl
  case kget => cases x.c <;> rfl

/-- `peekt` shows the flags of the head token of the queue that it names (R83). -/
theorem peekt_head {g : BGuard} {n : BitVec 3} {d a : Opnd} (ha : a = .i n ∨ a = .iDeq n) (t : Tok) (hd : W64) (c : Nat) :
    Does (.peekt g d a) (.b g)
      (fun x => x.head n = some (t, hd, c) ∧ x.accepts d
        (BitVec.ofNat 64 (64 * t.stop.toNat + 16 * t.tag.toNat + if t.stop then t.pay.toNat % 16 else 0)))
      (fun x => x.put d
        (BitVec.ofNat 64 (64 * t.stop.toNat + 16 * t.tag.toNat + if t.stop then t.pay.toNat % 16 else 0))) := by
  refine does_of _ (fun _ => rfl) fun s x h hp => ⟨?_, stored_putT false (begins_ok h) hp.2 rfl rfl⟩
  rcases ha with rfl | rfl <;> simp only [hp.1, Nat.mul_comm]

theorem routeaStep_appends (g : BGuard) (n : BitVec 3) : Does (.routeaStep g (.o n)) (.b g) (fun x => x.accepts (.o n) 0)
    fun x => { x with cx := { x.cx with oq := upd x.cx.oq n.toNat (· ++ [(⟨.step, .both⟩ : OutEnt)]) } } :=
  does_of_noSw _ (fun _ => rfl) rfl (fun _ => rfl) fun _ _ _ hp => pushOut_unseamed hp _ _

/-- What shows a queue reads it before the firing; a step word is appended where the output carries no seam. -/
theorem queueInspection : Says.QueueInspection := fun g q n _ _ =>
  ⟨fun t h c ha => peekt_head ha t h c,
    result_of (fun x => BitVec.ofNat 64 (x.cx0.qCount q)) (fun _ => rfl) rfl rfl fun _ _ _ => rfl,
    routeaStep_appends g n⟩

/-- Settles O14, instruction by instruction from its body. -/
theorem predicatesAndQueues : Obligations.PredicatesAndQueues := ⟨predicateResults, queueInspection⟩

end Sys2Proof.Machine
end

section
/-! SUPPORT. Control, tags and seams, and the faults of `trap` and `break` (R72, R77 to R82). -/

namespace Sys2Proof.Machine

open Sys2Proof

/-- A seam is appended once (R81). -/
theorem Ctx.seam_seamed {k : Ctx} {n : Nat} (h : k.seamed.getLsbD n = true) : k.seam n = k := by
  rw [Ctx.seam, if_pos h]

theorem mark_records (g : Guard) (n : BitVec 6) (a : Opnd) : Does (.mark g n a) g (fun x => x.marksOn = true) fun x =>
    { x with sp := x.sp.modLive fun b => { b with trace := b.trace ++ [(x.at_, x.traceRecord n (x.get a))] } } :=
  does_of_noSw _ (fun _ => rfl) rfl (fun _ => rfl) fun _ _ _ hp => if_pos hp

theorem sett_overrides (g : BGuard) (q : BitVec 3) (a : Opnd) : Does (.sett g q a) (.b g) (fun _ => True) fun x =>
    let v := if (x.get a).getLsbD 2 then some ((x.get a).extractLsb' 0 2) else none
    { x with cx := { x.cx with ovr := x.cx.ovr.set q.toNat v } } :=
  does_of_noSw _ (fun _ => rfl) rfl (fun _ => rfl) fun _ _ _ _ => by
    simp only [BitVec.setWidth_eq_extractLsb' (show 2 ≤ 64 by decide)]

/-- What the control instructions, tags and seams do follows from their bodies. -/
theorem controlEffects : Says.ControlEffects := fun g gb n q j a b =>
  ⟨does_nothing _ (fun _ => rfl) rfl fun _ _ => rfl,
    does_nothing _ (fun _ => rfl) rfl fun _ _ => rfl,
    does_of_noSw _ (fun _ => rfl) rfl (fun _ => rfl) fun _ _ _ _ => rfl,
    does_nothing _ (fun _ => rfl) rfl fun _ hp => if_neg (by simp [hp]),
    does_nothing _ (fun _ => rfl) rfl fun _ hp => if_neg (by simp [hp]),
    mark_records g n a,
    sett_overrides gb q a,
    does_nothing _ (fun _ => rfl) rfl fun _ hp => by rw [Ctx.seam_seamed hp],
    does_of_noSw _ (fun _ => rfl) rfl (fun _ => rfl) fun _ _ _ _ => rfl,
    does_of_noSw _ (fun _ => rfl) rfl (fun _ => rfl) fun _ _ _ _ => rfl,
    does_of_noSw _ (fun _ => rfl) rfl (fun _ => rfl) fun _ _ _ _ => rfl⟩

/-- `trap` faults always, `break` where BE is 1 (R78). -/
theorem trapsAndBreaks : Says.TrapsAndBreaks := fun _ _ _ =>
  ⟨faults_of_raise _ (fun _ => rfl) fun _ _ => rfl, faults_of_raise _ (fun _ => rfl) fun _ hp => if_pos hp⟩

/-- Settles O16, instruction by instruction from its body. -/
theorem controlAndTraps : Obligations.ControlAndTraps := ⟨controlEffects, trapsAndBreaks⟩

end Sys2Proof.Machine
end

section
/-! SUPPORT. Which route and channel entries may be written (R85, R86). -/

namespace Sys2Proof.Machine

open Sys2Proof

/-- A bit field of a word, as a number. -/
theorem toNat_extractLsb'_eq_bitsOf {n : Nat} (v : BitVec n) (lo k : Nat) :
    (v.extractLsb' lo k).toNat = bitsOf v.toNat lo k := by
  rw [BitVec.extractLsb'_toNat, Nat.shiftRight_eq_div_pow, bitsOf]

/-- A word below 2^32 has a zero upper half. -/
theorem upperHalf_eq_zero_iff (v : W64) : v.extractLsb' 32 32 = 0 ↔ v.toNat < 2 ^ 32 := by
  rw [← BitVec.toNat_inj, toNat_extractLsb'_eq_bitsOf, bitsOf]
  have := v.isLt
  simp
  omega

/-- The route that A names is one of the spur `o`, and an image of it may hold the entry in B (R85). -/
def RouteEntry (o : Spur) (va vb : W64) : Prop :=
  let tag := (va.extractLsb' 2 6).toNat
  let phase := (va.extractLsb' 0 2).toNat
  va.extractLsb' 8 24 = 0 ∧ vb.toNat < 2 ^ 32 ∧ tag < o.img.routes.length ∧
    phase < (nth o.img.routes tag []).length ∧ o.img.entryOk (vb.setWidth 32) = true

/-- What `routea.set` refuses is what is no such entry (R85). -/
theorem routeRefused_iff (o : Spur) (va vb : W64) :
    (va.extractLsb' 8 24 != 0 || vb.extractLsb' 32 32 != 0 || decide (o.img.routes.length ≤ bitsOf va.toNat 2 6) ||
      decide ((nth o.img.routes (bitsOf va.toNat 2 6) []).length ≤ bitsOf va.toNat 0 2) ||
      !o.img.entryOk (vb.setWidth 32)) = true ↔ ¬ RouteEntry o va vb := by
  simp only [RouteEntry, toNat_extractLsb'_eq_bitsOf, ← upperHalf_eq_zero_iff, bne, Bool.or_eq_true, Bool.not_eq_true',
    beq_eq_false_iff_ne, decide_eq_true_eq, not_and_or, not_lt, Bool.not_eq_true, or_assoc, ne_eq]

/-- The spur whose routes or bindings A names, the agent's own in a brick (R85, R86). -/
def Ex.namedBy (x : Ex) (a : Opnd) : Option Spur := x.named (if x.isB then 0 else (x.get a).extractLsb' 32 32)

section
variable {g : Guard} {a b : Opnd} {o : Spur}

theorem routeaSet_requests : Does (.routeaSet g a b) g (fun x => x.namedBy a = some o ∧ RouteEntry o (x.get a) (x.get b))
    fun x => x.request (.route o.handle ((x.get a).extractLsb' 2 6).toNat ((x.get a).extractLsb' 0 2).toNat
      ((x.get b).setWidth 32)) := by
  refine does_of_noSw _ (fun _ => rfl) rfl (fun _ => rfl) ?_
  rintro _ x - ⟨hn, he⟩
  rw [Ex.namedBy] at hn
  simp only [hn, toNat_extractLsb'_eq_bitsOf]
  exact if_neg fun hr => (routeRefused_iff _ _ _).1 hr he

theorem routeaSet_refuses : Faults (.routeaSet g a b) g
    (fun x => x.namedBy a = some o ∧ ¬ RouteEntry o (x.get a) (x.get b)) fun x => overrun 10 (x.get a) := by
  refine faults_of_raise _ (fun _ => rfl) ?_
  rintro x ⟨hn, he⟩
  rw [Ex.namedBy] at hn
  simp only [hn]
  exact if_pos ((routeRefused_iff _ _ _).2 he)

theorem routeaSet_unnamed : Faults (.routeaSet g a b) g (fun x => x.namedBy a = none) fun x => overrun 10 (x.get a) := by
  refine faults_of_raise _ (fun _ => rfl) fun x hn => ?_
  rw [Ex.namedBy] at hn
  simp only [hn]

/-- The row of the brick whose binding A names (R86). -/
def Ex.bindRow (x : Ex) (a : Opnd) : BitVec 8 := if x.isB then x.br.row else (x.get a).extractLsb' 24 8

/-- The column of the brick whose binding A names (R86). -/
def Ex.bindCol (x : Ex) (a : Opnd) : BitVec 8 := if x.isB then x.br.col else (x.get a).extractLsb' 16 8

/-- The channel that A names is one of a brick, and the brick may take the binding in B beside its others (R86). -/
def Ex.BindEntry (x : Ex) (o : Spur) (k : Brick) (a b : Opnd) : Prop :=
  (if x.isB then (x.get a).extractLsb' 5 59 = 0 else (x.get a).extractLsb' 5 11 = 0) ∧ (x.get b).toNat < 2 ^ 32 ∧
    o.img.bindOk ((x.get b).setWidth 32) = true ∧
    pairsOk ((x.bindings o k).set ((x.get a).extractLsb' 0 5).toNat ((x.get b).setWidth 32)) = true

/-- What `vcbind` refuses is what is no such binding (R86). -/
theorem bindRefused_iff (x : Ex) (o : Spur) (k : Brick) (a b : Opnd) :
    (!(if x.isB then (x.get a).extractLsb' 5 59 == 0 else (x.get a).extractLsb' 5 11 == 0) ||
      (x.get b).extractLsb' 32 32 != 0 || !o.img.bindOk ((x.get b).setWidth 32) ||
      !pairsOk ((x.bindings o k).set (bitsOf (x.get a).toNat 0 5) ((x.get b).setWidth 32))) = true ↔
    ¬ x.BindEntry o k a b := by
  have hr : (if x.isB then (x.get a).extractLsb' 5 59 == 0 else (x.get a).extractLsb' 5 11 == 0) = true ↔
      (if x.isB then (x.get a).extractLsb' 5 59 = 0 else (x.get a).extractLsb' 5 11 = 0) := by split <;> simp
  simp only [Ex.BindEntry, toNat_extractLsb'_eq_bitsOf, ← upperHalf_eq_zero_iff, ← hr, bne, Bool.or_eq_true,
    Bool.not_eq_true', beq_eq_false_iff_ne, not_and_or, Bool.not_eq_true, or_assoc, ne_eq]

variable {k : Brick}

theorem vcbind_requests : Does (.vcbind g a b) g
    (fun x => x.namedBy a = some o ∧ o.live.brick? (x.bindRow a) (x.bindCol a) = some k ∧ x.BindEntry o k a b)
    fun x => x.request (.vcbind o.handle (x.bindRow a) (x.bindCol a) ((x.get a).extractLsb' 0 5).toNat
      ((x.get b).setWidth 32)) := by
  refine does_of_noSw _ (fun _ => rfl) rfl (fun _ => rfl) ?_
  rintro _ x - ⟨hn, hk, he⟩
  rw [Ex.namedBy] at hn
  rw [Ex.bindRow, Ex.bindCol] at hk
  simp only [hn, hk, toNat_extractLsb'_eq_bitsOf]
  exact if_neg fun hr => (bindRefused_iff _ _ _ _ _).1 hr he

theorem vcbind_refuses : Faults (.vcbind g a b) g
    (fun x => x.namedBy a = some o ∧ o.live.brick? (x.bindRow a) (x.bindCol a) = some k ∧ ¬ x.BindEntry o k a b)
    fun x => overrun 10 (x.get a) := by
  refine faults_of_raise _ (fun _ => rfl) ?_
  rintro x ⟨hn, hk, he⟩
  rw [Ex.namedBy] at hn
  rw [Ex.bindRow, Ex.bindCol] at hk
  simp only [hn, hk]
  exact if_pos ((bindRefused_iff _ _ _ _ _).2 he)

theorem vcbind_noBrick : Faults (.vcbind g a b) g
    (fun x => x.namedBy a = some o ∧ o.live.brick? (x.bindRow a) (x.bindCol a) = none) fun x => overrun 10 (x.get a) := by
  refine faults_of_raise _ (fun _ => rfl) ?_
  rintro x ⟨hn, hk⟩
  rw [Ex.namedBy] at hn
  rw [Ex.bindRow, Ex.bindCol] at hk
  simp only [hn, hk]

theorem vcbind_unnamed : Faults (.vcbind g a b) g (fun x => x.namedBy a = none) fun x => overrun 10 (x.get a) := by
  refine faults_of_raise _ (fun _ => rfl) fun x hn => ?_
  rw [Ex.namedBy] at hn
  simp only [hn]

end

/-- A route or channel write is held in the round where its entry may be written, and is an overrun of subcode 10
else. -/
theorem routeWrites : Says.RouteWrites := fun _ _ _ _ _ =>
  ⟨routeaSet_requests, routeaSet_refuses, routeaSet_unnamed,
    vcbind_requests, vcbind_refuses, vcbind_noBrick, vcbind_unnamed⟩

end Sys2Proof.Machine
end

section
/-! SUPPORT. What a result written to a destination leaves alone, and what a firing that has written `sw` and dequeued
an input stores: what the merges need (R75, R165). -/

namespace Sys2Proof.Machine

open Sys2Proof

/-! ## The guard and the arm of a view -/

/-- What a view holds of its guard: the guard, and the arm that serves its IA. -/
def Ex.served (x : Ex) : BGuard × Bool := (x.g, x.arm)

@[simp] theorem putPred_served (x : Ex) (n : BitVec 3) (v : Bool) : (x.putPred n v).served = x.served := by
  unfold Ex.putPred
  split <;> rfl

@[simp] theorem bankStore_served (x : Ex) (r c : BitVec 8) (off : Nat) (l : List Byte) :
    (x.bankStore r c off l).served = x.served := by
  have hm : x.markStored.served = x.served := by unfold Ex.markStored; split <;> rfl
  unfold Ex.bankStore
  simp only
  split <;> exact hm

@[simp] theorem descWrite_served (d : Desc) (l : List Nat) :
    ∀ (x : Ex) (e : Nat), (Ex.descWrite d x e l).served = x.served := by
  induction l with
  | nil => intro x e; rfl
  | cons v r ih => intro x e; simp only [Ex.descWrite, ih, bankStore_served]

@[simp] theorem patWrite_served (q : Pattern) (l : List Nat) :
    ∀ (x : Ex) (e : Nat), (Ex.patWrite q x e l).served = x.served := by
  induction l with
  | nil => intro x e; rfl
  | cons v r ih => intro x e; simp only [Ex.patWrite, ih, bankStore_served]

@[simp] theorem putSw_served (x : Ex) (l : List Nat) : (x.putSw l).served = x.served := by
  unfold Ex.putSw
  split
  · exact descWrite_served _ _ x _
  · split
    · exact patWrite_served _ _ x _
    · rfl
  · rfl

@[simp] theorem raise_served (x : Ex) (f : Flt) : (x.raise f).served = x.served := by
  unfold Ex.raise
  split <;> rfl

@[simp] theorem pushOut_served (x : Ex) (n : BitVec 3) (f : Flit) (a : Arm) : (x.pushOut n f a).served = x.served := by
  unfold Ex.pushOut
  split
  · exact raise_served _ _
  · rfl

/-- A result leaves the guard and its arm alone, whatever its destination. -/
@[simp] theorem putT_served (x : Ex) (d : Opnd) (stop : Bool) (v : W64) : (x.putT d stop v).served = x.served := by
  unfold Ex.putT
  split
  · rfl
  · cases d with
    | q n => exact putPred_served _ _ _
    | f n => exact putPred_served _ _ _
    | o n => exact pushOut_served _ _ _ _
    | sw => exact putSw_served _ _
    | _ => rfl

/-! ## Input queues and scale registers, which storing neither reads nor writes -/

/-- A view with other input queues and scale registers in its context. -/
def Ex.withHeads (x : Ex) (iq : List InQ) (scl : List Byte) : Ex := { x with cx := { x.cx with iq := iq, scl := scl } }

/-- A dequeue changes input queues and scale registers alone (R55). -/
theorem deq_eq (k : Ctx) (br : Brick) (n : BitVec 3) (a : Bool) :
    k.deq br n a = { k with iq := (k.deq br n a).iq, scl := (k.deq br n a).scl } := by
  unfold Ctx.deq
  split
  · simp only
    split <;> rfl
  · rfl

section
variable (x : Ex) (iq : List InQ) (scl : List Byte)

@[simp] theorem withHeads_ok : (x.withHeads iq scl).ok = x.ok := rfl
@[simp] theorem withHeads_isB : (x.withHeads iq scl).isB = x.isB := rfl
@[simp] theorem withHeads_s : (x.withHeads iq scl).s = x.s := rfl
@[simp] theorem withHeads_sp : (x.withHeads iq scl).sp = x.sp := rfl
@[simp] theorem withHeads_br : (x.withHeads iq scl).br = x.br := rfl
@[simp] theorem withHeads_who : (x.withHeads iq scl).who = x.who := rfl
@[simp] theorem withHeads_sys : (x.withHeads iq scl).sys = x.sys := rfl
@[simp] theorem withHeads_user : (x.withHeads iq scl).user = x.user := rfl
@[simp] theorem withHeads_badAt (pa n : Nat) : (x.withHeads iq scl).badAt pa n = x.badAt pa n := rfl
@[simp] theorem withHeads_vaultBrick (b : Nat) : (x.withHeads iq scl).vaultBrick b = x.vaultBrick b := rfl
@[simp] theorem withHeads_heldCount : (x.withHeads iq scl).heldCount = x.heldCount := rfl
@[simp] theorem withHeads_stall : (x.withHeads iq scl).stall = x.stall.withHeads iq scl := rfl

@[simp] theorem withHeads_joinHeld (h : Held) : (x.withHeads iq scl).joinHeld h = (x.joinHeld h).withHeads iq scl := rfl

@[simp] theorem withHeads_ite (b : Bool) (y z : Ex) :
    (if b then y else z).withHeads iq scl = if b then y.withHeads iq scl else z.withHeads iq scl := by cases b <;> rfl

@[simp] theorem withHeads_raise (f : Flt) : (x.withHeads iq scl).raise f = (x.raise f).withHeads iq scl := by
  rcases h : x.fault with _ | _ <;> simp [Ex.raise, Ex.withHeads, h]

@[simp] theorem withHeads_lose (sp : BitVec 8) (a : W64) :
    (x.withHeads iq scl).lose sp a = (x.lose sp a).withHeads iq scl := by
  simp only [Ex.lose, withHeads_isB, withHeads_sp, withHeads_raise]
  split <;> rfl

@[simp] theorem withHeads_walkEnds (va : Nat) (acc : AccK) (f : TFault) :
    (x.withHeads iq scl).walkEnds va acc f = (x.walkEnds va acc f).withHeads iq scl := by
  simp only [Ex.walkEnds, withHeads_lose, withHeads_raise, withHeads_sp]
  split <;> rfl

@[simp] theorem withHeads_translate (va : Nat) (acc : AccK) (pres : Option Bool) :
    (x.withHeads iq scl).translate va acc pres =
      ((x.translate va acc pres).1.withHeads iq scl, (x.translate va acc pres).2) := by
  unfold Ex.translate
  simp only [withHeads_s, withHeads_sp, withHeads_user]
  by_cases hm : x.s.migrHolds x.sp.asid va = true
  · simp only [hm, if_true]
    rfl
  · simp only [hm]
    rcases Machine.translate x.s (bedrock x.sp.massif) x.sp.asid va ⟨acc, x.user, pres⟩ with ⟨s, f | ⟨pa, e⟩⟩
    · exact congrArg (·, 0) (withHeads_walkEnds { x with s := s } iq scl va acc f)
    · rfl

@[simp] theorem withHeads_readGood (va pa n : Nat) :
    (x.withHeads iq scl).readGood va pa n = (x.readGood va pa n).withHeads iq scl := by
  simp only [Ex.readGood, withHeads_ok, withHeads_badAt, withHeads_lose]
  split <;> rfl

@[simp] theorem withHeads_vaultAt (t n : Nat) :
    (x.withHeads iq scl).vaultAt t n = ((x.vaultAt t n).1.withHeads iq scl, (x.vaultAt t n).2) := by
  simp only [Ex.vaultAt, withHeads_raise, withHeads_vaultBrick, withHeads_sp]
  split
  · rfl
  · cases x.vaultBrick (t / 65536) with
    | none => rfl
    | some rc => by_cases hb : t % 65536 + n ≤ x.sp.img.hd.vlt <;> simp only [hb, if_true, if_false]

@[simp] theorem withHeads_place (tg : Target1) (al n : Nat) (acc : AccK) (pres : Option Bool) :
    (x.withHeads iq scl).place tg al n acc pres =
      ((x.place tg al n acc pres).1.withHeads iq scl, (x.place tg al n acc pres).2) := by
  cases tg with
  | unset w => simp only [Ex.place, withHeads_raise]
  | vault t =>
    simp only [Ex.place, withHeads_raise, withHeads_vaultAt]
    split <;> rfl
  | virt va =>
    simp only [Ex.place, withHeads_raise, withHeads_translate, withHeads_readGood]
    split
    · rfl
    · split <;> rfl

@[simp] theorem withHeads_markStored : (x.withHeads iq scl).markStored = x.markStored.withHeads iq scl := by
  unfold Ex.markStored
  rw [withHeads_isB]
  cases x.isB <;> rfl

@[simp] theorem withHeads_bankStore (r c : BitVec 8) (off : Nat) (l : List Byte) :
    (x.withHeads iq scl).bankStore r c off l = (x.bankStore r c off l).withHeads iq scl := by
  simp only [Ex.bankStore, withHeads_markStored, withHeads_ite]
  rfl

@[simp] theorem withHeads_hold (kind : WKind) (p : Place1) (l : List Byte) :
    (x.withHeads iq scl).hold kind p l = (x.hold kind p l).withHeads iq scl := by
  cases p
  all_goals
    simp only [Ex.hold, withHeads_ok, withHeads_isB, withHeads_br, withHeads_heldCount, withHeads_stall,
      withHeads_bankStore, withHeads_markStored, withHeads_joinHeld, withHeads_who, withHeads_sys, withHeads_sp,
      withHeads_ite]
    rfl

@[simp] theorem withHeads_patStore (q : Pattern) (j : Nat) (w : W32) :
    (x.withHeads iq scl).patStore q j w = (x.patStore q j w).withHeads iq scl := by
  simp only [Ex.patStore, withHeads_place, withHeads_hold]

end

/-- Storing the words of a pattern commutes with a change of the input queues and the scale registers. -/
theorem foldl_patStore_withHeads (q : Pattern) (iq : List InQ) (scl : List Byte) (l : List (W32 × Nat)) : ∀ x : Ex,
    l.foldl (fun x w => x.patStore q (q.moved + w.2) w.1) (x.withHeads iq scl) =
      (l.foldl (fun x w => x.patStore q (q.moved + w.2) w.1) x).withHeads iq scl := by
  induction l with
  | nil => intro x; rfl
  | cons w r ih => intro x; simp only [List.foldl_cons, withHeads_patStore, ih]

/-- What a firing stores on `sw` does not depend on its input queues and scale registers (R165, R234). -/
theorem withHeads_flushSw (x : Ex) (iq : List InQ) (scl : List Byte) :
    (x.withHeads iq scl).flushSw = x.flushSw.withHeads iq scl := by
  have hd : (x.withHeads iq scl).cx.descOf 2 = x.cx.descOf 2 := rfl
  have hp : (x.withHeads iq scl).cx.patOf 2 = x.cx.patOf 2 := rfl
  simp only [Ex.flushSw, hd, hp, foldl_patStore_withHeads]
  split <;> rfl

/-- A dequeue does not change whether the words that a firing has given `sw` can be stored. -/
theorem stored_deq_ok (i : Instr) (x : Ex) (br : Brick) (n : BitVec 3) (a : Bool) :
    (stored i { x with cx := x.cx.deq br n a }).ok = (stored i x).ok := by
  have hd : ({ x with cx := x.cx.deq br n a } : Ex) = x.withHeads (x.cx.deq br n a).iq (x.cx.deq br n a).scl :=
    congrArg (fun k => ({ x with cx := k } : Ex)) (deq_eq x.cx br n a)
  rw [hd]
  simp only [stored, withHeads_ok, withHeads_flushSw]
  split <;> rfl

end Sys2Proof.Machine
end

section
/-! SUPPORT. Moves of tokens between queues (R73 to R76). -/

namespace Sys2Proof.Machine

open Sys2Proof

theorem steer_appends (g : BGuard) (q : BitVec 3) (a : Opnd) :
    Does (.steer g (.o q) a) (.b g) (fun x => x.accepts (.o q) (x.get a)) fun x => { x with cx := { x.cx with
      oq := upd x.cx.oq q.toNat (· ++ [(⟨.tok ⟨x.stopOf a, x.outTag q, (x.get a).setWidth 32⟩,
        if x.c then .a1 else .a0⟩ : OutEnt)]) } } :=
  does_of_noSw _ (fun _ => rfl) rfl (fun _ => rfl) fun _ _ _ hp => pushOut_unseamed hp _ _

/-- A merge moves the head of the arm that serves and dequeues it there, on a view that goes on (R75). -/
theorem merge_eq {x : Ex} {d a : Opnd} (hx : x.ok = true) (ha : x.accepts d (x.get a)) : x.merge d a =
    let y := x.putT d (x.stopOf a) (x.get a)
    { y with cx := y.cx.deq y.br x.g.ia x.arm } := by
  have hy : (x.move d a).ok = true := putT_ok _ hx (.inr ha)
  exact (if_pos hy).trans (congrArg
    (fun v : BGuard × Bool => ({ x.move d a with cx := (x.move d a).cx.deq (x.move d a).br v.1.ia v.2 } : Ex))
    (putT_served x d (x.stopOf a) (x.get a)))

/-- A merge completes with the move and the dequeue of the arm that its guard chose (R75). -/
theorem merges {i : Instr} {g : BGuard} {d a : Opnd} (hx : ∀ s, exec i s = run i (.b g) (fun x => x.merge d a) s)
    (hd : dstOf i = some d) (hl : laneSw i = false) :
    Does i (.b g) (fun x => x.accepts d (x.get a)) fun x =>
      let y := x.putT d (x.stopOf a) (x.get a)
      { y with cx := y.cx.deq y.br g.ia (guardArm i x.cx0 g) } := by
  refine does_of _ hx fun s x h hp => ?_
  obtain ⟨_, _, _, _, _, _, _, _, _, _, _, hg, _, harm, -⟩ := begins_brick h
  exact ⟨by rw [merge_eq (begins_ok h) hp, hg, harm],
    (stored_deq_ok i _ _ _ _).trans (stored_putT _ (begins_ok h) hp hd hl)⟩

/-- The moves between queues keep a token's stop flag, and each chooses its source, its destination or its arm as its
rule says. -/
theorem tokenMoves : Says.TokenMoves := by
  intro g n q m d a b
  refine ⟨?sel, steer_appends g q a, merges (fun _ => rfl) rfl rfl, merges (fun _ => rfl) rfl rfl, ?gatePasses, ?gateHolds,
    ?kput⟩
  case sel => exact does_of _ (fun _ => rfl) fun _ x h hp => ⟨rfl, stored_putT _ (begins_ok h) hp rfl rfl⟩
  case gatePasses =>
    exact does_of _ (fun _ => rfl) fun _ x h hp => ⟨if_pos hp.1, stored_putT _ (begins_ok h) hp.2 rfl rfl⟩
  case gateHolds =>
    refine does_of _ (fun _ => rfl) fun _ x h hp => ⟨if_neg (by simp [hp.1]), ?_⟩
    by_cases hd : d = .sw
    · have hs : stored (.gate g d a) x = x.flushSw := if_pos (by rw [begins_ok h, hd]; rfl)
      rw [hs, hp.2 hd]
    · have hw : writesSw (.gate g d a) = false :=
        beq_eq_false_iff_ne.2 fun he : some d = some .sw => hd (Option.some.inj he)
      rw [stored_same hw, begins_ok h]
  case kput => exact does_of_noSw _ (fun _ => rfl) rfl (fun _ => rfl) fun _ _ _ hp => pushK_unseamed hp _

/-- Settles O15: the moves by their bodies, the writes by what `routea.set` and `vcbind` refuse. -/
theorem tokensAndRoutes : Obligations.TokensAndRoutes := ⟨tokenMoves, routeWrites⟩

end Sys2Proof.Machine
end

section
/-! SUPPORT. What arrives at a channel (R42, R51, R55, R56, R67, R414, R422), and from where it is delivered (R318). -/

namespace Sys2Proof.Machine

open Sys2Proof

/-! ## Arrivals -/

section
variable {sp : Spur} {row col : BitVec 8} {vc now : Nat} {br : Brick} {k : Ctx} {f : Flit}

/-- A channel that has its brick and its context takes a flit where it admits one and its queue takes it; its digest
takes the flit too (R51, R56, R414, R422). -/
theorem arrive_eq (hb : sp.live.brick? row col = some br)
    (hk : sp.live.ctx? row col (bindCtx (nth br.vc vc 0)) = some k) : sp.arrive row col vc f now =
      if !bindV (nth br.vc vc 0) || !k.conf || br.active != k.idx || !sp.waveOpen row col then none
      else (sp.enqueue br k (bindQ (nth br.vc vc 0))
        (paired br k.idx (bindQ (nth br.vc vc 0)) && bindAr (nth br.vc vc 0)) (bindFmt (nth br.vc vc 0)) f now).map fun sp =>
          sp.modLive fun l => l.setBrick { br with dig := upd br.dig vc fun d => digest d f } := by
  simp only [Spur.arrive, hb, hk]

/-- A channel admits a flit: its binding is valid, and its context is configured, active and in a ridge whose wave has
opened. -/
theorem admits_iff (b : W32) : (!bindV b || !k.conf || br.active != k.idx || !sp.waveOpen row col) = false ↔
    bindV b = true ∧ k.conf = true ∧ br.active = k.idx ∧ sp.waveOpen row col = true := by
  simp [and_assoc]

end

section
variable {sp : Spur} {br : Brick} {k : Ctx} {q : BitVec 3} {a : Bool} {fmt now : Nat}

/-- A full arm takes no token (R50, R56). -/
theorem enqueue_full {t : Tok} (h : ¬ tokCount ((k.inQ q).side a) < if paired br k.idx q then 2 else 4) :
    sp.enqueue br k q a fmt (.tok t) now = none :=
  if_pos (by simpa [Flit.isTok] using h)

/-- An arm with room takes a token (R50, R56). -/
theorem enqueue_tok {t : Tok} (h : tokCount ((k.inQ q).side a) < if paired br k.idx q then 2 else 4) :
    sp.enqueue br k q a fmt (.tok t) now =
      some (sp.modLive fun b => b.setCtx { k with iq := upd k.iq q.toNat fun x => x.take a (.tok t) now }) :=
  if_neg (by simpa [Flit.isTok] using h)

/-- An arm takes a header of a format that there is and that its binding admits (R42, R55). -/
theorem enqueue_hdr {w : W64} (hw : hdrFmt w < 13) (hf : fmt = 0 ∨ hdrFmt w = fmt) :
    sp.enqueue br k q a fmt (.hdr w) now =
      some (sp.modLive fun b => b.setCtx { k with iq := upd k.iq q.toNat fun x => x.take a (.hdr w) now }) :=
  congrArg some (if_neg (by omega))

/-- An arm takes a seam marker (R67). -/
theorem enqueue_seam : sp.enqueue br k q a fmt .seam now =
    some (sp.modLive fun b => b.setCtx { k with iq := upd k.iq q.toNat fun x => x.take a .seam now }) := rfl

end

/-- A flit that its channel admits and its arm takes arrives; any other waits. -/
theorem arrivals : Says.Arrivals := by
  intro sp row col vc now br k t f w b q two a there admitted room put hdr latch ⟨hb, hk⟩
  have heq : sp.arrive row col vc f now = _ := arrive_eq hb hk
  refine ⟨fun hn => ?_, fun hf hr => ?_, fun ha hf hr => ?_, fun ha hf hw hfmt => ?_, fun ha hf => ?_⟩
  · rw [heq, if_pos (by_contra fun h => hn ((admits_iff b).1 (eq_false_of_ne_true h)))]
  · subst hf
    rw [heq, enqueue_full hr, Option.map_none, ite_self]
  all_goals
    subst hf
    rw [heq, if_neg (by rw [(admits_iff b).2 ha]; exact Bool.false_ne_true)]
  · rw [enqueue_tok hr]; rfl
  · rw [enqueue_hdr hw hfmt]; rfl
  · rw [enqueue_seam]; rfl

/-! ## Deliveries -/

/-- Each of the three delivery events delivers the flits of its own kind (R414). -/
theorem exec_delivery {ev : Handle → FlowId → Instr} {want : Flit → Bool}
    (h : (ev, want) ∈ [(Instr.tokenDelivery, Flit.isTok), (.headerDelivery, Flit.isHdr), (.seamMarkerDelivery, Flit.isSeam)])
    (hd : Handle) (f : FlowId) (s : State) : exec (ev hd f) s = .next (deliverFlow hd f want s) := by
  simp only [List.mem_cons, List.not_mem_nil, or_false, Prod.mk.injEq] at h
  rcases h with ⟨rfl, rfl⟩ | ⟨rfl, rfl⟩ | ⟨rfl, rfl⟩ <;> rfl

/-- The digest of a port takes a flit (R414). -/
def Body.digestAt (b : Body) (p : BitVec 8) (x : Flit) : Body :=
  { b with portDig := updFirst (fun y => y.1 == p) (fun y => (y.1, digest y.2 x)) b.portDig }

section
variable {s : State} {h : Handle} {sp : Spur} {want : Flit → Bool}

/-- The oldest flit of a route to a channel leaves the route where it arrives (R51, R59). -/
theorem deliverFlow_route {tag : BitVec 6} {row col : BitVec 8} {vc : BitVec 5} {r : Route} {x : Fly}
    (hs : s.spur? h = some sp) (ha : s.active sp = true) (hr : sp.live.routes[tag.toNat]? = some r)
    (hx : r.fly.find? (fun x => x.goesTo row col vc) = some x) (hw : want x.flit = true) :
    deliverFlow h (.route tag row col vc) want s = ((sp.arrive row col vc.toNat x.flit s.now).map fun u =>
      s.setSpur ((u.modLive fun b => { b with routes := upd b.routes tag.toNat fun r =>
        { r with fly := r.fly.eraseP fun x => x.goesTo row col vc } }).busy s.now)).getD s := by
  simp only [deliverFlow, hs, ha, hr, hx, hw, Bool.not_true, Bool.false_eq_true, if_false]
  cases sp.arrive row col vc.toNat x.flit s.now <;> rfl

/-- The head of the wire into a port leaves it where it arrives; the port's digest takes it (R318, R414). -/
theorem deliverFlow_port {p : BitVec 8} {d : PortDecl} {w : Wire} {x : Flit} {l : List Flit}
    (hs : s.spur? h = some sp) (ha : s.active sp = true) (hp : sp.img.inPort p = some d)
    (hf : s.wires.find? (fun w => w.feeds h p && !s.severed w) = some w) (hb : w.buf = x :: l) (hw : want x = true) :
    deliverFlow h (.port p) want s = ((sp.arrive d.row d.col d.vc.toNat x s.now).map fun u =>
      ({ s with wires := updFirst (· == w) (fun w => { w with buf := w.buf.drop 1 }) s.wires } : State).setSpur
        (({ u.modLive (·.digestAt p x) with delivered := u.delivered ++ [(p, x)] } : Spur).busy s.now)).getD s := by
  simp only [deliverFlow, hs, ha, hp, hf, hb, List.head?_cons, Option.getD_some, hw, Bool.not_true, Bool.false_eq_true,
    if_false]
  cases sp.arrive d.row d.col d.vc.toNat x s.now <;> rfl

/-- A seam marker on a control path arrives where its control queue takes it (R61, R67). -/
theorem deliverFlow_grout {c : CtxAt} {j n : BitVec 2} {p : GPath} {l : List KEnt} (hs : s.spur? h = some sp)
    (ha : s.active sp = true) (hp : sp.live.path? c j n = some p) (hb : p.bits = .seam :: l) (hw : want .seam = true) :
    deliverFlow h (.grout c j n) want s = ((sp.arriveK p .seam).map fun u => s.setSpur (u.busy s.now)).getD s := by
  simp only [deliverFlow, hs, ha, hp, hb, hw, Bool.not_true, Bool.false_eq_true, if_false, if_true]
  cases sp.arriveK p .seam <;> rfl

end

/-- A delivery brings the head of its flow to the channel it is for, where that takes it. -/
theorem deliveries : Says.Deliveries := by
  intro s h sp u ev want hev hs ha
  refine ⟨?route, ?port, ?grout⟩
  case route =>
    intro tag row col vc r x hr hx hw i cut
    have he : exec i s = _ := (exec_delivery hev h _ s).trans (congrArg Host.Outcome.next (deliverFlow_route hs ha hr hx hw))
    exact ⟨fun harr => by rw [he, harr]; rfl, fun harr => by rw [he, harr]; rfl⟩
  case port =>
    intro p d w x l hp hf hb hw cut dig
    have he := (exec_delivery hev h (.port p) s).trans (congrArg Host.Outcome.next (deliverFlow_port hs ha hp hf hb hw))
    exact ⟨fun harr => by rw [he, harr]; rfl, fun harr => by rw [he, harr]; rfl⟩
  case grout =>
    intro c j n p l hp hb harr
    refine congrArg Host.Outcome.next ((deliverFlow_grout hs ha hp hb rfl).trans ?_)
    rw [harr]
    rfl

/-- Settles O46, by what each arm takes and where each flow leads. -/
theorem arrivalsAndDeliveries : Obligations.ArrivalsAndDeliveries := ⟨arrivals, deliveries⟩

end Sys2Proof.Machine
end

section
/-! SUPPORT. Injection into routes, loopbacks and control paths (R57 to R61, R68, R74, R85, R105), and what a route
holds (R59, R60, R354, R400). -/

namespace Sys2Proof.Machine

open Sys2Proof

/-! ## What a route holds -/

section
variable {s : State} {k : Ctx} {o : W32} {sp : Spur} {a : Bool} {r : Route} {m : Arm}

/-- A mortar route whose phase is valid has room for any flit but a token that finds it full (R59, R354). -/
theorem routeRoom_mortar (hv : entV r.ent = true) (hk : entKd r.ent ≠ 1) (tag : BitVec 6) (f : Flit) :
    routeRoom s sp k tag r f = (!f.isTok || decide ((r.fly.filter fun x =>
      x.row == k.row && x.col == k.col && x.flit.isTok && x.goesTo (rtRow r.ent) (rtCol r.ent) (rtVc r.ent)).length <
        4 * segments k.row.toNat k.col.toNat (rtRow r.ent).toNat (rtCol r.ent).toNat)) := by
  simp only [routeRoom, hv, hk, if_false, Bool.true_and, Config.mortarSegment]
  rfl

/-- A route takes a token while it has room for one (R59, R354). -/
theorem sendArm_tok {t : Tok} (hr : sp.live.routes[(armTag o a).toNat]? = some r) (hk : entKd r.ent ≠ 1)
    (hroom : routeRoom s sp k (armTag o a) r (.tok t) = true) : sendArm s k o ⟨.tok t, m⟩ sp a =
      some (sp.modLive fun b => { b with
        routes := b.routes.set (armTag o a).toNat { r with fly := r.fly ++ [⟨k.row, k.col, r.ent, .tok t⟩] } }) := by
  simp only [sendArm, hr, hroom, Bool.not_true, Bool.false_eq_true, if_false, Body.send, hk]

/-- A route without room takes nothing (R59, R354). -/
theorem sendArm_full {f : Flit} (hr : sp.live.routes[(armTag o a).toNat]? = some r)
    (hroom : routeRoom s sp k (armTag o a) r f = false) : sendArm s k o ⟨f, m⟩ sp a = none := by
  simp only [sendArm, hr, hroom, Bool.not_false, if_true]

/-- A step word moves a route with room to its next phase (R59, R60). -/
theorem sendArm_step (hr : sp.live.routes[(armTag o a).toNat]? = some r)
    (hroom : routeRoom s sp k (armTag o a) r .step = true) : sendArm s k o ⟨.step, m⟩ sp a =
      some (sp.modLive fun b => { b with routes := b.routes.set (armTag o a).toNat r.advance }) := by
  simp only [sendArm, hr, hroom, Bool.not_true, Bool.false_eq_true, if_false]

end

/-- A route takes tokens up to its room, and a step word always. -/
theorem routeSends : Says.RouteSends := by
  intro s k o sp a r t m tag mine room next hr hv hk put
  have hroom (f : Flit) : routeRoom s sp k tag r f = (!f.isTok || decide room) := routeRoom_mortar hv hk tag f
  exact ⟨fun h => sendArm_tok hr hk (by rw [hroom]; exact decide_eq_true h),
    fun h => sendArm_full hr (by rw [hroom]; exact decide_eq_false h), sendArm_step hr (hroom .step)⟩

/-! ## Injection -/

/-- A working context lies in a spur that is active (R51). -/
theorem working_cases {s : State} {c : CtxAt} {sp : Spur} {br : Brick} {k : Ctx} (h : s.working c = some (sp, br, k)) :
    s.spur? c.h = some sp ∧ s.active sp = true ∧ sp.live.ctx? c.row c.col c.ctx = some k := by
  unfold State.working at h
  split at h
  · cases h
  · split at h
    · split at h
      · simp_all
      · cases h
    · cases h

/-- An output queue without its head, which has left it whole: a token ends the fill of a phase (R57, R112). -/
def State.headLeaves (s : State) (c : CtxAt) (k : Ctx) (n : BitVec 3) (e : OutEnt) (rest : List OutEnt) (u : Spur) : State :=
  let u := if e.flit.isTok then u.phaseFill c.row c.col s.now else u
  s.setSpur ((u.modLive fun b => b.setCtx { k with oq := k.oq.set n.toNat rest }).busy s.now)

/-- A step word is forwarded and anything else injected, each by its own event (R57, R85). -/
theorem exec_sends (e : OutEnt) (c : CtxAt) (n : BitVec 3) (s : State) : ∃ want : Flit → Bool, want e.flit = true ∧
    exec (if e.flit.isStep then .stepWordForward c n else .outputInjection c n) s = .next (sendHead s c n want) := by
  cases he : e.flit.isStep with
  | true => exact ⟨Flit.isStep, he, rfl⟩
  | false => exact ⟨fun f => !f.isStep, congrArg Bool.not he, rfl⟩

section
variable {s : State} {c : CtxAt} {sp u v : Spur} {br : Brick} {k : Ctx} {n : BitVec 3} {e : OutEnt} {rest : List OutEnt}
  {want : Flit → Bool} {a : Bool} (hw : s.working c = some (sp, br, k)) (hq : k.outQ n = e :: rest)
  (hv : entV (nth k.obind n.toNat 0) = true) (hk : entKd (nth k.obind n.toNat 0) ≠ 2) (hwant : want e.flit = true)

include hw hq hv hk hwant

/-- The head of an output queue that goes down the one arm it owes leaves the queue (R57). -/
theorem sendHead_one (ho : owed (entKd (nth k.obind n.toNat 0) == 1) e = [a])
    (hs : sendArm s k (nth k.obind n.toNat 0) e sp a = some u) : sendHead s c n want = s.headLeaves c k n e rest u := by
  simp only [sendHead, hw, hq, hv, beq_eq_false_iff_ne.2 hk, hwant, ho, hs, List.foldl_cons, List.foldl_nil]
  rfl

/-- The head of an output queue stays where the one arm it owes has no room (R57). -/
theorem sendHead_stays (ho : owed (entKd (nth k.obind n.toNat 0) == 1) e = [a])
    (hs : sendArm s k (nth k.obind n.toNat 0) e sp a = none) : sendHead s c n want = s := by
  simp only [sendHead, hw, hq, hv, beq_eq_false_iff_ne.2 hk, hwant, ho, hs, List.foldl_cons, List.foldl_nil]
  rfl

/-- The head of a split that goes down both arms leaves the queue (R57, R74). -/
theorem sendHead_both (ho : owed (entKd (nth k.obind n.toNat 0) == 1) e = [false, true])
    (hs : sendArm s k (nth k.obind n.toNat 0) e sp false = some u)
    (ht : sendArm s k (nth k.obind n.toNat 0) e u true = some v) : sendHead s c n want = s.headLeaves c k n e rest v := by
  simp only [sendHead, hw, hq, hv, beq_eq_false_iff_ne.2 hk, hwant, ho, hs, ht, List.foldl_cons, List.foldl_nil]
  rfl

end

section
variable {s : State} {c : CtxAt} {sp u : Spur} {br : Brick} {k : Ctx} (hw : s.working c = some (sp, br, k))

include hw

/-- A loopback reaches the context's own queue where that takes it (R57). -/
theorem loopback_arrives {n : BitVec 3} {e : OutEnt} {rest : List OutEnt} (hq : k.outQ n = e :: rest)
    (hv : entV (nth k.obind n.toNat 0) = true) (hk : entKd (nth k.obind n.toNat 0) = 2)
    (hu : sp.enqueue br { k with oq := k.oq.set n.toNat rest } (outLq (nth k.obind n.toNat 0)) false 0 e.flit s.now = some u) :
    exec (.loopbackDelivery c n) s = .next (s.setSpur
      ((if e.flit.isTok then u.phaseFill c.row c.col s.now else u).busy s.now)) := by
  change execLoopbackDelivery c n s = _
  simp only [execLoopbackDelivery, hw, hq, hv, hk, hu]
  rfl

/-- The head of a control output leaves for all its destinations: a seam marker always, a bit where each path has room
(R61). -/
theorem groutLeave_leaves {j : Nat} {e : KEnt} {rest : List KEnt} (hq : nth k.jq j [] = e :: rest)
    (hg : k.groutEnts j ≠ []) (hr : e = .seam ∨ ∀ x ∈ k.groutEnts j, sp.live.pathLen k j x.1 x.2 <
      Config.groutSegment * segments k.row.toNat k.col.toNat (grRow x.2).toNat (grCol x.2).toNat) :
    groutLeave s c j = s.setSpur ((sp.modLive fun b => (k.groutEnts j).foldl (fun b x => b.putPath k j x.1 x.2 e)
      (b.setCtx { k with jq := k.jq.set j rest })).busy s.now) := by
  have hroom : (e == .seam || (k.groutEnts j).all fun x => decide (sp.live.pathLen k j x.1 x.2 <
      Config.groutSegment * segments k.row.toNat k.col.toNat (grRow x.2).toNat (grCol x.2).toNat)) = true := by
    simpa only [Bool.or_eq_true, beq_iff_eq, List.all_eq_true, decide_eq_true_eq] using hr
  simp only [groutLeave, hw, hq, hroom, List.isEmpty_eq_false_iff.2 hg, Bool.not_true, Bool.or_false, Bool.false_eq_true,
    if_false]

/-- The oldest bit on a control path arrives where its control queue takes it (R61). -/
theorem controlToken_arrives {j n : BitVec 2} {p : GPath} {x : Bool} {l : List KEnt} (hp : sp.live.path? c j n = some p)
    (hb : p.bits = .bit x :: l) (hu : sp.arriveK p (.bit x) = some u) :
    exec (.controlTokenDelivery c j (some n)) s = .next (s.setSpur (u.busy s.now)) := by
  obtain ⟨hs, ha, -⟩ := working_cases hw
  change execControlTokenDelivery c j (some n) s = _
  simp only [execControlTokenDelivery, hs, ha, hp, hb, hu, Bool.not_true, Bool.false_eq_true, if_false]

/-- With its reconfiguration token arrived and every input at its seam, a context's outputs are seamed (R68). -/
theorem seamAutoAppend_seams {r : Recon} (hr : k.recon = some r) (ha : r.arrived = true)
    (hi : k.seamsIn sp.live br = true) (ho : k.allSeamed = false) :
    exec (.seamAutoAppend c) s = .next (s.setSpur (sp.modLive fun b => b.setCtx k.seamEvery)) := by
  change execSeamAutoAppend c s = _
  simp only [execSeamAutoAppend, hw, hr, ha, hi, ho, Bool.not_false, Bool.and_self, if_true]

/-- A reconfiguration token reaches its context (R105). -/
theorem reconfigurationToken_arrives {r : Recon} (hr : k.recon = some r) :
    exec (.reconfigurationTokenArrival c) s = .next (s.setSpur (sp.modLive fun b =>
      b.setCtx { k with recon := some { r with arrived := true } })) := by
  obtain ⟨hs, ha, hk⟩ := working_cases hw
  change execReconfigurationTokenArrival c s = _
  simp only [execReconfigurationTokenArrival, hs, ha, Bool.not_true, Bool.false_eq_true, if_false, Spur.modLive, Body.modCtx,
    hk, hr, Option.map_some]

end

/-- Each event of injection sends its head where the flow has room for it. -/
theorem injections : Says.Injections := by
  intro s c sp u v br k hw
  refine ⟨?routes, ?loopback, ?leave, ?arrive, fun r => seamAutoAppend_seams hw, fun r => reconfigurationToken_arrives hw⟩
  case routes =>
    intro n e rest hq o leaves i hv hk
    obtain ⟨want, hwant, he⟩ : ∃ want : Flit → Bool, want e.flit = true ∧ exec i s = _ := exec_sends e c n s
    rw [he]
    exact ⟨fun a ho => ⟨fun hs => congrArg Host.Outcome.next (sendHead_one hw hq hv hk hwant ho hs),
        fun hs => congrArg Host.Outcome.next (sendHead_stays hw hq hv hk hwant ho hs)⟩,
      fun ho hs ht => congrArg Host.Outcome.next (sendHead_both hw hq hv hk hwant ho hs ht)⟩
  case loopback => exact fun n e rest hq hv hk hu => loopback_arrives hw hq hv hk hu
  case leave => exact fun j e rest hq hg hr => congrArg Host.Outcome.next (groutLeave_leaves hw hq hg hr)
  case arrive => exact fun j n p x l hp hb hu => controlToken_arrives hw hp hb hu

/-- Settles O47, event by event. -/
theorem injectionsAndRoutes : Obligations.InjectionsAndRoutes := ⟨injections, routeSends⟩

end Sys2Proof.Machine
end

section
/-! SUPPORT. A thread's view: its context is blank, so that every destination takes a result, and its registers are its own
(R33, R87). -/

namespace Sys2Proof.Machine

open Sys2Proof

/-- A blank context has no descriptor at a port. -/
@[simp] theorem descOf_blank (r c : BitVec 8) (i : BitVec 3) : (Ctx.blank r c i).descOf 2 = none := rfl

/-- A blank context has no pattern at a port. -/
@[simp] theorem patOf_blank (r c : BitVec 8) (i : BitVec 3) : (Ctx.blank r c i).patOf 2 = none := rfl

section
variable {x : Ex} {r c : BitVec 8} {i : BitVec 3}

/-- Where there is no port, `sw` takes nothing. -/
theorem put_sw_blank (hc : x.cx = Ctx.blank r c i) (v : W64) : x.put .sw v = x := by
  simp [Ex.put, Ex.putT, Ex.putSw, hc]

/-- Where there is no port, nothing is left to store. -/
theorem flushSw_blank (hc : x.cx = Ctx.blank r c i) : x.flushSw = x := by simp [Ex.flushSw, hc]

/-- A blank context has emitted no seam. -/
theorem seamed_blank (hc : x.cx = Ctx.blank r c i) (n : Nat) : x.cx.seamed.getLsbD n = false := by simp [hc, Ctx.blank]

/-- A view whose context is blank takes a value at every destination. -/
theorem accepts_of_blank (hc : x.cx = Ctx.blank r c i) (hx : x.ok = true) (d : Opnd) (v : W64) : x.accepts d v := by
  cases d with
  | o n => exact seamed_blank hc _
  | sw =>
    change (x.put .sw v).flushSw.ok = true
    rw [put_sw_blank hc, flushSw_blank hc, hx]
  | _ => trivial

theorem putPred_npc (x : Ex) (m : BitVec 3) (b : Bool) (n : Option W64) :
    { x with npc := n }.putPred m b = { x.putPred m b with npc := n } := by
  unfold Ex.putPred
  cases h : x.isB
  all_goals
    rw [show Ex.isB { x with npc := n } = x.isB from rfl, h]
    rfl

/-- Where a thread goes next is no part of a result that it writes. -/
theorem put_npc (hc : x.cx = Ctx.blank r c i) (hx : x.ok = true) (d : Opnd) (v : W64) (n : Option W64) :
    { x with npc := n }.put d v = { x.put d v with npc := n } := by
  have hn : Ex.ok { x with npc := n } = true := hx
  cases d with
  | sw => rw [put_sw_blank hc, put_sw_blank (x := { x with npc := n }) hc]
  | o m => simp only [Ex.put, Ex.putT, hx, hn, Ex.pushTok, pushOut_unseamed (seamed_blank hc _),
      pushOut_unseamed (x := { x with npc := n }) (seamed_blank hc _)]; rfl
  | q m | f m => simp only [Ex.put, Ex.putT, hx, hn, putPred_npc]; rfl
  | _ => simp only [Ex.put, Ex.putT, hx, hn]; rfl

/-- A result leaves `pc` alone. -/
theorem put_pc (hc : x.cx = Ctx.blank r c i) (d : Opnd) (v : W64) : (x.put d v).th.pc = x.th.pc := by
  cases d with
  | sw => rw [put_sw_blank hc]
  | g n =>
    simp only [Ex.put, Ex.putT, Thread.setReg]
    split_ifs <;> rfl
  | o n =>
    simp only [Ex.put, Ex.putT, Ex.pushTok, pushOut_unseamed (seamed_blank hc _), ite_self, apply_ite]
  | q n | f n =>
    simp only [Ex.put, Ex.putT, Ex.putPred]
    split_ifs <;> rfl
  | _ =>
    unfold Ex.put Ex.putT
    split <;> rfl

end

/-- The view of a thread that begins has a blank context. -/
theorem begins_blank {i : Instr} {g : SGuard} {s : State} {x : Ex} (h : begins i (.s g) s = some x) :
    x.cx = Ctx.blank 0 0 0 := by
  obtain ⟨_, _, _, _, _, _, _, _, hc, hc0, -⟩ := begins_thread h
  exact hc.trans hc0

/-- A thread's result lets its instruction complete, wherever it goes next. -/
theorem stored_put_thread {i : Instr} {g : SGuard} {s : State} {x : Ex} {d : Opnd} (h : begins i (.s g) s = some x)
    (hd : dstOf i = some d) (hl : laneSw i = false) (n : Option W64) (v : W64) :
    (stored i ({ x with npc := n }.put d v)).ok = true :=
  have hx : x.ok = true := begins_ok h
  have hc : x.cx = Ctx.blank 0 0 0 := begins_blank h
  stored_putT (x := { x with npc := n }) false hx (accepts_of_blank (x := { x with npc := n }) hc hx d v) hd hl

end Sys2Proof.Machine
end

section
/-! SUPPORT. Where a thread goes (R39, R88, R98, R99, R109). -/

namespace Sys2Proof.Machine

open Sys2Proof

/-- Going eight times the extension on from `pc`, without and with a sign (R39). -/
theorem branch_target (pc : W64) (v : BitVec 27) : BitVec.ofInt 64 (pc.toNat + 8 * v.toInt) = pc + (sextX v <<< 3) := by
  have h8 : sextX v <<< 3 = 8 * sextX v := by
    rw [BitVec.shiftLeft_eq_mul_twoPow, BitVec.mul_comm]
    rfl
  rw [BitVec.ofInt_add, BitVec.ofInt_mul, BitVec.ofInt_natCast, BitVec.ofNat_toNat, BitVec.setWidth_eq, h8]
  rfl

/-- The compares of two words, as numbers (R150). -/
theorem cmpInt_iff (c : Cond) (a b : W64) : cmpInt c a b = true ↔ (match c with
    | .eq => a.toNat = b.toNat | .ne => a.toNat ≠ b.toNat
    | .lt => a.toInt < b.toInt | .le => a.toInt ≤ b.toInt
    | .ltu => a.toNat < b.toNat | .leu => a.toNat ≤ b.toNat) := by
  cases c <;> simp [cmpInt, BitVec.toNat_inj, BitVec.slt, BitVec.sle, BitVec.ult, BitVec.ule]

/-- A condition holds of two sources as it holds of their numbers (R99). -/
def Ex.holds (x : Ex) (c : Cond) (a b : Opnd) : Prop :=
  match c with
  | .eq => x.uval a = x.uval b | .ne => x.uval a ≠ x.uval b
  | .lt => x.sval a < x.sval b | .le => x.sval a ≤ x.sval b
  | .ltu => x.uval a < x.uval b | .leu => x.uval a ≤ x.uval b

/-- A source of a thread as an unsigned number. -/
theorem uval_thread {x : Ex} (hb : x.isB = false) (a : Opnd) : x.uval a = (x.get a).toNat := by
  simp [Ex.uval, Ex.w, hb, Ex.nat, Nat.mod_eq_of_lt (x.get a).isLt]

/-- A source of a thread as a signed number. -/
theorem sval_thread {x : Ex} (hb : x.isB = false) (a : Opnd) : x.sval a = (x.get a).toInt := by
  rw [Ex.sval, show x.w = 64 from if_neg (by simp [hb]), Ex.nat, signed, BitVec.ofNat_toNat, BitVec.setWidth_eq]

theorem holds_iff {x : Ex} (hb : x.isB = false) (c : Cond) (a b : Opnd) :
    x.holds c a b ↔ cmpInt c (x.get a) (x.get b) = true := by
  rw [cmpInt_iff]
  cases c <;> simp only [Ex.holds, uval_thread hb, sval_thread hb]

/-- A view that goes on at an address. -/
def Ex.goes (x : Ex) (t : W64) : Ex := { x with npc := some t }

/-- Where the extension of a branch leads (R39). -/
def Ex.there (x : Ex) (g : SGuard) : W64 := BitVec.ofInt 64 (x.th.pc.toNat + 8 * g.x.toInt)

theorem jump_eq (x : Ex) (g : SGuard) : x.jump g = x.goes (x.there g) := by
  rw [Ex.there, branch_target]
  rfl

section
variable {g : SGuard} {c : Cond} {d a b : Opnd}

theorem br_goes : Does (.br g) (.s g) (fun _ => True) fun x => x.goes (x.there g) :=
  does_of_noSw _ (fun _ => rfl) rfl (fun _ => rfl) fun _ x _ _ => jump_eq x g

theorem bc_goes : Does (.bc g c a b) (.s g) (fun x => x.holds c a b) fun x => x.goes (x.there g) :=
  does_of_noSw _ (fun _ => rfl) rfl (fun _ => rfl) fun _ x h hp => by
    rw [if_pos ((holds_iff (begins_isB h) ..).1 hp), jump_eq]

theorem bc_stays : Does (.bc g c a b) (.s g) (fun x => ¬ x.holds c a b) fun x => x :=
  does_of_noSw _ (fun _ => rfl) rfl (fun _ => rfl) fun _ _ h hp => if_neg (mt (holds_iff (begins_isB h) ..).2 hp)

theorem jal_goes : Does (.jal g d) (.s g) (fun x => x.accepts d (x.th.pc + 8))
    fun x => (x.goes (x.there g)).put d (x.th.pc + 8) :=
  does_of _ (fun _ => rfl) fun _ x h _ => ⟨by rw [jump_eq]; rfl, stored_put_thread h rfl rfl _ _⟩

/-- An address lies at a word where its low three bits are 0. -/
theorem low3_eq_zero_iff (v : W64) : v.extractLsb' 0 3 = 0 ↔ v.toNat % 8 = 0 := by
  rw [← BitVec.toNat_inj, toNat_extractLsb'_eq_bitsOf]
  simp [bitsOf]

theorem jr_goes : Does (.jr g d a) (.s g) (fun x => (x.get a).toNat % 8 = 0 ∧ x.accepts d (x.th.pc + 8))
    fun x => (x.goes (x.get a)).put d (x.th.pc + 8) :=
  does_of _ (fun _ => rfl) fun _ x h hp =>
    ⟨if_neg (by simp [(low3_eq_zero_iff (x.get a)).2 hp.1]), stored_put_thread h rfl rfl _ _⟩

theorem jr_misaligned : Faults (.jr g d a) (.s g) (fun x => (x.get a).toNat % 8 ≠ 0) fun x => ⟨8, x.get a, [], none⟩ :=
  faults_of_raise _ (fun _ => rfl) fun x hp => if_pos (by simpa using mt (low3_eq_zero_iff (x.get a)).1 hp)

theorem loop_ends : Does (.loop g d) (.s g) (fun x => x.get d = 1 ∧ x.accepts d 0) fun x => x.put d 0 := by
  refine does_of _ (fun _ => rfl) fun _ x h hp => ⟨?_, stored_put_thread h rfl rfl x.npc 0⟩
  simp only [hp.1]
  exact if_pos rfl

theorem loop_goes : Does (.loop g d) (.s g) (fun x => x.get d ≠ 1 ∧ x.accepts d (x.get d - 1))
    fun x => (x.put d (x.get d - 1)).goes (x.there g) := by
  refine does_of _ (fun _ => rfl) fun _ x h hp => ⟨?_, ?_⟩
  · have hn : x.get d - 1 ≠ 0 := by rw [ne_eq, sub_eq_zero]; exact hp.1
    simp only [if_neg hn, jump_eq, Ex.there, put_pc (begins_blank h)]
  · rw [Ex.goes, ← put_npc (begins_blank h) (begins_ok h)]
    exact stored_put_thread h rfl rfl _ _

end

theorem branches : Says.Branches := fun _ _ _ _ _ =>
  ⟨br_goes, bc_goes, bc_stays, jal_goes, jr_goes, jr_misaligned, loop_ends, loop_goes⟩

/-! ## The end of an instruction -/

/-- The spur of a view that goes back into the machine has the view's thread. -/
theorem thread?_back {x : Ex} {sp : Spur} (h : x.s.spur? x.sp.handle = some sp) :
    x.back.thread? x.sp.handle = some x.th := by
  unfold Ex.back
  extract_lets live
  have hs := State.spur?_setSpur (x := { x.sp with live := { live with th := x.th } }) h
  exact congrArg (Option.map fun sp => sp.live.th) hs

theorem threadAdvances : Says.ThreadAdvances := by
  intro i g s x y h hb ha hy hs hsp hl
  obtain ⟨_, ha', -, -, -, -, -, -, -, -, hx, -⟩ := begins_thread hb
  obtain rfl : h = _ := Agent.thread.inj (ha.symm.trans ha')
  have hh : x.sp.handle = h := handle_of_spur? hx
  have he : ended i s y = leaveS h y := by simp only [ended, ha]
  rw [he, leaveS_done hy, hl]
  refine ⟨_, ?_, rfl⟩
  rw [← hh, ← hsp]
  exact thread?_back (x := { y with
    th := { y.th with pc := y.npc.getD (y.th.pc + 8) }, sp := y.sp.busy y.s.now }) (sp := x.sp)
    (by rw [hs]; exact (hsp ▸ hh) ▸ hx)

/-! ## System entry and return (R109) -/

theorem enter_eq (t : Thread) (n : BitVec 6) : t.enter n = { t with
    epc := t.pc + 8
    ecause := n.setWidth 64
    sst := (t.sst &&& ~~~0x30000#64) ||| (if true then 0x10000 else 0) ||| (if t.sst.getLsbD 16 then 0x20000 else 0) } := by
  unfold Thread.enter Thread.sysMode
  cases t.sst.getLsbD 16 <;> simp [BitVec.or_assoc]

theorem leave_eq (t : Thread) : t.leave = { t with
    sst := (t.sst &&& ~~~0x30000#64) ||| (if t.sst.getLsbD 17 then 0x10000 else 0) ||| (if false then 0x20000 else 0) } := by
  simp [Thread.leave]

theorem systemEntry : Says.SystemEntry := fun g n =>
  ⟨does_of_noSw _ (fun _ => rfl) rfl (fun _ => rfl) fun _ x _ hp => by rw [if_neg hp, enter_eq],
    faults_of_raise _ (fun _ => rfl) fun _ hp => if_pos hp,
    does_of_noSw _ (fun _ => rfl) rfl (fun _ => rfl) fun _ x _ _ => by rw [leave_eq]⟩

/-- Settles O36, by where the body of each branch leads and what the end of an instruction makes of it. -/
theorem threadsAndBranches : Obligations.ThreadsAndBranches := ⟨threadAdvances, branches, systemEntry⟩

end Sys2Proof.Machine
end

section
/-! SUPPORT. Control registers (R90, R91, R110, R111): what each holds, and what a write to each keeps. -/

namespace Sys2Proof.Machine

open Sys2Proof

/-- System software in a thread is a thread in system mode (R316). -/
theorem sys_thread {x : Ex} (hb : x.isB = false) : x.sys = x.th.sysMode := by simp [Ex.sys, Ex.user, hb]

/-! ## Reads -/

/-- The registers of a context (R91). -/
def ctxRegs : List (BitVec 12 × (Ctx → W32)) := [(0x100, Ctx.cst), (0x101, Ctx.bfc), (0x102, Ctx.bsq), (0x103, Ctx.mdc)]

/-- The registers of a thread and of its home ridge's sequencer (R91). -/
def threadRegs : List (BitVec 12 × (Ex → Nat)) :=
  [(0, fun x => x.th.sst.toNat), (1, fun x => x.th.epc.toNat),
    (2, fun x => x.th.ecause.toNat), (3, fun x => x.th.evec.toNat), (4, fun x => x.th.rlen), (5, fun x => x.sp.rnd.toNat),
    (6, fun x => x.s.now - x.sp.openedAt), (8, fun x => (nth x.s.seqs x.sp.home ⟨0, 0, 4096⟩).phb.toNat),
    (9, fun x => (nth x.s.seqs x.sp.home ⟨0, 0, 4096⟩).phi.toNat),
    (10, fun x => (nth x.s.seqs x.sp.home ⟨0, 0, 4096⟩).qwin.toNat)]

/-- A context's registers have the numbers from 0x100 on, and read as they stand. -/
theorem creg_eq {c : BitVec 12} {r : Ctx → W32} (h : (c, r) ∈ ctxRegs) :
    ¬ c.toNat < 0x100 ∧ ∀ k : Ctx, k.creg c.toNat = (r k).setWidth 64 := by
  simp only [ctxRegs, List.mem_cons, Prod.mk.injEq, List.not_mem_nil, or_false] at h
  rcases h with ⟨rfl, rfl⟩ | ⟨rfl, rfl⟩ | ⟨rfl, rfl⟩ | ⟨rfl, rfl⟩ <;> exact ⟨by decide, fun _ => rfl⟩

/-- A thread's registers have the numbers below 0x100, and read as they stand. -/
theorem seqReg_eq {c : BitVec 12} {r : Ex → Nat} (h : (c, r) ∈ threadRegs) :
    c.toNat < 0x100 ∧ ∀ x : Ex, x.seqReg c.toNat = BitVec.ofNat 64 (r x) := by
  have word (v : W64) : v = BitVec.ofNat 64 v.toNat := by simp
  simp only [threadRegs, List.mem_cons, Prod.mk.injEq, List.not_mem_nil, or_false] at h
  rcases h with ⟨rfl, rfl⟩ | ⟨rfl, rfl⟩ | ⟨rfl, rfl⟩ | ⟨rfl, rfl⟩ | ⟨rfl, rfl⟩ | ⟨rfl, rfl⟩ | ⟨rfl, rfl⟩ | ⟨rfl, rfl⟩ |
    ⟨rfl, rfl⟩ | ⟨rfl, rfl⟩
  all_goals first
    | exact ⟨by decide, fun _ => word _⟩
    | exact ⟨by decide, fun _ => rfl⟩

section
variable {g : SGuard} {gb : BGuard} {d a : Opnd} {c : BitVec 12}

theorem crd_brick {r : Ctx → W32} (hr : (c, r) ∈ ctxRegs) :
    Result (.crd (.b gb) d a c) (.b gb) d fun x => (r x.cx0).toNat := by
  refine does_of _ (fun _ => rfl) fun _ x h hp => ⟨?_, stored_putT false (begins_ok h) hp rfl rfl⟩
  rw [if_pos (begins_isB h), (creg_eq hr).2, BitVec.ofNat_toNat]

theorem crd_thread {r : Ex → Nat} (hr : (c, r) ∈ threadRegs) : Does (.crd (.s g) d a c) (.s g)
    (fun x => x.get a = 0 ∧ x.accepts d (BitVec.ofNat 64 (r x))) fun x => x.put d (BitVec.ofNat 64 (r x)) := by
  refine does_of _ (fun _ => rfl) fun _ x h hp => ⟨?_, stored_put_thread h rfl rfl x.npc _⟩
  rw [if_neg (by simp [begins_isB h]), if_pos (seqReg_eq hr).1, if_pos hp.1, (seqReg_eq hr).2]

theorem crd_thread_selector {r : Ex → Nat} (hr : (c, r) ∈ threadRegs) :
    Faults (.crd (.s g) d a c) (.s g) (fun x => x.get a ≠ 0) fun x => overrun 3 (x.get a) :=
  faults_of _ (fun _ => rfl) fun _ x h hp => by
    rw [if_neg (by simp [begins_isB h]), if_pos (seqReg_eq hr).1, if_neg hp, raise_ok (begins_ok h)]

theorem crd_selected {r : Ctx → W32} (hr : (c, r) ∈ ctxRegs) (o : Spur) (k : Ctx) : Does (.crd (.s g) d a c) (.s g)
    (fun x => x.select (x.get a) false = some (o, k) ∧ x.accepts d ((r k).setWidth 64))
    fun x => x.put d ((r k).setWidth 64) := by
  refine does_of _ (fun _ => rfl) fun _ x h hp => ⟨?_, stored_put_thread h rfl rfl x.npc _⟩
  simp only [begins_isB h, if_neg (creg_eq hr).1, hp.1, (creg_eq hr).2, Bool.false_eq_true, if_false]

theorem crd_unselected {r : Ctx → W32} (hr : (c, r) ∈ ctxRegs) :
    Faults (.crd (.s g) d a c) (.s g) (fun x => x.select (x.get a) false = none) fun x => overrun 3 (x.get a) :=
  faults_of _ (fun _ => rfl) fun _ x h hp => by
    simp only [begins_isB h, if_neg (creg_eq hr).1, hp, raise_ok (begins_ok h), Bool.false_eq_true, if_false]

end

theorem controlReads : Says.ControlReads := fun _ _ _ _ =>
  ⟨fun _ _ => crd_brick, fun _ _ => crd_thread, fun _ _ => crd_thread_selector, fun _ _ => crd_selected,
    fun _ _ => crd_unselected⟩

/-! ## Writes -/

/-- A register write stops nothing. -/
@[simp] theorem setSeqReg_ok (x : Ex) (c : Nat) (v : W64) : (x.setSeqReg c v).ok = x.ok := by
  unfold Ex.setSeqReg
  repeat' split
  all_goals rfl

/-- The registers that system mode alone writes (R91). -/
theorem sysReg_iff (c : BitVec 12) : sysReg c.toNat = true ↔ c ∈ ([1, 2, 3, 8, 9, 10] : List (BitVec 12)) := by
  simp [sysReg, ← BitVec.toNat_inj]

/-- They are registers of the sequencer. -/
theorem sysReg_lt : ∀ c ∈ ([1, 2, 3, 8, 9, 10] : List (BitVec 12)), c.toNat < 0x100 := by decide

section
variable {g : SGuard} {a b : Opnd} {c : BitVec 12}

/-- A write of a thread's register has the effect `f` where the register's write has it (R111). -/
theorem cwr_writes {p : Ex → Prop} {f : Ex → Ex} (hc : c.toNat < 0x100)
    (hs : ∀ x, p x → sysReg c.toNat = true → x.th.sysMode = true) (hf : ∀ x, p x → x.setSeqReg c.toNat (x.get a) = f x) :
    Does (.cwr g c a b) (.s g) (fun x => x.get b = 0 ∧ p x) f := by
  refine does_of _ (fun _ => rfl) fun _ x h hp => ⟨?_, ?_⟩
  · have hm : ¬ (sysReg c.toNat && !x.sys) = true := by
      rw [sys_thread (begins_isB h)]
      simpa using hs x hp.2
    rw [if_pos hc, if_neg hm, if_neg (by simp [hp.1]), hf x hp.2]
  · rw [stored_same rfl, ← hf x hp.2, setSeqReg_ok, begins_ok h]

theorem cwr_nonzero_selector (hc : c.toNat < 0x100) : Faults (.cwr g c a b) (.s g)
    (fun x => x.get b ≠ 0 ∧ (c ∈ ([1, 2, 3, 8, 9, 10] : List (BitVec 12)) → x.th.sysMode = true))
    fun x => overrun 3 (x.get b) :=
  faults_of _ (fun _ => rfl) fun _ x h hp => by
    have hm : ¬ (sysReg c.toNat && !x.sys) = true := by
      rw [sys_thread (begins_isB h)]
      simpa [sysReg_iff] using hp.2
    rw [if_pos hc, if_neg hm, if_pos (by simpa using hp.1), raise_ok (begins_ok h)]

theorem cwr_user (hc : c ∈ ([1, 2, 3, 8, 9, 10] : List (BitVec 12))) : Faults (.cwr g c a b) (.s g)
    (fun x => x.th.sysMode = false)
    fun x => ⟨1, 15, toBytes 8 (wordOf (.cwr g c a b)).toNat ++ toBytes 8 x.th.pc.toNat, none⟩ :=
  faults_of _ (fun _ => rfl) fun _ x h hp => by
    rw [if_pos (sysReg_lt c hc), if_pos (by simp [(sysReg_iff c).2 hc, sys_thread (begins_isB h), hp]), raise_ok (begins_ok h)]
    rfl

section
variable (hc : 0x100 ≤ c.toNat)
include hc

theorem cwr_unselected :
    Faults (.cwr g c a b) (.s g) (fun x => x.select (x.get b) false = none) fun x => overrun 3 (x.get b) :=
  faults_of_raise _ (fun _ => rfl) fun x hp => by simp only [if_neg (Nat.not_lt.2 hc), hp]

theorem cwr_own (o : Spur) (k : Ctx) : Does (.cwr g c a b) (.s g)
    (fun x => x.select (x.get b) false = some (o, k) ∧ o.handle = x.sp.handle)
    fun x => { x with sp := x.sp.modLive fun y => y.modCtx ⟨o.handle, k.row, k.col, k.idx⟩ fun k =>
      { k with stagedCst := k.stagedCst ++ [(c, x.get a)] } } :=
  does_of_noSw _ (fun _ => rfl) rfl (fun _ => rfl) fun _ x _ hp => by
    simp only [if_neg (Nat.not_lt.2 hc), hp.1]
    exact if_pos (by simp [hp.2])

theorem cwr_other (o : Spur) (k : Ctx) : Does (.cwr g c a b) (.s g)
    (fun x => x.select (x.get b) false = some (o, k) ∧ o.handle ≠ x.sp.handle)
    fun x => x.request (.cwr ⟨o.handle, k.row, k.col, k.idx⟩ c (x.get a)) :=
  does_of_noSw _ (fun _ => rfl) rfl (fun _ => rfl) fun _ x _ hp => by
    simp only [if_neg (Nat.not_lt.2 hc), hp.1]
    exact if_neg (by simp [hp.2])

end

end

/-- A mode among the bits of `sst` is written with them (R90). -/
theorem sstWrite_mode {v : W64} (h : bitsOf v.toNat 8 3 ≤ 4) (old : W64) :
    sstWrite old v = (old &&& ~~~0x437FF#64) ||| (v &&& 0x437FF) := by
  rw [sstWrite, if_pos h, BitVec.or_assoc, ← BitVec.and_or_distrib_left]
  rfl

/-- What is no mode leaves RM as it stands (R90). -/
theorem sstWrite_noMode {v : W64} (h : 4 < bitsOf v.toNat 8 3) (old : W64) :
    sstWrite old v = (old &&& ~~~0x430FF#64) ||| (v &&& 0x430FF) := by
  have hm : ~~~0x430FF#64 = ~~~0x437FF#64 ||| 0x700 := by decide
  rw [sstWrite, if_neg (Nat.not_le.2 h), hm, BitVec.and_or_distrib_left, BitVec.or_assoc, BitVec.or_assoc,
    BitVec.or_comm (v &&& _)]

theorem controlWrites : Says.ControlWrites := by
  intro g a b thread ridge keeps sys word
  refine ⟨?_, ?_, ?_, ?_, ?_, ?_, ?_, ?_, ?_, ?_, ?_, ?_, ?_, fun c hc => cwr_nonzero_selector hc, fun c hc => cwr_user hc,
    fun c hc => ⟨cwr_unselected hc, fun o k => ⟨cwr_own hc o k, cwr_other hc o k⟩⟩⟩
  · exact cwr_writes (by decide) (fun _ _ h => nomatch h) fun x hp => by
      simp only [← sstWrite_mode hp]; rfl
  · exact cwr_writes (by decide) (fun _ _ h => nomatch h) fun x hp => by
      simp only [← sstWrite_noMode hp]; rfl
  · exact cwr_writes (by decide) (fun _ h _ => h) fun x _ => rfl
  · exact cwr_writes (by decide) (fun _ h _ => h) fun x _ => rfl
  · exact cwr_writes (by decide) (fun _ h _ => h) fun x _ => rfl
  · exact cwr_writes (by decide) (fun _ _ h => nomatch h) fun x hp => if_pos hp
  · exact cwr_writes (by decide) (fun _ _ h => nomatch h) fun x hp => if_neg (by omega)
  · exact cwr_writes (by decide) (fun _ h _ => h.1) fun x _ => rfl
  · exact cwr_writes (by decide) (fun _ h _ => h.1) fun x _ => rfl
  · exact cwr_writes (by decide) (fun _ h _ => h.1) fun x hp => if_pos hp.2
  · exact cwr_writes (by decide) (fun _ h _ => h.1) fun x hp => if_neg (by omega)
  · exact cwr_writes (by decide) (fun _ _ h => nomatch h) fun x _ => rfl
  · exact cwr_writes (by decide) (fun _ _ h => nomatch h) fun x _ => rfl

/-- Settles O37, register by register. -/
theorem controlRegisters : Obligations.ControlRegisters := ⟨controlReads, controlWrites⟩

end Sys2Proof.Machine
end

section
/-! SUPPORT. Waits of a thread (R39), fences and the prefetch (R258, R261), notices (R108) and digests (R416). -/

namespace Sys2Proof.Machine

open Sys2Proof

/-- A thread's instruction whose body waits leaves the machine as that found it (R235). -/
theorem run_waits {i : Instr} {g : SGuard} {s : State} {x y : Ex} {body : Ex → Ex} (hx : ∀ s, exec i s = run i (.s g) body s)
    (h : begins i (.s g) s = some x) (hy : y.ok = true) (hb : body x = y.stall) : exec i s = .next y.s := by
  obtain ⟨_, ha, -⟩ := begins_thread h
  have hf : y.stall.fault = none := by
    simp [Ex.ok] at hy
    exact hy.1
  rw [hx, run_begins _ h, hb]
  simp only [ended, ha]
  exact congrArg Host.Outcome.next (leaveS_wait hf rfl)

/-- A thread's instruction that waits at once leaves the machine as it stands. -/
theorem run_stalls {i : Instr} {g : SGuard} {s : State} {x : Ex} {body : Ex → Ex} (hx : ∀ s, exec i s = run i (.s g) body s)
    (h : begins i (.s g) s = some x) (hb : body x = x.stall) : exec i s = .next s := by
  obtain ⟨_, -, -, -, -, -, -, hs, -⟩ := begins_thread h
  rw [run_waits hx h (begins_ok h) hb, hs]

theorem fencesAndPrefetch : Says.FencesAndPrefetch := fun _ _ _ _ _ _ _ =>
  ⟨does_nothing _ (fun _ => rfl) rfl fun _ _ => rfl, does_nothing _ (fun _ => rfl) rfl fun _ _ => rfl,
    does_nothing _ (fun _ => rfl) rfl fun _ _ => rfl, does_nothing _ (fun _ => rfl) rfl fun _ _ => rfl⟩

/-! ## Notices -/

/-- The upper bits of a word are 0 where it is small. -/
theorem upperBits_eq_zero_iff (v : W64) {n : Nat} (hn : n ≤ 64) : v.extractLsb' n (64 - n) = 0 ↔ v.toNat < 2 ^ n := by
  have hv := v.isLt
  rw [← BitVec.toNat_inj, toNat_extractLsb'_eq_bitsOf, bitsOf, ← Nat.pow_sub_mul_pow 2 hn] at *
  rw [Nat.mod_eq_of_lt (Nat.div_lt_of_lt_mul (by rwa [Nat.mul_comm]))]
  exact Nat.div_eq_zero_iff_lt (Nat.two_pow_pos n)

/-- The notices of a thread that are outstanding (R108). -/
def Ex.notices (x : Ex) : Nat := ((x.s.recq ++ x.sp.live.recs).filter (QRec.noteOf x.sp.handle)).length

/-- A queue of the spur's domain is named (R108). -/
def Ex.namesQueue (x : Ex) (y : Dom) (a : Opnd) : Prop :=
  x.s.dom? x.sp.dom = some y ∧ (x.get a).toNat < y.dqn ∧ (x.get a).toNat < 4096

/-- What `notify` refuses is what names no queue. -/
theorem queueRefused_iff (y : Dom) (v : W64) :
    (v.extractLsb' 12 52 != 0 || decide (y.dqn ≤ v.toNat)) = true ↔ ¬ (v.toNat < y.dqn ∧ v.toNat < 4096) := by
  have hu : v.extractLsb' 12 52 = 0 ↔ v.toNat < 4096 := upperBits_eq_zero_iff v (by decide)
  simp only [bne, Bool.or_eq_true, Bool.not_eq_true', beq_eq_false_iff_ne, ne_eq, hu, decide_eq_true_eq]
  omega

section
variable {g : SGuard} {a b : Opnd} {y : Dom}

theorem notify_holds : Does (.notify g a b) (.s g) (fun x => x.namesQueue y a ∧ x.notices < 16)
    fun x => { x with sp := x.sp.modLive fun k => { k with
      recs := k.recs ++ [⟨x.sp.dom, (x.get a).toNat, record16 (x.get b) x.sp.handle x.sp.dom 2 0⟩] } } := by
  refine does_of_noSw _ (fun _ => rfl) rfl (fun _ => rfl) ?_
  rintro _ x - ⟨⟨hd, hq⟩, hn⟩
  simp only [hd, if_neg (mt (queueRefused_iff y (x.get a)).1 (not_not.2 hq))]
  exact if_neg (decide_eq_true_iff.not.2 (Nat.not_le.2 hn))

theorem notify_waits {s : State} {x : Ex} (h : begins (.notify g a b) (.s g) s = some x) (hq : x.namesQueue y a)
    (hn : 16 ≤ x.notices) : exec (.notify g a b) s = .next s := by
  refine run_stalls (fun _ => rfl) h ?_
  simp only [hq.1, if_neg (mt (queueRefused_iff y (x.get a)).1 (not_not.2 hq.2))]
  exact if_pos (decide_eq_true hn)

theorem notify_refuses : Faults (.notify g a b) (.s g)
    (fun x => x.s.dom? x.sp.dom = some y ∧ ¬ ((x.get a).toNat < y.dqn ∧ (x.get a).toNat < 4096))
    fun x => overrun 3 (x.get a) := by
  refine faults_of_raise _ (fun _ => rfl) ?_
  rintro x ⟨hd, hq⟩
  simp only [hd, if_pos ((queueRefused_iff y (x.get a)).2 hq)]

end

/-! ## Digests -/

/-- The upper half of a word has no bits above its own. -/
theorem shiftRight_and_low (v : W64) : v >>> 32 &&& 0xFFFFFFFF = v >>> 32 := by
  refine BitVec.eq_of_toNat_eq ?_
  have hv : (v >>> 32).toNat < 2 ^ 32 := by
    rw [BitVec.toNat_ushiftRight, Nat.shiftRight_eq_div_pow]
    omega
  exact (BitVec.toNat_and ..).trans (Nat.and_two_pow_sub_one_of_lt_two_pow hv)

/-- A half of a digest (R416). -/
theorem digest_half (dg : W64) {v : W64} (hv : v.toNat < 64) :
    (if v.getLsbD 5 then dg >>> 32 else dg &&& 0xFFFFFFFF) = dg >>> (32 * (v.toNat / 32)) &&& 0xFFFFFFFF := by
  have hb : v.getLsbD 5 = decide (v.toNat / 32 = 1) := by
    rw [BitVec.getLsbD, Nat.testBit_eq_decide_div_mod_eq, Nat.mod_eq_of_lt (by omega)]
  rw [hb]
  rcases show v.toNat / 32 = 0 ∨ v.toNat / 32 = 1 by omega with h | h
  · simp [h]
  · simpa [h] using (shiftRight_and_low dg).symm

/-- A number whose bits above the low `n` are 0 within the next `m`. -/
theorem extract_eq_zero_of_lt {v : W64} {n : Nat} (h : v.toNat < 2 ^ n) (m : Nat) : v.extractLsb' n m = 0 := by
  rw [← BitVec.toNat_inj, toNat_extractLsb'_eq_bitsOf, bitsOf, Nat.div_eq_of_lt h]
  exact Nat.zero_mod _

section
variable {g : SGuard} {gb : BGuard} {d a b : Opnd}

/-- The half of a digest that B names (R416). -/
def Ex.ownHalf (x : Ex) (b : Opnd) : W64 :=
  (nth x.br.dig ((x.get b).toNat % 32) 0) >>> (32 * ((x.get b).toNat / 32)) &&& 0xFFFFFFFF

theorem rddig_brick : Does (.rddig (.b gb) d a b) (.b gb)
    (fun x => (x.get b).toNat < 64 ∧ x.accepts d (x.ownHalf b)) fun x => x.put d (x.ownHalf b) := by
  refine does_of _ (fun _ => rfl) fun _ x h hp => ⟨?_, stored_putT false (begins_ok h) hp.2 rfl rfl⟩
  have hz : (x.get b).extractLsb' 6 26 = 0 := extract_eq_zero_of_lt (n := 6) hp.1 _
  simp only [begins_isB h, hz, digest_half _ hp.1]
  simp [Ex.ownHalf, bitsOf]

theorem rddig_selected (o : Spur) (k : Ctx) (br : Brick) : Does (.rddig (.s g) d a b) (.s g)
    (fun x => (x.get b).toNat < 32 ∧ x.select (x.get a) false = some (o, k) ∧ o.live.brick? k.row k.col = some br ∧
      x.accepts d (nth br.dig (x.get b).toNat 0)) fun x => x.put d (nth br.dig (x.get b).toNat 0) := by
  refine does_of _ (fun _ => rfl) fun _ x h hp => ⟨?_, stored_put_thread h rfl rfl x.npc _⟩
  obtain ⟨hb, hs, hk, -⟩ := hp
  have hz : (x.get b).extractLsb' 9 55 = 0 := extract_eq_zero_of_lt (n := 9) (by omega) _
  have h8 : (x.get b).getLsbD 8 = false := Nat.testBit_lt_two_pow (by omega)
  have h5 : (x.get b).getLsbD 5 = false := Nat.testBit_lt_two_pow (by omega)
  have hn : bitsOf (x.get b).toNat 0 5 = (x.get b).toNat := by simp [bitsOf]; omega
  simp only [begins_isB h, hz, h8, h5, hs, hk, hn]
  rfl

/-- The handle 0 names the thread's own spur (R92). -/
theorem spurOf_own (x : Ex) : x.spurOf 0 = some x.sp := if_pos rfl

/-- The selector of an edge port (R416). -/
theorem portSelector_fields (p : BitVec 8) : (0x100 ||| p.setWidth 64 : W64).extractLsb' 9 55 = 0 ∧
    (0x100 ||| p.setWidth 64 : W64).getLsbD 8 = true ∧ (0x100 ||| p.setWidth 64 : W64).extractLsb' 0 8 = p := by
  revert p
  decide

theorem rddig_port (p : BitVec 8) (v : W64) : Does (.rddig (.s g) d a b) (.s g)
    (fun x => x.get b = 0x100 ||| p.setWidth 64 ∧ x.get a = 0 ∧
      x.sp.live.portDig.find? (fun e => e.1 == p) = some (p, v) ∧ x.accepts d v) fun x => x.put d v := by
  refine does_of _ (fun _ => rfl) fun _ x h hp => ⟨?_, stored_put_thread h rfl rfl x.npc _⟩
  obtain ⟨hb, ha, hf, -⟩ := hp
  obtain ⟨hz, h8, h0⟩ := portSelector_fields p
  have hlo : (0 : W64).extractLsb' 0 32 = 0 := rfl
  have hhi : (0 : W64).extractLsb' 32 32 = 0 := rfl
  simp only [begins_isB h, hb, hz, h8, h0, ha, hlo, hhi, spurOf_own, hf]
  rfl

end

theorem notifyAndDigests : Says.NotifyAndDigests := fun _ _ _ _ _ _ =>
  ⟨notify_holds, fun _ _ => notify_waits, notify_refuses, rddig_brick, rddig_selected, rddig_port⟩

/-- Settles O35, by the bodies, which change nothing but what they write. -/
theorem fencesAndNotices : Obligations.FencesAndNotices := ⟨fencesAndPrefetch, notifyAndDigests⟩

end Sys2Proof.Machine
end

section
/-! SUPPORT. Sections (R97, R104 to R107): the section and the entry that an instruction names, and what it does with them. -/

namespace Sys2Proof.Machine

open Sys2Proof

/-! ## The entry that A names -/

section
variable {x : Ex} {n : BitVec 3} {v : W64}

/-- An entry number has three bits. -/
theorem entryBits_eq_zero_iff (v : W64) : v.extractLsb' 3 61 = 0 ↔ v.toNat < 8 := upperBits_eq_zero_iff v (by decide)

theorem target_high (h : 8 ≤ v.toNat) : x.target n v = .error (overrun 12 v) :=
  if_pos (by simpa using (entryBits_eq_zero_iff v).not.2 (Nat.not_lt.2 h))

/-- An entry of three bits is looked for in its section. -/
theorem target_low (h : v.toNat < 8) : x.target n v = (match x.sp.section? n.toNat with
    | none => .error (overrun 12 (n.setWidth 64))
    | some sec => if x.sp.img.hd.ctx ≤ v.toNat then .error (overrun 12 v) else .ok (sec, v.extractLsb' 0 3)) :=
  if_neg (by simpa using (entryBits_eq_zero_iff v).2 h)

theorem target_none (h : v.toNat < 8) (hs : x.sp.section? n.toNat = none) :
    x.target n v = .error (overrun 12 (n.setWidth 64)) := by
  rw [target_low h, hs]

variable {sec : Section} (hs : x.sp.section? n.toNat = some sec)
include hs

theorem target_beyond (h : v.toNat < 8) (hc : x.sp.img.hd.ctx ≤ v.toNat) : x.target n v = .error (overrun 12 v) := by
  rw [target_low h, hs]
  exact if_pos hc

theorem target_ok (h : v.toNat < 8) (hc : v.toNat < x.sp.img.hd.ctx) : x.target n v = .ok (sec, v.extractLsb' 0 3) := by
  rw [target_low h, hs]
  exact if_neg (Nat.not_le.2 hc)

end

/-- An instruction that names an entry faults where there is no such entry (R97, R104, R105). -/
theorem faults_of_target {i : Instr} {g : SGuard} {n : BitVec 3} {a : Opnd} {p : Ex → Prop} {f : Ex → Flt} (body : Ex → Ex)
    (hx : ∀ s, exec i s = run i (.s g) body s) (hb : ∀ x f, x.target n (x.get a) = .error f → body x = x.raise f)
    (ht : ∀ x, p x → x.target n (x.get a) = .error (f x)) : Faults i (.s g) p f :=
  faults_of_raise body hx fun x hp => hb x _ (ht x hp)

/-! ## Steps, counts and waits -/

/-- An entry of a section holds a configuration on every brick, or one is on the way there (R104). -/
def Ex.entryLoaded (x : Ex) (sec : Section) (i : BitVec 3) : Prop :=
  ∀ k ∈ x.sp.live.ctxs, sec.has k.row k.col = true → k.idx = i → k.conf = true ∨ k.recon ≠ none

theorem entryLoaded_iff (x : Ex) (sec : Section) (i : BitVec 3) :
    ((x.sp.entries sec i).all fun k => k.conf || k.recon.isSome) = true ↔ x.entryLoaded sec i := by
  simp only [Spur.entries, Ex.entryLoaded, List.all_eq_true, List.mem_filter, and_imp, Bool.and_eq_true, beq_iff_eq,
    Bool.or_eq_true, Option.isSome_iff_ne_none]

/-- A section is done: its bricks are, and no step or configuration of it is to come (R106). -/
def Ex.sectionDone (x : Ex) (sec : Section) (n : BitVec 3) : Prop :=
  x.sp.allDone sec = true ∧ (∀ r ∈ x.th.steps, r.section_ ≠ n) ∧
    ∀ k ∈ x.sp.live.ctxs, ∀ r, k.recon = some r → r.section_ ≠ n

theorem sectionDone_iff (x : Ex) (sec : Section) (n : BitVec 3) :
    (x.sp.allDone sec && !(x.th.steps.any fun r => r.section_ == n) &&
      x.sp.live.ctxs.all fun k => (match k.recon with | some r => r.section_ != n | none => true)) = true ↔
    x.sectionDone sec n := by
  have hr (k : Ctx) : (match k.recon with | some r => r.section_ != n | none => true) = true ↔
      ∀ r, k.recon = some r → r.section_ ≠ n := by
    cases k.recon <;> simp
  simp only [Bool.and_eq_true, List.all_eq_true, hr, Ex.sectionDone, and_assoc]
  simp

/-- The counts of a section are 0 (R107). -/
def Ex.countsZero (x : Ex) (sec : Section) : Prop :=
  ∀ k ∈ x.sp.live.ctxs, sec.has k.row k.col = true → k.tcount = 0

theorem countsZero_iff (x : Ex) (sec : Section) :
    (x.sp.live.ctxs.all fun k => !sec.has k.row k.col || k.tcount == 0) = true ↔ x.countsZero sec := by
  simp only [Ex.countsZero, List.all_eq_true, asks_iff, beq_iff_eq]

section
variable {g : SGuard} {n : BitVec 3} {a : Opnd} {sec : Section}

/-- The section that an instruction names is there, and the entry in A is one of its image (R97, R104). -/
def Ex.namesEntry (x : Ex) (n : BitVec 3) (a : Opnd) (sec : Section) : Prop :=
  x.sp.section? n.toNat = some sec ∧ (x.get a).toNat < x.sp.img.hd.ctx ∧ (x.get a).toNat < 8

theorem target_of_namesEntry {x : Ex} (h : x.namesEntry n a sec) :
    x.target n (x.get a) = .ok (sec, (x.get a).extractLsb' 0 3) := target_ok h.1 h.2.2 h.2.1

theorem cstep_asks : Does (.cstep g n a) (.s g)
    (fun x => x.namesEntry n a sec ∧ x.entryLoaded sec ((x.get a).extractLsb' 0 3))
    fun x => { x with th := { x.th with
      steps := (x.th.steps.filter fun r => r.section_ != n) ++ [⟨n, (x.get a).extractLsb' 0 3⟩] } } :=
  does_of_noSw _ (fun _ => rfl) rfl (fun _ => rfl) fun _ x _ hp => by
    simp only [target_of_namesEntry hp.1]
    exact if_pos ((entryLoaded_iff ..).2 hp.2)

theorem cstep_unloaded : Faults (.cstep g n a) (.s g)
    (fun x => x.namesEntry n a sec ∧ ¬ x.entryLoaded sec ((x.get a).extractLsb' 0 3)) fun x => overrun 12 (x.get a) :=
  faults_of_raise _ (fun _ => rfl) fun x hp => by
    simp only [target_of_namesEntry hp.1]
    exact if_neg (mt (entryLoaded_iff ..).1 hp.2)

/-- A context whose count is set where it lies in a section (R107). -/
def Section.arm (sec : Section) (v : W32) (k : Ctx) : Ctx := if sec.has k.row k.col then { k with tcount := v } else k

theorem arm_counts : Does (.arm g n a) (.s g) (fun x => x.sp.section? n.toNat = some sec) fun x =>
    { x with sp := x.sp.modLive fun b => { b with ctxs := b.ctxs.map (sec.arm ((x.get a).setWidth 32)) } } :=
  does_of_noSw _ (fun _ => rfl) rfl (fun _ => rfl) fun _ x _ hp => by
    simp only [hp]
    rfl

theorem waitd_goes :
    Does (.waitd g n) (.s g) (fun x => x.sp.section? n.toNat = some sec ∧ x.sectionDone sec n) fun x => x :=
  does_nothing _ (fun _ => rfl) rfl fun x hp => by
    simp only [hp.1]
    exact if_pos ((sectionDone_iff ..).2 hp.2)

theorem waitd_waits {s : State} {x : Ex} (h : begins (.waitd g n) (.s g) s = some x)
    (hs : x.sp.section? n.toNat = some sec) (hd : ¬ x.sectionDone sec n) : exec (.waitd g n) s = .next s :=
  run_stalls (fun _ => rfl) h (by
    simp only [hs]
    exact if_neg (mt (sectionDone_iff ..).1 hd))

theorem waitdT_goes :
    Does (.waitdT g n) (.s g) (fun x => x.sp.section? n.toNat = some sec ∧ x.countsZero sec) fun x => x :=
  does_nothing _ (fun _ => rfl) rfl fun x hp => by
    simp only [hp.1]
    exact if_pos ((countsZero_iff ..).2 hp.2)

theorem waitdT_waits {s : State} {x : Ex} (h : begins (.waitdT g n) (.s g) s = some x)
    (hs : x.sp.section? n.toNat = some sec) (hz : ¬ x.countsZero sec) : exec (.waitdT g n) s = .next s :=
  run_stalls (fun _ => rfl) h (by
    simp only [hs]
    exact if_neg (mt (countsZero_iff ..).1 hz))

/-- A section that the image does not declare is an overrun (R97). -/
theorem undeclared_faults {i : Instr} (h : i ∈ [Instr.arm g n a, .waitd g n, .waitdT g n]) :
    Faults i (.s g) (fun x => x.sp.section? n.toNat = none) fun _ => overrun 12 (n.setWidth 64) := by
  simp only [List.mem_cons, List.not_mem_nil, or_false] at h
  rcases h with rfl | rfl | rfl
  all_goals exact faults_of_raise _ (fun _ => rfl) fun x hp => by simp only [hp]

/-- An entry that there is not is an overrun (R97, R104, R105). -/
theorem entry_faults {b : Opnd} {i : Instr} (h : i ∈ [Instr.cstep g n a, .cload g n a b]) {p : Ex → Prop} {f : Ex → Flt}
    (ht : ∀ x, p x → x.target n (x.get a) = .error (f x)) : Faults i (.s g) p f := by
  simp only [List.mem_cons, List.not_mem_nil, or_false] at h
  rcases h with rfl | rfl
  all_goals exact faults_of_target _ (fun _ => rfl) (fun x f he => by simp only [he]) ht

end

theorem sectionControl : Says.SectionControl := fun _ _ _ _ _ =>
  ⟨cstep_asks, cstep_unloaded, arm_counts, waitd_goes, fun _ _ => waitd_waits, waitdT_goes, fun _ _ => waitdT_waits,
    fun _ => undeclared_faults, fun _ hi => ⟨entry_faults hi fun _ => target_high,
      entry_faults hi fun _ hp => target_none hp.1 hp.2, entry_faults hi fun _ hp => target_beyond hp.2.1 hp.1 hp.2.2⟩⟩

end Sys2Proof.Machine
end

section
/-! SUPPORT. The loading of a section's contexts (R105, R112). -/

namespace Sys2Proof.Machine

open Sys2Proof

/-- A place that is formed changes nothing of the view but the machine around it (R271). -/
theorem place_keeps {x y : Ex} {tg : Target1} {al n : Nat} {acc : AccK} {pres : Option Bool} {p : Place1}
    (h : x.place tg al n acc pres = (y, p)) (hy : y.ok = true) : ∃ s, y = { x with s := s } := by
  rcases place_ok h hy with ⟨_, _, _, hx, -⟩ | ⟨_, s, _, _, _, hx, -⟩
  · exact ⟨x.s, hx⟩
  · exact ⟨s, hx⟩

/-- Words that are fetched change nothing of the view but the machine around it. -/
theorem fetchWords_keeps {n : Nat} : ∀ {x y : Ex} {va : Nat} {ws : List W64},
    x.fetchWords va n = (y, ws) → y.ok = true → ∃ s, y = { x with s := s } := by
  induction n with
  | zero => exact fun h _ => ⟨_, (congrArg Prod.fst h).symm⟩
  | succ n ih =>
    intro x y va ws h hy
    rcases hp : x.place (.virt va) 8 8 .fetch none with ⟨z, p⟩
    rcases hf : z.fetchWords (va + 8) n with ⟨u, l⟩
    simp only [Ex.fetchWords, hp, hf] at h
    split at h
    · next hz =>
      obtain rfl : z = y := congrArg Prod.fst h
      simp [hy] at hz
    · next hz =>
      obtain rfl : u = y := congrArg Prod.fst h
      obtain ⟨s, hs⟩ := place_keeps hp (by simpa using hz)
      obtain ⟨t, ht⟩ := ih hf hy
      exact ⟨t, by rw [ht, hs]⟩

/-- Words that are fetched leave the mode of the thread that reads them. -/
theorem sys_fetchWords {n va : Nat} {x y : Ex} {ws : List W64} (hx : x.isB = false) (h : x.fetchWords va n = (y, ws))
    (hy : y.ok = true) : y.sys = y.th.sysMode := by
  obtain ⟨s, rfl⟩ := fetchWords_keeps h hy
  exact sys_thread hx

section
variable {g : SGuard} {n : BitVec 3} {a b : Opnd} {sec : Section} {x y z : Ex} {hw tl : List W64}

/-- No entry that A names waits for a configuration (R105). -/
def Ex.entryIdle (x : Ex) (n : BitVec 3) (a : Opnd) (sec : Section) : Prop :=
  x.namesEntry n a sec ∧ ∀ k ∈ x.sp.entries sec ((x.get a).extractLsb' 0 3), k.recon = none

theorem reconPending_iff (l : List Ctx) : (l.any fun k => k.recon.isSome) = true ↔ ∃ k ∈ l, k.recon ≠ none := by
  simp [Option.isSome_iff_ne_none]

/-- A header that is read is followed by the words that it counts (R105). -/
structure Ex.ReadsImage (x : Ex) (va : Nat) (y z : Ex) (hw tl : List W64) : Prop where
  head : x.fetchWords va 16 = (y, hw)
  headOk : y.ok = true
  header : headerOk hw = true
  dir : dirOk hw = true
  tail : y.fetchWords (va + 128) (imgLen hw / 8 - 16) = (z, tl)
  tailOk : z.ok = true

/-- The body of `cload`: an idle entry is loaded from an image that passes its checks. -/
theorem cload_body (g : SGuard) (n : BitVec 3) (a b : Opnd) : ∃ body : Ex → Ex,
    (∀ s, exec (.cload g n a b) s = run (.cload g n a b) (.s g) body s) ∧
    (∀ x sec, x.namesEntry n a sec → (∃ k ∈ x.sp.entries sec ((x.get a).extractLsb' 0 3), k.recon ≠ none) →
      body x = x.raise ⟨5, ((x.get a).extractLsb' 0 3).setWidth 64, [], none⟩) ∧
    (∀ x sec y hw, x.entryIdle n a sec → x.fetchWords (x.nat b) 16 = (y, hw) → y.ok = true →
      (headerOf hw).sys = true → y.sys = false → body x = y.raise (undefAt (wordOf (.cload g n a b)) y.th.pc 15)) ∧
    ∀ x sec y z hw tl, x.entryIdle n a sec → x.ReadsImage (x.nat b) y z hw tl →
      ((headerOf hw).sys = true → y.sys = true) →
      (∀ r, checkImage (hw ++ tl) (imageOf (x.get b) (hw ++ tl)) z.sp.img z.sys none
          (some ⟨sec, (x.get a).extractLsb' 0 3, z.sp.live⟩) = some r → body x = z.raise (overrun 13 r.word)) ∧
      (checkImage (hw ++ tl) (imageOf (x.get b) (hw ++ tl)) z.sp.img z.sys none
          (some ⟨sec, (x.get a).extractLsb' 0 3, z.sp.live⟩) = none →
        body x = z.sendImage n sec ((x.get a).extractLsb' 0 3) (imageOf (x.get b) (hw ++ tl))) := by
  have idle {x : Ex} {sec : Section} (h : x.entryIdle n a sec) :
      ((x.sp.entries sec ((x.get a).extractLsb' 0 3)).any fun k => k.recon.isSome) = false := by
    simpa using h.2
  refine ⟨_, fun _ => rfl, fun x sec h hk => ?_, fun x sec y hw h hr hy hs hm => ?_,
    fun x sec y z hw tl h hr hm => ?_⟩
  · simp only [target_of_namesEntry h]
    exact if_pos ((reconPending_iff _).2 hk)
  · simp only [target_of_namesEntry h.1, idle h, hr, hy, hs, hm]
    rfl
  · have hp : ¬ ((headerOf hw).sys && !y.sys) = true := by simpa using hm
    have hc : BitVec.ofNat 64 (x.nat b) = x.get b := by simp [Ex.nat]
    simp only [target_of_namesEntry h.1, idle h, hr.head, hr.headOk, if_neg hp, hr.header, hr.dir, hr.tail, hr.tailOk, hc]
    exact ⟨fun r hk => by simp only [hk]; rfl, fun hk => by simp only [hk]; rfl⟩

end

theorem contextLoads : Says.ContextLoads := by
  intro g n a b sec y z hw tl i entry idle read permitted m
  obtain ⟨body, hx, hpend, huser, hload⟩ := cload_body g n a b
  have hidle {x : Ex} (h : idle x) : x.entryIdle n a sec := ⟨⟨h.1, h.2.1, h.2.2.1⟩, h.2.2.2⟩
  have hread {x : Ex} (h : read x) : x.ReadsImage (x.nat b) y z hw tl :=
    let ⟨hhead, hok, hheader, hdir, htail, hz⟩ := h
    ⟨hhead, hok, hheader, hdir, htail, hz⟩
  have hmode {s : State} {x : Ex} (hb : begins i (.s g) s = some x) (h : x.fetchWords (x.nat b) 16 = (y, hw))
      (hy : y.ok = true) : y.sys = y.th.sysMode := sys_fetchWords (begins_isB hb) h hy
  refine ⟨does_of body hx ?loads, ?refuses, ?user, faults_of_raise body hx ?pending⟩
  case loads =>
    rintro s x hb ⟨hi, hr, hm, hc⟩
    have hr' := hread hr
    exact ⟨(hload x sec y z hw tl (hidle hi) hr' fun hs => (hmode hb hr'.head hr'.headOk).trans (hm hs)).2 hc,
      (congrArg Ex.ok (stored_same rfl)).trans hr'.tailOk⟩
  case refuses =>
    intro r s x hb hi hr hm hc
    have hr' := hread hr
    rw [hx, run_begins body hb,
      (hload x sec y z hw tl (hidle hi) hr' fun hs => (hmode hb hr'.head hr'.headOk).trans (hm hs)).1 r hc,
      raise_ok hr'.tailOk]
  case user =>
    intro s x hb hi hr hy hs hm
    rw [hx, run_begins body hb, huser x sec y hw (hidle hi) hr hy hs ((hmode hb hr hy).trans hm), raise_ok hy]
    rfl
  case pending =>
    rintro x ⟨hs, hc, h8, hk⟩
    exact hpend x sec ⟨hs, hc, h8⟩ hk

/-- Settles O38, by what each instruction of a section does with the entry or the section that it names. -/
theorem sectionsAndLoads : Obligations.SectionsAndLoads := ⟨sectionControl, contextLoads⟩

end Sys2Proof.Machine
end

section
/-! SUPPORT. Stream ports (R164): descriptors that are opened, opened again and closed. -/

namespace Sys2Proof.Machine

open Sys2Proof

section
variable {g : BGuard} {p : Port} {n : BitVec 2} {d a b : Opnd}

/-- What R164 asks of the words of a descriptor. -/
structure Ex.LawfulDesc (x : Ex) (a b : Opnd) : Prop where
  base : (x.get a).extractLsb' 0 2 = 0
  spare : (x.get b).extractLsb' 20 12 = 0
  format : (x.get b).extractLsb' 16 4 ≤ 12#4

/-- The descriptor that two words describe (R160, R164). -/
def Ex.descBy (x : Ex) (a b : Opnd) : Desc :=
  ⟨(x.get a).extractLsb' 0 16, (x.get a).extractLsb' 16 16, (x.get b).extractLsb' 16 4,
    if (x.get b).extractLsb' 0 16 = 0 then 65536 else ((x.get b).extractLsb' 0 16).toNat, 0⟩

/-- The base of a descriptor lies at a word where its two lowest bits are 0. -/
theorem low2_eq_zero_iff (v : W64) : v.extractLsb' 0 2 = 0 ↔ v.toNat % 4 = 0 := by
  rw [← BitVec.toNat_inj, toNat_extractLsb'_eq_bitsOf]
  simp [bitsOf]

/-- A field of a word is 0 where its number is. -/
theorem extract_eq_zero_iff (v : W64) (lo k : Nat) : v.extractLsb' lo k = 0 ↔ bitsOf v.toNat lo k = 0 := by
  rw [← BitVec.toNat_inj, toNat_extractLsb'_eq_bitsOf]
  rfl

/-- What `sopen` refuses in its second word is what is not lawful there. -/
theorem descRefused_iff (v : W64) : (bitsOf v.toNat 20 12 != 0 || decide (bitsOf v.toNat 16 4 > 12)) = true ↔
    ¬ (v.extractLsb' 20 12 = 0 ∧ v.extractLsb' 16 4 ≤ 12#4) := by
  simp only [extract_eq_zero_iff, BitVec.le_def, toNat_extractLsb'_eq_bitsOf, bne, Bool.or_eq_true, Bool.not_eq_true',
    beq_eq_false_iff_ne, ne_eq, decide_eq_true_eq, not_and_or, gt_iff_lt, not_le]
  rfl

/-- What `sopen` forms of its two words is the descriptor that they describe. -/
theorem descBy_eq (x : Ex) (a b : Opnd) : (⟨BitVec.ofNat 16 (x.nat a), BitVec.ofNat 16 (x.nat a / 2 ^ 16),
    BitVec.ofNat 4 (bitsOf (x.nat b) 16 4),
    if bitsOf (x.nat b) 0 16 = 0 then 65536 else bitsOf (x.nat b) 0 16, 0⟩ : Desc) = x.descBy a b := by
  have field (v : W64) (lo k : Nat) : BitVec.ofNat k (v.toNat / 2 ^ lo) = v.extractLsb' lo k := by
    rw [BitVec.extractLsb', Nat.shiftRight_eq_div_pow]
  have format (v : W64) : BitVec.ofNat 4 (bitsOf v.toNat 16 4) = v.extractLsb' 16 4 := by
    rw [← toNat_extractLsb'_eq_bitsOf, BitVec.ofNat_toNat, BitVec.setWidth_eq]
  have base := field (x.get a) 0 16
  rw [Nat.pow_zero, Nat.div_one] at base
  simp only [Ex.descBy, Ex.nat, base, field, format, extract_eq_zero_iff, toNat_extractLsb'_eq_bitsOf]
  congr

theorem sopen_opens : Does (.sopen g p n a b) (.b g) (fun x => x.LawfulDesc a b) fun x =>
    { x.ports [a, b] with cx :=
      { (x.ports [a, b]).cx with sd := (x.ports [a, b]).cx.sd.set n.toNat (x.descBy a b) }.attach (Port.idx p) n } :=
  does_of_noSw _ (fun _ => rfl) rfl (fun _ => rfl) fun _ x _ hp => by
    have ha : ¬ ((x.get a).toNat % 4 != 0) = true := by simpa using (low2_eq_zero_iff _).1 hp.base
    have hb := mt (descRefused_iff (x.get b)).1 (not_not.2 ⟨hp.spare, hp.format⟩)
    rw [← descBy_eq]
    exact (if_neg ha).trans (if_neg hb)

theorem sopen_misaligned : Faults (.sopen g p n a b) (.b g) (fun x => (x.get a).extractLsb' 0 2 ≠ 0)
    fun x => overrun 7 (x.get a) :=
  faults_of_raise _ (fun _ => rfl) fun x hp => if_pos (by simpa [Ex.nat] using mt (low2_eq_zero_iff _).2 hp)

theorem sopen_unlawful : Faults (.sopen g p n a b) (.b g)
    (fun x => (x.get a).extractLsb' 0 2 = 0 ∧ ¬ x.LawfulDesc a b) fun x => overrun 7 (x.get b) :=
  faults_of_raise _ (fun _ => rfl) fun x hp => by
    have ha : ¬ ((x.get a).toNat % 4 != 0) = true := by simpa using (low2_eq_zero_iff _).1 hp.1
    have hb := (descRefused_iff (x.get b)).2 fun h => hp.2 ⟨hp.1, h.1, h.2⟩
    exact (if_neg ha).trans (if_pos hb)

theorem sopenRe_attaches : Does (.sopenRe g p n) (.b g) (fun x => (nth x.cx0.sd n.toNat Desc.none).count ≠ 0)
    fun x => { x with cx := x.cx.attach (Port.idx p) n } :=
  does_of_noSw _ (fun _ => rfl) rfl (fun _ => rfl) fun _ _ _ hp => if_neg hp

theorem sopenRe_unopened : Faults (.sopenRe g p n) (.b g) (fun x => (nth x.cx0.sd n.toNat Desc.none).count = 0)
    fun _ => overrun 7 (n.setWidth 64) :=
  faults_of_raise _ (fun _ => rfl) fun _ hp => if_pos hp

/-- The elements that remain at a port with a descriptor (R164). -/
def Ex.remains (x : Ex) (p : Port) : W64 :=
  BitVec.ofNat 64 (match x.cx0.descOf (Port.idx p) with | some (_, e) => e.count - e.pos | none => 0)

/-- A view whose port `p` has no descriptor any more (R164). -/
def Ex.detach (x : Ex) (p : Port) : Ex := { x with cx := { x.cx with att := x.cx.att.set (Port.idx p) none } }

/-- A result that is written elsewhere than on `sw` does not turn on its value. -/
theorem accepts_congr {x : Ex} (hd : d ≠ .sw) (v w : W64) (h : x.accepts d v) : x.accepts d w := by
  cases d with
  | sw => exact absurd rfl hd
  | o m => exact h
  | _ => trivial

theorem sclose_closes : Does (.sclose g p d) (.b g)
    (fun x => (d ≠ .sw → x.accepts d 0) ∧ (d = .sw → (stored (.sclose g p d) ((x.put d (x.remains p)).detach p)).ok = true))
    fun x => (x.put d (x.remains p)).detach p := by
  refine does_of _ (fun _ => rfl) fun _ x h hp => ⟨rfl, ?_⟩
  by_cases hd : d = .sw
  · exact hp.2 hd
  · have hw : writesSw (.sclose g p d) = false := beq_eq_false_iff_ne.2 fun he : some d = some .sw => hd (Option.some.inj he)
    rw [stored_same hw]
    exact putT_ok (x := x) false (begins_ok h) (.inr (accepts_congr hd _ _ (hp.1 hd)))

end

theorem streamPorts : Says.StreamPorts := by
  intro g p n d a b lawful desc
  have hl (x : Ex) : lawful x ↔ x.LawfulDesc a b := ⟨fun ⟨h, h', h''⟩ => ⟨h, h', h''⟩, fun ⟨h, h', h''⟩ => ⟨h, h', h''⟩⟩
  refine ⟨fun s x hb hp => sopen_opens s x hb ((hl x).1 hp), sopen_misaligned,
    fun s x hb hp => sopen_unlawful s x hb ⟨hp.1, fun h => hp.2 ((hl x).2 h)⟩, sopenRe_attaches, sopenRe_unopened, sclose_closes⟩

end Sys2Proof.Machine
end

section
/-! SUPPORT. Stream records and phase barriers (R100 to R103). -/

namespace Sys2Proof.Machine

open Sys2Proof

/-- Words that are loaded change nothing of the view but the machine around it (R262). -/
theorem loadWords_keeps {n : Nat} : ∀ {x y : Ex} {va : Nat} {ws : List W64},
    x.loadWords va n = (y, ws) → y.ok = true → ∃ s, y = { x with s := s } := by
  induction n with
  | zero => exact fun h _ => ⟨_, (congrArg Prod.fst h).symm⟩
  | succ n ih =>
    intro x y va ws h hy
    rcases hp : x.place (.virt va) 8 8 .read none with ⟨z, p⟩
    rcases hf : z.loadWords (va + 8) n with ⟨u, l⟩
    simp only [Ex.loadWords, Ex.loadVirt, hp, hf] at h
    split at h
    · next hz =>
      obtain rfl : z = y := congrArg Prod.fst h
      simp [hy] at hz
    · next hz =>
      obtain rfl : u = y := congrArg Prod.fst h
      obtain ⟨s, hs⟩ := place_keeps hp (by simpa using hz)
      obtain ⟨t, ht⟩ := ih hf hy
      exact ⟨t, by rw [ht, hs]⟩

/-- The record of a stream command: the context that its selector names, and its four words, at an aligned address (R100,
R101). -/
structure Ex.ReadsRecord (x : Ex) (a b : Opnd) (o : Spur) (k : Ctx) (y : Ex) (ws : List W64) : Prop where
  named : x.select (x.get a) true = some (o, k)
  aligned : x.nat b % 32 = 0
  words : x.loadWords (x.nat b) 4 = (y, ws)
  going : y.ok = true

/-- The port that a selector names (R92). -/
def Ex.portOf (x : Ex) (a : Opnd) : Nat := ((x.get a).extractLsb' 19 2).toNat

/-- The patterns that a port of a context holds (R102). -/
def Ctx.openAt (k : Ctx) (port : Nat) : Nat := (nth k.board port Board.idle).open_.length

/-- The body of `scmd`: what it refuses, and what it does with the record that it reads. -/
theorem scmd_body (g : SGuard) (a b : Opnd) : ∃ body : Ex → Ex,
    (∀ s, exec (.scmd g a b) s = run (.scmd g a b) (.s g) body s) ∧
    (∀ x, x.select (x.get a) true = none → body x = x.raise (overrun 3 (x.get a))) ∧
    (∀ x o k, x.select (x.get a) true = some (o, k) → x.nat b % 32 ≠ 0 →
      body x = x.raise ⟨8, BitVec.ofNat 64 (x.nat b), [], none⟩) ∧
    ∀ x o k y ws, x.ReadsRecord a b o k y ws →
      let q := patternOf x.sp.handle ws
      let c : CtxAt := ⟨o.handle, k.row, k.col, k.idx⟩
      (recordOk ws o k (x.portOf a) q = false → body x = y.raise (overrun 7 (BitVec.ofNat 64 (x.nat b)))) ∧
      (recordOk ws o k (x.portOf a) q = true → 2 ≤ k.openAt (x.portOf a) → body x = y.stall) ∧
      (recordOk ws o k (x.portOf a) q = true → k.openAt (x.portOf a) < 2 → body x =
        if o.handle == y.sp.handle then y.modOwn c fun k => k.enter (x.portOf a) q else y.enterOther c (x.portOf a) q) := by
  refine ⟨_, fun _ => rfl, fun x h => ?_, fun x o k h hm => ?_, fun x o k y ws h => ?_⟩
  · simp only [h]
  · simp only [h]
    exact if_pos (by simpa using hm)
  · have hal : (x.nat b % 32 != 0) = false := by simpa using h.aligned
    obtain ⟨s, hy⟩ := loadWords_keeps h.words h.going
    have hh : y.sp.handle = x.sp.handle := by rw [hy]
    simp only [h.named, hal, h.words, h.going, hh]
    refine ⟨fun hr => ?_, fun hr ho => ?_, fun hr ho => ?_⟩
    all_goals
      unfold Ex.portOf at hr
      simp only [hr]
    · rfl
    · exact if_pos ho
    · exact if_neg (Nat.not_le.2 ho)

/-- The patterns of a phase that a barrier waits for (R103). -/
theorem phaseOpen_iff (l : List Pattern) (p : BitVec 4) : (l.any fun q => q.phase == p) = true ↔ ∃ q ∈ l, q.phase = p := by
  simp

theorem streamCommands : Says.StreamCommands := by
  intro g p a b o k y ws i port q c read opened good
  obtain ⟨body, hx, hnone, halign, hload⟩ := scmd_body g a b
  have hread {x : Ex} (h : read x) : x.ReadsRecord a b o k y ws := let ⟨h1, h2, h3, h4⟩ := h; ⟨h1, h2, h3, h4⟩
  refine ⟨does_of body hx ?own, does_of body hx ?other, ?waits, ?refuses, faults_of_raise body hx fun x h => ?misaligned,
    faults_of_raise body hx hnone, ?phaseOver, ?phaseWaits⟩
  case own =>
    rintro s x hb ⟨⟨hr, hg⟩, ho, hh⟩
    have hr' := hread hr
    refine ⟨?_, (congrArg Ex.ok (stored_same rfl)).trans hr'.going⟩
    rw [(hload x o k y ws hr').2.2 hg ho, if_pos (beq_iff_eq.2 hh)]
    rfl
  case other =>
    rintro s x hb ⟨⟨hr, hg⟩, ho, hh⟩
    have hr' := hread hr
    refine ⟨?_, (congrArg Ex.ok (stored_same rfl)).trans hr'.going⟩
    rw [(hload x o k y ws hr').2.2 hg ho, if_neg (mt beq_iff_eq.1 hh)]
    rfl
  case waits =>
    rintro s x hb ⟨hr, hg⟩ ho
    exact run_waits hx hb (hread hr).going ((hload x o k y ws (hread hr)).2.1 hg ho)
  case refuses =>
    intro s x hb hr hg
    rw [hx, run_begins body hb, (hload x o k y ws (hread hr)).1 hg, raise_ok (hread hr).going]
  case misaligned => exact halign x o k h.1 h.2
  case phaseOver =>
    refine does_nothing _ (fun _ => rfl) rfl fun x hp => if_neg fun h => ?_
    obtain ⟨q, hq, hqp⟩ := (phaseOpen_iff ..).1 h
    exact hp q hq hqp
  case phaseWaits => exact fun s x hb hp => run_stalls (fun _ => rfl) hb (if_pos ((phaseOpen_iff ..).2 hp))

end Sys2Proof.Machine
end

section
/-! SUPPORT. Patterns at a port (R100 to R102): their words as they are delivered, and their ends. -/

namespace Sys2Proof.Machine

open Sys2Proof

/-! ## Boards -/

/-- Reading an element of a list that has been changed there. -/
theorem nth_upd_same {α : Type} {l : List α} {n : Nat} {d : α} (f : α → α) (h : nth l n d ≠ d) :
    nth (upd l n f) n d = f (nth l n d) := by
  unfold nth upd at *
  cases hn : l[n]? with
  | none => simp [hn] at h
  | some x =>
    obtain ⟨hl, rfl⟩ := List.getElem?_eq_some_iff.1 hn
    simp [hl]

/-- A change of an element turns on what the element is alone. -/
theorem upd_congr {α : Type} {l : List α} {n : Nat} {d : α} {f g : α → α} (h : f (nth l n d) = g (nth l n d)) :
    upd l n f = upd l n g := by
  unfold nth at h
  unfold upd
  cases hn : l[n]? with
  | none => rfl
  | some x =>
    have hx : l.getD n d = x := by simp [hn]
    rw [hx] at h
    simp only [h]

/-! ## Views of a context outside any firing -/

/-- What the view of a context holds. -/
theorem enterCtx_view {s : State} {c : CtxAt} {x : Ex} (h : enterCtx s c = some x) :
    s.spur? c.h = some x.sp ∧ x.sp.live.ctx? c.row c.col c.ctx = some x.cx ∧ x.fault = none ∧ x.wait = false ∧ x.s = s := by
  unfold enterCtx at h
  split at h
  · cases h
  · split at h
    · cases h
      exact ⟨‹_›, ‹_›, rfl, rfl, rfl⟩
    · cases h

/-! ## Delivery -/

section
variable {s : State} {c : CtxAt} {p : Port} {x y : Ex} {q : Pattern} {w : W32}

/-- The scoreboard of a port, in a view. -/
def Ex.boardAt (x : Ex) (p : Port) : Board := nth x.cx.board (Port.idx p) Board.idle

/-- A read pattern of a port has a word to deliver (R100, R161, R299). -/
structure Ex.Delivers (x : Ex) (s : State) (c : CtxAt) (p : Port) (q : Pattern) : Prop where
  active : s.active x.sp = true
  conf : x.cx.conf = true
  read : q.write = false
  alone : nth x.cx.att (Port.idx p) none = none
  left : q.moved < q.words
  gate : x.sp.gateOpen c.row c.col q = true

/-- A view whose port has taken the next word of its pattern. -/
def Ex.takes (x : Ex) (p : Port) (w : W32) (now : Nat) : Ex :=
  { x with
    cx := { x.cx with board := upd x.cx.board (Port.idx p) fun b => { b with
      active := b.active.map fun q => { q with buf := q.buf ++ [w], moved := q.moved + 1 } } }
    sp := x.sp.busy now }

section
variable (hx : enterCtx s c = some x) (hq : (x.boardAt p).active = some q)
include hx hq

/-- A port without room takes no word (R161). -/
theorem delivery_full (hr : ¬ (x.boardAt p).waiting < Config.streamPort) :
    exec (.streamPatternDelivery c p) s = .next s := by
  change execStreamPatternDelivery c p s = _
  rw [Ex.boardAt] at hq hr
  simp only [execStreamPatternDelivery, hx, hq, decide_eq_true (Nat.not_lt.1 hr), Bool.or_true, Bool.true_or, if_true]

variable (hd : x.Delivers s c p q) (hr : (x.boardAt p).waiting < Config.streamPort) (hw : x.patRead q q.moved = (y, w))
include hd hr hw

/-- A word that is read goes into its port (R100). -/
theorem delivery_word (hf : y.fault = none) (hn : y.wait = false) :
    exec (.streamPatternDelivery c p) s = .next (y.takes p w s.now).back := by
  change execStreamPatternDelivery c p s = _
  rw [Ex.boardAt] at hq hr
  simp only [execStreamPatternDelivery, hx, hq, hd.active, hd.conf, hd.read, hd.alone, decide_eq_false (Nat.not_le.2 hd.left),
    decide_eq_false (Nat.not_le.2 hr), hd.gate, hw, hf, hn]
  rfl

/-- A word that faults is a cause of the round (R101). -/
theorem delivery_fault {f : Flt} (hf : y.fault = some f) :
    exec (.streamPatternDelivery c p) s = .next (y.s.modSpur c.h fun sp => sp.addCause (y.patCause f)) := by
  change execStreamPatternDelivery c p s = _
  rw [Ex.boardAt] at hq hr
  simp only [execStreamPatternDelivery, hx, hq, hd.active, hd.conf, hd.read, hd.alone, decide_eq_false (Nat.not_le.2 hd.left),
    decide_eq_false (Nat.not_le.2 hr), hd.gate, hw, hf]
  rfl

end

/-! ## What is read -/

theorem patRead_own (hs : q.space = 2) (x : Ex) : x.patRead q q.moved =
    (x, BitVec.ofNat 32 (readNat x.br.bank ((q.wordAt q.moved).emod 65536).toNat 4)) := if_pos hs

theorem patRead_virt {pl : Place1} (hs : q.space = 0)
    (hp : x.place (.virt ((q.wordAt q.moved).emod (2 ^ 64)).toNat) 4 4 .read none = (y, pl)) (hy : y.ok = true) :
    x.patRead q q.moved = (y, BitVec.ofNat 32 (ofBytes (y.bytesAt pl 4))) := by
  have h1 : ¬ q.space = 1 := by rw [hs]; decide
  have h2 : ¬ q.space = 2 := by rw [hs]; decide
  simp only [Ex.patRead, if_neg h1, if_neg h2, hp, hy, if_true]

theorem patRead_vault {pl : Place1} (hs : q.space = 1) (ht : 0 ≤ q.wordAt q.moved)
    (hp : x.place (.vault (q.wordAt q.moved).toNat) 4 4 .read none = (y, pl)) (hy : y.ok = true) :
    x.patRead q q.moved = (y, BitVec.ofNat 32 (ofBytes (y.bytesAt pl 4))) := by
  have h2 : ¬ q.space = 2 := by rw [hs]; decide
  simp only [Ex.patRead, if_pos hs, if_neg h2, if_neg (Int.not_lt.2 ht), hp, hy, if_true]

/-! ## Ends -/

/-- The words or rows of a pattern are all moved (R102). -/
def Pattern.over (q : Pattern) : Bool := if q.write then decide (q.rows ≤ q.row) else decide (q.words ≤ q.moved)

/-- The scoreboard of a port when its pattern is over (R102). -/
def Board.turn (b : Board) (q : Pattern) : Board :=
  { old := b.old ++ (if !q.write && decide (q.row < q.rows) then [q] else []), active := b.pend.head?, pend := b.pend.drop 1 }

/-- A spur in which the pattern of a port is over and the next one is active (R102). -/
def Spur.turned (sp : Spur) (c : CtxAt) (p : Port) (q : Pattern) : Spur :=
  sp.modLive fun b => b.modCtx c fun k => { k with board := upd k.board (Port.idx p) (·.turn q) }

/-- The end of a pattern that is active at a port. -/
theorem complete_eq (hx : enterCtx s c = some x) (hq : (x.boardAt p).active = some q) (ha : s.active x.sp = true) :
    exec (.streamPatternComplete c p) s = .next
      (if q.over then s.setSpur ((x.sp.turned c p q).busy s.now) else s) := by
  obtain ⟨hs, hk, -⟩ := enterCtx_view hx
  change execStreamPatternComplete c p s = _
  rw [Ex.boardAt] at hq
  simp only [execStreamPatternComplete, hs, ha, hk, Option.bind_some, hq]
  change Host.Outcome.next (if !q.over then s else _) = _
  cases q.over <;> rfl

end

/-- A context that a body has changed, its place kept, reads as changed. -/
theorem Body.ctx?_modCtx {b : Body} {c : CtxAt} {k : Ctx} (hk : b.ctx? c.row c.col c.ctx = some k) (f : Ctx → Ctx)
    (hf : (f k).row = k.row ∧ (f k).col = k.col ∧ (f k).idx = k.idx) :
    (b.modCtx c f).ctx? c.row c.col c.ctx = some (f k) := by
  have hp := List.find?_some hk
  simp only [Bool.and_eq_true, beq_iff_eq] at hp
  obtain ⟨⟨hr, hc⟩, hi⟩ := hp
  obtain ⟨hr', hc', hi'⟩ := hf
  have hs := find?_updFirst_same (fun x : Ctx => x.row == c.row && x.col == c.col && x.idx == c.ctx) (fun _ => f k)
    (by simp [hr, hc, hi, hr', hc', hi']) b.ctxs
  simp only [Body.modCtx, hk]
  unfold Body.setCtx Body.ctx? at *
  simp only [hr', hc', hi', hr, hc, hi]
  rw [hs, hk, Option.map_some]

/-- A change of a context changes no brick. -/
@[simp] theorem Body.modCtx_bricks (b : Body) (c : CtxAt) (f : Ctx → Ctx) : (b.modCtx c f).bricks = b.bricks := by
  unfold Body.modCtx
  split <;> rfl

theorem patternsRun : Says.PatternsRun := by
  intro s c p x y q b w hx hb hq room runs takes
  subst hb
  obtain ⟨hs, hk, hf, hwait, hm⟩ := enterCtx_view hx
  have hd (h : runs) : x.Delivers s c p q := let ⟨ha, hc, hr, hl, hm, hg⟩ := h; ⟨ha, hc, hr, hl, hm, hg⟩
  have hover : s.active x.sp = true → exec (.streamPatternComplete c p) s = _ := complete_eq hx hq
  refine ⟨delivery_full hx hq, fun hr hroom hsp => ?own, fun pl => ⟨patRead_virt, patRead_vault⟩,
    fun hr hroom => delivery_word hx hq (hd hr) hroom, fun f hr hroom hw => delivery_fault hx hq (hd hr) hroom hw,
    fun ha hw hm => ?left, fun ha hw hm => ?taken, fun ha h => ?done⟩
  case own =>
    rw [delivery_word hx hq (hd hr) hroom (patRead_own hsp x) hf hwait, Ex.takes,
      upd_congr (d := Board.idle) (g := fun _ => { nth x.cx.board (Port.idx p) Board.idle with active := some (takes _) })]
    simp only [hq, Option.map_some]
    rfl
  case left => rw [hover ha, if_neg (by simp [Pattern.over, hw]; omega)]
  case taken => rw [hover ha, if_neg (by simp [Pattern.over, hw]; omega)]
  case done =>
    have ho : q.over = true := by
      rcases h with ⟨hw, hm⟩ | ⟨hw, hm⟩ <;> simp [Pattern.over, hw, hm]
    have hh : x.sp.handle = c.h := handle_of_spur? hs
    have hne : nth x.cx.board (Port.idx p) Board.idle ≠ Board.idle := fun h => by
      rw [h] at hq
      cases hq
    refine ⟨_, (x.sp.turned c p q).busy s.now, (hover ha).trans (by rw [if_pos ho]), ?_, Body.modCtx_bricks .., ?_⟩
    · rw [← hh] at hs ⊢
      exact State.spur?_setSpur (x := (x.sp.turned c p q).busy s.now) hs
    intro k hk'
    obtain rfl := Option.some.inj (hk'.symm.trans (Body.ctx?_modCtx hk _ ⟨rfl, rfl, rfl⟩))
    exact (nth_upd_same (·.turn q) hne).symm ▸ ⟨rfl, rfl⟩

/-- Settles O20, by the bodies of the port instructions and by the events of patterns. -/
theorem streamPortsAndPatterns : Obligations.StreamPortsAndPatterns := ⟨streamPorts, streamCommands, patternsRun⟩

end Sys2Proof.Machine
end

section
/-! SUPPORT. What a commit does with each thing that its round held (R60, R79, R86, R104, R112 to R114, R278, R344, R347, R397,
R400, R412). -/

namespace Sys2Proof.Machine

open Sys2Proof

/-! ## Postings (R278, R280) -/

/-- An element stands after the replacement of one, as it was or replaced. -/
theorem exists_mem_updFirst {α : Type} (p : α → Bool) (f : α → α) {x : α} : ∀ {l : List α}, x ∈ l →
    ∃ y ∈ updFirst p f l, y = x ∨ y = f x
  | a :: r, hx => by
    by_cases ha : p a = true
    · rcases List.mem_cons.1 hx with rfl | hr
      · exact ⟨f x, by simp [updFirst, ha], .inr rfl⟩
      · exact ⟨x, by simp [updFirst, ha, hr], .inl rfl⟩
    · rcases List.mem_cons.1 hx with rfl | hr
      · exact ⟨x, by simp [updFirst, ha], .inl rfl⟩
      · obtain ⟨y, hy, he⟩ := exists_mem_updFirst p f hr
        exact ⟨y, by simp [updFirst, ha, hy], he⟩

/-- The spur of a posting's thread is busy, and every spur keeps its handle and the round it has made. -/
theorem exists_mem_stir (s : State) (h : Handle) {x : Spur} (hx : x ∈ s.spurs) :
    ∃ y ∈ (s.stir h).spurs, y.handle = x.handle ∧ y.live = x.live := by
  obtain ⟨y, hy, rfl | rfl⟩ := exists_mem_updFirst (fun z : Spur => z.handle == h) s.busied hx
  · exact ⟨_, hy, rfl, rfl⟩
  · exact ⟨_, hy, rfl, rfl⟩

/-- A round that holds a write of an invalidation's range is stale (R278). -/
theorem exists_mem_markStale {s : State} {x : Spur} {all : Bool} {asid lo hi : Nat} (hx : x ∈ s.spurs)
    (hw : ∃ m ∈ x.live.held, m.inRange all asid lo hi = true) :
    { x with stale := true } ∈ (s.markStale all asid lo hi).spurs :=
  List.mem_map.2 ⟨x, hx, if_pos (List.any_eq_true.2 hw)⟩

theorem postInv_inv (h : Handle) (s : State) (all : Bool) (asid lo hi : Nat) :
    (postInv h s (.inv all asid lo hi)).posted =
      s.posted ++ [⟨s.posted.length, h, .inv all asid lo hi, allUnits, false, false⟩] ∧
    ∀ x ∈ s.spurs, (∃ m ∈ x.live.held, m.inRange all asid lo hi = true) →
      ∃ y ∈ (postInv h s (.inv all asid lo hi)).spurs, y.handle = x.handle ∧ y.stale = true := by
  refine ⟨rfl, fun x hx hw => ?_⟩
  obtain ⟨y, hy, hh, hl⟩ := exists_mem_stir s h hx
  exact ⟨_, exists_mem_markStale hy (hl ▸ hw), hh, rfl⟩

theorem postInv_migr (h : Handle) (s : State) (asid va frame size : Nat) :
    (∀ l, (s.stir h).leaf asid va = .ok l → l.size = size →
      postInv h s (.migr asid va frame size) = { s.stir h with posted := s.posted ++
        [⟨s.posted.length, h, .migr asid va frame size l.ent l.addr, allUnits, false, false⟩] }) ∧
    ((∀ l, (s.stir h).leaf asid va = .ok l → l.size ≠ size) →
      ∃ q, postInv h s (.migr asid va frame size) = { s.stir h with posted := s.posted ++ [q] } ∧ q.by_ = h ∧
        q.id = s.posted.length ∧ q.isOver = true ∧ q.gone = true) := by
  refine ⟨fun l hl hs => ?_, fun hn => ?_⟩
  · simp only [postInv, hl, hs, bne_self_eq_false, if_false, Bool.false_eq_true]
    rfl
  · cases hl : (s.stir h).leaf asid va with
    | ok l =>
      have hb : (l.size != size) = true := by simpa using hn l hl
      simp only [postInv, hl, hb]
      exact ⟨_, rfl, rfl, rfl, rfl, rfl⟩
    | error e =>
      simp only [postInv, hl]
      exact ⟨_, rfl, rfl, rfl, rfl, rfl⟩

/-! ## Flits of data ports (R393, R400) -/

/-- A flit that is no command and no step word leaves a data port on the wires from it. -/
theorem releaseFlit_data {sp : Spur} {s : State} {w : Wire} {f : Flit} {port : BitVec 8} (tag : BitVec 6)
    (hp : port.toNat < 0xF0) (hc : ∀ n, f ≠ .cmd n) (hs : f ≠ .step)
    (hw : s.wireFrom (.spur sp.handle port) = some w) (hf : w.far = true) :
    releaseFlit sp s ⟨tag, port, f⟩ = s.putWires (s.wiresFrom (.spur sp.handle port)) f := by
  have hport : ¬ (0xF0 : BitVec 8) ≤ port := by
    rw [BitVec.le_def]
    exact not_le.2 hp
  have data : releaseFlit sp s ⟨tag, port, f⟩ = s.sendData sp.handle port f := by
    cases f with
    | cmd c => exact absurd rfl (hc c)
    | step => exact absurd rfl hs
    | tok _ | hdr _ | seam => exact if_neg hport
  rw [data]
  unfold State.sendData
  rw [hw]
  unfold Wire.far at hf
  cases hd : w.dst with
  | job _ _ => simp [hd] at hf
  | spur _ _ | farm _ _ | gate _ | saddle _ _ => simp only [hd]

theorem releaseFlit_plain {sp : Spur} {s : State} {w : Wire} {f : Flit} {port : BitVec 8} (tag : BitVec 6)
    (hp : port.toNat < 0xF0) (hc : ∀ n, f ≠ .cmd n) (hs : f ≠ .step)
    (hw : s.wireFrom (.spur sp.handle port) = some w) (hf : w.far = true) (hn : w.toSaddle = false)
    (hl : s.liveEnd w.dst = true) : releaseFlit sp s ⟨tag, port, f⟩ = s.modWire w (· ++ [f]) := by
  rw [releaseFlit_data tag hp hc hs hw hf]
  simp [State.wiresFrom, hw, hn, State.putWires, hl]

theorem releaseFlit_saddle {sp : Spur} {s : State} {w : Wire} {f : Flit} {port : BitVec 8} (tag : BitVec 6)
    (hp : port.toNat < 0xF0) (hc : ∀ n, f ≠ .cmd n) (hs : f ≠ .step)
    (hw : s.wireFrom (.spur sp.handle port) = some w) (hf : w.far = true) (hn : w.toSaddle = true) :
    releaseFlit sp s ⟨tag, port, f⟩ =
      s.putWires (s.wires.filter fun x => x.src == .spur sp.handle port && x.toSaddle) f := by
  rw [releaseFlit_data tag hp hc hs hw hf]
  simp [State.wiresFrom, hw, hn]

/-! ## Requests (R60, R86, R344, R347) -/

/-- The element that was found stands replaced. -/
theorem mem_updFirst_of_find? {α : Type} {p : α → Bool} (f : α → α) {x : α} : ∀ {l : List α},
    l.find? p = some x → f x ∈ updFirst p f l
  | a :: r, hx => by
    by_cases ha : p a = true
    · simp only [List.find?_cons, ha, Option.some.injEq] at hx
      subst hx
      simp [updFirst, ha]
    · simp only [List.find?_cons, ha] at hx
      simp [updFirst, ha, mem_updFirst_of_find? f hx]

/-- Where no bricks are shared there is no turn to claim. -/
theorem claimTurn_of_noGroups {s : State} (hg : s.groups = []) (h : Handle) : claimTurn s h = s := by
  simp [claimTurn, State.group?, hg]

/-- A coroutine that had yielded runs on with its argument in `g2`. -/
theorem Spur.resume_yielded {o : Spur} (hl : o.life = .yielded) (hg : o.live.th.g.length = 32) (v : W64) (now : Nat) :
    (o.resume v now).life = .running ∧ nth (o.resume v now).live.th.g 2 0 = v := by
  have h2 : (o.resume v now).live.th.g = o.live.th.g.set 2 v := by
    simp [Spur.resume, hl, Spur.openRound, Body.openRound, Thread.openRound, Spur.modLive, Thread.setReg]
  refine ⟨by simp [Spur.resume, hl, Spur.openRound, Spur.modLive], ?_⟩
  rw [h2]
  simp [nth, hg]

@[simp] theorem Spur.resume_handle (o : Spur) (v : W64) (now : Nat) : (o.resume v now).handle = o.handle := by
  unfold Spur.resume
  simp only
  split <;> rfl

theorem sendReq_resume {s : State} {h : Handle} {o : Spur} (sp : Spur) (hs : s.spur? h = some o) (hg : s.groups = [])
    (hl : o.life = .yielded) (hr : o.live.th.g.length = 32) (v : W64) :
    ∃ y, (sendReq sp s (.resume h v)).spur? h = some y ∧ y.life = .running ∧ nth y.live.th.g 2 0 = v := by
  refine ⟨o.resume v s.now, ?_, Spur.resume_yielded hl hr v _⟩
  simp only [sendReq]
  rw [claimTurn_of_noGroups (by simpa using hg), State.spur?_modSpur (by simp), hs]
  rfl

theorem sendReq_cwr {s : State} {c : CtxAt} {o : Spur} {k : Ctx} (sp : Spur) (hs : s.spur? c.h = some o)
    (hk : o.live.ctx? c.row c.col c.ctx = some k) (n : BitVec 12) (v : W64) :
    ∃ y z, (sendReq sp s (.cwr c n v)).spur? c.h = some y ∧ y.live.ctx? c.row c.col c.ctx = some z ∧
      z.stagedCst = k.stagedCst ++ [(n, v)] := by
  let f (k : Ctx) : Ctx := { k with stagedCst := k.stagedCst ++ [(n, v)] }
  refine ⟨o.modBoth fun b => b.modCtx c f, f k, ?_, Body.ctx?_modCtx hk f ⟨rfl, rfl, rfl⟩, rfl⟩
  simp only [sendReq]
  rw [State.spur?_modSpur (f := fun x => x.modBoth fun b => b.modCtx c f) (fun _ => rfl), hs]
  rfl

/-- A binding that is staged waits at its brick. -/
theorem Body.brick?_stage {b : Body} {k : Brick} {row col : BitVec 8} (hk : b.brick? row col = some k) (vc : Nat) (v : W32) :
    (b.stage row col vc v).brick? row col =
      some { k with staged := (k.staged.filter fun x => x.1 != vc) ++ [(vc, v)] } := by
  have := find?_updFirst_same (fun k : Brick => k.row == row && k.col == col)
    (fun k => { k with staged := (k.staged.filter fun x => x.1 != vc) ++ [(vc, v)] }) (fun _ hx => hx) b.bricks
  unfold Body.brick? Body.stage at *
  rw [this, hk]
  rfl

theorem sendReq_vcbind {s : State} {h : Handle} {o : Spur} {b : Brick} {row col : BitVec 8} (sp : Spur)
    (hs : s.spur? h = some o) (hb : o.live.brick? row col = some b) (vc : Nat) (v : W32) :
    ∃ y z, (sendReq sp s (.vcbind h row col vc v)).spur? h = some y ∧ y.live.brick? row col = some z ∧
      z.staged.getLast? = some (vc, v) ∧ z.vc = b.vc := by
  refine ⟨o.modBoth fun b => b.stage row col vc v, _, ?_, Body.brick?_stage hb vc v, by simp, rfl⟩
  simp only [sendReq]
  rw [State.spur?_modSpur (f := fun x => x.modBoth fun b => b.stage row col vc v) (fun _ => rfl), hs]
  rfl

/-! ## Steps of a section (R104) -/

theorem stepSection_pending {sp : Spur} {b : Body} {st : StepReq} {x : Section}
    (hx : sp.section? st.section_.toNat = some x)
    (hn : ∃ j ∈ b.ctxs, (x.has j.row j.col = true ∧ j.idx = st.ctx) ∧ j.conf = false) : stepSection sp b st = none := by
  obtain ⟨j, hj, ⟨hm, hi⟩, hc⟩ := hn
  simp only [stepSection, hx]
  refine if_neg fun hall => ?_
  have := List.all_eq_true.1 hall j (List.mem_filter.2 ⟨hj, by simp [hm, hi]⟩)
  rw [hc] at this
  exact Bool.noConfusion this

theorem stepSection_taken {sp : Spur} {b : Body} {st : StepReq} {x : Section}
    (hx : sp.section? st.section_.toNat = some x)
    (hc : ∀ j ∈ b.ctxs, (x.has j.row j.col = true ∧ j.idx = st.ctx) → j.conf = true) :
    ∃ c, stepSection sp b st = some c ∧ (∀ j ∈ c.bricks, x.has j.row j.col = true → j.active = st.ctx) ∧
      ∀ j ∈ c.ctxs, (x.has j.row j.col = true ∧ j.idx = st.ctx) → j.dn = false ∧ j.pass = List.replicate 16 0 := by
  have hall : ((b.ctxs.filter fun k => x.has k.row k.col && k.idx == st.ctx).all (·.conf)) = true := by
    refine List.all_eq_true.2 fun j hj => ?_
    obtain ⟨hm, hi⟩ := List.mem_filter.1 hj
    exact hc j hm (by simpa using hi)
  simp only [stepSection, hx, hall, if_true]
  refine ⟨_, rfl, fun j hj hm => ?_, fun j hj hm => ?_⟩
  · obtain ⟨k, -, rfl⟩ := List.mem_map.1 hj
    by_cases hk : x.has k.row k.col = true
    · simp [hk]
    · simp [hk] at hm
  · obtain ⟨k, -, rfl⟩ := List.mem_map.1 hj
    by_cases hk : (x.has k.row k.col && k.idx == st.ctx) = true
    · simp [hk, Ctx.dn]
    · simp only [hk, Bool.false_eq_true, if_false] at hm
      exact absurd (by simpa using hm) hk

/-! ## Trace records (R79, R412) -/

/-- The trace ring of a spur's home ridge. -/
def traceRing (s : State) (sp : Spur) : TraceRing := nth s.ctl.traces sp.home ⟨0, 0, 0, 0⟩

/-- The records that a ring holds. -/
def TraceRing.size (r : TraceRing) : Nat := 2 ^ bitsOf r.trn.toNat 0 5

/-- A ring that takes no record: none is there, or it is full. -/
def TraceRing.Full (r : TraceRing) : Prop := r.trb = 0 ∨ r.size ≤ (r.trt.toNat + 2 ^ 32 - r.trh.toNat) % 2 ^ 32

/-- Where a ring's next record goes. -/
def TraceRing.slot (r : TraceRing) : Nat := r.trb.toNat + 64 * (r.trt.toNat % r.size)

/-- A record that a ring takes. -/
def State.tracePut (s : State) (sp : Spur) (l : List Byte) : State :=
  let v := s.physWrite .fabric (traceRing s sp).slot l
  { v with ctl := v.ctl.modTrace sp.home fun r => { r with trt := BitVec.ofNat 64 ((r.trt.toNat + 1) % 2 ^ 32) } }

/-- A record that is dropped is counted: a thread's by its thread, a firing's by its context. -/
def Body.countDrop (b : Body) (c : CtxAt) (l : List Byte) : Body :=
  if l.getD 5 0 = 0xFF then { b with th := { b.th with mdc := b.th.mdc + 1 } }
  else b.modCtx c fun k => { k with mdc := k.mdc + 1 }

theorem writeTrace_full {sp : Spur} {s : State} {c : CtxAt} {l : List Byte} (h : (traceRing s sp).Full) :
    writeTrace sp s (c, l) = s.modSpur sp.handle fun x => x.modLive fun b => b.countDrop c l :=
  if_pos (by simpa [TraceRing.Full, TraceRing.size, traceRing] using h)

theorem writeTrace_room {sp : Spur} {s : State} {c : CtxAt} {l : List Byte} (h : ¬ (traceRing s sp).Full) :
    writeTrace sp s (c, l) = s.tracePut sp l :=
  if_neg (by simpa [TraceRing.Full, TraceRing.size, traceRing] using h)

/-- Where the slot is in memory, the record stands there, and nothing else of memory changes. -/
theorem tracePut_mem {sp : Spur} {s : State} {l : List Byte} (hn : isCtlSpace (traceRing s sp).slot = false)
    (hm : Memory.wf s.mem = true) (hl : l.length = 64) :
    readBytes (s.tracePut sp l).mem (traceRing s sp).slot 64 = l ∧
      (∀ a, a < (traceRing s sp).slot ∨ (traceRing s sp).slot + 64 ≤ a →
        readByte (s.tracePut sp l).mem a = readByte s.mem a) ∧
      (s.physWrite .fabric (traceRing s sp).slot l).ctl = s.ctl := by
  have hp : (s.physWrite .fabric (traceRing s sp).slot l) =
      ({ s with mem := writeBytes s.mem (traceRing s sp).slot l } : State).rewritten (traceRing s sp).slot l.length :=
    if_neg (by simp [hn])
  have hmem : (s.tracePut sp l).mem = writeBytes s.mem (traceRing s sp).slot l := congrArg State.mem hp
  rw [hmem]
  refine ⟨?_, fun a ha => readByte_writeBytes_other l _ _ hm (hl ▸ ha), by rw [hp]; rfl⟩
  have := readBytes_writeBytes l (traceRing s sp).slot hm
  rwa [hl] at this

/-- A dropped record changes its spur alone. -/
theorem dropped_spur? {s : State} {h : Handle} {o : Spur} (hs : s.spur? h = some o) (c : CtxAt) (l : List Byte) :
    (s.modSpur h fun x => x.modLive fun b => b.countDrop c l).spur? h = some (o.modLive fun b => b.countDrop c l) := by
  rw [State.spur?_modSpur (f := fun x => x.modLive fun b => b.countDrop c l) (fun _ => rfl), hs]
  rfl

theorem writeTrace_drops {sp : Spur} {s : State} {c : CtxAt} {l : List Byte} (h : (traceRing s sp).Full) :
    (writeTrace sp s (c, l)).mem = s.mem ∧ (writeTrace sp s (c, l)).ctl = s.ctl := by
  rw [writeTrace_full h]
  exact ⟨rfl, rfl⟩

theorem writeTrace_counts {sp o : Spur} {s : State} {c : CtxAt} {k : Ctx} {l : List Byte} (h : (traceRing s sp).Full)
    (hl : l.getD 5 0 ≠ 0xFF) (hs : s.spur? sp.handle = some o) (hk : o.live.ctx? c.row c.col c.ctx = some k) :
    ∃ y z, (writeTrace sp s (c, l)).spur? sp.handle = some y ∧ y.live.ctx? c.row c.col c.ctx = some z ∧
      z.mdc = k.mdc + 1 := by
  rw [writeTrace_full h, dropped_spur? hs]
  let f (k : Ctx) : Ctx := { k with mdc := k.mdc + 1 }
  have hd : o.live.countDrop c l = o.live.modCtx c f := if_neg hl
  exact ⟨_, f k, rfl, (congrArg (·.ctx? c.row c.col c.ctx) hd).trans (Body.ctx?_modCtx hk f ⟨rfl, rfl, rfl⟩), rfl⟩

theorem writeTrace_counts_thread {sp o : Spur} {s : State} {c : CtxAt} {l : List Byte} (h : (traceRing s sp).Full)
    (hl : l.getD 5 0 = 0xFF) (hs : s.spur? sp.handle = some o) :
    ∃ y, (writeTrace sp s (c, l)).spur? sp.handle = some y ∧ y.live.th.mdc = o.live.th.mdc + 1 := by
  rw [writeTrace_full h, dropped_spur? hs]
  have hd : o.live.countDrop c l = { o.live with th := { o.live.th with mdc := o.live.th.mdc + 1 } } := if_pos hl
  exact ⟨_, rfl, congrArg (·.th.mdc) hd⟩

/-! ## Phase records (R112 to R114) -/

@[simp] theorem toBytes_length (n : Nat) : ∀ v, (toBytes n v).length = n := by
  induction n with
  | zero => exact fun _ => rfl
  | succ n ih => simp [toBytes, ih]

@[simp] theorem zeros_length (n : Nat) : (zeros n).length = n := List.length_replicate

theorem phaseRecord_length (sp : Spur) (p : Phase) (now : Nat) (ret : Bool) : (phaseRecord sp p now ret).length = 32 := by
  simp [phaseRecord]

/-- A record begins with the handle of its spur. -/
theorem phaseRecord_handle (sp : Spur) (p : Phase) (now : Nat) (ret : Bool) :
    (phaseRecord sp p now ret).take 4 = toBytes 4 sp.handle.toNat := rfl

/-- A record gives the cycles from the beginning of a phase until it was loaded (R112). -/
theorem phaseRecord_load (sp : Spur) {p : Phase} (now : Nat) (ret : Bool) {a : Nat} (ha : p.loaded = some a) :
    ((phaseRecord sp p now ret).drop 8).take 4 = toBytes 4 (min (a - p.begun) 0xFFFFFFFF) := by
  have : ((phaseRecord sp p now ret).drop 8).take 4 = toBytes 4 (sat32 (p.loaded.getD now - p.begun)) := rfl
  rw [this, ha]
  rfl

section
variable {s t : State} {sp : Spur} {h : Handle} {p : Phase} {ret : Bool}

/-- The log position of a spur's next phase record. -/
def phaseSlot (s : State) (sp : Spur) : Nat :=
  (nth s.seqs sp.home ⟨0, 0, 4096⟩).phb.toNat + 32 * ((nth s.seqs sp.home ⟨0, 0, 4096⟩).phi.toNat % 4096)

/-- The write of a phase record to its log, in the spur's own address space. -/
def phaseWrite (s : State) (sp : Spur) (p : Phase) (ret : Bool) : State × Option DevFault :=
  devWrite s (bedrock sp.massif) sp.asid (phaseSlot s sp) (phaseRecord sp p s.now ret)

/-- A spur with LD set: a phase record of it was dropped (R114). -/
def Spur.setLd (x : Spur) : Spur := x.modLive fun b => { b with th := { b.th with sst := b.th.sst ||| 0x40000 } }

theorem writePhase_unlogged (hs : s.spur? h = some sp) (hb : (nth s.seqs sp.home ⟨0, 0, 4096⟩).phb = 0) :
    writePhase s h p ret = s := by
  simp only [writePhase, hs]
  exact if_pos hb

theorem writePhase_logged (hs : s.spur? h = some sp) (hb : (nth s.seqs sp.home ⟨0, 0, 4096⟩).phb ≠ 0)
    (hw : phaseWrite s sp p ret = (t, none)) :
    writePhase s h p ret = { t with seqs := upd t.seqs sp.home fun q => { q with phi := q.phi + 1 } } := by
  simp only [phaseWrite, phaseSlot] at hw
  simp only [writePhase, hs, if_neg hb, hw]

theorem writePhase_dropped {e : DevFault} (hs : s.spur? h = some sp) (hb : (nth s.seqs sp.home ⟨0, 0, 4096⟩).phb ≠ 0)
    (hw : phaseWrite s sp p ret = (t, some e)) : writePhase s h p ret = t.modSpur h Spur.setLd := by
  simp only [phaseWrite, phaseSlot] at hw
  simp only [writePhase, hs, if_neg hb, hw]
  rfl

end

/-- A phase record goes to the log of its home ridge, or is dropped with LD set. -/
theorem phaseRecords (s t : State) (sp : Spur) (h : Handle) (p : Phase) (ret : Bool) (hs : s.spur? h = some sp) :
    ((nth s.seqs sp.home ⟨0, 0, 4096⟩).phb = 0 → writePhase s h p ret = s) ∧
    ((nth s.seqs sp.home ⟨0, 0, 4096⟩).phb ≠ 0 → phaseWrite s sp p ret = (t, none) →
      writePhase s h p ret = { t with seqs := upd t.seqs sp.home fun q => { q with phi := q.phi + 1 } }) ∧
    ∀ e, (nth s.seqs sp.home ⟨0, 0, 4096⟩).phb ≠ 0 → phaseWrite s sp p ret = (t, some e) →
      (writePhase s h p ret).seqs = t.seqs ∧ ∀ y, t.spur? h = some y →
        ∃ z, (writePhase s h p ret).spur? h = some z ∧ z.live.th.sst = (y.live.th.sst ||| 0x40000) := by
  refine ⟨writePhase_unlogged hs, writePhase_logged hs, fun e hb hw => ?_⟩
  rw [writePhase_dropped hs hb hw]
  refine ⟨rfl, fun y hy => ⟨y.setLd, ?_, rfl⟩⟩
  rw [State.spur?_modSpur (f := Spur.setLd) (fun _ => rfl), hy]
  rfl

theorem commitParts : Says.CommitParts := by
  intro s t sp o h p k c w f st
  refine ⟨postInv_inv h s, postInv_migr h s,
    fun tag port hp hc hs hw hf => ⟨releaseFlit_plain tag hp hc hs hw hf, releaseFlit_saddle tag hp hc hs hw hf⟩,
    fun q hq => mem_updFirst_of_find? _ hq, sendReq_resume sp, sendReq_cwr sp, fun b vc v hs hb => sendReq_vcbind sp hs hb vc v,
    fun x hx => ⟨stepSection_pending hx, stepSection_taken hx⟩, fun l => ?_,
    fun ret hs => ⟨phaseRecord_length .., phaseRecord_handle .., fun a => phaseRecord_load sp s.now ret,
      phaseRecords s t sp h p ret hs⟩⟩
  refine ⟨writeTrace_room, fun hr => ?_, writeTrace_drops, writeTrace_counts, writeTrace_counts_thread⟩
  rw [writeTrace_room hr]
  exact tracePut_mem

end Sys2Proof.Machine
end

section
/-! SUPPORT. What a commit writes in memory turns on memory and the device's own registers alone (R234, R397, R412): spurs, wires
and the queues of commands, postings and records are no part of it. -/

namespace Sys2Proof.Machine

open Sys2Proof

/-- A machine but for its spurs, its wires, and the queues of commands, postings and records. -/
def State.still (s : State) : State :=
  { s with spurs := [], wires := [], posted := [], cmdq := [], nextJob := 0, recq := [] }

theorem mem_of_still {s t : State} (h : t.still = s.still) : t.mem = s.mem := (congrArg State.mem h :)

theorem full_of_still {s t : State} (h : t.still = s.still) : t.full = s.full := (congrArg State.full h :)

/-- A fold goes along with a view that each of its steps goes along with. -/
theorem foldl_along {α β : Type} {f : β → α → β} (g : β → β) (l : List α) (hf : ∀ b, ∀ a ∈ l, g (f b a) = f (g b) a) :
    ∀ b, g (l.foldl f b) = l.foldl f (g b) := by
  induction l with
  | nil => exact fun _ => rfl
  | cons a r ih =>
    intro b
    rw [List.foldl_cons, List.foldl_cons, ih fun b x hx => hf b x (List.mem_cons_of_mem a hx), hf b a List.mem_cons_self]

/-- A choice keeps what its first side keeps of its second. -/
theorem ite_keeps {α β : Type} (g : α → β) {c : Prop} [Decidable c] {a b : α} (h : g a = g b) :
    g (if c then a else b) = g b := by
  split
  · exact h
  · rfl

/-! ## Control space -/

theorem setDefunct_still (s : State) (q : Nat) : (s.setDefunct q).still = s.still.setDefunct q := by
  unfold State.setDefunct
  simp only [apply_ite State.still]
  rfl

theorem writeNotify_still (s : State) (q : Nat) (v : W32) : (writeNotify s q v).still = writeNotify s.still q v := by
  unfold writeNotify
  simp only [apply_ite State.still]
  rfl

/-- Queues become defunct and a teardown of them starts (R391). -/
def State.tearDown (s : State) (qs : List Nat) (x : Teardown) : State :=
  { qs.foldl State.setDefunct s with teardown := some x }

theorem tearDown_still (s : State) (qs : List Nat) (x : Teardown) : (s.tearDown qs x).still = s.still.tearDown qs x := by
  unfold State.tearDown
  rw [← foldl_along State.still qs (fun b q _ => setDefunct_still b q)]
  rfl

/-- A teardown that starts takes its queues from memory (R391). -/
theorem writePtd_still (s : State) (v : W64) : (writePtd s v).still = writePtd s.still v := by
  unfold writePtd
  generalize upTo 4096 = l
  simp only [apply_ite State.still]
  exact if_congr Iff.rfl rfl (if_congr Iff.rfl rfl (tearDown_still ..))

@[simp] theorem ctlRead_still (s : State) (o : Nat) : ctlRead s.still o = ctlRead s o := by
  unfold ctlRead
  cases ctlReg o <;> rfl

theorem ctlWrite_still (s : State) (o : Nat) (v : W64) : (ctlWrite s .fabric o v).still = ctlWrite s.still .fabric o v := by
  unfold ctlWrite
  simp only [apply_ite State.still]
  refine if_congr Iff.rfl rfl ?_
  cases ctlReg o with
  | notify q => exact writeNotify_still ..
  | ptd => exact writePtd_still ..
  | _ => rfl

theorem ctlPut_still (n : Nat) : ∀ (pa : Nat) (l : List Byte) (s : State),
    (ctlPut .fabric n pa l s).still = ctlPut .fabric n pa l s.still := by
  induction n with
  | zero => exact fun _ _ _ => rfl
  | succ n ih =>
    intro pa l s
    unfold ctlPut
    simp only [apply_ite State.still, ih, ctlWrite_still, ctlRead_still]

theorem physWrite_still (s : State) (pa : Nat) (l : List Byte) :
    (s.physWrite .fabric pa l).still = s.still.physWrite .fabric pa l := by
  unfold State.physWrite
  simp only [apply_ite State.still, ctlPut_still]
  exact if_congr Iff.rfl rfl rfl

/-! ## What a round held -/

/-- A held write of memory. -/
theorem commitHeld_still {w : Held} (hw : isCtlSpace w.pa = false) (s : State) :
    (commitHeld s w).still = commitHeld s.still w := by
  unfold commitHeld State.physWrite
  simp only [hw, Bool.false_eq_true, if_false, apply_ite State.still]
  refine if_congr Iff.rfl rfl ?_
  cases w.kind <;> rfl

theorem writeTrace_still (sp : Spur) (s : State) (x : CtxAt × List Byte) :
    (writeTrace sp s x).still = writeTrace sp s.still x := by
  unfold writeTrace
  simp only [apply_ite State.still]
  refine if_congr Iff.rfl rfl ?_
  exact congrArg (fun z : State => { z with ctl := z.ctl.modTrace sp.home fun r =>
    { r with trt := BitVec.ofNat 64 ((r.trt.toNat + 1) % 2 ^ 32) } }) (physWrite_still s _ x.2)

@[simp] theorem physNat_still (s : State) (pa n : Nat) : s.still.physNat pa n = s.physNat pa n := by
  have hb (a : Nat) : s.still.physByte a = s.physByte a := by
    unfold State.physByte
    simp only [ctlRead_still]
    exact if_congr Iff.rfl rfl rfl
  have hr (n : Nat) : ∀ a, s.still.physRead a n = s.physRead a n := by
    induction n with
    | zero => exact fun _ => rfl
    | succ n ih => exact fun a => by rw [State.physRead, State.physRead, hb, ih]
  unfold State.physNat
  rw [hr]
  exact if_congr Iff.rfl rfl rfl

/-- A leaf is what memory and its root register say. -/
theorem leafFrom_still (s : State) (va level : Nat) : ∀ table,
    s.still.leafFrom va level table = s.leafFrom va level table := by
  induction level with
  | zero =>
    intro table
    unfold State.leafFrom
    simp only [physNat_still]
    rfl
  | succ k ih =>
    intro table
    unfold State.leafFrom
    simp only [ih, physNat_still]
    rfl

theorem leaf_still (s : State) (asid va : Nat) : s.still.leaf asid va = s.leaf asid va := by
  unfold State.leaf
  simp only [leafFrom_still, physNat_still]
  rfl

theorem postInv_still (h : Handle) (s : State) (v : HeldInv) : (postInv h s v).still = s.still := by
  cases v <;> rfl

theorem sendCmd_still (s : State) (e : EnginePort) (c : Cmd) : (s.sendCmd e c).still = s.still := rfl

/-! ## Flits -/

/-- A machine but for its wires. -/
def State.unwired (s : State) : State := { s with wires := [] }

theorem modWire_unwired (s : State) (w : Wire) (f : List Flit → List Flit) : (s.modWire w f).unwired = s.unwired := rfl

theorem putWires_unwired (s : State) (l : List Wire) (f : Flit) : (s.putWires l f).unwired = s.unwired :=
  foldl_keeps State.unwired (fun s w => ite_keeps State.unwired (modWire_unwired s w _)) l s

theorem sendGate_unwired (s : State) (h : Handle) (p : BitVec 8) (f : Flit) : (s.sendGate h p f).unwired = s.unwired := by
  unfold State.sendGate
  split
  · exact ite_keeps State.unwired (modWire_unwired ..)
  · rfl

theorem sendData_unwired (s : State) (h : Handle) (p : BitVec 8) (f : Flit) : (s.sendData h p f).unwired = s.unwired := by
  unfold State.sendData
  simp only
  split
  next w _ =>
    cases w.dst with
    | job _ _ => exact ite_keeps State.unwired rfl
    | _ => exact putWires_unwired ..
  next => exact ite_keeps State.unwired rfl

/-- A flit that leaves changes wires alone. -/
theorem releaseFlit_unwired (sp : Spur) (s : State) (e : EdgeFlit) : (releaseFlit sp s e).unwired = s.unwired := by
  unfold releaseFlit
  split
  · rfl
  · rfl
  · split
    · exact sendGate_unwired ..
    · exact sendData_unwired ..

theorem releaseFlit_still (sp : Spur) (s : State) (e : EdgeFlit) : (releaseFlit sp s e).still = s.still :=
  (congrArg State.still (releaseFlit_unwired sp s e) :)

/-! ## Postings -/

/-- A posting adds one to the list, which turns on memory alone. -/
theorem postInv_posted (h : Handle) (s : State) (v : HeldInv) : ∃ p, (postInv h s v).posted = s.posted ++ [p] ∧
    ∀ t : State, t.still = s.still → t.posted = s.posted → (postInv h t v).posted = t.posted ++ [p] := by
  cases v with
  | inv all asid lo hi => exact ⟨_, rfl, fun t _ hp => by rw [hp]; exact hp ▸ rfl⟩
  | migr asid va frame size =>
    refine ⟨_, rfl, fun t hs hp => ?_⟩
    have hl : (t.stir h).leaf asid va = (s.stir h).leaf asid va := by
      rw [← leaf_still, ← leaf_still (s.stir h)]
      exact congrArg (fun z : State => z.leaf asid va) hs
    simp only [postInv, hl]
    rw [show (t.stir h).posted = t.posted from rfl, show (s.stir h).posted = s.posted from rfl, hp]

/-- Postings turn on memory and the postings before them. -/
theorem foldl_postInv_posted (h : Handle) (l : List HeldInv) : ∀ {s t : State}, t.still = s.still → t.posted = s.posted →
    (l.foldl (postInv h) t).posted = (l.foldl (postInv h) s).posted := by
  induction l with
  | nil => exact fun _ hp => hp
  | cons v r ih =>
    intro s t hs hp
    obtain ⟨p, hv, hc⟩ := postInv_posted h s v
    exact ih ((postInv_still ..).trans (hs.trans (postInv_still ..).symm)) (by rw [hv, hc t hs hp, hp])

/-- Each invalidation and migration of a round is one posting. -/
theorem foldl_postInv_length (h : Handle) (l : List HeldInv) : ∀ s : State,
    (l.foldl (postInv h) s).posted.length = s.posted.length + l.length := by
  induction l with
  | nil => exact fun _ => rfl
  | cons v r ih =>
    intro s
    obtain ⟨p, hv, -⟩ := postInv_posted h s v
    rw [List.foldl_cons, ih, hv]
    simp
    omega

end Sys2Proof.Machine
end

section
/-! SUPPORT. The device's own accesses (R271, R274, R309) change the device's own state alone: memory, control registers, caches,
the pager's queues, records, and what rounds have done to the tables. -/

namespace Sys2Proof.Machine

open Sys2Proof

/-- A machine but for what an access of the device's own may change. -/
def State.bare (s : State) : State :=
  { s with mem := [], full := [], badWords := [], ctl := Ctl.reset, caches := [], heldUp := false, recq := [], klog := [],
           pagerQ := [], pagerAck := [], pagerFwd := [], teardown := none, taken := [], pols := [] }

/-- A machine but for memory, its bad words, and the registers of device control space, with the teardown that one starts. -/
def State.plain (s : State) : State := { s with mem := [], badWords := [], ctl := Ctl.reset, teardown := none }

/-! ## Control space and memory -/

@[simp] theorem setDefunct_plain (s : State) (q : Nat) : (s.setDefunct q).plain = s.plain := by
  unfold State.setDefunct
  simp only
  split <;> rfl

@[simp] theorem writeNotify_plain (s : State) (q : Nat) (v : W32) : (writeNotify s q v).plain = s.plain := by
  unfold writeNotify
  simp only
  split <;> rfl

/-- Control registers are the device's own. -/
@[simp] theorem ctl_plain (s : State) (c : Ctl) : ({ s with ctl := c } : State).plain = s.plain := rfl

/-- A teardown is the device's own. -/
theorem teardown_plain (s : State) (x : Option Teardown) : ({ s with teardown := x } : State).plain = s.plain := rfl

/-- A teardown that starts makes queues defunct, whose descriptors are in memory (R391). -/
@[simp] theorem writePtd_plain (s : State) (v : W64) : (writePtd s v).plain = s.plain := by
  unfold writePtd
  split
  · rfl
  · simp only
    split
    · exact ctl_plain ..
    · exact (teardown_plain ..).trans ((foldl_keeps State.plain setDefunct_plain ..).trans (ctl_plain ..))

/-- A register written by the fabric. -/
@[simp] theorem ctlWrite_plain (s : State) (o : Nat) (v : W64) : (ctlWrite s .fabric o v).plain = s.plain := by
  unfold ctlWrite
  split
  · rfl
  · simp only
    split <;> simp [isPriv, faxWriter]

@[simp] theorem ctlPut_plain (n : Nat) : ∀ (pa : Nat) (l : List Byte) (s : State),
    (ctlPut .fabric n pa l s).plain = s.plain := by
  induction n with
  | zero => exact fun _ _ _ => rfl
  | succ n ih =>
    intro pa l s
    unfold ctlPut
    split
    · rfl
    · exact (ih ..).trans (ctlWrite_plain ..)

@[simp] theorem physWrite_plain (s : State) (pa : Nat) (l : List Byte) : (s.physWrite .fabric pa l).plain = s.plain := by
  unfold State.physWrite
  split
  · exact ctlPut_plain ..
  · rfl

@[simp] theorem putNat_plain (s : State) (pa n v : Nat) : (s.putNat pa n v).plain = s.plain := by
  unfold State.putNat
  split
  · exact physWrite_plain ..
  · rfl

@[simp] theorem putNat_bare (s : State) (pa n v : Nat) : (s.putNat pa n v).bare = s.bare :=
  (congrArg State.bare (putNat_plain s pa n v) :)

@[simp] theorem physWrite_bare (s : State) (pa : Nat) (l : List Byte) : (s.physWrite .fabric pa l).bare = s.bare :=
  (congrArg State.bare (physWrite_plain s pa l) :)

/-! ## Translations -/

@[simp] theorem fill_bare (s : State) (c : CacheEnt) (va : Nat) : (s.fill c va).bare = s.bare := rfl

@[simp] theorem setAD_bare (s : State) (c : CacheEnt) (va : Nat) (acc : AccK) : (setAD s c va acc).bare = s.bare := by
  unfold setAD
  cases acc
  all_goals
    simp only
    split
    · rfl
    · exact putNat_bare ..

@[simp] theorem walkLeaf_bare (s : State) (u : CacheUnit) (asid va level : Nat) (n : Need) (path : List CacheEnt)
    (f : Found) : (walkLeaf s u asid va level n path f).1.bare = s.bare := by
  unfold walkLeaf
  simp only
  split
  · rfl
  · split
    · rfl
    · exact (setAD_bare ..).trans (foldl_keeps State.bare (fun s c => fill_bare s c va) _ _)

@[simp] theorem walkFrom_bare (u : CacheUnit) (asid va : Nat) (n : Need) (level : Nat) : ∀ (table : Nat)
    (path : List CacheEnt) (s : State), (walkFrom u asid va n level table path s).1.bare = s.bare := by
  induction level with
  | zero =>
    intro table path s
    unfold walkFrom
    simp only
    split_ifs <;> simp
  | succ k ih =>
    intro table path s
    unfold walkFrom
    simp only
    split_ifs <;> simp [ih]

@[simp] theorem translateWalk_bare (s : State) (u : CacheUnit) (asid va : Nat) (n : Need) :
    (translate.translateWalk s u asid va n).1.bare = s.bare := by
  unfold translate.translateWalk
  simp only
  split_ifs <;> simp

@[simp] theorem translate_bare (s : State) (u : CacheUnit) (asid va : Nat) (n : Need) :
    (translate s u asid va n).1.bare = s.bare := by
  unfold translate
  split
  · rfl
  · simp only
    split
    · split
      · exact translateWalk_bare ..
      · exact walkLeaf_bare ..
    · exact translateWalk_bare ..

/-! ## Records -/

@[simp] theorem postHandler_bare (s : State) (q : Option (Nat × Nat)) (l : List Byte) :
    (s.postHandler q l).bare = s.bare := by
  cases q <;> rfl

@[simp] theorem notice_bare (s : State) (d cause detail : Nat) (h : Handle) (l : List Byte) :
    (s.notice d cause detail h l).bare = s.bare := postHandler_bare ..

/-! ## The pager within an access -/

@[simp] theorem skipped_bare (s : State) (t : FaultTok) (level v : Nat) : (s.skipped t level v).bare = s.bare :=
  postHandler_bare ..

@[simp] theorem takeFrame_bare (t : FaultTok) (level n : Nat) : ∀ s : State,
    (takeFrame t level n s).1.bare = s.bare := by
  induction n with
  | zero => exact fun _ => rfl
  | succ n ih =>
    intro s
    unfold takeFrame
    simp only
    repeat' split
    · rfl
    · exact (ih _).trans (skipped_bare ..)
    · rfl
    · exact (ih _).trans (skipped_bare ..)

@[simp] theorem giveFrame_bare (s : State) (t : FaultTok) (level f : Nat) : (s.giveFrame t level f).bare = s.bare := by
  unfold State.giveFrame
  simp only
  split
  · exact putNat_bare ..
  · exact notice_bare ..

@[simp] theorem pageIn_bare (s : State) (t : FaultTok) : (pageIn s t).1.bare = s.bare := by
  unfold pageIn
  simp only
  split
  · rfl
  · split
    · rfl
    · split
      · rfl
      · have hf := takeFrame_bare t t.ask.level 65536 s
        split
        next u h => exact (congrArg (fun x => x.1.bare) h).symm.trans hf
        next u frame h =>
          rw [h] at hf
          split
          · exact (giveFrame_bare ..).trans ((putNat_bare ..).trans hf)
          · exact (putNat_bare ..).trans hf

@[simp] theorem serve_bare (s : State) (t : FaultTok) : (s.serve t).bare = s.bare := by
  have hp := pageIn_bare s t
  unfold State.serve
  split
  all_goals
    next h => rw [h] at hp; exact hp

@[simp] theorem serveAll_bare (s : State) : s.serveAll.bare = s.bare := foldl_keeps State.bare serve_bare _ _

/-! ## Words of the device -/

@[simp] theorem devTrans_bare (s : State) (d : DevAt) (va : Nat) (acc : AccK) : (devTrans s d va acc).1.bare = s.bare := by
  have ht : (translate (s.holdFor d.asid va) d.unit d.asid va ⟨acc, false, none⟩).1.bare = s.bare := translate_bare ..
  unfold devTrans
  split
  next u pa _ h => rw [h] at ht; exact ht
  next u f h =>
    rw [h] at ht
    split
    · exact ht
    · have hp := (pageIn_bare u.serveAll ⟨.device d.dom, ⟨d.asid, va, acc.code, f.level, f.addr⟩, d.massif, none⟩).trans
        ((serveAll_bare u).trans ht)
      split
      next w _ _ h => rw [h] at hp; exact hp
      next w h =>
        rw [h] at hp
        have hw := (translate_bare w d.unit d.asid va ⟨acc, false, none⟩).trans hp
        split
        all_goals
          next h => rw [h] at hw; exact hw

@[simp] theorem devWords_bare (d : DevAt) (acc : AccK) (n : Nat) : ∀ (va : Nat) (s : State),
    (devWords d acc n va s).1.bare = s.bare := by
  induction n with
  | zero => exact fun _ _ => rfl
  | succ n ih =>
    intro va s
    have ht := devTrans_bare s d va acc
    unfold devWords
    split
    next h => rw [h] at ht; exact ht
    next u pa h =>
      rw [h] at ht
      split
      · exact ht
      · have hw := (ih (va + 8) u).trans ht
        split
        all_goals
          next h => rw [h] at hw; exact hw

@[simp] theorem devPut_bare (s : State) (d : DevAt) (va : Nat) (ws : List W64) : (devPut s d va ws).1.bare = s.bare := by
  have hw := devWords_bare d .write ws.length va s
  unfold devPut
  split
  next h => rw [h] at hw; exact hw
  next h =>
    rw [h] at hw
    exact (foldl_keeps State.bare (fun _ _ => putNat_bare ..) _ _).trans hw

/-! ## Tables -/

@[simp] theorem addUse_bare (s : State) (massif d id n : Nat) : (addUse s massif d id n).bare = s.bare := by
  unfold addUse
  split
  · rfl
  next y _ =>
    have ht := devTrans_bare s ⟨massif, d, y.asid⟩ (y.ctb + 32 * id) .write
    split
    next h =>
      rw [h] at ht
      exact ht
    next h =>
      rw [h] at ht
      exact (putNat_bare ..).trans ht

@[simp] theorem decUse_bare (s : State) (massif d id : Nat) : (decUse s massif d id).bare = s.bare := by
  unfold decUse
  split
  · rfl
  · exact addUse_bare ..

@[simp] theorem dropMembers_bare (s : State) (massif d : Nat) (l : List Nat) :
    (dropMembers s massif d l).bare = s.bare := foldl_keeps State.bare (fun s id => decUse_bare s massif d id) _ _

/-- The rest of an entry that a round built is written (R344, R348). -/
@[simp] theorem commitTable_bare (s : State) (massif d : Nat) (h : Handle) (va : Nat) :
    (commitTable s massif d h va).bare = s.bare := by
  unfold commitTable
  split
  · rfl
  · exact devPut_bare ..

/-- An entry that a round freed is free (R344, R349). -/
@[simp] theorem commitFree_bare (s : State) (massif d : Nat) (h : Handle) (va : Nat) (l : List Nat) :
    (commitFree s massif d h va l).bare = s.bare := by
  unfold commitFree
  split
  · rfl
  · exact (dropMembers_bare ..).trans (devPut_bare ..)

/-! ## Bytes of the device -/

@[simp] theorem devPlace_bare (u : CacheUnit) (asid n : Nat) : ∀ (va : Nat) (s : State),
    (devPlace u asid n va s).1.bare = s.bare := by
  induction n with
  | zero => exact fun _ _ => rfl
  | succ n ih =>
    intro va s
    have ht : (translate (s.holdFor asid va) u asid va ⟨.write, false, none⟩).1.bare = s.bare := translate_bare ..
    unfold devPlace
    split
    next h => rw [h] at ht; exact ht
    next t pa _ h =>
      rw [h] at ht
      have hw := (ih (va + 8) t).trans ht
      split
      all_goals
        next h => rw [h] at hw; exact hw

@[simp] theorem devWrite_bare (s : State) (u : CacheUnit) (asid va : Nat) (l : List Byte) :
    (devWrite s u asid va l).1.bare = s.bare := by
  have hw := devPlace_bare u asid ((l.length + 7) / 8) va s
  unfold devWrite
  split
  next h => rw [h] at hw; exact hw
  next h =>
    rw [h] at hw
    exact (foldl_keeps State.bare (fun _ _ => physWrite_bare ..) _ _).trans hw

end Sys2Proof.Machine
end

section
/-! SUPPORT. What a commit (R397) leaves of the postings, the commands and the clock, and of the spur whose round it is: its round
number and life, the values of `ret` and `yield`, and its phases. -/

namespace Sys2Proof.Machine

open Sys2Proof

/-! ## Turns of sharers -/

/-- A turn that is claimed keeps what a turn that is given keeps. -/
theorem claimTurn_keeps {α : Type} (g : State → α) (hg : ∀ s k t, g (s.giveTurn k t) = g s) (s : State) (h : Handle) :
    g (claimTurn s h) = g s := by
  unfold claimTurn
  split
  · rfl
  · split
    · rfl
    · split
      · exact hg ..
      · rfl

/-- The rotation of sharers keeps what a turn that is given keeps. -/
theorem rotate_keeps {α : Type} (g : State → α) (hg : ∀ s k t, g (s.giveTurn k t) = g s) (s : State) (h : Handle) :
    g (rotate s h) = g s := by
  unfold rotate
  split
  · rfl
  · split
    · rfl
    · split
      · exact hg ..
      · rfl

/-! ## The ledger of postings and commands -/

/-- What a machine has posted and commanded, and its clock. -/
structure Ledger where
  posted : List Posted
  cmdq : List (EnginePort × Cmd)
  nextJob : Nat
  now : Nat

/-- The ledger of a machine. -/
def State.ledger (s : State) : Ledger := ⟨s.posted, s.cmdq, s.nextJob, s.now⟩

theorem ledger_of_bare {s t : State} (h : t.bare = s.bare) : t.ledger = s.ledger := (congrArg State.ledger h :)

theorem spurs_of_bare {s t : State} (h : t.bare = s.bare) : t.spurs = s.spurs := (congrArg State.spurs h :)

theorem giveTurn_ledger (s : State) (g : Group) (t : Nat) : (s.giveTurn g t).ledger = s.ledger := rfl

theorem commitHeld_ledger {w : Held} (hw : isCtlSpace w.pa = false) (s : State) : (commitHeld s w).ledger = s.ledger := by
  unfold commitHeld State.physWrite
  simp only [hw, Bool.false_eq_true, if_false]
  split
  · rfl
  · cases w.kind <;> rfl

theorem releaseFlit_ledger (sp : Spur) (s : State) (e : EdgeFlit) : (releaseFlit sp s e).ledger = s.ledger :=
  (congrArg State.ledger (releaseFlit_unwired sp s e) :)

theorem sendReq_ledger (sp : Spur) (s : State) (r : Request) : (sendReq sp s r).ledger = s.ledger := by
  cases r with
  | resume h v => exact claimTurn_keeps State.ledger giveTurn_ledger _ h
  | table va => exact ledger_of_bare (commitTable_bare ..)
  | cfree va l => exact ledger_of_bare (commitFree_bare ..)
  | _ => rfl

theorem writeTrace_ledger (sp : Spur) (s : State) (x : CtxAt × List Byte) : (writeTrace sp s x).ledger = s.ledger := by
  unfold writeTrace
  simp only
  split
  · rfl
  · exact (ledger_of_bare (physWrite_bare s _ x.2) :)

theorem writePhase_ledger (s : State) (h : Handle) (p : Phase) (ret : Bool) :
    (writePhase s h p ret).ledger = s.ledger := by
  unfold writePhase
  split
  · rfl
  next sp _ =>
    simp only
    split
    · rfl
    · have hw := devWrite_bare s (bedrock sp.massif) sp.asid (phaseSlot s sp) (phaseRecord sp p s.now ret)
      split
      next h =>
        rw [phaseSlot, h] at hw
        exact (ledger_of_bare hw :)
      next h =>
        rw [phaseSlot, h] at hw
        exact (ledger_of_bare hw :)

theorem endPhases_ledger (s : State) (h : Handle) : (endPhases s h).ledger = s.ledger := by
  unfold endPhases
  split
  · rfl
  · exact foldl_keeps State.ledger (fun s p => writePhase_ledger s h p false) _ _

theorem makeClaim_ledger (s : State) (p : Handle) (n : Nat) : (s.makeClaim p n).ledger = s.ledger := by
  unfold State.makeClaim
  exact ite_keeps State.ledger rfl

theorem complete_ledger (s : State) (t : Target) (h : Handle) (dom status : Nat) (v : W64) :
    (s.complete t h dom status v).ledger = s.ledger := by
  cases t with
  | notice d q => exact ledger_of_bare (notice_bare ..)
  | barrier p n => exact makeClaim_ledger ..
  | _ => rfl

/-! ## Commands -/

/-- Commands are numbered in the order in which they leave (R290). -/
def State.numbered (s : State) (l : List (EnginePort × Cmd)) : List (EnginePort × Cmd) :=
  (l.zip (upTo l.length)).map fun x => (x.1.1, { x.1.2 with no := s.nextJob + x.2 })

/-- The first command of a list has the next number, and the others the numbers behind it. -/
theorem numbered_cons (s : State) (e : EnginePort) (c : Cmd) (l : List (EnginePort × Cmd)) :
    s.numbered ((e, c) :: l) = (e, { c with no := s.nextJob }) :: (s.sendCmd e c).numbered l := by
  unfold State.numbered upTo
  simp only [List.length_cons, List.range_succ_eq_map, List.zip_cons_cons, List.map_cons, Nat.add_zero,
    List.zip_map_right, List.map_map, List.cons.injEq, true_and]
  refine List.map_congr_left fun x _ => ?_
  simp [State.sendCmd, Nat.add_comm, Nat.add_left_comm]

/-- Commands leave in their order, numbered from the next number on. -/
theorem foldl_sendCmd (l : List (EnginePort × Cmd)) : ∀ s : State,
    (l.foldl (fun s c => s.sendCmd c.1 c.2) s).ledger =
      ⟨s.posted, s.cmdq ++ s.numbered l, s.nextJob + l.length, s.now⟩ := by
  induction l with
  | nil => exact fun s => by simp [State.numbered, State.ledger]
  | cons c r ih =>
    intro s
    rw [List.foldl_cons, ih, numbered_cons]
    simp [State.sendCmd, State.stir, Nat.add_assoc, Nat.add_comm 1]

/-! ## The spur of a handle -/

/-- What a view of spurs shows of the spur of a handle. -/
def State.look {α : Type} (g : Spur → α) (h : Handle) (s : State) : Option α := (s.spur? h).map g

section
variable {α : Type} {g : Spur → α} {h : Handle}

theorem look_eq_some_iff {s : State} {a : α} : s.look g h = some a ↔ ∃ x, s.spur? h = some x ∧ g x = a :=
  Option.map_eq_some_iff

theorem look_congr {s t : State} (ht : t.spurs = s.spurs) : t.look g h = s.look g h := by
  unfold State.look State.spur?
  rw [ht]

theorem look_of_bare {s t : State} (ht : t.bare = s.bare) : t.look g h = s.look g h := look_congr (spurs_of_bare ht)

/-- A change of a spur that the view does not show. -/
theorem modSpur_look {s : State} {k : Handle} {f : Spur → Spur} (hh : ∀ x, (f x).handle = x.handle)
    (hg : ∀ x, s.spur? h = some x → g (f x) = g x) : (s.modSpur k f).look g h = s.look g h := by
  unfold State.look
  by_cases he : h = k
  · subst he
    rw [State.spur?_modSpur hh, Option.map_map]
    exact Option.map_congr fun x hx => hg x hx
  · rw [State.spur?_modSpur_other hh he]

/-- A change of every spur that the view does not show. -/
theorem map_look {s : State} {f : Spur → Spur} (hh : ∀ x, (f x).handle = x.handle) (hg : ∀ x, g (f x) = g x) :
    ({ s with spurs := s.spurs.map f } : State).look g h = s.look g h := by
  have hp : ((fun x : Spur => x.handle == h) ∘ f) = fun x => x.handle == h := funext fun x => by simp [hh]
  simp only [State.look, State.spur?, List.find?_map, hp, Option.map_map]
  exact Option.map_congr fun x _ => hg x

/-- A view that shows no clock of a spur shows two that differ in clocks alone alike. -/
theorem look_of_unclocked {s t : State} (hg : ∀ x, g x.unclocked = g x)
    (ht : (t.spur? h).map Spur.unclocked = (s.spur? h).map Spur.unclocked) : t.look g h = s.look g h := by
  have hc : g ∘ Spur.unclocked = g := funext hg
  simpa only [State.look, Option.map_map, hc] using congrArg (Option.map g) ht

/-- A view of spurs that shows no clock and nothing that a commit does to other spurs: what is busy and what is stale, values that
fill words, and counts of records that were dropped. -/
structure Steady (g : Spur → α) : Prop where
  busy : ∀ x n, g (x.busy n) = g x
  stale : ∀ x, g { x with stale := true } = g x
  fill : ∀ x pa v, g (x.modLive fun b => b.fill none pa v) = g x
  drop : ∀ x c l, g (x.modLive fun b => b.countDrop c l) = g x

section
variable (hg : Steady g)
include hg

theorem stir_look (s : State) (k : Handle) : (s.stir k).look g h = s.look g h :=
  modSpur_look (fun _ => rfl) fun x _ => hg.busy x _

theorem commitHeld_look {w : Held} (hw : isCtlSpace w.pa = false) (s : State) :
    (commitHeld s w).look g h = s.look g h := by
  unfold commitHeld State.physWrite
  simp only [hw, Bool.false_eq_true, if_false]
  split
  · rfl
  · cases w.kind with
    | stp => exact map_look (fun _ => rfl) fun x => hg.fill x _ _
    | _ => rfl

theorem markStale_look (s : State) (all : Bool) (asid lo hi : Nat) :
    (s.markStale all asid lo hi).look g h = s.look g h := by
  refine map_look (fun x => ?_) fun x => ?_
  · exact ite_keeps Spur.handle rfl
  · exact ite_keeps g (hg.stale x)

theorem postInv_look (k : Handle) (s : State) (v : HeldInv) : (postInv k s v).look g h = s.look g h := by
  cases v with
  | inv all asid lo hi => exact (markStale_look hg ..).trans (stir_look hg s k)
  | migr asid va frame size => exact stir_look hg s k

theorem sendCmd_look (s : State) (e : EnginePort) (c : Cmd) : (s.sendCmd e c).look g h = s.look g h := stir_look hg s _

theorem writeTrace_look (sp : Spur) (s : State) (x : CtxAt × List Byte) :
    (writeTrace sp s x).look g h = s.look g h := by
  obtain ⟨c, l⟩ := x
  by_cases hf : (traceRing s sp).Full
  · rw [writeTrace_full hf]
    exact modSpur_look (fun _ => rfl) fun x _ => hg.drop x c l
  · rw [writeTrace_room hf]
    exact look_of_bare (physWrite_bare s _ l)

end

theorem releaseFlit_look (sp : Spur) (s : State) (e : EdgeFlit) : (releaseFlit sp s e).look g h = s.look g h :=
  look_congr (congrArg State.spurs (releaseFlit_unwired sp s e) :)

/-! ## A round's course -/

/-- How far a spur has come in its rounds, and what ends the one that stands: the `ret` of an earlier one that was kept, and the
round's own `ret`s and `yield`. -/
structure Course where
  rnd : W64
  life : Life
  final : Bool
  move : Option Request
  kept : Option (AgentId × W64)
  rets : List (AgentId × W64)
  yld : Option W64

/-- The course of a spur. -/
def Spur.course (x : Spur) : Course := ⟨x.rnd, x.life, x.final, x.move, x.kept, x.live.rets, x.live.yld⟩

theorem theRet_of_course {x z : Spur} (hc : z.course = x.course) : z.theRet = x.theRet :=
  (congrArg (fun c : Course => leastBy (fun r : AgentId × W64 => retKey r.1) (c.kept.toList ++ c.rets)) hc :)

/-- A change of a context changes nothing else of a body. -/
theorem modCtx_eq (b : Body) (c : CtxAt) (f : Ctx → Ctx) : b.modCtx c f = { b with ctxs := (b.modCtx c f).ctxs } := by
  unfold Body.modCtx
  split <;> rfl

theorem countDrop_rets (b : Body) (c : CtxAt) (l : List Byte) :
    (b.countDrop c l).rets = b.rets ∧ (b.countDrop c l).yld = b.yld := by
  unfold Body.countDrop
  split
  · exact ⟨rfl, rfl⟩
  · rw [modCtx_eq]
    exact ⟨rfl, rfl⟩

theorem course_steady : Steady Spur.course where
  busy _ _ := rfl
  stale _ := rfl
  fill _ _ _ := rfl
  drop x c l := by
    obtain ⟨hr, hy⟩ := countDrop_rets x.live c l
    simp only [Spur.course, Spur.modLive, hr, hy]

theorem phases_steady : Steady Spur.phases := ⟨fun _ _ => rfl, fun _ => rfl, fun _ _ _ => rfl, fun _ _ _ => rfl⟩

/-- A coroutine's resumption does not change the course of a spur that runs. -/
theorem resume_course {x : Spur} (hx : x.life = .running) (v : W64) (now : Nat) : (x.resume v now).course = x.course := by
  simp only [Spur.course, Spur.resume, Spur.modLive, hx]

/-- A request that leaves does not change the course of a spur that runs, where it asks for no move. -/
theorem sendReq_course {s : State} {c : Course} (sp : Spur) {r : Request} (hs : s.look Spur.course h = some c)
    (hr : c.life = .running) (hf : ∀ o, r ≠ .fold o) (hw : ∀ n, r ≠ .stow n) :
    (sendReq sp s r).look Spur.course h = s.look Spur.course h := by
  have run (x : Spur) (hx : s.spur? h = some x) : x.life = .running := by
    obtain ⟨y, hy, rfl⟩ := look_eq_some_iff.1 hs
    rwa [← Option.some.inj (hy.symm.trans hx)]
  cases r with
  | launch _ | scmd _ _ _ => rfl
  | resume k v =>
    exact (look_of_unclocked (fun _ => rfl) (claimTurn_unclocked _ k h)).trans
      (modSpur_look (fun x => Spur.resume_handle x v _) fun x hx => resume_course (run x hx) v _)
  | fold o => exact absurd rfl (hf o)
  | stow n => exact absurd rfl (hw n)
  | table va => exact look_of_bare (commitTable_bare ..)
  | cfree va l => exact look_of_bare (commitFree_bare ..)
  | route k tag phase v =>
    exact modSpur_look (f := fun x => x.modBoth fun b => { b with routes := upd b.routes tag fun r => Route.set r phase v })
      (fun _ => rfl) fun _ _ => rfl
  | vcbind k row col vc v =>
    exact modSpur_look (f := fun x => x.modBoth fun b => b.stage row col vc v) (fun _ => rfl) fun _ _ => rfl
  | cwr c n v =>
    refine modSpur_look (f := fun x => x.modBoth fun b => b.modCtx c fun k => { k with stagedCst := k.stagedCst ++ [(n, v)] })
      (fun _ => rfl) fun x _ => ?_
    simp only [Spur.course, Spur.modBoth]
    rw [modCtx_eq]
  | phase n ctx begun =>
    exact modSpur_look (f := fun x =>
      { x with phases := x.phases ++ [(⟨n, ctx, begun, none, none, none, none, 0⟩ : Phase)] }) (fun _ => rfl) fun _ _ => rfl

/-- The requests of a round do not change the course of its spur, where none asks for a move. -/
theorem foldl_sendReq_course {c : Course} (sp : Spur) (hr : c.life = .running) (l : List Request) : ∀ {s : State},
    s.look Spur.course h = some c → (∀ o, .fold o ∉ l) → (∀ n, .stow n ∉ l) →
    (l.foldl (sendReq sp) s).look Spur.course h = some c := by
  induction l with
  | nil => exact fun hs _ _ => hs
  | cons r l ih =>
    intro s hs hf hw
    simp only [List.mem_cons, not_or] at hf hw
    exact ih ((sendReq_course sp hs hr (fun o he => (hf o).1 he.symm) fun n he => (hw n).1 he.symm).trans hs)
      (fun o => (hf o).2) fun n => (hw n).2

end

end Sys2Proof.Machine
end

section
/-! SUPPORT. The effects of a commit in the order of R397: what the round held, its postings, its commands and flits, its requests,
and its records. -/

namespace Sys2Proof.Machine

open Sys2Proof

/-! ## What a round held -/

/-- What a body holds beside its contexts and its routes. -/
def Body.due (b : Body) : Body := { b with ctxs := [], routes := [] }

theorem modCtx_due (b : Body) (c : CtxAt) (f : Ctx → Ctx) : (b.modCtx c f).due = b.due := by
  rw [modCtx_eq]
  rfl

/-- Commands that leave the output queues change contexts and routes alone. -/
theorem queueCmds_due (b : Body) (massif : Nat) : (b.queueCmds massif).2.due = b.due := by
  unfold Body.queueCmds
  refine foldl_keeps (fun x : List (EnginePort × Cmd) × Body => x.2.due) (fun x k => ?_) _ _
  refine foldl_keeps (fun x : List (EnginePort × Cmd) × Body => x.2.due) (fun x n => ?_) _ _
  simp only
  generalize queuedCmds _ _ _ _ = q
  split
  · split
    · rfl
    · exact modCtx_due ..
  · rfl

/-- The body of a round without the commands that stood in its output queues. -/
def Spur.queued (x : Spur) : Body := (x.live.queueCmds x.massif).2

theorem queued_due (x : Spur) : x.queued.due = x.live.due := queueCmds_due ..

/-! ## The stages of a commit -/

/-- The commands that stood in the output queues of a spur have left them. -/
def State.unqueue (s : State) (x : Spur) : State := s.modSpur x.handle fun z => { z with live := x.queued }

/-- The writes that a round held reach memory, and its invalidations and migrations are posted. -/
def State.postRound (s : State) (x : Spur) : State :=
  x.live.invs.foldl (postInv x.handle) (x.live.held.foldl commitHeld s)

/-- The commands of a round leave, and its flits. -/
def State.sendRound (s : State) (x : Spur) : State :=
  x.live.edge.foldl (releaseFlit x) (x.roundCmds.1.foldl (fun s c => s.sendCmd c.1 c.2) s)

/-- The requests of a round leave. -/
def State.askRound (s : State) (x : Spur) : State := x.live.reqs.foldl (sendReq x) s

/-- The records of a round are queued, and its trace is written. -/
def State.traceRound (s : State) (x : Spur) : State :=
  x.live.trace.foldl (writeTrace x) { s with recq := s.recq ++ x.live.recs }

/-- A commit is its stages. -/
theorem commitOut_eq (s : State) (x : Spur) : commitOut s x =
    ((((s.unqueue x).postRound x).sendRound x).askRound x).traceRound x := by
  have hd := queued_due x
  have hh : x.queued.held = x.live.held := (congrArg Body.held hd :)
  have hi : x.queued.invs = x.live.invs := (congrArg Body.invs hd :)
  have he : x.queued.edge = x.live.edge := (congrArg Body.edge hd :)
  have hr : x.queued.reqs = x.live.reqs := (congrArg Body.reqs hd :)
  have hc : x.queued.recs = x.live.recs := (congrArg Body.recs hd :)
  have ht : x.queued.trace = x.live.trace := (congrArg Body.trace hd :)
  unfold State.traceRound State.askRound State.sendRound State.postRound
  rw [← hh, ← hi, ← he, ← hr, ← hc, ← ht]
  rfl

section
variable {s : State} {x : Spur}

/-- A fold keeps what each of its steps with an element of the list keeps. -/
theorem foldl_keeps_mem {α β γ : Type} (g : β → γ) {f : β → α → β} (l : List α) (hf : ∀ b, ∀ a ∈ l, g (f b a) = g b) :
    ∀ b, g (l.foldl f b) = g b := by
  induction l with
  | nil => exact fun _ => rfl
  | cons a r ih =>
    intro b
    exact (ih (fun b c hc => hf b c (List.mem_cons_of_mem a hc)) _).trans (hf b a List.mem_cons_self)

theorem held_ledger {l : List Held} (hc : ∀ w ∈ l, isCtlSpace w.pa = false) (s : State) :
    (l.foldl commitHeld s).ledger = s.ledger :=
  foldl_keeps_mem State.ledger l (fun b w hw => commitHeld_ledger (hc w hw) b) s

/-- Each invalidation and migration of a round is one posting more. -/
theorem postRound_length (hc : ∀ w ∈ x.live.held, isCtlSpace w.pa = false) :
    (s.postRound x).posted.length = s.posted.length + x.live.invs.length :=
  (foldl_postInv_length ..).trans
    (congrArg (fun l : Ledger => l.posted.length + x.live.invs.length) (held_ledger hc s))

/-- A posting keeps the commands, their numbers and the clock. -/
theorem postInv_ledger (h : Handle) (s : State) (v : HeldInv) :
    (postInv h s v).ledger = { s.ledger with posted := (postInv h s v).posted } := by
  cases v <;> rfl

theorem foldl_postInv_ledger (h : Handle) (l : List HeldInv) : ∀ s : State,
    (l.foldl (postInv h) s).ledger = { s.ledger with posted := (l.foldl (postInv h) s).posted } := by
  induction l with
  | nil => exact fun _ => rfl
  | cons v r ih =>
    intro s
    rw [List.foldl_cons, ih, postInv_ledger]

theorem sendRound_ledger (s : State) (x : Spur) : (s.sendRound x).ledger =
    ⟨s.posted, s.cmdq ++ s.numbered x.roundCmds.1, s.nextJob + x.roundCmds.1.length, s.now⟩ :=
  (foldl_keeps State.ledger (releaseFlit_ledger x) _ _).trans (foldl_sendCmd ..)

theorem askRound_ledger (s : State) (x : Spur) : (s.askRound x).ledger = s.ledger :=
  foldl_keeps State.ledger (sendReq_ledger x) _ _

theorem traceRound_ledger (s : State) (x : Spur) : (s.traceRound x).ledger = s.ledger :=
  (foldl_keeps State.ledger (writeTrace_ledger x) _ _).trans rfl

theorem held_still {l : List Held} (hc : ∀ w ∈ l, isCtlSpace w.pa = false) (s : State) :
    (l.foldl commitHeld s).still = l.foldl commitHeld s.still :=
  foldl_along State.still l (fun b w hw => commitHeld_still (hc w hw) b) s

/-- What a round's writes leave in memory turns on what was in memory. -/
theorem held_still_congr {l : List Held} (hc : ∀ w ∈ l, isCtlSpace w.pa = false) {t : State} (ht : t.still = s.still) :
    (l.foldl commitHeld t).still = (l.foldl commitHeld s).still := by
  rw [held_still hc, held_still hc, ht]

/-- What a commit posts and commands: its postings turn on what the round wrote, and its commands are numbered on. -/
theorem commitOut_ledger (hc : ∀ w ∈ x.live.held, isCtlSpace w.pa = false) {t : State} (ht : t.still = s.still)
    (hl : t.ledger = s.ledger) : (commitOut t x).ledger =
      ⟨(s.postRound x).posted, s.cmdq ++ s.numbered x.roundCmds.1, s.nextJob + x.roundCmds.1.length, s.now⟩ := by
  let u := t.unqueue x
  have hp : (u.postRound x).posted = (s.postRound x).posted :=
    foldl_postInv_posted _ _ (held_still_congr hc ht)
      (congrArg Ledger.posted ((held_ledger hc u).trans (hl.trans (held_ledger hc s).symm)))
  have hu : (u.postRound x).ledger = { s.ledger with posted := (s.postRound x).posted } := by
    rw [← hp, ← hl]
    refine (foldl_postInv_ledger _ _ _).trans ?_
    rw [held_ledger hc]
    rfl
  have hq : (u.postRound x).cmdq = s.cmdq := congrArg Ledger.cmdq hu
  have hn : (u.postRound x).nextJob = s.nextJob := congrArg Ledger.nextJob hu
  have hw : (u.postRound x).now = s.now := congrArg Ledger.now hu
  rw [commitOut_eq, traceRound_ledger, askRound_ledger, sendRound_ledger]
  unfold State.numbered
  rw [hp, hq, hn, hw]

/-! ## Memory -/

theorem postRound_still (s : State) (x : Spur) : (s.postRound x).still = (x.live.held.foldl commitHeld s).still :=
  foldl_keeps State.still (postInv_still x.handle) x.live.invs _

theorem sendRound_still (s : State) (x : Spur) : (s.sendRound x).still = s.still := by
  unfold State.sendRound
  rw [foldl_keeps State.still (releaseFlit_still x)]
  exact foldl_keeps State.still (f := fun (s : State) (c : EnginePort × Cmd) => s.sendCmd c.1 c.2)
    (fun s c => sendCmd_still s c.1 c.2) _ s

/-- A round's trace turns on memory and the registers of its ring. -/
theorem traceRound_still (s : State) (x : Spur) :
    (s.traceRound x).still = x.live.trace.foldl (writeTrace x) s.still :=
  foldl_along State.still _ (fun b a _ => writeTrace_still x b a) _

/-- Where a round asks for nothing, what a commit leaves in memory are its writes and then its trace. -/
theorem commitOut_still (hc : ∀ w ∈ x.live.held, isCtlSpace w.pa = false) (hr : x.live.reqs = []) {t : State}
    (ht : t.still = s.still) :
    (commitOut t x).still = (x.live.trace.foldl (writeTrace x) (x.live.held.foldl commitHeld s)).still := by
  rw [commitOut_eq, State.askRound, hr, List.foldl_nil, traceRound_still, sendRound_still, postRound_still,
    held_still_congr hc (t := t.unqueue x) ht]
  exact (foldl_along State.still _ (fun b a _ => writeTrace_still x b a) _).symm

/-- A trace record is no presence bit. -/
theorem writeTrace_presence (sp : Spur) (s : State) (a : CtxAt × List Byte) : (writeTrace sp s a).full = s.full := by
  unfold writeTrace
  simp only
  split
  · rfl
  · exact (congrArg State.full (physWrite_plain s _ a.2) :)

theorem foldl_writeTrace_full (sp : Spur) (l : List (CtxAt × List Byte)) (s : State) :
    (l.foldl (writeTrace sp) s).full = s.full := foldl_keeps State.full (writeTrace_presence sp) l s

/-! ## The spur of the round -/

variable {α : Type} {g : Spur → α} {h : Handle}

/-- A view of spurs that neither the round's writes nor its postings, commands and flits change. -/
theorem sent_look (hg : Steady g) (hc : ∀ w ∈ x.live.held, isCtlSpace w.pa = false) (s : State) :
    ((s.postRound x).sendRound x).look g h = s.look g h :=
  calc ((s.postRound x).sendRound x).look g h
      _ = (x.roundCmds.1.foldl (fun s c => s.sendCmd c.1 c.2) (s.postRound x)).look g h :=
        foldl_keeps (State.look g h) (releaseFlit_look x) _ _
      _ = (s.postRound x).look g h :=
        foldl_keeps (State.look g h) 
          (f := fun (s : State) (c : EnginePort × Cmd) => s.sendCmd c.1 c.2) (fun s c => sendCmd_look hg s c.1 c.2) _ _
      _ = (x.live.held.foldl commitHeld s).look g h := foldl_keeps (State.look g h) (postInv_look hg x.handle) _ _
      _ = s.look g h := foldl_keeps_mem (State.look g h) _ (fun b w hw => commitHeld_look hg (hc w hw) b) _

theorem traceRound_look (hg : Steady g) (s : State) (x : Spur) : (s.traceRound x).look g h = s.look g h :=
  (foldl_keeps (State.look g h) (writeTrace_look hg x) _ _).trans (look_congr rfl)

/-- The queues of a round's commands do not show in a view that contexts and routes do not show in. -/
theorem queued_look (hq : g { x with live := x.queued } = g x) (hx : s.spur? x.handle = some x) :
    (s.unqueue x).look g x.handle = some (g x) := by
  unfold State.look State.unqueue
  rw [State.spur?_modSpur (f := fun z => { z with live := x.queued }) (fun _ => rfl), hx]
  exact congrArg some hq

/-- A commit does not change the course of its round, where it asks for no move. -/
theorem commitOut_course (hx : s.spur? x.handle = some x) (hr : x.life = .running)
    (hc : ∀ w ∈ x.live.held, isCtlSpace w.pa = false) (hf : ∀ o, .fold o ∉ x.live.reqs) (hw : ∀ n, .stow n ∉ x.live.reqs) :
    (commitOut s x).look Spur.course x.handle = some x.course := by
  have hq : ({ x with live := x.queued } : Spur).course = x.course := by
    have hd := queued_due x
    have hs : x.queued.rets = x.live.rets := (congrArg Body.rets hd :)
    have hy : x.queued.yld = x.live.yld := (congrArg Body.yld hd :)
    simp only [Spur.course, hs, hy]
  rw [commitOut_eq, traceRound_look course_steady]
  exact foldl_sendReq_course x hr _ ((sent_look course_steady hc _).trans (queued_look hq hx)) hf hw

/-- A round that asks for nothing begins no phase. -/
theorem commitOut_phases (hx : s.spur? x.handle = some x) (hc : ∀ w ∈ x.live.held, isCtlSpace w.pa = false)
    (hr : x.live.reqs = []) : (commitOut s x).look Spur.phases x.handle = some x.phases := by
  rw [commitOut_eq, traceRound_look phases_steady, State.askRound, hr, List.foldl_nil, sent_look phases_steady hc]
  exact queued_look rfl hx

end

end Sys2Proof.Machine
end

section
/-! SUPPORT. The mark of a round that nothing voids (R94): the round commits, its changes and steps take effect, and the next round
starts. -/

namespace Sys2Proof.Machine

open Sys2Proof

/-! ## The decision -/

/-- With no load outstanding a mark waits for no value (R94, step 2). -/
theorem landLoads_eq {s : State} {h : Handle} {sp : Spur} (hs : s.spur? h = some sp)
    (hb : ∀ k ∈ sp.live.ctxs, k.load = none) (ht : sp.live.th.load = none) : landLoads s h = s := by
  have hn : sp.live.ctxs.filter (·.load.isSome) = [] := List.filter_eq_nil_iff.2 fun k hk => by simp [hb k hk]
  simp [landLoads, hs, hn, landS, enterS, ht]

/-- A cause that a round holds is one of its causes from then on. -/
theorem addCause_causes (x : Spur) (c : Cause) : (x.addCause c).causes ≠ [] := by
  unfold Spur.addCause
  by_cases hc : x.causes.contains c = true
  · rw [if_pos hc]
    intro (he : x.causes = [])
    simp [he] at hc
  · rw [if_neg hc]
    simp

theorem foldl_addCause_causes (l : List Cause) : ∀ x : Spur, x.causes ≠ [] → (l.foldl Spur.addCause x).causes ≠ [] := by
  induction l with
  | nil => exact fun _ hx => hx
  | cons c r ih => exact fun x _ => ih _ (addCause_causes x c)

/-- A round that nothing voids has no cause. -/
theorem causes_of_not_voids {x : Spur} (hv : x.voids = false) : x.causes = [] := by
  simp only [Spur.voids, Spur.allCauses, Bool.or_eq_false_iff, Bool.not_eq_false', List.isEmpty_iff,
    List.append_eq_nil_iff] at hv
  obtain ⟨⟨⟨⟨hc, -⟩, -⟩, -⟩, -⟩ := hv
  exact hc

/-- A round that causes do not void had none to add. -/
theorem causes_eq_nil {x : Spur} {l : List Cause} (hv : (l.foldl Spur.addCause x).voids = false) : l = [] := by
  cases l with
  | nil => rfl
  | cons c r => exact absurd (causes_of_not_voids hv) (foldl_addCause_causes r _ (addCause_causes x c))

/-- A spur at its mark: its waiting firings withdrawn, and its fills and passes complete (R94, R235). -/
def Spur.marked (x : Spur) : Spur := x.modLive fun b => b.withdraw.settle

/-- The mark of a round that nothing voids commits it. -/
theorem roundMark_eq {s : State} {h : Handle} {sp : Spur} (hs : s.spur? h = some sp)
    (hb : ∀ k ∈ sp.live.ctxs, k.load = none) (ht : sp.live.th.load = none)
    (hv : (sp.live.withdraw.settle.busFaults.foldl Spur.addCause sp).voids = false) :
    roundMark s h none = commitRound (s.setSpur sp.marked) sp.marked none := by
  have hn := causes_eq_nil hv
  rw [hn, List.foldl_nil] at hv
  have hm : sp.marked.live.busFaults = [] := hn
  have hw : sp.marked.voids = false := hv
  unfold roundMark
  simp only [landLoads_eq hs hb ht, hs]
  change (if (sp.marked.live.busFaults.foldl Spur.addCause sp.marked).voids = true then _ else
    commitRound (s.setSpur (sp.marked.live.busFaults.foldl Spur.addCause sp.marked))
      (sp.marked.live.busFaults.foldl Spur.addCause sp.marked) none) = _
  rw [hm, List.foldl_nil, hw, if_neg Bool.false_ne_true]

/-- A spur that asks for no move makes its mark where it is due. -/
theorem roundMark_due {s t : State} {h : Handle} {sp y : Spur} (hs : s.spur? h = some sp) (hd : s.markDue sp = true)
    (hm : sp.move = none) (ht : roundMark s h none = t) (hy : t.spur? h = some y) (hn : y.move = none) :
    exec (.roundMark h) s = .next t := by
  have idle : performMove t h = t := by
    unfold performMove
    simp only [hy, hn]
    exact ite_self _
  have hl : sp.moveLeft = false := by simp [Spur.moveLeft, hm]
  change Host.Outcome.next (passMark s h) = _
  simp only [passMark, hs, hl, hd, ht, idle, if_true, Bool.false_eq_true, if_false]

/-! ## The next round -/

/-- A spur whose round has committed: its number is up by 1, and its changes and steps have taken effect (R94, steps 4 to 6). -/
def Spur.next (z : Spur) : Spur :=
  let x := z.modLive fun b => { b with ctxs := b.ctxs.map fun k => k.applyStaged.barKept, edge := [] }
  let x := { x with rnd := x.rnd + 1, atoms := [], badNow := [], retried := [], tries := 0,
                    phases := x.phases.map fun (p : Phase) => { p with rounds := p.rounds + 1 } }
  (x.modLive Body.changes).stepAll

/-- The round after a commit starts, or its `ret` has made it the last, or its `yield` leaves the spur yielded. -/
def State.startRound (s : State) (h : Handle) (ret : Option (AgentId × W64)) (yld : Option W64) : State :=
  match s.spur? h with
  | none => s
  | some sp =>
    match ret with
    | some r =>
      let s := sp.phases.foldl (fun s p => writePhase s h p true) (s.setSpur { sp with phases := [] })
      rotate (s.modSpur h fun sp => { (sp.noMove.openRound s.now) with final := true, result := r.2 }) h
    | none =>
      let sp := sp.openRound s.now
      match yld with
      | some v => rotate ((s.setSpur { sp with life := .yielded }).complete sp.target h sp.dom 1 v) h
      | none => rotate (s.setSpur sp) h

theorem commitRound_eq {s : State} {x z : Spur} (hz : (commitOut s x).spur? x.handle = some z) :
    commitRound s x none =
      (endPhases ((commitOut s x).setSpur z.next) x.handle).startRound x.handle z.theRet z.live.yld := by
  unfold commitRound
  simp only [hz]
  rfl

/-- What is left to a spur of a round that has committed: its round number, its life and its move, and the flits of its hold. -/
structure Lasting where
  rnd : W64
  life : Life
  final : Bool
  move : Option Request
  edge : List EdgeFlit

/-- What is left to a spur. -/
def Spur.lasting (x : Spur) : Lasting := ⟨x.rnd, x.life, x.final, x.move, x.live.edge⟩

theorem changes_edge (b : Body) : b.changes.edge = b.edge := by
  unfold Body.changes
  refine foldl_keeps Body.edge (fun a k => ?_) _ _
  split
  · split
    · simp only
      split <;> rfl
    · rfl
  · rfl

theorem stepSection_edge {sp : Spur} {a b : Body} {r : StepReq} (h : stepSection sp a r = some b) : b.edge = a.edge := by
  unfold stepSection at h
  split at h
  · cases h; rfl
  · split at h
    · cases h; rfl
    · cases h

/-- Steps leave the flits of a spur's hold. -/
theorem stepAll_lasting (x : Spur) : x.stepAll.lasting = x.lasting := by
  have h := foldl_keeps (fun a : Body × List StepReq => a.1.edge) (f := fun a r => match stepSection x a.1 r with
    | some b => (b, a.2)
    | none => (a.1, a.2 ++ [r])) (fun a r => by
      split
      next b hb => exact stepSection_edge hb
      next => rfl) x.live.th.steps (x.live, [])
  exact congrArg (fun e : List EdgeFlit => (⟨x.rnd, x.life, x.final, x.move, e⟩ : Lasting)) h

theorem next_lasting (z : Spur) : z.next.lasting = ⟨z.rnd + 1, z.life, z.final, z.move, []⟩ := by
  unfold Spur.next
  rw [stepAll_lasting]
  exact congrArg (fun e : List EdgeFlit => (⟨z.rnd + 1, z.life, z.final, z.move, e⟩ : Lasting)) (changes_edge _)

theorem next_handle (z : Spur) : z.next.handle = z.handle := rfl

/-- A spur without phases begins none in its next round. -/
theorem next_phases {z : Spur} (hp : z.phases = []) : z.next.phases = [] := by
  change z.phases.map _ = []
  rw [hp, List.map_nil]

/-! ## Phase records -/

section
variable {α : Type} {g : Spur → α} {h : Handle}

/-- A spur that is put in the place of one that was there. -/
theorem spur?_put {s : State} {x y : Spur} (hs : s.spur? h = some x) (hy : y.handle = h) :
    (s.setSpur y).spur? h = some y := by
  subst hy
  exact State.spur?_setSpur hs

/-- A spur that is put shows in a view. -/
theorem setSpur_look {s : State} {x y : Spur} (hs : s.spur? h = some x) (hy : y.handle = h) :
    (s.setSpur y).look g h = some (g y) := congrArg (Option.map g) (spur?_put hs hy)

theorem writePhase_look (hg : ∀ x, g x.setLd = g x) (s : State) (p : Phase) (ret : Bool) :
    (writePhase s h p ret).look g h = s.look g h := by
  cases hs : s.spur? h with
  | none => simp [writePhase, hs]
  | some sp =>
    by_cases hb : (nth s.seqs sp.home ⟨0, 0, 4096⟩).phb = 0
    · rw [writePhase_unlogged hs hb]
    · have hw : (phaseWrite s sp p ret).1.bare = s.bare := devWrite_bare ..
      cases hp : phaseWrite s sp p ret with
      | mk t e =>
        rw [hp] at hw
        cases e with
        | none =>
          rw [writePhase_logged hs hb hp]
          exact (look_congr (s := t) rfl).trans (look_of_bare hw)
        | some e =>
          rw [writePhase_dropped hs hb hp]
          exact (modSpur_look (f := Spur.setLd) (fun _ => rfl) fun x _ => hg x).trans (look_of_bare hw)

theorem endPhases_look (hg : ∀ x, g x.setLd = g x) (hp : ∀ x l, g { x with phases := l } = g x) (s : State) :
    (endPhases s h).look g h = s.look g h := by
  cases hs : s.spur? h with
  | none => simp [endPhases, hs]
  | some sp =>
    unfold endPhases
    simp only [hs]
    refine (foldl_keeps (State.look g h) (fun s p => writePhase_look hg s p false) _ _).trans ?_
    refine (setSpur_look hs ?_).trans ?_
    · change sp.handle = h
      exact handle_of_spur? hs
    · rw [State.look, hs, hp]
      rfl

/-- A spur without phases writes no phase record. -/
theorem endPhases_none {s : State} {sp : Spur} (hs : s.spur? h = some sp) (hp : sp.phases = []) :
    endPhases s h = s.setSpur { sp with phases := [] } := by
  simp [endPhases, hs, hp]

end

/-! ## A round as it starts -/

/-- A round that starts at a cycle: it is open, with nothing held. -/
structure Spur.Opens (y : Spur) (n : W64) (now : Nat) : Prop where
  rnd : y.rnd = n
  roundAt : y.roundAt = now
  start : y.start = y.live
  held : y.live.held = []
  invs : y.live.invs = []
  cmds : y.live.cmds = []
  edge : y.live.edge = []
  reqs : y.live.reqs = []
  trace : y.live.trace = []
  move : y.move = none

/-- What a round shows as it starts. -/
structure Shown where
  rnd : W64
  roundAt : Nat
  live : Body
  start : Body
  life : Life
  final : Bool
  result : W64
  move : Option Request

/-- What a spur shows as its round starts. -/
def Spur.shown (x : Spur) : Shown := ⟨x.rnd, x.roundAt, x.live, x.start, x.life, x.final, x.result, x.move⟩

theorem Spur.Opens.of_shown {x y : Spur} {n : W64} {now : Nat} (hx : x.Opens n now) (hy : y.shown = x.shown) :
    y.Opens n now := by
  have hl : y.live = x.live := congrArg Shown.live hy
  exact ⟨(congrArg Shown.rnd hy).trans hx.rnd, (congrArg Shown.roundAt hy).trans hx.roundAt,
    (congrArg Shown.start hy).trans (hx.start.trans hl.symm), hl ▸ hx.held, hl ▸ hx.invs, hl ▸ hx.cmds, hl ▸ hx.edge,
    hl ▸ hx.reqs, hl ▸ hx.trace, (congrArg Shown.move hy).trans hx.move⟩

/-- A round that starts holds nothing. -/
theorem openRound_opens {x : Spur} (he : x.live.edge = []) (hm : x.move = none) (now : Nat) :
    (x.openRound now).Opens x.rnd now := ⟨rfl, rfl, rfl, rfl, rfl, rfl, he, rfl, rfl, hm⟩

section
variable {s : State} {h : Handle}

/-- The rotation of sharers does not change what a round that starts now shows. -/
theorem rotate_shown {x : Spur} (hx : s.spur? h = some x) (hn : x.roundAt = s.now) :
    ∃ y, (rotate s h).spur? h = some y ∧ y.shown = x.shown := by
  have give (k : Group) (t : Nat) : (s.giveTurn k t).look Spur.shown h = s.look Spur.shown h := by
    let away (x : Spur) : Spur := { x with awayFrom := s.now }
    let back (x : Spur) : Spur :=
      { x with roundAt := s.now, lastBusy := x.lastBusy + (s.now - max x.awayFrom x.lastBusy) }
    let u := s.modSpur (nth k.members k.turn 0) away
    have hu : u.look Spur.shown h = s.look Spur.shown h := modSpur_look (f := away) (fun _ => rfl) fun _ _ => rfl
    refine (modSpur_look (s := { u with groups := updFirst (· == k) (fun x => { x with turn := t }) s.groups }) (f := back)
      (fun _ => rfl) fun z hz => ?_).trans hu
    have hz' : z.shown = x.shown := by
      have : u.look Spur.shown h = some z.shown := look_eq_some_iff.2 ⟨z, hz, rfl⟩
      rw [hu, State.look, hx] at this
      exact (Option.some.inj this).symm
    have hr : z.roundAt = s.now := (congrArg Shown.roundAt hz').trans hn
    exact congrArg (fun n => (⟨z.rnd, n, z.live, z.start, z.life, z.final, z.result, z.move⟩ : Shown)) hr.symm
  have hl : (rotate s h).look Spur.shown h = s.look Spur.shown h := by
    unfold rotate
    split
    · rfl
    · split
      · rfl
      · split
        · exact give ..
        · rfl
  rw [State.look, State.look, hx] at hl
  exact Option.map_eq_some_iff.1 hl

/-- A completion changes no more of a spur than its barriers and its launches. -/
theorem complete_shown (s : State) (t : Target) (k : Handle) (dom status : Nat) (v : W64) :
    (s.complete t k dom status v).look Spur.shown h = s.look Spur.shown h := by
  have out (s : State) : (s.notOut k).look Spur.shown h = s.look Spur.shown h := map_look (fun _ => rfl) fun _ => rfl
  cases t with
  | none => exact out s
  | queue d q => exact out s
  | notice d q => exact look_of_bare (notice_bare ..)
  | barrier p n => exact (look_congr (makeClaim_stands ..).1).trans (modSpur_look (fun _ => rfl) fun _ _ => rfl)
  | member i n => rfl

/-- A round that starts with neither a `ret` nor a `yield` before it. -/
theorem startRound_runs {x : Spur} (hx : s.spur? h = some x) (he : x.live.edge = []) (hm : x.move = none) :
    ∃ y, (s.startRound h none none).spur? h = some y ∧ y.Opens x.rnd s.now ∧ y.life = x.life ∧ y.final = x.final := by
  unfold State.startRound
  simp only [hx]
  obtain ⟨y, hy, hs⟩ := rotate_shown (s := s.setSpur (x.openRound s.now)) (spur?_put hx (handle_of_spur? hx :)) rfl
  exact ⟨y, hy, (openRound_opens he hm s.now).of_shown hs, congrArg Shown.life hs, congrArg Shown.final hs⟩

/-- A `yield` leaves the spur yielded. -/
theorem startRound_yields {x : Spur} (hx : s.spur? h = some x) (he : x.live.edge = []) (hm : x.move = none) (v : W64) :
    ∃ y, (s.startRound h none (some v)).spur? h = some y ∧ y.Opens x.rnd s.now ∧ y.life = .yielded ∧ y.final = x.final := by
  let w : Spur := { x.openRound s.now with life := .yielded }
  have hc := complete_shown (h := h) (s.setSpur w) x.target h x.dom 1 v
  rw [setSpur_look (y := w) hx (handle_of_spur? hx :)] at hc
  obtain ⟨c, hcs, hcw⟩ := look_eq_some_iff.1 hc
  have hn : ((s.setSpur w).complete x.target h x.dom 1 v).now = s.now := congrArg Ledger.now (complete_ledger ..)
  unfold State.startRound
  simp only [hx]
  obtain ⟨y, hy, hyc⟩ := rotate_shown hcs ((congrArg Shown.roundAt hcw).trans hn.symm)
  have hs : y.shown = w.shown := hyc.trans hcw
  have ho : w.Opens x.rnd s.now := openRound_opens (x := { x with life := .yielded }) he hm s.now
  exact ⟨y, hy, ho.of_shown hs, congrArg Shown.life hs, congrArg Shown.final hs⟩

/-- A `ret` makes the round after it the last, with its value. -/
theorem startRound_ends {x : Spur} (hx : s.spur? h = some x) (he : x.live.edge = []) (r : AgentId × W64) (yld : Option W64) :
    ∃ y, (s.startRound h (some r) yld).spur? h = some y ∧ y.Opens x.rnd s.now ∧ y.final = true ∧ y.result = r.2 := by
  let u := x.phases.foldl (fun s p => writePhase s h p true) (s.setSpur { x with phases := [] })
  have hu : u.look Spur.lasting h = some x.lasting :=
    (foldl_keeps (State.look Spur.lasting h) (fun s p => writePhase_look (fun _ => rfl) s p true) _ _).trans
      (setSpur_look hx (handle_of_spur? hx :))
  have hn : u.now = s.now :=
    congrArg Ledger.now (foldl_keeps State.ledger (fun s p => writePhase_ledger s h p true) _ _)
  obtain ⟨z, hz, hl⟩ := look_eq_some_iff.1 hu
  let last (z : Spur) : Spur := { (z.noMove.openRound u.now) with final := true, result := r.2 }
  have hw : (u.modSpur h last).spur? h = some (last z) := by
    rw [State.spur?_modSpur (f := last) (fun _ => rfl), hz]
    rfl
  unfold State.startRound
  simp only [hx]
  obtain ⟨y, hy, hs⟩ := rotate_shown hw rfl
  have ho : (last z).Opens z.rnd u.now :=
    openRound_opens (x := { z.noMove with final := true, result := r.2 }) ((congrArg Lasting.edge hl).trans he) rfl u.now
  rw [hn, show z.rnd = x.rnd from congrArg Lasting.rnd hl] at ho
  exact ⟨y, hy, ho.of_shown hs, congrArg Shown.final hs, congrArg Shown.result hs⟩

/-- What the spur shows as the round after a commit starts. -/
theorem startRound_spur {n : W64} (ret : Option (AgentId × W64)) (yld : Option W64)
    (hs : s.look Spur.lasting h = some ⟨n, .running, false, none, []⟩) :
    ∃ y, (s.startRound h ret yld).spur? h = some y ∧ y.Opens n s.now ∧
      (ret = none → y.final = false ∧ (yld = none → y.life = .running) ∧ ∀ v, yld = some v → y.life = .yielded) ∧
      ∀ r, ret = some r → y.final = true ∧ y.result = r.2 := by
  obtain ⟨x, hx, hl⟩ := look_eq_some_iff.1 hs
  simp only [Spur.lasting, Lasting.mk.injEq] at hl
  obtain ⟨rfl, hlife, hfin, hm, he⟩ := hl
  cases ret with
  | some r =>
    obtain ⟨y, hy, ho, hf, hr⟩ := startRound_ends hx he r yld
    exact ⟨y, hy, ho, nofun, fun q hq => Option.some.inj hq ▸ ⟨hf, hr⟩⟩
  | none =>
    cases yld with
    | none =>
      obtain ⟨y, hy, ho, hl, hf⟩ := startRound_runs hx he hm
      exact ⟨y, hy, ho, fun _ => ⟨hf.trans hfin, fun _ => hl.trans hlife, nofun⟩, nofun⟩
    | some v =>
      obtain ⟨y, hy, ho, hl, hf⟩ := startRound_yields hx he hm v
      exact ⟨y, hy, ho, fun _ => ⟨hf.trans hfin, nofun, fun _ _ => hl⟩, nofun⟩

theorem startRound_ledger (s : State) (h : Handle) (ret : Option (AgentId × W64)) (yld : Option W64) :
    (s.startRound h ret yld).ledger = s.ledger := by
  unfold State.startRound
  split
  · rfl
  next sp _ =>
    cases ret with
    | some r =>
      refine (rotate_keeps State.ledger giveTurn_ledger _ _).trans ?_
      exact foldl_keeps State.ledger (fun s p => writePhase_ledger s h p true) sp.phases _
    | none =>
      cases yld with
      | some v => exact (rotate_keeps State.ledger giveTurn_ledger _ _).trans (complete_ledger ..)
      | none => exact rotate_keeps State.ledger giveTurn_ledger _ _

/-! ## Memory -/

/-- Memory with its presence bits. -/
def State.memory (s : State) : List Host.Cell × List Nat := (s.mem, s.full)

theorem rotate_memory (s : State) (h : Handle) : (rotate s h).memory = s.memory :=
  rotate_keeps State.memory (fun _ _ _ => rfl) s h

theorem complete_memory (s : State) (t : Target) (k : Handle) (dom status : Nat) (v : W64) :
    (s.complete t k dom status v).memory = s.memory := by
  cases t with
  | notice d q =>
    unfold State.complete State.notice
    simp only
    cases s.handlerQ _ <;> rfl
  | barrier p n =>
    unfold State.complete State.makeClaim
    exact ite_keeps State.memory rfl
  | _ => rfl

/-- A spur without phases leaves memory as the commit left it. -/
theorem startRound_memory {x : Spur} (hx : s.spur? h = some x) (hp : x.phases = []) (ret : Option (AgentId × W64))
    (yld : Option W64) : (s.startRound h ret yld).memory = s.memory := by
  unfold State.startRound
  simp only [hx, hp, List.foldl_nil]
  cases ret with
  | some r => exact rotate_memory ..
  | none =>
    cases yld with
    | some v => exact (rotate_memory ..).trans (complete_memory ..)
    | none => exact rotate_memory ..

end

end Sys2Proof.Machine
end

section
/-! SUPPORT. A round that nothing voids commits what it held (O49). -/

namespace Sys2Proof.Machine

open Sys2Proof

/-- A commit is its effects on the machine, and the start of the round after it. -/
theorem commitRound_starts {s : State} {x : Spur} (hx : s.spur? x.handle = some x) (hr : x.life = .running)
    (hfin : x.final = false) (hm : x.move = none) (hc : ∀ w ∈ x.live.held, isCtlSpace w.pa = false)
    (hf : ∀ o, .fold o ∉ x.live.reqs) (hw : ∀ n, .stow n ∉ x.live.reqs) :
    ∃ v : State, commitRound s x none = v.startRound x.handle x.theRet x.live.yld ∧
      v.look Spur.lasting x.handle = some ⟨x.rnd + 1, .running, false, none, []⟩ ∧ v.ledger = (commitOut s x).ledger ∧
      (x.live.reqs = [] → x.phases = [] → v.memory = (commitOut s x).memory ∧
        ∃ w, v.spur? x.handle = some w ∧ w.phases = []) := by
  obtain ⟨z, hz, hzc⟩ := look_eq_some_iff.1 (commitOut_course hx hr hc hf hw)
  have hzh : z.next.handle = x.handle := (next_handle z).trans (handle_of_spur? hz)
  have hput : ((commitOut s x).setSpur z.next).spur? x.handle = some z.next := spur?_put hz hzh
  have hlast : z.next.lasting = ⟨x.rnd + 1, .running, false, none, []⟩ := by
    have course := hzc
    simp only [Spur.course, Course.mk.injEq] at course
    obtain ⟨hrnd, hlife, hfinal, hmove, -⟩ := course
    rw [next_lasting, hrnd, hlife, hfinal, hmove, hr, hfin, hm]
  refine ⟨endPhases ((commitOut s x).setSpur z.next) x.handle, ?_, ?_, endPhases_ledger .., fun hq hp => ?_⟩
  · rw [commitRound_eq hz, theRet_of_course hzc, show z.live.yld = x.live.yld from congrArg Course.yld hzc]
  · rw [endPhases_look (fun _ => rfl) (fun _ _ => rfl), State.look, hput, Option.map_some, hlast]
  · have hph := commitOut_phases hx hc hq
    rw [State.look, hz, hp] at hph
    rw [endPhases_none hput (next_phases (Option.some.inj hph))]
    exact ⟨rfl, _, spur?_put hput hzh, rfl⟩

/-- A mark that is due finds its spur running, and not in its last round. -/
theorem runs_of_markDue {s : State} {sp : Spur} (h : s.markDue sp = true) : sp.life = .running ∧ sp.final = false := by
  simp only [State.markDue, Bool.and_eq_true, beq_iff_eq, Bool.not_eq_true'] at h
  obtain ⟨⟨⟨⟨hr, hf⟩, -⟩, -⟩, -⟩ := h
  exact ⟨hr, hf⟩

theorem roundCommitsHeld : Says.RoundCommits := by
  intro s h sp hs hd hb ht hv hm hc hf hw
  obtain rfl := handle_of_spur? hs
  obtain ⟨hr, hfin⟩ := runs_of_markDue hd
  have hx : (s.setSpur sp.marked).spur? sp.marked.handle = some sp.marked := State.spur?_setSpur hs
  obtain ⟨v, hv', hlast, hled, hmem⟩ := commitRound_starts hx hr hfin hm hc hf hw
  have hout := commitOut_ledger (s := s) (x := sp.marked) hc (t := s.setSpur sp.marked) rfl rfl
  have hnow : v.now = s.now := congrArg Ledger.now (hled.trans hout)
  obtain ⟨y, hy, ho, hn, hret⟩ := startRound_spur sp.theRet sp.live.yld hlast
  rw [hnow] at ho
  have hmark : roundMark s sp.handle none = v.startRound sp.handle sp.theRet sp.live.yld := (roundMark_eq hs hb ht hv).trans hv'
  have hend := (startRound_ledger v sp.handle sp.theRet sp.live.yld).trans (hled.trans hout)
  have hposted : (v.startRound sp.handle sp.theRet sp.live.yld).posted = (s.postRound sp.marked).posted :=
    congrArg Ledger.posted hend
  refine ⟨_, y, roundMark_due hs hd hm hmark hy ho.move, hy, ?_, hposted, congrArg Ledger.cmdq hend,
    congrArg Ledger.nextJob hend, fun hq hp => ?_, ho.rnd, ho.roundAt, ho.start, ho.held, ho.invs, ho.cmds, ho.edge, ho.reqs,
    ho.trace, hn, hret⟩
  · rw [hposted]
    exact postRound_length (x := sp.marked) hc
  · obtain ⟨hvm, w, hwv, hwp⟩ := hmem hq hp
    have hall := (startRound_memory hwv hwp sp.theRet sp.live.yld).trans hvm
    have hstill := commitOut_still (s := s) (x := sp.marked) hc hq (t := s.setSpur sp.marked) rfl
    exact ⟨(congrArg Prod.fst hall).trans (mem_of_still hstill),
      (congrArg Prod.snd hall).trans ((full_of_still hstill).trans (foldl_writeTrace_full ..))⟩

/-- Settles O49: a commit is taken apart into its stages. Those before the requests keep the spur's course and go along with every
view that leaves spurs and queues out, so what the round wrote, posted and commanded is what its own lists say; the start of the
next round keeps all of that. -/
theorem roundCommits : Obligations.RoundCommits := ⟨roundCommitsHeld, commitParts⟩

end Sys2Proof.Machine
end

section
/-! SUPPORT. The one rounding (R122): the value of the code that it forms, beside the exact value that it is given. -/

namespace Sys2Proof.Machine

open Sys2Proof

/-! ## Codes -/

/-- What the rounding asks of a format: a fraction, finite codes below the sign bit, and an infinity above them. -/
structure FpFmt.Lawful (f : FpFmt) : Prop where
  fraction : 1 ≤ f.p
  finite : f.maxCode < 2 ^ (f.width - 1)
  infinity : ∀ c ≤ f.maxCode, f.inf ≠ some c

/-- The formats of R115 and R116 are lawful. -/
theorem FpFmt.lawful_of_mem {f : FpFmt} (h : f ∈ [fp32, Machine.bf16, fp16, Machine.e4m3, Machine.e5m2]) : f.Lawful := by
  have above {a m : Nat} (h : m < a) : ∀ c ≤ m, some a ≠ some c := fun c hc he => by cases he; omega
  fin_cases h
  · exact ⟨by decide, by decide, above (by decide)⟩
  · exact ⟨by decide, by decide, above (by decide)⟩
  · exact ⟨by decide, by decide, above (by decide)⟩
  · exact ⟨by decide, by decide, fun _ _ => nofun⟩
  · exact ⟨by decide, by decide, above (by decide)⟩

/-- The sign of a value, as a factor. -/
def signFactor (neg : Bool) : ℚ := if neg then -1 else 1

theorem signFactor_ne_zero (a : Bool) : signFactor a ≠ 0 := by
  cases a <;> simp [signFactor]

theorem abs_signFactor (a : Bool) : |signFactor a| = 1 := by
  cases a <;> simp [signFactor]

theorem fpValue_fin (neg : Bool) (m : Nat) (e : Int) : fpValue (.fin neg m e) = signFactor neg * m * 2 ^ e := rfl

theorem extValue_eq (v : Ext) : extValue v = signFactor v.neg * v.m * 2 ^ v.e := rfl

/-- A finite code with its sign is read as its two fields say (R116). -/
theorem FpFmt.read_signed {f : FpFmt} (hf : f.Lawful) (neg : Bool) {c : Nat} (hc : c ≤ f.maxCode) :
    f.read (f.signed neg c) =
      if c / 2 ^ (f.p - 1) = 0 then
        if c % 2 ^ (f.p - 1) = 0 then .zero neg else .fin neg (c % 2 ^ (f.p - 1)) (f.emin - (f.p - 1 : Nat))
      else .fin neg (2 ^ (f.p - 1) + c % 2 ^ (f.p - 1)) ((c / 2 ^ (f.p - 1) : Nat) - f.bias - (f.p - 1 : Nat)) := by
  have hlt : c < 2 ^ (f.width - 1) := lt_of_le_of_lt hc hf.finite
  have hmag : f.signed neg c % 2 ^ (f.width - 1) = c := by
    cases neg <;> simp [FpFmt.signed, Nat.mod_eq_of_lt hlt]
  have hneg : (f.signed neg c / 2 ^ (f.width - 1) % 2 == 1) = neg := by
    cases neg <;> simp [FpFmt.signed, Nat.div_eq_of_lt hlt, Nat.add_div_left]
  have hinf : (f.inf == some c) = false := beq_eq_false_iff_ne.2 (hf.infinity c hc)
  simp only [FpFmt.read, hmag, hneg, hinf, Bool.false_eq_true, if_false, gt_iff_lt, Nat.not_lt.2 hc]

/-- The value of a finite code, where it is formed from an exponent field and a significand as a rounding forms it: a
significand that carries to the next power of two is the next code (R122). -/
theorem fpValue_read_signed {f : FpFmt} (hf : f.Lawful) (neg : Bool) {E n : Nat} (hE : E ≠ 0 → 2 ^ (f.p - 1) ≤ n)
    (hn : n ≤ 2 * 2 ^ (f.p - 1)) (hc : E * 2 ^ (f.p - 1) + n ≤ f.maxCode) :
    fpValue (f.read (f.signed neg (E * 2 ^ (f.p - 1) + n))) =
      signFactor neg * n * 2 ^ ((E : Int) + f.emin - (f.p - 1 : Nat)) := by
  rw [FpFmt.read_signed hf neg hc]
  have hpos : 0 < 2 ^ (f.p - 1) := Nat.two_pow_pos _
  generalize hB : 2 ^ (f.p - 1) = B at *
  have fields {q t : Nat} (h : E * B + n = q * B + t) (ht : t < B) : (E * B + n) / B = q ∧ (E * B + n) % B = t := by
    rw [h, Nat.add_comm, Nat.add_mul_div_right _ _ hpos, Nat.add_mul_mod_self_right, Nat.div_eq_of_lt ht,
      Nat.mod_eq_of_lt ht, Nat.zero_add]
    exact ⟨rfl, rfl⟩
  have hbias : f.emin = 1 - (f.bias : Int) := rfl
  by_cases hsub : n < B
  · -- a subnormal code, or zero
    obtain rfl : E = 0 := by_contra fun h => absurd (hE h) (by omega)
    obtain ⟨hq, ht⟩ := fields (q := 0) (t := n) rfl hsub
    rw [hq, ht, if_pos rfl]
    split
    · next h0 => simp [h0, fpValue]
    · rw [fpValue_fin]
      congr 2
      omega
  · by_cases hnorm : n < 2 * B
    · -- a normal code
      obtain ⟨hq, ht⟩ := fields (q := E + 1) (t := n - B) (by rw [Nat.succ_mul]; omega) (by omega)
      rw [hq, ht, if_neg (by omega), fpValue_fin, show B + (n - B) = n by omega]
      congr 2
      push_cast
      omega
    · -- the significand carries
      obtain rfl : n = 2 * B := by omega
      obtain ⟨hq, ht⟩ := fields (q := E + 2) (t := 0) (by rw [Nat.add_mul]; rfl) hpos
      rw [hq, ht, if_neg (by omega), fpValue_fin, Nat.add_zero, Nat.mul_comm, Nat.cast_mul, Nat.cast_two, ← mul_assoc,
        mul_assoc _ (2 : ℚ), ← zpow_one_add₀ (two_ne_zero' ℚ)]
      congr 2
      push_cast
      omega

/-! ## The integer step -/

/-- The whole number `n` is `t` rounded as mode `rm` says for a value of sign `neg` (R122). -/
structure RoundsTo (rm : Nat) (neg : Bool) (t : ℚ) (n : Nat) : Prop where
  near : |(n : ℚ) - t| < 1
  nearest : rm = 0 → 2 * |(n : ℚ) - t| ≤ 1
  towardZero : rm = 1 → (n : ℚ) ≤ t
  down : rm = 2 → if neg then t ≤ n else n ≤ t
  up : rm = 3 → if neg then n ≤ t else t ≤ n

/-- The step takes the whole number below only where the mode admits it. -/
theorem roundsTo_below {rm n : Nat} {neg : Bool} {x : ℚ} (h0 : 0 ≤ x) (h1 : x < 1) (hn : rm = 0 → 2 * x ≤ 1)
    (hd : rm = 2 → neg = true → x = 0) (hu : rm = 3 → neg = false → x = 0) : RoundsTo rm neg (n + x) n := by
  have habs : |(n : ℚ) - (n + x)| = x := by rw [sub_add_cancel_left, abs_neg, abs_of_nonneg h0]
  refine ⟨by rw [habs]; exact h1, fun h => by rw [habs]; exact hn h, fun _ => by linarith, fun h => ?_, fun h => ?_⟩
  · split
    · next hneg => linarith [hd h hneg]
    · linarith
  · split
    · linarith
    · next hneg => linarith [hu h (by simpa using hneg)]

/-- The step takes the whole number above only where the mode admits it. -/
theorem roundsTo_above {rm n : Nat} {neg : Bool} {x : ℚ} (h0 : 0 < x) (h1 : x < 1) (hn : rm = 0 → 1 ≤ 2 * x) (hz : rm ≠ 1)
    (hd : rm = 2 → neg = true) (hu : rm = 3 → neg = false) : RoundsTo rm neg (n + x) (n + 1) := by
  have habs : |((n + 1 : Nat) : ℚ) - (n + x)| = 1 - x := by
    rw [Nat.cast_succ, add_sub_add_left_eq_sub, abs_of_pos (by linarith)]
  refine ⟨by linarith, fun h => by linarith [hn h], fun h => absurd h hz, fun h => ?_, fun h => ?_⟩
  · rw [hd h, if_pos rfl, Nat.cast_succ]
    linarith
  · rw [hu h, if_neg nofun, Nat.cast_succ]
    linarith

/-- What the integer step does with a whole part and a remainder, without a sticky part: the whole number below, or above
(R122). -/
theorem roundStep_cases (rm : Nat) {r : Nat} (neg : Bool) (n : Nat) {rem sh : Nat} (hr : r < 2 ^ 16) :
    (roundStep rm r neg n rem sh false = n ∧ (rm = 0 → 2 * rem ≤ 2 ^ sh) ∧ (rm = 2 → neg = true → rem = 0) ∧
      (rm = 3 → neg = false → rem = 0)) ∨
    (roundStep rm r neg n rem sh false = n + 1 ∧ rem ≠ 0 ∧ (rm = 0 → 2 ^ sh ≤ 2 * rem) ∧ rm ≠ 1 ∧
      (rm = 2 → neg = true) ∧ (rm = 3 → neg = false)) := by
  have hpos : 0 < 2 ^ sh := Nat.two_pow_pos sh
  match rm with
  | 0 =>
    rcases lt_trichotomy (2 * rem) (2 ^ sh) with h | h | h
    · exact .inl ⟨by simp [roundStep, Nat.not_lt_of_lt h, h.ne], fun _ => h.le, nofun, nofun⟩
    · by_cases hodd : n % 2 = 1
      · exact .inr ⟨by simp [roundStep, h, hodd], by omega, fun _ => h.ge, nofun, nofun, nofun⟩
      · exact .inl ⟨by simp [roundStep, h, hodd], fun _ => h.le, nofun, nofun⟩
    · exact .inr ⟨by simp [roundStep, h], by omega, fun _ => h.le, nofun, nofun, nofun⟩
  | 1 => exact .inl ⟨rfl, nofun, nofun, nofun⟩
  | 2 =>
    by_cases h : neg = true ∧ rem ≠ 0
    · exact .inr ⟨by simp [roundStep, h], h.2, nofun, nofun, fun _ => h.1, nofun⟩
    · exact .inl ⟨by simpa [roundStep] using h, nofun, by simpa using h, nofun⟩
  | 3 =>
    by_cases h : neg = false ∧ rem ≠ 0
    · exact .inr ⟨by simp [roundStep, h], h.2, nofun, nofun, nofun, fun _ => h.1⟩
    · exact .inl ⟨by simpa [roundStep] using h, nofun, nofun, by simpa using h⟩
  | 4 =>
    by_cases h : 2 ^ 16 ≤ rem * 2 ^ 16 / 2 ^ sh + r
    · refine .inr ⟨by simpa [roundStep] using h, ?_, nofun, nofun, nofun, nofun⟩
      rintro rfl
      rw [Nat.zero_mul, Nat.zero_div] at h
      omega
    · exact .inl ⟨by simpa [roundStep] using h, nofun, nofun, nofun⟩
  | _ + 5 => exact .inl ⟨rfl, nofun, nofun, nofun⟩

/-- The integer step without a sticky part rounds the number that its whole part and its remainder stand for (R122). -/
theorem roundStep_roundsTo (rm : Nat) {r : Nat} (neg : Bool) (n : Nat) {rem sh : Nat} (hr : r < 2 ^ 16) (hrem : rem < 2 ^ sh) :
    RoundsTo rm neg (n + rem / 2 ^ sh) (roundStep rm r neg n rem sh false) := by
  have hD : (0 : ℚ) < 2 ^ sh := by positivity
  have h1 : (rem : ℚ) / 2 ^ sh < 1 := (div_lt_one hD).2 (by exact_mod_cast hrem)
  have zero (h : rem = 0) : (rem : ℚ) / 2 ^ sh = 0 := by rw [h, Nat.cast_zero, zero_div]
  rcases roundStep_cases rm neg n (rem := rem) (sh := sh) hr with ⟨he, hn, hd, hu⟩ | ⟨he, h0, hn, hz, hd, hu⟩ <;> rw [he]
  · refine roundsTo_below (by positivity) h1 (fun h => ?_) (fun h hs => zero (hd h hs)) fun h hs => zero (hu h hs)
    rw [← mul_div_assoc, div_le_one hD]
    exact_mod_cast hn h
  · refine roundsTo_above (div_pos (by exact_mod_cast Nat.pos_of_ne_zero h0) hD) h1 (fun h => ?_) hz hd hu
    rw [← mul_div_assoc, one_le_div hD]
    exact_mod_cast hn h

/-! ## The parts of a rounding -/

section
variable (f : FpFmt) (v : Ext)

/-- The exponent that a value is rounded at: that of its leading bit, but no lower than the least of the format. -/
def FpFmt.expAt : Int := max ((v.m.log2 : Int) + v.e) f.emin

/-- The exponent of the last place of the result. -/
def FpFmt.placeAt : Int := f.expAt v - f.p + 1

/-- The value's significand, with the places that it lacks. -/
def FpFmt.scaled : Nat := v.m * 2 ^ (v.e - f.placeAt v).toNat

/-- The bits of it below the last place. -/
def FpFmt.dropped : Nat := (f.placeAt v - v.e).toNat

/-- The whole places of a value. -/
def FpFmt.whole : Nat := f.scaled v / 2 ^ f.dropped v

/-- What lies below the last place. -/
def FpFmt.rest : Nat := f.scaled v % 2 ^ f.dropped v

/-- The exponent field of the result, one less where it is not subnormal: the leading bit of the significand makes it up. -/
def FpFmt.field : Nat := (f.expAt v + f.bias - 1).toNat

/-- A rounding overflows, or forms the code of its exponent and of its rounded significand (R122). -/
theorem roundFp_eq (rm r : Nat) {n : Nat} (hv : v.sticky = false)
    (hn : roundStep rm r v.neg (f.whole v) (f.rest v) (f.dropped v) false = n) :
    roundFp f rm r v = if f.field v * 2 ^ (f.p - 1) + n > f.maxCode then ⟨overflowCode f rm v.neg, flOF ||| flNX, true⟩
      else ⟨f.signed v.neg (f.field v * 2 ^ (f.p - 1) + n), (if f.rest v != 0 then flNX else 0) |||
        (if f.rest v != 0 && decide ((v.m.log2 : Int) + v.e < f.emin) then flUF else 0), true⟩ := by
  subst hn
  simp only [roundFp, hv, Bool.or_false]
  rfl

theorem FpFmt.rest_lt : f.rest v < 2 ^ f.dropped v := Nat.mod_lt _ (Nat.two_pow_pos _)

theorem FpFmt.field_eq : (f.field v : Int) = f.expAt v - f.emin := by
  have : f.emin ≤ f.expAt v := le_max_right _ _
  simp only [FpFmt.field, FpFmt.emin] at *
  omega

variable {f v}

/-- The whole places and what lies below them make up the value. -/
theorem FpFmt.whole_add_rest :
    ((f.whole v : ℚ) + f.rest v / 2 ^ f.dropped v) * 2 ^ f.placeAt v = v.m * 2 ^ v.e := by
  have hD : (2 : ℚ) ^ f.dropped v ≠ 0 := by positivity
  have hdiv : (2 : ℚ) ^ f.dropped v * f.whole v + f.rest v = f.scaled v := by exact_mod_cast Nat.div_add_mod _ _
  have hexp : ((v.e - f.placeAt v).toNat : Int) + f.placeAt v = v.e + f.dropped v := by
    simp only [FpFmt.dropped]
    omega
  have hscaled : (f.scaled v : ℚ) * 2 ^ f.placeAt v = v.m * 2 ^ v.e * 2 ^ f.dropped v := by
    rw [FpFmt.scaled, Nat.cast_mul, Nat.cast_pow, Nat.cast_two, mul_assoc, mul_assoc, ← zpow_natCast, ← zpow_natCast,
      ← zpow_add₀ two_ne_zero, ← zpow_add₀ two_ne_zero, hexp]
  rw [← mul_left_inj' hD, ← hscaled, ← hdiv]
  field_simp

/-- Below the last place of a value that is whole there is nothing. -/
theorem FpFmt.rest_eq_zero {n : Nat} (h : (n : ℚ) = f.whole v + f.rest v / 2 ^ f.dropped v) : f.rest v = 0 := by
  have hD : (2 : ℚ) ^ f.dropped v ≠ 0 := by positivity
  have hdiv : 2 ^ f.dropped v * f.whole v + f.rest v = f.scaled v := Nat.div_add_mod _ _
  have hmul : n * 2 ^ f.dropped v = f.scaled v := by
    rw [← hdiv, ← Nat.cast_inj (R := ℚ)]
    push_cast
    rw [h]
    field_simp
  rw [FpFmt.rest, ← hmul, Nat.mul_mod_left]

/-- The significand fits the format, but for the carry of its rounding. -/
theorem FpFmt.whole_lt (hf : f.Lawful) : f.whole v < 2 * 2 ^ (f.p - 1) := by
  have hp := hf.fraction
  have hexp : v.m.log2 + 1 + (v.e - f.placeAt v).toNat ≤ f.p + f.dropped v := by
    have : (v.m.log2 : Int) + v.e ≤ f.expAt v := le_max_left _ _
    simp only [FpFmt.dropped, FpFmt.placeAt]
    omega
  rw [FpFmt.whole, ← Nat.pow_succ', Nat.succ_eq_add_one, Nat.sub_add_cancel hp,
    Nat.div_lt_iff_lt_mul (Nat.two_pow_pos _), ← Nat.pow_add]
  calc f.scaled v < 2 ^ (v.m.log2 + 1) * 2 ^ (v.e - f.placeAt v).toNat :=
        Nat.mul_lt_mul_of_pos_right Nat.lt_log2_self (Nat.two_pow_pos _)
    _ = 2 ^ (v.m.log2 + 1 + (v.e - f.placeAt v).toNat) := (Nat.pow_add ..).symm
    _ ≤ 2 ^ (f.p + f.dropped v) := Nat.pow_le_pow_right Nat.two_pos hexp

/-- A significand that is not subnormal has its leading bit. -/
theorem FpFmt.le_whole (hf : f.Lawful) (hm : 0 < v.m) (hE : f.field v ≠ 0) : 2 ^ (f.p - 1) ≤ f.whole v := by
  have hp := hf.fraction
  have hexp : f.p - 1 + f.dropped v ≤ v.m.log2 + (v.e - f.placeAt v).toNat := by
    have hfield := f.field_eq v
    have : f.expAt v = max ((v.m.log2 : Int) + v.e) f.emin := rfl
    simp only [FpFmt.dropped, FpFmt.placeAt]
    omega
  rw [FpFmt.whole, Nat.le_div_iff_mul_le (Nat.two_pow_pos _), ← Nat.pow_add]
  calc 2 ^ (f.p - 1 + f.dropped v) ≤ 2 ^ (v.m.log2 + (v.e - f.placeAt v).toNat) := Nat.pow_le_pow_right Nat.two_pos hexp
    _ = 2 ^ v.m.log2 * 2 ^ (v.e - f.placeAt v).toNat := Nat.pow_add ..
    _ ≤ f.scaled v := Nat.mul_le_mul_right _ (Nat.log2_self_le hm.ne')

end

/-! ## The rounded value -/

/-- The flags of a rounding show an inexact result exactly where something lay below the last place. -/
theorem inexact_iff (a b : Bool) : ((if a then flNX else 0) ||| (if a && b then flUF else 0)) &&& flNX = 0 ↔ a = false := by
  cases a <;> cases b <;> decide

/-- The overflow flag is among those of an overflow. -/
theorem overflow_flags : (flOF ||| flNX) &&& flOF ≠ 0 := by decide

/-- A rounding that does not overflow gives its value in whole places, rounded as its mode says, and NX where the value is not
whole (R122). -/
theorem roundFp_value {f : FpFmt} (hf : f.Lawful) (rm : Nat) {r : Nat} {v : Ext} (hr : r < 2 ^ 16) (hm : 0 < v.m)
    (hv : v.sticky = false) (hof : (roundFp f rm r v).fl &&& flOF = 0) :
    ∃ (n : Nat) (t : ℚ), 0 ≤ t ∧ RoundsTo rm v.neg t n ∧ extValue v = signFactor v.neg * t * 2 ^ f.placeAt v ∧
      fpValue (f.read (roundFp f rm r v).code) = signFactor v.neg * n * 2 ^ f.placeAt v ∧
      ((roundFp f rm r v).fl &&& flNX = 0 ↔ (n : ℚ) = t) := by
  have hwhole := FpFmt.whole_lt (v := v) hf
  have hstep := roundStep_cases rm v.neg (f.whole v) (rem := f.rest v) (sh := f.dropped v) hr
  have hround := roundStep_roundsTo rm v.neg (f.whole v) hr (f.rest_lt v)
  generalize hn : roundStep rm r v.neg (f.whole v) (f.rest v) (f.dropped v) false = n at hstep hround
  have heq := roundFp_eq f v rm r hv hn
  by_cases hc : f.field v * 2 ^ (f.p - 1) + n ≤ f.maxCode
  · rw [if_neg (Nat.not_lt.2 hc)] at heq
    rw [heq]
    refine ⟨n, _, by positivity, hround, by rw [extValue_eq, mul_assoc, mul_assoc, FpFmt.whole_add_rest], ?_, ?_⟩
    · have hE : f.field v ≠ 0 → 2 ^ (f.p - 1) ≤ n := fun h => by
        have := FpFmt.le_whole hf hm h
        omega
      have hp := hf.fraction
      rw [fpValue_read_signed hf v.neg hE (by omega) hc, FpFmt.field_eq]
      congr 2
      simp only [FpFmt.placeAt]
      omega
    · rw [inexact_iff, bne_eq_false_iff_eq]
      constructor
      · intro h
        obtain rfl : n = f.whole v := by omega
        rw [h, Nat.cast_zero, zero_div, add_zero]
      · exact FpFmt.rest_eq_zero
  · rw [heq, if_pos (Nat.not_le.1 hc)] at hof
    exact absurd hof overflow_flags

/-- A number rounded in whole places of size `u`, with its sign: how far its value lies from the exact one, and on which side
(R122). -/
theorem RoundsTo.signed {rm n : Nat} {neg : Bool} {t u : ℚ} (h : RoundsTo rm neg t n) (ht : 0 ≤ t) (hu : 0 < u) :
    let w := signFactor neg * n * u
    let e := signFactor neg * t * u
    |w - e| < u ∧ (w = e ↔ (n : ℚ) = t) ∧
      (rm = 0 → 2 * |w - e| ≤ u) ∧ (rm = 1 → |w| ≤ |e|) ∧ (rm = 2 → w ≤ e) ∧ (rm = 3 → e ≤ w) := by
  intro w e
  have hs := abs_signFactor neg
  have hdiff : |w - e| = |(n : ℚ) - t| * u := by
    rw [← sub_mul, ← mul_sub, abs_mul, abs_mul, hs, one_mul, abs_of_pos hu]
  have habs (x : ℚ) (hx : 0 ≤ x) : |signFactor neg * x * u| = x * u := by
    rw [abs_mul, abs_mul, hs, one_mul, abs_of_nonneg hx, abs_of_pos hu]
  have hnear := mul_lt_mul_of_pos_right h.near hu
  refine ⟨by linarith, by simp only [w, e, mul_left_inj' hu.ne', mul_right_inj' (signFactor_ne_zero neg)],
    fun hr => ?_, fun hr => ?_, fun hr => ?_, fun hr => ?_⟩
  · have := mul_le_mul_of_nonneg_right (h.nearest hr) hu.le
    linarith
  · rw [habs n n.cast_nonneg, habs t ht]
    exact mul_le_mul_of_nonneg_right (h.towardZero hr) hu.le
  · refine mul_le_mul_of_nonneg_right ?_ hu.le
    have := h.down hr
    cases neg <;> simpa [signFactor] using this
  · refine mul_le_mul_of_nonneg_right ?_ hu.le
    have := h.up hr
    cases neg <;> simpa [signFactor] using this

theorem floatRoundingHeld : Says.FloatRounding := by
  intro f rm r v hf _ hr hm hv y e w u hof
  obtain ⟨n, t, ht, hround, he, hw, hnx⟩ := roundFp_value (FpFmt.lawful_of_mem hf) rm hr hm hv hof
  obtain ⟨hnear, hexact, hmodes⟩ := hround.signed ht (u := u) (by positivity)
  have he : e = signFactor v.neg * t * u := he
  have hw : w = signFactor v.neg * n * u := hw
  rw [hw, he]
  exact ⟨hnear, hnx.trans hexact.symm, hmodes⟩

end Sys2Proof.Machine
end

section
/-! SUPPORT. What reaches the one rounding (R154, R155): sums and products are exact, quotients and square roots cut below. -/

namespace Sys2Proof.Machine

open Sys2Proof

/-! ## Signs and zeros -/

theorem sgnMant_cast (neg : Bool) (m : Nat) : (sgnMant neg m : ℚ) = signFactor neg * m := by
  cases neg <;> simp [sgnMant, signFactor]

/-- The sign of a product or a quotient. -/
theorem signFactor_bne (a b : Bool) : signFactor (a != b) = signFactor a * signFactor b := by
  cases a <;> cases b <;> simp [signFactor]

theorem signFactor_mul_self (a : Bool) : signFactor a * signFactor a = 1 := by
  cases a <;> simp [signFactor]

/-- A signed whole number is its sign and its magnitude. -/
theorem signFactor_natAbs (z : Int) : signFactor (decide (z < 0)) * z.natAbs = z := by
  rcases lt_or_ge z 0 with h | h
  · rw [decide_eq_true h, Nat.cast_natAbs, abs_of_neg h]
    simp [signFactor]
  · rw [decide_eq_false (not_lt.2 h), Nat.cast_natAbs, abs_of_nonneg h]
    simp [signFactor]

/-- A rounding is given the exact value `s`. -/
def RoundsExactly (f : FpFmt) (rm r : Nat) (s : ℚ) (y : Res) : Prop :=
  ∃ v, extValue v = s ∧ v.sticky = false ∧ y = roundFp f rm r v

/-! ## Sums and products -/

section
variable (f : FpFmt) (rm r : Nat) (n1 n2 : Bool) (m1 m2 : Nat) (e1 e2 : Int)

/-- A significand brought to a lower exponent. -/
theorem sgnMant_shift {e e' : Int} (neg : Bool) (m : Nat) (h : e' ≤ e) :
    (sgnMant neg (m * 2 ^ (e - e').toNat) : ℚ) * 2 ^ e' = fpValue (.fin neg m e) := by
  have hexp : ((e - e').toNat : Int) + e' = e := by omega
  rw [sgnMant_cast, fpValue_fin, Nat.cast_mul, Nat.cast_pow, Nat.cast_two, ← zpow_natCast, mul_assoc, mul_assoc, mul_assoc,
    ← zpow_add₀ two_ne_zero, hexp]

/-- The sum of two finite values is exact. -/
theorem sumExact_value : ((sumExact n1 m1 e1 n2 m2 e2).1 : ℚ) * 2 ^ (sumExact n1 m1 e1 n2 m2 e2).2 =
    fpValue (.fin n1 m1 e1) + fpValue (.fin n2 m2 e2) := by
  simp only [sumExact]
  rw [Int.cast_add, add_mul, sgnMant_shift _ _ (min_le_left _ _), sgnMant_shift _ _ (min_le_right _ _)]

/-- A sum of finite values that is not zero is rounded from its exact value. -/
theorem addV_exact {s : ℚ} (h0 : s ≠ 0) (hs : s = fpValue (.fin n1 m1 e1) + fpValue (.fin n2 m2 e2)) :
    RoundsExactly f rm r s (addV f rm r (.fin n1 m1 e1) (.fin n2 m2 e2)) := by
  have hval := sumExact_value n1 n2 m1 m2 e1 e2
  rw [← hs] at hval
  have hz : (sumExact n1 m1 e1 n2 m2 e2).1 ≠ 0 := fun h => h0 (by rw [← hval, h, Int.cast_zero, zero_mul])
  exact ⟨_, by rw [extValue_eq, signFactor_natAbs, hval], rfl, if_neg hz⟩

/-- A sum of finite values that is zero has the sign of R124. -/
theorem addV_zero (h : fpValue (.fin n1 m1 e1) + fpValue (.fin n2 m2 e2) = 0) :
    addV f rm r (.fin n1 m1 e1) (.fin n2 m2 e2) = ⟨f.signed (rm == 2) 0, 0, false⟩ := by
  rw [← sumExact_value, mul_eq_zero, Int.cast_eq_zero] at h
  exact if_pos (h.resolve_right (by positivity))

/-- The exact product of two finite values. -/
theorem mulExact_value : fpValue (mulExact (.fin n1 m1 e1) (.fin n2 m2 e2)) =
    fpValue (.fin n1 m1 e1) * fpValue (.fin n2 m2 e2) := by
  simp only [mulExact, fpValue_fin, signFactor_bne, zpow_add₀ (two_ne_zero' ℚ)]
  push_cast
  ring

theorem mulV_exact : RoundsExactly f rm r (fpValue (.fin n1 m1 e1) * fpValue (.fin n2 m2 e2))
    (mulV f rm r (.fin n1 m1 e1) (.fin n2 m2 e2)) :=
  ⟨⟨n1 != n2, m1 * m2, e1 + e2, false⟩, by rw [← mulExact_value]; rfl, rfl, rfl⟩

/-- A fused sum is the sum of the exact product. -/
theorem fmaV_fin (n3 : Bool) (m3 : Nat) (e3 : Int) : fmaV f rm r (.fin n1 m1 e1) (.fin n2 m2 e2) (.fin n3 m3 e3) =
    addV f rm r (mulExact (.fin n1 m1 e1) (.fin n2 m2 e2)) (.fin n3 m3 e3) := rfl

end

/-! ## Quotients -/

/-- A whole quotient is cut below, and is exact where it leaves no remainder. -/
theorem natDiv_cut (q : Nat) {d : Nat} (hd : 0 < d) :
    ((q / d : Nat) : ℚ) ≤ q / d ∧ (q : ℚ) / d < (q / d : Nat) + 1 ∧ (q % d = 0 ↔ ((q / d : Nat) : ℚ) = q / d) := by
  have hd' : (d : ℚ) ≠ 0 := by positivity
  refine ⟨Nat.cast_div_le, ?_, ?_⟩
  · rw [← Nat.floor_div_eq_div (K := ℚ)]
    exact Nat.lt_floor_add_one _
  · rw [eq_div_iff hd', ← Nat.cast_mul, Nat.cast_inj]
    have := Nat.div_add_mod' q d
    omega

theorem divV_fin (f : FpFmt) (rm r : Nat) (n1 n2 : Bool) (m1 m2 : Nat) (e1 e2 : Int) :
    divV f rm r (.fin n1 m1 e1) (.fin n2 m2 e2) = roundFp f rm r
      ⟨n1 != n2, m1 * 2 ^ 128 / m2, e1 - e2 - 128, m1 * 2 ^ 128 % m2 != 0⟩ := rfl

/-- A quotient of finite values is rounded from the value cut below, marked sticky where it is not exact (R155). -/
theorem divV_cut (f : FpFmt) (rm r : Nat) (n1 n2 : Bool) (m1 : Nat) {m2 : Nat} (e1 e2 : Int) (h2 : 0 < m2) :
    let a := fpValue (.fin n1 m1 e1)
    let b := fpValue (.fin n2 m2 e2)
    ∃ v, v.neg = (n1 != n2) ∧ |extValue v| ≤ |a / b| ∧ |a / b| < |extValue v| + (2 : ℚ) ^ v.e ∧
      (v.sticky = false ↔ extValue v = a / b) ∧ divV f rm r (.fin n1 m1 e1) (.fin n2 m2 e2) = roundFp f rm r v := by
  intro a b
  have hu : (0 : ℚ) < 2 ^ (e1 - e2 - 128) := by positivity
  have hab : a / b = signFactor (n1 != n2) * (((m1 * 2 ^ 128 : Nat) : ℚ) / m2) * 2 ^ (e1 - e2 - 128) := by
    have h2' : (m2 : ℚ) ≠ 0 := by positivity
    have hexp : (2 : ℚ) ^ (e1 - e2 - 128) * 2 ^ (128 : Nat) * 2 ^ e2 = 2 ^ e1 := by
      rw [← zpow_natCast, ← zpow_add₀ two_ne_zero, ← zpow_add₀ two_ne_zero]
      congr 1
      omega
    have hb : b ≠ 0 := mul_ne_zero (mul_ne_zero (signFactor_ne_zero _) h2') (by positivity)
    rw [div_eq_iff hb]
    simp only [a, b, fpValue_fin, signFactor_bne, ← hexp]
    push_cast
    field_simp
    rw [sq, signFactor_mul_self, mul_one]
    norm_num
  obtain ⟨hle, hlt, hex⟩ := natDiv_cut (m1 * 2 ^ 128) h2
  have habs (x : ℚ) (hx : 0 ≤ x) : |signFactor (n1 != n2) * x * 2 ^ (e1 - e2 - 128)| = x * 2 ^ (e1 - e2 - 128) := by
    rw [abs_mul, abs_mul, abs_signFactor, one_mul, abs_of_nonneg hx, abs_of_pos hu]
  refine ⟨_, rfl, ?_, ?_, ?_, divV_fin f rm r n1 n2 m1 m2 e1 e2⟩
  · rw [extValue_eq, hab, habs _ (Nat.cast_nonneg _), habs _ (by positivity)]
    exact mul_le_mul_of_nonneg_right hle hu.le
  · rw [extValue_eq, hab, habs _ (Nat.cast_nonneg _), habs _ (by positivity)]
    have := mul_lt_mul_of_pos_right hlt hu
    linarith
  · rw [extValue_eq, hab, mul_left_inj' hu.ne', mul_right_inj' (signFactor_ne_zero _), ← hex, bne_eq_false_iff_eq]

/-! ## Square roots -/

/-- The digits of a root keep it the whole root of what they have seen: `acc` is the root but for its lowest `k` bits. -/
theorem isqrtBits_spec {n : Nat} : ∀ {k acc : Nat}, acc * acc ≤ n → n < (acc + 2 ^ k) * (acc + 2 ^ k) →
    isqrtBits n k acc * isqrtBits n k acc ≤ n ∧ n < (isqrtBits n k acc + 1) * (isqrtBits n k acc + 1)
  | 0, acc, hle, hlt => ⟨hle, hlt⟩
  | k + 1, acc, hle, hlt => by
    rw [isqrtBits]
    split
    · next h => exact isqrtBits_spec h (by rwa [Nat.add_assoc, ← Nat.two_mul, ← Nat.pow_succ'])
    · next h => exact isqrtBits_spec hle (Nat.not_le.1 h)

/-- The integer square root is the whole part of the root. -/
theorem isqrt_spec (n : Nat) : isqrt n * isqrt n ≤ n ∧ n < (isqrt n + 1) * (isqrt n + 1) := by
  refine isqrtBits_spec (Nat.zero_le n) ?_
  rw [Nat.zero_add, ← Nat.pow_add]
  exact lt_of_lt_of_le Nat.lt_log2_self (Nat.pow_le_pow_right Nat.two_pos (by omega))

/-- The places that `fsqrt` gives a significand, which leave an even exponent (R155). -/
def rootShift (e : Int) : Nat := if (e - 256) % 2 = 0 then 256 else 257

theorem rootShift_even (e : Int) : (e - rootShift e) / 2 + (e - rootShift e) / 2 = e - rootShift e := by
  simp only [rootShift]
  split <;> omega

theorem sqrtV_fin (f : FpFmt) (rm r m : Nat) (e : Int) : sqrtV f rm r (.fin false m e) = roundFp f rm r
    ⟨false, isqrt (m * 2 ^ rootShift e), (e - rootShift e) / 2,
      isqrt (m * 2 ^ rootShift e) * isqrt (m * 2 ^ rootShift e) != m * 2 ^ rootShift e⟩ := rfl

/-- The square root of a finite value is rounded from the root cut below, marked sticky where it is not exact (R155). -/
theorem sqrtV_cut (f : FpFmt) (rm r m : Nat) (e : Int) : let a := fpValue (.fin false m e)
    ∃ v, v.neg = false ∧ extValue v ^ 2 ≤ a ∧ a < (extValue v + (2 : ℚ) ^ v.e) ^ 2 ∧
      (v.sticky = false ↔ extValue v ^ 2 = a) ∧ sqrtV f rm r (.fin false m e) = roundFp f rm r v := by
  intro a
  obtain ⟨hle, hlt⟩ := isqrt_spec (m * 2 ^ rootShift e)
  have hroot := sqrtV_fin f rm r m e
  generalize isqrt (m * 2 ^ rootShift e) = q at hle hlt hroot
  have hu : (0 : ℚ) < 2 ^ (e - rootShift e) := by positivity
  have hsq (x : ℚ) : (x * 2 ^ ((e - rootShift e) / 2)) ^ 2 = x * x * 2 ^ (e - rootShift e) := by
    rw [sq, mul_mul_mul_comm, ← zpow_add₀ two_ne_zero, rootShift_even]
  have ha : a = ((m * 2 ^ rootShift e : Nat) : ℚ) * 2 ^ (e - rootShift e) := by
    rw [Nat.cast_mul, Nat.cast_pow, Nat.cast_two, ← zpow_natCast, mul_assoc, ← zpow_add₀ two_ne_zero, add_sub_cancel]
    exact congrArg (· * _) (one_mul (m : ℚ))
  have hv (s : Bool) : extValue ⟨false, q, (e - rootShift e) / 2, s⟩ = q * 2 ^ ((e - rootShift e) / 2) :=
    congrArg (· * _) (one_mul (q : ℚ))
  refine ⟨_, rfl, ?_, ?_, ?_, hroot⟩
  · rw [hv, hsq, ha]
    exact mul_le_mul_of_nonneg_right (by exact_mod_cast hle) hu.le
  · rw [hv, ← add_one_mul, hsq, ha]
    exact mul_lt_mul_of_pos_right (by exact_mod_cast hlt) hu
  · rw [hv, hsq, ha, mul_left_inj' hu.ne', bne_eq_false_iff_eq, ← Nat.cast_mul, Nat.cast_inj]

theorem floatExactHeld : Says.FloatExact := by
  intro f rm r n1 n2 n3 m1 m2 m3 e1 e2 e3 _ h2 _ a b c
  refine ⟨fun s => addV_exact f rm r n1 n2 m1 m2 e1 e2, addV_zero f rm r n1 n2 m1 m2 e1 e2,
    mulV_exact f rm r n1 n2 m1 m2 e1 e2, fun s h0 hs => ?_, divV_cut f rm r n1 n2 m1 e1 e2 h2, fun hn => ?_⟩
  · rw [fmaV_fin]
    exact addV_exact f rm r _ n3 _ m3 _ e3 h0
      (hs.trans (congrArg (· + fpValue c) (mulExact_value n1 n2 m1 m2 e1 e2).symm))
  · subst hn
    exact sqrtV_cut f rm r m1 e1

/-- Settles O18: the code that a rounding forms stands for whole places of the value, which its integer step rounds as the mode
says; sums and products reach it exactly, and quotients and roots by their whole part. -/
theorem floatRounding : Obligations.FloatRounding := ⟨floatRoundingHeld, floatExactHeld⟩

end Sys2Proof.Machine
end

section
/-! SUPPORT. Triads (R137, R138, R203), and the reads of a tile: its reconstruction and its drain (R194, R202). -/

namespace Sys2Proof.Machine

open Sys2Proof

/-! ## Triads -/

/-- A word of reduced residues is read as it was written, without a flag (R137, R139). -/
theorem triRead_triWord {a b c : Nat} (ha : a < 1023) (hb : b < 1024) (hc : c < 1025) :
    triRead (triWord (a, b, c)) = ((a, b, c), 0) := by
  have hra : bitsOf (triWord (a, b, c)) 21 10 = a := by
    simp only [triWord, bitsOf, Nat.reducePow]
    omega
  have hrb : bitsOf (triWord (a, b, c)) 11 10 = b := by
    simp only [triWord, bitsOf, Nat.reducePow]
    omega
  have hrc : bitsOf (triWord (a, b, c)) 0 11 = c := by
    simp only [triWord, bitsOf, Nat.reducePow]
    omega
  have hspare : bitsOf (triWord (a, b, c)) 31 1 = 0 := by
    simp only [triWord, bitsOf, Nat.reducePow]
    omega
  simp [triRead, hra, hrb, hrc, hspare, ha.ne, Nat.not_lt.2 (Nat.le_of_lt_succ hc)]

/-- The three moduli have no factor in common. -/
theorem moduli_dvd {x : Int} (h1 : 1023 ∣ x) (h2 : 1024 ∣ x) (h3 : 1025 ∣ x) : 1073740800 ∣ x := by
  have h12 : 1023 * 1024 ∣ x := IsCoprime.mul_dvd (by norm_num) h1 h2
  exact IsCoprime.mul_dvd (by norm_num) h12 h3

/-- The number that `crt3` forms from the residues `a`, `b` and `c` of `v` lies at whole ranges from it (R138); `y`, `y'` and `z` are
the digits that it finds. -/
theorem crt3_congr {v a b c y y' z i j k p q s : Int} (ha : 1023 * i + a = v) (hb : 1024 * j + b = v) (hc : 1025 * k + c = v)
    (hy : 1023 * p + y = a - b) (hy' : 1025 * q + y' = b - c) (hz : 1025 * s + z = (y - y') * 513) :
    1073740800 ∣ b + 1024 * (y + 1023 * z) - v :=
  moduli_dvd ⟨y + 1024 * z - p - i, by linarith⟩ ⟨y + 1023 * z - j, by linarith⟩
    ⟨y + 1022 * z + (y - y') - 2 * s + q - k, by linarith⟩

/-- A remainder lies between 0 and its modulus. -/
theorem emod_range (v : Int) {m : Int} (hm : 0 < m) : 0 ≤ v % m ∧ v % m < m :=
  ⟨Int.emod_nonneg v hm.ne', Int.emod_lt_of_pos v hm⟩

/-- A number is known from its residues on the range of R138. -/
theorem crt3_residues {v : Int} (hlo : -536870400 ≤ v) (hhi : v ≤ 536870399) :
    crt3 ((v % 1023).toNat, (v % 1024).toNat, (v % 1025).toNat) = v := by
  have ha := emod_range v (show (0 : Int) < 1023 by decide)
  have hb := emod_range v (show (0 : Int) < 1024 by decide)
  have hc := emod_range v (show (0 : Int) < 1025 by decide)
  simp only [crt3, Int.toNat_of_nonneg ha.1, Int.toNat_of_nonneg hb.1, Int.toNat_of_nonneg hc.1]
  have hy := emod_range (v % 1023 - v % 1024) (show (0 : Int) < 1023 by decide)
  have hz := emod_range (((v % 1023 - v % 1024) % 1023 - (v % 1024 - v % 1025) % 1025) * 513) (show (0 : Int) < 1025 by decide)
  have hdvd := crt3_congr (Int.mul_ediv_add_emod v 1023) (Int.mul_ediv_add_emod v 1024) (Int.mul_ediv_add_emod v 1025)
    (Int.mul_ediv_add_emod _ 1023) (Int.mul_ediv_add_emod _ 1025) (Int.mul_ediv_add_emod _ 1025)
  generalize (v % 1023 - v % 1024) % 1023 = y at *
  generalize (y - (v % 1024 - v % 1025) % 1025) * 513 % 1025 = z at *
  generalize v % 1024 = b at *
  clear ha hc
  split <;> omega

theorem triadRoundTrip : Says.TriadRoundTrip := by
  intro v hlo hhi
  have hword : trienc v = triWord ((v % 1023).toNat, (v % 1024).toNat, (v % 1025).toNat) := rfl
  rw [hword, triRead_triWord (by omega) (by omega) (by omega)]
  refine ⟨crt3_residues hlo hhi, rfl, ?_⟩
  simp only [triWord, Nat.reducePow]
  omega

/-! ## What a read of a tile keeps -/

@[simp] theorem Ex.modAcc_ok (x : Ex) (n : Nat) (f : Acc → Acc) : (x.modAcc n f).ok = x.ok := rfl

/-- Reads that begin stop nothing. -/
@[simp] theorem readTiles_ok (l : List Nat) (x : Ex) : (l.foldl Ex.readTile x).ok = x.ok := by
  induction l generalizing x with
  | nil => rfl
  | cons n l ih => exact ih _

@[simp] theorem bankWords_ok (x : Ex) (off n : Nat) (l : List Nat) : (x.bankWords off n l).ok = x.ok :=
  bankStore_ok ..

/-- Flags change no operand. -/
@[simp] theorem flags_nat (x : Ex) (fl : BitVec 8) (o : Opnd) : (x.flags fl).nat o = x.nat o := by
  unfold Ex.flags Ex.nat
  split <;> cases o <;> rfl

@[simp] theorem flags_br (x : Ex) (fl : BitVec 8) : (x.flags fl).br = x.br := by
  unfold Ex.flags
  split <;> rfl

/-- A change that changes nothing. -/
theorem upd_id (l : List α) (n : Nat) : upd l n id = l := by
  unfold upd
  split
  · next a h =>
    obtain ⟨hn, rfl⟩ := List.getElem?_eq_some_iff.1 h
    exact List.set_getElem_self hn
  · rfl

theorem Ex.modAcc_id (x : Ex) (n : Nat) : x.modAcc n id = x := by
  simp only [Ex.modAcc, Brick.modAcc, upd_id]

/-! ## What a read asks -/

/-- The firing context owns what it names (R182). -/
theorem owning_of {x : Ex} {ac : List Nat} (f : Ex → Ex) (h : ∀ m ∈ ac, x.br.ownsAcc x.cx0.idx m = true) :
    x.owning [] ac f = f x := by
  have hfind : ac.find? (fun n => !x.br.ownsAcc x.cx0.idx n) = none := List.find?_eq_none.2 fun m hm => by simp [h m hm]
  simp only [Ex.owning, List.find?_nil, hfind]

/-- The bytes lie within the bank (R199). -/
theorem bankRange_of {x : Ex} {off len al : Nat} (f : Ex → Ex) (h0 : off % al = 0) (h1 : off + len ≤ 65536) :
    x.bankRange off len al f = f x := if_neg (by simp [h0, Nat.not_lt.2 h1])

/-- The tiles that a reconstruction reads (R194). -/
def readTiles (k16 : Bool) (n : Nat) : List Nat := if k16 then [0, 1, 2] else [n]

/-- The latch of the first ready tile (R194). -/
def Ex.latchOf (x : Ex) (l : List Nat) : Option (List (BitVec 8) × List (BitVec 8)) :=
  ((l.filter fun m => (x.br.acc m).st == .ready).head?).bind fun m => (x.br.acc m).latch

/-- Tiles may be read into `len` bytes of the bank: they are owned, the bytes lie in the bank, and the ready ones have one latch
(R194, R198). -/
def Ex.Readable (x : Ex) (l : List Nat) (off len : Nat) : Prop :=
  (∀ m ∈ l, x.br.ownsAcc x.cx0.idx m = true) ∧ off % 64 = 0 ∧ off + len ≤ 65536 ∧
    ∀ m ∈ l, (x.br.acc m).st = .ready → (x.br.acc m).latch = x.latchOf l

/-- A reconstruction of tiles that may be read writes what it forms of them, and the reads begin (R194). -/
theorem recon_readable {x : Ex} {k16 : Bool} {n off len : Nat} (f : Ex → List Int → List Int × BitVec 8 → Ex)
    (h : x.Readable (readTiles k16 n) off len) : x.recon k16 n off len f =
      (readTiles k16 n).foldl Ex.readTile (f x (x.br.recon k16 n) (expsOf (x.latchOf (readTiles k16 n)))) := by
  obtain ⟨hown, halign, hend, hlatch⟩ := h
  have hfind : ((readTiles k16 n).filter fun m => (x.br.acc m).st == .ready).find?
      (fun m => (x.br.acc m).latch != x.latchOf (readTiles k16 n)) = none := by
    rw [List.find?_eq_none]
    intro m hm
    rw [List.mem_filter, beq_iff_eq] at hm
    simp [hlatch m hm.1 hm.2]
  rw [Ex.latchOf] at hfind ⊢
  rw [Ex.recon, ← readTiles, owning_of _ hown, bankRange_of _ halign hend]
  simp only [hfind]

/-- A drain into bytes that it may write stores the words of the accumulator (R202). -/
theorem drain_readable {x : Ex} {n off : Nat} (f : Acc → Acc) (h : x.Readable [n] off 4096) : x.drain n off f =
    ((x.bankWords off 4 ((x.br.acc n).tri.map (·.toNat))).readTile n).modAcc n f := by
  obtain ⟨hown, halign, hend, -⟩ := h
  exact (owning_of _ hown).trans (bankRange_of _ halign hend)

/-! ## The instructions -/

section
variable {g : BGuard} {k : Bool} {n : BitVec 2} {d a b : Opnd}

/-- An operation channel by channel writes its word, with the flags of its operands (R203). -/
theorem triOp_flagged {i : Instr} (op : Nat → Nat → Nat) (hx : ∀ s, exec i s = run i (.b g) (fun x => x.tri2 d a b op) s)
    (hd : dstOf i = some d) (hl : laneSw i = false) : Flagged i (.b g) d fun x =>
      let t := triRead (x.nat a)
      let u := triRead (x.nat b)
      ⟨op t.1.1 u.1.1 % 1023 * 2 ^ 21 + op t.1.2.1 u.1.2.1 % 1024 * 2 ^ 11 + op t.1.2.2 u.1.2.2 % 1025, t.2 ||| u.2, false⟩ :=
  flagged_of hx hd hl

/-- A reconstruction follows from what it forms of the tiles. -/
theorem recon_does {i : Instr} {len : Nat} {h : Ex → Ex} (f : Ex → List Int → List Int × BitVec 8 → Ex)
    (hx : ∀ s, exec i s = run i (.b g) (fun x => x.recon k n.toNat (x.nat a) len f) s) (hw : writesSw i = false)
    (hf : ∀ x, f x (x.br.recon k n.toNat) (expsOf (x.latchOf (readTiles k n.toNat))) = h x) (hk : ∀ x, (h x).ok = x.ok) :
    Does i (.b g) (fun x => x.Readable (readTiles k n.toNat) (x.nat a) len) fun x =>
      (readTiles k n.toNat).foldl Ex.readTile (h x) :=
  does_of_noSw _ hx hw (fun x => by rw [readTiles_ok, hk]) fun _ x _ hp => by rw [recon_readable f hp, hf]

theorem mreconI64_does : Does (.mreconI64 g k n a) (.b g) (fun x => x.Readable (readTiles k n.toNat) (x.nat a) 8192) fun x =>
    (readTiles k n.toNat).foldl Ex.readTile (x.bankWords (x.nat a) 8 ((x.br.recon k n.toNat).map (wrapNat 64))) :=
  recon_does _ (fun _ => rfl) rfl (fun _ => rfl) fun _ => bankWords_ok ..

/-- The values that a reconstruction forms of the tiles (R194). -/
def Ex.reals (x : Ex) (k : Bool) (n : Nat) : List Fv :=
  ((x.br.recon k n).zip (expsOf (x.latchOf (readTiles k n))).1).map fun p => reconV p.1 p.2

/-- Results are written to the bank, and their flags set with that of the scales (R194). -/
def Ex.storeRounded (x : Ex) (k : Bool) (n off : Nat) (l : List Res) : Ex :=
  (x.flags (l.foldl (fun z r => z ||| r.fl) (expsOf (x.latchOf (readTiles k n))).2)).bankWords off 4 (l.map (·.code))

theorem storeRounded_ok (x : Ex) (k : Bool) (n off : Nat) (l : List Res) : (x.storeRounded k n off l).ok = x.ok := by
  rw [Ex.storeRounded, bankWords_ok, flags_ok]

theorem mreconF32_does : Does (.mreconF32 g k n a) (.b g) (fun x => x.Readable (readTiles k n.toNat) (x.nat a) 4096) fun x =>
    (readTiles k n.toNat).foldl Ex.readTile
      (x.storeRounded k n.toNat (x.nat a) ((x.reals k n.toNat).map (roundV fp32 0 0))) :=
  recon_does _ (fun _ => rfl) rfl (fun x => by rw [Ex.reals, List.map_map]; rfl) fun _ => storeRounded_ok ..

/-- Values added to words of the bank, one by one. -/
theorem map_zip_read (rd : Nat → Fv) (op : Fv → Fv → Res) (ys : List Nat) (l : List (Int × Int)) :
    ((ys.map rd).zip l).map (fun p => op p.1 (reconV p.2.1 p.2.2)) =
      (ys.zip (l.map fun p => reconV p.1 p.2)).map fun p => op (rd p.1) p.2 := by
  simp only [List.zip_map_left, List.zip_map_right, List.map_map]
  rfl

theorem mreconF32Add_does : Does (.mreconF32Add g k n a) (.b g) (fun x => x.Readable (readTiles k n.toNat) (x.nat a) 4096)
    fun x => (readTiles k n.toNat).foldl Ex.readTile
      (x.storeRounded k n.toNat (x.nat a) (((upTo 1024).zip (x.reals k n.toNat)).map fun p =>
        addV fp32 0 0 (fp32.read (readNat x.br.bank (x.nat a + 4 * p.1) 4)) p.2)) :=
  recon_does _ (fun _ => rfl) rfl
    (fun x => by rw [Ex.reals, ← map_zip_read fun j => fp32.read (readNat x.br.bank (x.nat a + 4 * j) 4)]; rfl)
    fun _ => storeRounded_ok ..

theorem mdrain_does : Does (.mdrain g n a) (.b g) (fun x => x.Readable [n.toNat] (x.nat a) 4096) fun x =>
    (x.bankWords (x.nat a) 4 ((x.br.acc n.toNat).tri.map (·.toNat))).readTile n.toNat :=
  does_of_noSw _ (fun _ => rfl) rfl (fun _ => bankWords_ok ..) fun _ _ _ hp =>
    (drain_readable _ hp).trans (Ex.modAcc_id ..)

theorem mdrainZ_does : Does (.mdrainZ g n a) (.b g) (fun x => x.Readable [n.toNat] (x.nat a) 4096) fun x =>
    ((x.bankWords (x.nat a) 4 ((x.br.acc n.toNat).tri.map (·.toNat))).readTile n.toNat).modAcc n.toNat fun t =>
      { t with before := .empty, words := [], latch := none } :=
  does_of_noSw _ (fun _ => rfl) rfl (fun _ => bankWords_ok ..) fun _ _ _ hp => drain_readable _ hp

end

theorem matrixReadsHeld : Says.MatrixReads := by
  intro g k n d a b tri tiles latch readable reading store real rounded
  have hrounded (x : Ex) (l : List Res) : rounded x l = x.storeRounded k n.toNat (x.nat a) l := by
    simp only [rounded, store, Ex.storeRounded, Ex.bankWords, flags_nat]
    rfl
  refine ⟨result_of (fun x => BitVec.ofNat 64 (trienc (signed 32 (x.nat a)))) (fun _ => rfl) rfl rfl fun _ _ _ => rfl,
    flagged_of (fun _ => rfl) rfl rfl, triOp_flagged _ (fun _ => rfl) rfl rfl, triOp_flagged _ (fun _ => rfl) rfl rfl,
    mreconI64_does, ?_, ?_, ?_⟩
  · simp only [hrounded]
    exact mreconF32_does
  · simp only [hrounded]
    exact mreconF32Add_does
  · rintro rfl
    exact ⟨mdrain_does, mdrainZ_does⟩

/-- Settles O25: the three moduli have no factor in common, so a triad word holds its number; a read of tiles writes what it forms
of them where they may be read. -/
theorem matrixReads : Obligations.MatrixReads := ⟨matrixReadsHeld, triadRoundTrip⟩

end Sys2Proof.Machine
end

section
/-! SUPPORT. Conversions, limbs, packs and headers (R132, R174 to R179). -/

namespace Sys2Proof.Machine

open Sys2Proof

/-! ## Results at the agent's width -/

theorem Ex.w_cases (x : Ex) : x.w = 32 ∨ x.w = 64 := by
  unfold Ex.w
  split
  · exact .inl rfl
  · exact .inr rfl

/-- A number below 2^32 is a word of either width. -/
theorem toNat_ofNat_w (x : Ex) {v : Nat} (h : v < 2 ^ 32) : (BitVec.ofNat x.w v).toNat = v := by
  rw [BitVec.toNat_ofNat]
  rcases x.w_cases with hw | hw <;> rw [hw] <;> exact Nat.mod_eq_of_lt (by omega)

/-- A result of two sources is the number that they give as words of the agent's width (R143). -/
theorem int2_eq (x : Ex) (d a b : Opnd) (f : (w : Nat) → BitVec w → BitVec w → BitVec w) : x.int2 d a b f =
    x.put d (BitVec.ofNat 64 (f x.w (BitVec.ofNat x.w (x.nat a)) (BitVec.ofNat x.w (x.nat b))).toNat) := by
  unfold Ex.int2 Ex.w Ex.nat
  cases x.isB
  · change x.put d (f 64 (x.get a) (x.get b)) =
      x.put d (BitVec.ofNat 64 (f 64 (BitVec.ofNat 64 (x.get a).toNat) (BitVec.ofNat 64 (x.get b).toNat)).toNat)
    simp only [BitVec.ofNat_toNat, BitVec.setWidth_eq]
  · change x.put d ((f 32 ((x.get a).setWidth 32) ((x.get b).setWidth 32)).setWidth 64) =
      x.put d (BitVec.ofNat 64 (f 32 (BitVec.ofNat 32 (x.get a).toNat) (BitVec.ofNat 32 (x.get b).toNat)).toNat)
    simp only [BitVec.ofNat_toNat]

/-- A claim of a result follows from a body that computes it from two sources at the agent's width. -/
theorem result_of_int2 {i : Instr} {g : Guard} {d a b : Opnd} {v : Ex → Nat} (f : (w : Nat) → BitVec w → BitVec w → BitVec w)
    (hx : ∀ s, exec i s = run i g (fun x => x.int2 d a b f) s) (hd : dstOf i = some d) (hl : laneSw i = false)
    (hv : ∀ x : Ex, (f x.w (BitVec.ofNat x.w (x.nat a)) (BitVec.ofNat x.w (x.nat b))).toNat = v x) : Result i g d v :=
  result_of (fun x => BitVec.ofNat 64 (f x.w (BitVec.ofNat x.w (x.nat a)) (BitVec.ofNat x.w (x.nat b))).toNat)
    (fun s => by simp only [hx, int2_eq]) hd hl fun _ x _ => by rw [hv]

/-! ## Fields -/

/-- `unpack` takes one field of a source, with its sign or without (R178). -/
theorem unpack_result {i : Instr} {g : Guard} {d a b : Opnd} (z : Nat) (u : Bool) (hz : z ≤ 32)
    (hx : ∀ s, exec i s = run i g (fun x => x.unpack z u d a b) s) (hd : dstOf i = some d) (hl : laneSw i = false) :
    Result i g d fun x =>
      let v := x.uval a / 2 ^ (z * (x.uval b % (32 / z))) % 2 ^ z
      if u then v else wrapNat x.w (signed z v) :=
  result_of_int2 _ hx hd hl fun x => by
    cases u
    · rfl
    · exact toNat_ofNat_w x (lt_of_lt_of_le (Nat.mod_lt _ (Nat.two_pow_pos z)) (Nat.pow_le_pow_right Nat.two_pos hz))

theorem packH_result (g : Guard) (d a b : Opnd) :
    Result (.packH g d a b) g d fun x => x.uval b % 2 ^ 16 * 2 ^ 16 + x.uval a % 2 ^ 16 :=
  result_of_int2 _ (fun _ => rfl) rfl rfl fun x => by
    have field (o : Opnd) : bitsOf (BitVec.ofNat x.w (x.nat o)).toNat 0 16 = x.uval o % 2 ^ 16 := by
      rw [bitsOf, BitVec.toNat_ofNat, Nat.pow_zero, Nat.div_one, Ex.uval]
    simp only [field]
    exact toNat_ofNat_w x (by omega)

theorem conversions : Says.Conversions := by
  intro g rm k cf ct u d a b
  refine ⟨rounded_of (fun _ => rfl) rfl rfl, rounded_of (fun _ => rfl) rfl rfl, flagged_of (fun _ => rfl) rfl rfl,
    flagged_of (fun _ => rfl) rfl rfl,
    result_of (fun x => BitVec.ofNat 64 (k16Code (ksat (signed x.w (x.nat a)) 16319))) (fun _ => rfl) rfl rfl fun _ _ _ => rfl,
    flagged_of (fun _ => rfl) rfl rfl, packH_result g d a b, unpack_result 16 u (by decide) (fun _ => rfl) rfl rfl,
    unpack_result 8 u (by decide) (fun _ => rfl) rfl rfl, unpack_result 4 u (by decide) (fun _ => rfl) rfl rfl⟩

/-! ## Headers -/

/-- Two words side by side. -/
theorem shiftLeft_or_eq_append (a b : BitVec 32) : b.setWidth 64 <<< 32 ||| a.setWidth 64 = b ++ a := by
  rw [BitVec.append_def, BitVec.shiftLeftZeroExtend_eq]
  rfl

/-- The header that `hdr` writes is the one of R179: B above A, bits [34:32] zero. -/
theorem execHdr_header (x : Ex) (a b : Opnd) :
    (((x.get b).setWidth 32).setWidth 64 <<< 32 ||| ((x.get a).setWidth 32).setWidth 64) &&& ~~~0x700000000#64 = hdrOf x a b := by
  have hmask : ~~~0x700000000#64 = (BitVec.allOnes 29 ++ 0#3) ++ BitVec.allOnes 32 := by decide
  have hb : (x.get b).setWidth 32 = (x.get b).extractLsb' 3 29 ++ (x.get b).extractLsb' 0 3 := by
    rw [BitVec.extractLsb'_append_extractLsb'_eq_extractLsb' (show 3 = 0 + 3 from rfl),
      BitVec.setWidth_eq_extractLsb' (by decide)]
  rw [shiftLeft_or_eq_append, hmask, hb, BitVec.and_append, BitVec.and_append, BitVec.and_allOnes, BitVec.and_allOnes,
    BitVec.and_zero, BitVec.setWidth_eq_extractLsb' (by decide), hdrOf]

theorem hdr_appends (g : BGuard) (n : BitVec 3) (a b : Opnd) :
    Does (.hdr (.b g) (.o n) a b) (.b g) (fun x => x.accepts (.o n) 0) fun x => { x with cx := { x.cx with
      oq := upd x.cx.oq n.toNat fun l => l ++ [⟨.hdr (hdrOf x a b), .a0⟩] } } :=
  does_of_noSw _ (fun _ => rfl) rfl (fun _ => rfl) fun _ x _ hp => by
    simp only [execHdr_header]
    exact pushOut_unseamed hp _ _

theorem hdr_writes (g : SGuard) {d : Opnd} (a b : Opnd) (hd : ∀ q, d ≠ .o q) :
    Result (.hdr (.s g) d a b) (.s g) d fun x => (hdrOf x a b).toNat :=
  result_of (fun x => hdrOf x a b) (fun s => by
    cases d with
    | o q => exact absurd rfl (hd q)
    | _ =>
      simp only [← execHdr_header]
      rfl) rfl rfl fun _ _ _ => by rw [BitVec.ofNat_toNat, BitVec.setWidth_eq]

theorem hdrget_head {g : BGuard} (fld : HdrField) {m : BitVec 3} (d : Opnd) {a : Opnd} (ha : a = .i m ∨ a = .iDeq m) (t : Tok)
    (h : W64) (c : Nat) : Does (.hdrget (.b g) fld d a) (.b g)
      (fun x => x.head m = some (t, h, c) ∧ x.accepts d (hdrField fld h)) fun x => x.put d (hdrField fld h) := by
  refine does_of _ (fun _ => rfl) fun s x hb hp => ⟨?_, stored_putT false (begins_ok hb) hp.2 rfl rfl⟩
  rcases ha with rfl | rfl <;> simp only [hp.1]

theorem hdrget_reg (g : SGuard) (fld : HdrField) (d : Opnd) {a : Opnd} (ha : a.isReg = true) :
    Result (.hdrget (.s g) fld d a) (.s g) d fun x => (hdrField fld (x.get a)).toNat := by
  refine result_of (fun x => hdrField fld (x.get a)) (fun s => ?_) rfl rfl fun _ _ _ => by
    rw [BitVec.ofNat_toNat, BitVec.setWidth_eq]
  cases a with
  | d m | g m => rfl
  | _ => cases ha

theorem headers : Says.Headers := fun g gs fld n _ d a b t h c =>
  ⟨hdr_appends g n a b, hdr_writes gs a b, fun ha => hdrget_head fld d ha t h c, hdrget_reg gs fld d⟩

/-- Settles O19, instruction by instruction from its body. -/
theorem conversionsAndHeaders : Obligations.ConversionsAndHeaders := ⟨conversions, headers⟩

end Sys2Proof.Machine
end

section
/-! SUPPORT. Words of the agent's width (R143): what the integer operations do to the numbers that their sources stand for. -/

namespace Sys2Proof.Machine

open Sys2Proof

/-! ## Sources and results at the agent's width -/

theorem Ex.w_pos (x : Ex) : 0 < x.w := by rcases x.w_cases with hw | hw <;> omega

/-- The number of a source is that of its word. -/
theorem uval_toNat (x : Ex) (o : Opnd) : (BitVec.ofNat x.w (x.nat o)).toNat = x.uval o := BitVec.toNat_ofNat _ _

/-- The signed number of a source is that of its word. -/
theorem sval_toInt (x : Ex) (o : Opnd) : (BitVec.ofNat x.w (x.nat o)).toInt = x.sval o := rfl

theorem uval_lt (x : Ex) (o : Opnd) : x.uval o < 2 ^ x.w := Nat.mod_lt _ (Nat.two_pow_pos _)

/-- A result of one source is the number that it gives as a word of the agent's width (R143). -/
theorem int1_eq (x : Ex) (d a : Opnd) (f : (w : Nat) → BitVec w → BitVec w) : x.int1 d a f =
    x.put d (BitVec.ofNat 64 (f x.w (BitVec.ofNat x.w (x.nat a))).toNat) := int2_eq x d a a fun w u _ => f w u

/-- A claim of a result follows from a body that computes it from one source at the agent's width. -/
theorem result_of_int1 {i : Instr} {g : Guard} {d a : Opnd} {v : Ex → Nat} (f : (w : Nat) → BitVec w → BitVec w)
    (hx : ∀ s, exec i s = run i g (fun x => x.int1 d a f) s) (hd : dstOf i = some d) (hl : laneSw i = false)
    (hv : ∀ x : Ex, (f x.w (BitVec.ofNat x.w (x.nat a))).toNat = v x) : Result i g d v :=
  result_of_int2 (b := a) (fun w u _ => f w u) hx hd hl hv

/-- A claim of a result follows from a body that computes it from two sources and from what the view holds besides. -/
theorem result_of_viewInt2 {i : Instr} {g : Guard} {d a b : Opnd} {v : Ex → Nat}
    (f : Ex → (w : Nat) → BitVec w → BitVec w → BitVec w)
    (hx : ∀ s, exec i s = run i g (fun x => x.int2 d a b (f x)) s) (hd : dstOf i = some d) (hl : laneSw i = false)
    (hv : ∀ x : Ex, (f x x.w (BitVec.ofNat x.w (x.nat a)) (BitVec.ofNat x.w (x.nat b))).toNat = v x) : Result i g d v :=
  result_of (fun x => BitVec.ofNat 64 (f x x.w (BitVec.ofNat x.w (x.nat a)) (BitVec.ofNat x.w (x.nat b))).toNat)
    (fun s => by simp only [hx, int2_eq]) hd hl fun _ x _ => by rw [hv]

/-! ## Words of any width -/

section
variable {w : Nat}

/-- The bits of a word's signed number are the word's. -/
theorem toNat_eq_wrapNat {u : BitVec w} {k : Int} (h : u.toInt = k) : u.toNat = wrapNat w k := by
  rw [← h, wrapNat, BitVec.ofInt_toInt]

/-- A number of `w` bits is that of its word. -/
theorem toNat_ofNat_lt {n : Nat} (h : n < 2 ^ w) : (BitVec.ofNat w n).toNat = n := by
  rw [BitVec.toNat_ofNat, Nat.mod_eq_of_lt h]

theorem toNat_shiftLeft_eq (u : BitVec w) (n : Nat) : (u <<< n).toNat = u.toNat * 2 ^ n % 2 ^ w := by
  rw [BitVec.toNat_shiftLeft, Nat.shiftLeft_eq]

theorem toNat_ushiftRight_eq (u : BitVec w) (n : Nat) : (u >>> n).toNat = u.toNat / 2 ^ n := by
  rw [BitVec.toNat_ushiftRight, Nat.shiftRight_eq_div_pow]

/-- A difference of words wraps the difference of their signed numbers (R147). -/
theorem toNat_sub_eq (u v : BitVec w) : (u - v).toNat = wrapNat w (u.toInt - v.toInt) := by
  rw [wrapNat, Int.sub_eq_add_neg, BitVec.ofInt_add, BitVec.ofInt_neg, BitVec.ofInt_toInt, BitVec.ofInt_toInt,
    BitVec.sub_eq_add_neg]

/-- A sum of a word and a constant wraps the sum of their signed numbers (R147). -/
theorem toNat_add_ofInt (u : BitVec w) (k : Int) : (u + BitVec.ofInt w k).toNat = wrapNat w (u.toInt + k) := by
  rw [wrapNat, BitVec.ofInt_add, BitVec.ofInt_toInt]

/-- The negative of a word wraps that of its signed number (R149). -/
theorem toNat_neg_eq (u : BitVec w) : (-u).toNat = wrapNat w (-u.toInt) := by
  rw [wrapNat, BitVec.ofInt_neg, BitVec.ofInt_toInt]

/-- An arithmetic shift divides the signed number, rounding down (R147). -/
theorem toNat_sshiftRight_eq (u : BitVec w) (n : Nat) : (u.sshiftRight n).toNat = wrapNat w (u.toInt / (2 : Int) ^ n) :=
  toNat_eq_wrapNat (by rw [BitVec.toInt_sshiftRight, Int.shiftRight_eq_div_pow, Nat.cast_pow, Nat.cast_ofNat])

/-- A field above another whose bits it does not reach. -/
theorem toNat_shiftLeft_or (u v : BitVec w) {n : Nat} (hn : n ≤ w) (hv : v.toNat < 2 ^ n) :
    (u <<< n ||| v).toNat = u.toNat * 2 ^ n % 2 ^ w + v.toNat := by
  have hw : 2 ^ w = 2 ^ (w - n) * 2 ^ n := by rw [← Nat.pow_add, Nat.sub_add_cancel hn]
  rw [BitVec.toNat_or, toNat_shiftLeft_eq, hw, Nat.mul_mod_mul_right, Nat.mul_comm, ← Nat.two_pow_add_eq_or_of_lt hv]

/-- The bits that a rotation shifts out come in below (R147). -/
theorem toNat_rotL (u v : BitVec w) (hw : 0 < w) : (rotL w u v).toNat =
    u.toNat * 2 ^ (v.toNat % w) % 2 ^ w + u.toNat / 2 ^ (w - v.toNat % w) := by
  have hk : v.toNat % w ≤ w := (Nat.mod_lt _ hw).le
  rw [rotL, toNat_shiftLeft_or _ _ hk, toNat_ushiftRight_eq]
  rw [toNat_ushiftRight_eq, Nat.div_lt_iff_lt_mul (Nat.two_pow_pos _), ← Nat.pow_add, Nat.add_sub_cancel' hk]
  exact u.isLt

end

end Sys2Proof.Machine
end

section
/-! SUPPORT. Integer sums, moves, bitwise instructions and shifts (R147). -/

namespace Sys2Proof.Machine

open Sys2Proof

/-! ## Moves to the high half -/

/-- `movhi` on a brick: the immediate above the low half of D, in 32 bits (R147). -/
theorem movhi_brick (imm : BitVec 18) (v : W64) :
    (((imm.setWidth 32) <<< 16 ||| (v.setWidth 16).setWidth 32 : W32).setWidth 64 : W64) =
      BitVec.ofNat 64 ((imm.toNat * 2 ^ 16 + v.toNat % 2 ^ 32 % 2 ^ 16) % 2 ^ 32) := by
  have himm := imm.isLt
  have hlow : ((v.setWidth 16).setWidth 32 : W32).toNat = v.toNat % 2 ^ 16 := by
    rw [BitVec.toNat_setWidth, BitVec.toNat_setWidth, Nat.mod_eq_of_lt (by omega)]
  refine BitVec.eq_of_toNat_eq ?_
  rw [BitVec.toNat_setWidth, toNat_shiftLeft_or _ _ (by omega) (by omega), hlow, BitVec.toNat_setWidth, BitVec.toNat_ofNat]
  omega

/-- `movhi` in a thread: the wrapped immediate above the low half of D, in 64 bits (R147). -/
theorem movhi_thread (k : Int) (v : W64) :
    (BitVec.ofInt 64 k <<< 32 ||| (v.setWidth 32).setWidth 64 : W64) =
      BitVec.ofNat 64 ((wrapNat 64 k * 2 ^ 32 + v.toNat % 2 ^ 64 % 2 ^ 32) % 2 ^ 64) := by
  have hlow : ((v.setWidth 32).setWidth 64 : W64).toNat = v.toNat % 2 ^ 32 := by
    rw [BitVec.toNat_setWidth, BitVec.toNat_setWidth, Nat.mod_eq_of_lt (by omega)]
  refine BitVec.eq_of_toNat_eq ?_
  rw [toNat_shiftLeft_or _ _ (by omega) (by omega), hlow, BitVec.toNat_ofNat, wrapNat]
  omega

theorem movhi_result (g : Guard) (d : Opnd) (imm : BitVec 18) : Result (.movhi g d imm) g d fun x =>
    if x.isB then (imm.toNat * 2 ^ 16 + x.uval d % 2 ^ 16) % 2 ^ 32
    else (wrapNat 64 (imm18 g imm) * 2 ^ 32 + x.uval d % 2 ^ 32) % 2 ^ 64 :=
  result_of _ (fun _ => rfl) rfl rfl fun _ x _ => by
    cases hb : x.isB
    · simpa [Ex.uval, Ex.nat, Ex.w, hb] using movhi_thread (imm18 g imm) (x.get d)
    · simpa [Ex.uval, Ex.nat, Ex.w, hb] using movhi_brick imm (x.get d)

/-! ## Sums and moves -/

theorem integerSums : Says.IntegerSums := by
  intro g d a b i12 i18 sh
  refine ⟨result_of_int2 _ (fun _ => rfl) rfl rfl fun x => ?add, result_of_int2 _ (fun _ => rfl) rfl rfl fun x => ?sub,
    result_of_int1 _ (fun _ => rfl) rfl rfl fun x => ?addi, result_of_int2 _ (fun _ => rfl) rfl rfl fun x => ?lea,
    result_of_int1 _ (fun _ => rfl) rfl rfl fun x => ?movi, movhi_result g d i18⟩
  case add => rw [BitVec.toNat_add, uval_toNat, uval_toNat]
  case sub => exact toNat_sub_eq _ _
  case addi => exact toNat_add_ofInt _ _
  case lea => rw [BitVec.toNat_add, toNat_shiftLeft_eq, uval_toNat, uval_toNat, Nat.add_mod_mod]
  case movi => rfl

/-! ## Bitwise instructions and shifts -/

theorem integerBits : Says.IntegerBits := by
  intro g d a b i
  refine ⟨result_of_int2 _ (fun _ => rfl) rfl rfl fun x => ?and, result_of_int1 _ (fun _ => rfl) rfl rfl fun x => ?andi,
    result_of_int2 _ (fun _ => rfl) rfl rfl fun x => ?or, result_of_int1 _ (fun _ => rfl) rfl rfl fun x => ?ori,
    result_of_int2 _ (fun _ => rfl) rfl rfl fun x => ?xor, result_of_int1 _ (fun _ => rfl) rfl rfl fun x => ?xori,
    result_of_int2 _ (fun _ => rfl) rfl rfl fun x => ?shl, result_of_int1 _ (fun _ => rfl) rfl rfl fun x => ?shli,
    result_of_int2 _ (fun _ => rfl) rfl rfl fun x => ?shr, result_of_int1 _ (fun _ => rfl) rfl rfl fun x => ?shri,
    result_of_int2 _ (fun _ => rfl) rfl rfl fun x => ?sra, result_of_int1 _ (fun _ => rfl) rfl rfl fun x => ?srai,
    result_of_int2 _ (fun _ => rfl) rfl rfl fun x => ?rotl⟩
  case and | andi => simp only [BitVec.toNat_and, uval_toNat, wrapNat]
  case or | ori => simp only [BitVec.toNat_or, uval_toNat, wrapNat]
  case xor | xori => simp only [BitVec.toNat_xor, uval_toNat, wrapNat]
  case shl | shli => simp only [toNat_shiftLeft_eq, uval_toNat]
  case shr | shri => simp only [toNat_ushiftRight_eq, uval_toNat]
  case sra | srai => simp only [toNat_sshiftRight_eq, uval_toNat, sval_toInt]
  case rotl => simp only [toNat_rotL _ _ x.w_pos, uval_toNat]

/-- Settles O11, instruction by instruction from its word of the agent's width. -/
theorem integerSumsAndBits : Obligations.IntegerSumsAndBits := ⟨integerSums, integerBits⟩

end Sys2Proof.Machine
end

section
/-! SUPPORT. Integer products, quotients, counts and extremes (R148, R149). -/

namespace Sys2Proof.Machine

open Sys2Proof

section
variable {w : Nat} (u v : BitVec w)

/-! ## Products and quotients -/

theorem toNat_mulhu : (BitVec.ofNat w (u.toNat * v.toNat / 2 ^ w)).toNat = u.toNat * v.toNat / 2 ^ w :=
  toNat_ofNat_lt (Nat.div_lt_of_lt_mul (Nat.mul_lt_mul'' u.isLt v.isLt))

/-- The pattern of all ones. -/
theorem toNat_ofInt_neg_one : (BitVec.ofInt w (-1)).toNat = 2 ^ w - 1 := by
  rw [BitVec.ofInt_neg, ← BitVec.toNat_allOnes, ← BitVec.neg_one_eq_allOnes]
  rfl

theorem toNat_intMin {u : BitVec w} (hw : 0 < w) (h : u.toInt = -(2 : Int) ^ (w - 1)) : u.toNat = 2 ^ (w - 1) := by
  have hpow : 2 ^ w = 2 * 2 ^ (w - 1) := by rw [← Nat.pow_succ', Nat.succ_eq_add_one, Nat.sub_add_cancel hw]
  have hcast : (2 : Int) ^ (w - 1) = ((2 ^ (w - 1) : Nat) : Int) := by norm_cast
  rw [BitVec.toInt_eq_toNat_cond, hcast, hpow] at h
  split at h <;> omega

theorem toNat_divS (hw : 0 < w) : (divS w u v).toNat = if v.toInt = 0 then 2 ^ w - 1
    else if u.toInt = -(2 : Int) ^ (w - 1) ∧ v.toInt = -1 then 2 ^ (w - 1) else wrapNat w (u.toInt.tdiv v.toInt) := by
  unfold divS
  split
  · exact toNat_ofInt_neg_one
  · split
    next h => exact toNat_intMin hw h.1
    next => rfl

theorem toNat_remS : (remS w u v).toNat = if v.toInt = 0 then u.toNat
    else if u.toInt = -(2 : Int) ^ (w - 1) ∧ v.toInt = -1 then 0 else wrapNat w (u.toInt.tmod v.toInt) := by
  unfold remS
  rw [Int.tmod_def]
  split
  · rfl
  · split <;> rfl

theorem toNat_divU : (divU w u v).toNat = if v.toNat = 0 then 2 ^ w - 1 else u.toNat / v.toNat := by
  unfold divU
  split
  · exact toNat_ofNat_lt (Nat.sub_lt (Nat.two_pow_pos w) Nat.one_pos)
  · exact toNat_ofNat_lt ((Nat.div_le_self _ _).trans_lt u.isLt)

theorem toNat_remU : (remU w u v).toNat = if v.toNat = 0 then u.toNat else u.toNat % v.toNat := by
  unfold remU
  split
  · rfl
  · exact toNat_ofNat_lt ((Nat.mod_le _ _).trans_lt u.isLt)

/-! ## Counts -/

/-- The leading zeros among the lowest `n` bits end at the first one from above (R149). -/
theorem leadingZeros_eq (n : Nat) :
    leadingZeros u n = ((upTo n).find? fun k => u.toNat.testBit (n - (k + 1))).getD n := by
  induction n with
  | zero => rfl
  | succ n ih =>
    rw [leadingZeros, ih]
    simp only [upTo, List.range_succ_eq_map, List.find?_cons, List.find?_map, Function.comp_def, Nat.succ_eq_add_one,
      Nat.add_sub_add_right, Nat.sub_zero, BitVec.testBit_toNat]
    cases u.getLsbD n
    · cases (List.range n).find? fun k => u.getLsbD (n - (k + 1)) <;> simp [Nat.add_comm]
    · rfl

/-- The trailing zeros from bit `i` on end at the first one from below (R149). -/
theorem trailingZeros_eq (n : Nat) : ∀ i, 
    trailingZeros u n i = ((upTo n).find? fun k => u.toNat.testBit (k + i)).getD n := by
  induction n with
  | zero => exact fun _ => rfl
  | succ n ih =>
    intro i
    have hadd (k : Nat) : k + 1 + i = k + (i + 1) := by omega
    rw [trailingZeros, ih]
    simp only [upTo, List.range_succ_eq_map, List.find?_cons, List.find?_map, Function.comp_def, Nat.succ_eq_add_one, hadd,
      Nat.zero_add, BitVec.testBit_toNat]
    cases u.getLsbD i
    · cases (List.range n).find? fun k => u.getLsbD (k + (i + 1)) <;> simp [Nat.add_comm]
    · rfl

/-- The ones among the lowest `n` bits (R149). -/
theorem onesCount_eq (n : Nat) : onesCount u n = ((upTo n).filter fun k => u.toNat.testBit k).length := by
  induction n with
  | zero => rfl
  | succ n ih =>
    rw [onesCount, ih]
    simp only [upTo, List.range_succ, List.filter_append, List.length_append, List.filter_singleton, BitVec.testBit_toNat]
    cases u.getLsbD n <;> simp [Nat.add_comm]

/-! ## Extremes -/

theorem toNat_min : (if v.slt u then v else u).toNat = wrapNat w (Min.min u.toInt v.toInt) :=
  toNat_eq_wrapNat (by
    rw [BitVec.slt_eq_decide]
    by_cases h : v.toInt < u.toInt
    · simp [h, min_eq_right h.le]
    · simp [h, min_eq_left (not_lt.1 h)])

theorem toNat_max : (if u.slt v then v else u).toNat = wrapNat w (Max.max u.toInt v.toInt) :=
  toNat_eq_wrapNat (by
    rw [BitVec.slt_eq_decide]
    by_cases h : u.toInt < v.toInt
    · simp [h, max_eq_right h.le]
    · simp [h, max_eq_left (not_lt.1 h)])

theorem toNat_minu : (if v.ult u then v else u).toNat = Nat.min u.toNat v.toNat := by
  rw [BitVec.ult_eq_decide]
  by_cases h : v.toNat < u.toNat
  · simp [h, Nat.min_eq_right h.le]
  · simp [h, Nat.min_eq_left (not_lt.1 h)]

theorem toNat_maxu : (if u.ult v then v else u).toNat = Nat.max u.toNat v.toNat := by
  rw [BitVec.ult_eq_decide]
  by_cases h : u.toNat < v.toNat
  · simp [h, Nat.max_eq_right h.le]
  · simp [h, Nat.max_eq_left (not_lt.1 h)]

end

/-- A count of the bits of a word of the agent's width fits the width. -/
theorem toNat_ofNat_count (x : Ex) {n : Nat} (h : n ≤ x.w) : (BitVec.ofNat x.w n).toNat = n :=
  toNat_ofNat_lt (h.trans_lt Nat.lt_two_pow_self)

/-- The place that a search in a range finds, or the range's end, is at most the end. -/
theorem find?_upTo_le (n : Nat) (p : Nat → Bool) : ((upTo n).find? p).getD n ≤ n := by
  cases h : (upTo n).find? p with
  | none => exact le_rfl
  | some k => exact (List.mem_range.1 (List.mem_of_find?_eq_some h)).le

/-! ## The instructions -/

theorem integerProducts : Says.IntegerProducts := by
  intro g d a b
  refine ⟨result_of_int2 _ (fun _ => rfl) rfl rfl fun x => ?mul, result_of_int2 _ (fun _ => rfl) rfl rfl fun x => ?mulh,
    result_of_int2 _ (fun _ => rfl) rfl rfl fun x => ?mulhu, result_of_int2 _ (fun _ => rfl) rfl rfl fun x => ?div,
    result_of_int2 _ (fun _ => rfl) rfl rfl fun x => ?divu, result_of_int2 _ (fun _ => rfl) rfl rfl fun x => ?rem,
    result_of_int2 _ (fun _ => rfl) rfl rfl fun x => ?remu⟩
  case mul | mulh => rfl
  case mulhu => exact toNat_mulhu _ _
  case div => exact toNat_divS _ _ x.w_pos
  case divu => exact toNat_divU _ _
  case rem => exact toNat_remS _ _
  case remu => exact toNat_remU _ _

theorem integerCounts : Says.IntegerCounts := by
  intro g d a b
  refine ⟨result_of_int1 _ (fun _ => rfl) rfl rfl fun x => ?clz, result_of_int1 _ (fun _ => rfl) rfl rfl fun x => ?ctz,
    result_of_int1 _ (fun _ => rfl) rfl rfl fun x => ?popc, result_of_int2 _ (fun _ => rfl) rfl rfl fun x => ?min,
    result_of_int2 _ (fun _ => rfl) rfl rfl fun x => ?max, result_of_int2 _ (fun _ => rfl) rfl rfl fun x => ?minu,
    result_of_int2 _ (fun _ => rfl) rfl rfl fun x => ?maxu, result_of_int1 _ (fun _ => rfl) rfl rfl fun x => ?abs,
    result_of_int1 _ (fun _ => rfl) rfl rfl fun x => ?neg⟩
  case clz =>
    have hsub (k : Nat) : x.w - 1 - k = x.w - (k + 1) := by omega
    rw [leadingZeros_eq, uval_toNat, toNat_ofNat_count x (find?_upTo_le _ _)]
    simp only [hsub]
  case ctz =>
    rw [trailingZeros_eq, uval_toNat, toNat_ofNat_count x (find?_upTo_le _ _)]
    rfl
  case popc =>
    rw [onesCount_eq, uval_toNat]
    exact toNat_ofNat_count x ((List.length_filter_le _ _).trans_eq List.length_range)
  case min => exact toNat_min _ _
  case max => exact toNat_max _ _
  case minu => exact toNat_minu _ _
  case maxu => exact toNat_maxu _ _
  case abs => rw [sval_toInt, wrapNat, BitVec.ofInt_natCast]
  case neg => exact toNat_neg_eq _

/-- Settles O12, instruction by instruction from its word of the agent's width. -/
theorem integerProductsAndCounts : Obligations.IntegerProductsAndCounts := ⟨integerProducts, integerCounts⟩

end Sys2Proof.Machine
end

section
/-! SUPPORT. Integer compares, bit fields and saturating sums (R150 to R152). -/

namespace Sys2Proof.Machine

open Sys2Proof

/-! ## Compares -/

section
variable {w : Nat}

/-- What a compare asks of the numbers that two words stand for (R150). -/
def Cond.Holds (c : Cond) (u v : BitVec w) : Prop :=
  match c with
  | .eq => u.toNat = v.toNat
  | .ne => ¬ u.toNat = v.toNat
  | .lt => u.toInt < v.toInt
  | .ltu => u.toNat < v.toNat
  | .le => u.toInt ≤ v.toInt
  | .leu => u.toNat ≤ v.toNat

theorem cmpInt_holds (c : Cond) (u v : BitVec w) : cmpInt c u v = true ↔ Cond.Holds c u v := by
  cases c with
  | eq => rw [cmpInt, beq_iff_eq, Cond.Holds, BitVec.toNat_inj]
  | ne => rw [cmpInt, bne_iff_ne, Cond.Holds, BitVec.toNat_inj]
  | lt => exact BitVec.slt_iff_toInt_lt
  | ltu => exact BitVec.ult_iff_lt
  | le => exact BitVec.sle_iff_toInt_le
  | leu => exact BitVec.ule_iff_le

/-- A compare writes 1 where its test holds, else 0 (R150). -/
theorem toNat_cmp (hw : 0 < w) (c : Cond) (u v : BitVec w) {p : Prop} [Decidable p] (h : Cond.Holds c u v ↔ p) :
    (ofBool w (cmpInt c u v)).toNat = if p then 1 else 0 := by
  rw [← cmpInt_holds] at h
  simp only [← h]
  cases cmpInt c u v
  · exact BitVec.toNat_zero
  · exact toNat_ofNat_lt (Nat.one_lt_two_pow hw.ne')

/-- The signed number of a word's bits. -/
theorem signed_toNat (u : BitVec w) : signed w u.toNat = u.toInt := by
  rw [signed, BitVec.ofNat_toNat, BitVec.setWidth_eq]

theorem signed_mod_two_pow (n : Nat) : signed w (n % 2 ^ w) = signed w n :=
  congrArg BitVec.toInt (BitVec.eq_of_toNat_eq (by rw [BitVec.toNat_ofNat, BitVec.toNat_ofNat, Nat.mod_mod]))

end

theorem cmp_result {i : Instr} {g : Guard} {d a b : Opnd} (c : Cond) {p : Ex → Prop} [DecidablePred p]
    (hx : ∀ s, exec i s = run i g (fun x => x.cmp c d a b) s) (hd : dstOf i = some d) (hl : laneSw i = false)
    (hp : ∀ x : Ex, Cond.Holds c (BitVec.ofNat x.w (x.nat a)) (BitVec.ofNat x.w (x.nat b)) ↔ p x) :
    Result i g d fun x => if p x then 1 else 0 :=
  result_of_int2 _ hx hd hl fun x => toNat_cmp x.w_pos c _ _ (hp x)

theorem cmpImm_result {i : Instr} {g : Guard} {d a : Opnd} (c : Cond) (k : Int) {p : Ex → Prop} [DecidablePred p]
    (hx : ∀ s, exec i s = run i g (fun x => x.cmpImm c d a k) s) (hd : dstOf i = some d) (hl : laneSw i = false)
    (hp : ∀ x : Ex, Cond.Holds c (BitVec.ofNat x.w (x.nat a)) (BitVec.ofInt x.w k) ↔ p x) :
    Result i g d fun x => if p x then 1 else 0 :=
  result_of_int1 (fun w u => ofBool w (cmpInt c u (BitVec.ofInt w k))) hx hd hl fun x => toNat_cmp x.w_pos c _ _ (hp x)

theorem integerCompares : Says.IntegerCompares := by
  intro g d a b i
  simp only [← ite_not (_ = _) 1 0]
  refine ⟨cmp_result .eq (fun _ => rfl) rfl rfl fun x => ?eq, cmp_result .ne (fun _ => rfl) rfl rfl fun x => ?ne,
    cmp_result .lt (fun _ => rfl) rfl rfl fun x => ?lt, cmp_result .ltu (fun _ => rfl) rfl rfl fun x => ?ltu,
    cmp_result .le (fun _ => rfl) rfl rfl fun x => ?le, cmp_result .leu (fun _ => rfl) rfl rfl fun x => ?leu,
    cmpImm_result .eq _ (fun _ => rfl) rfl rfl fun x => ?eqi, cmpImm_result .ne _ (fun _ => rfl) rfl rfl fun x => ?nei,
    cmpImm_result .lt _ (fun _ => rfl) rfl rfl fun x => ?lti, cmpImm_result .ltu _ (fun _ => rfl) rfl rfl fun x => ?ltui,
    cmpImm_result .le _ (fun _ => rfl) rfl rfl fun x => ?lei, cmpImm_result .leu _ (fun _ => rfl) rfl rfl fun x => ?leui⟩
  case lti | lei => rw [Cond.Holds, wrapNat, signed_toNat, sval_toInt]
  all_goals simp only [Cond.Holds, uval_toNat, sval_toInt, wrapNat]

/-! ## Bit fields -/

/-- The place and the used width that a word names (R151). -/
theorem fieldAt_eq {w : Nat} (hw : w = 32 ∨ w = 64) (v : BitVec w) :
    fieldAt w v = (v.toNat % w, Nat.min (v.toNat / 2 ^ 8 % w + 1) (w - v.toNat % w)) := by
  rcases hw with rfl | rfl <;> simp [fieldAt, bitsOf]

/-- The place and the used width that a source names (R151). -/
theorem fieldAt_field (x : Ex) (b : Opnd) : fieldAt x.w (BitVec.ofNat x.w (x.nat b)) = x.field b := by
  rw [fieldAt_eq x.w_cases, uval_toNat, Ex.field]

/-- The field of a source ends within its word (R151). -/
theorem field_end_le (x : Ex) (b : Opnd) : (x.field b).1 + (x.field b).2 ≤ x.w :=
  (Nat.add_le_add_left (Nat.min_le_right _ _) _).trans_eq (Nat.add_sub_cancel' (Nat.mod_lt _ x.w_pos).le)

/-- A field inserted in a word: the bits of its mask are the other word's, the rest stay (R151). -/
def insertField {w : Nat} (old u : BitVec w) (p n : Nat) : BitVec w :=
  (old &&& ~~~(BitVec.ofNat w (2 ^ n - 1) <<< p)) ||| ((u <<< p) &&& (BitVec.ofNat w (2 ^ n - 1) <<< p))

/-- The mask of a field has the field's bits (R151). -/
theorem getLsbD_fieldMask {w p n : Nat} (h : p + n ≤ w) (i : Nat) :
    (BitVec.ofNat w (2 ^ n - 1) <<< p).getLsbD i = decide (p ≤ i ∧ i < p + n) := by
  rw [BitVec.getLsbD_shiftLeft, BitVec.getLsbD_ofNat, Nat.testBit_two_pow_sub_one]
  simp only [← decide_not, ← Bool.decide_and, decide_eq_decide]
  omega

theorem getLsbD_insertField {w : Nat} (old u : BitVec w) {p n : Nat} (h : p + n ≤ w) (i : Nat) :
    (insertField old u p n).getLsbD i = if p ≤ i ∧ i < p + n then u.getLsbD (i - p) else old.getLsbD i := by
  rw [insertField, BitVec.getLsbD_or, BitVec.getLsbD_and, BitVec.getLsbD_and, BitVec.getLsbD_not, getLsbD_fieldMask h,
    BitVec.getLsbD_shiftLeft]
  by_cases hi : p ≤ i ∧ i < p + n
  · have hw : i < w := by omega
    simp only [hi, hw, Nat.not_lt.2 hi.1, and_self, decide_true, decide_false, Bool.not_true, Bool.not_false, Bool.and_false,
      Bool.and_true, Bool.true_and, Bool.false_or, if_true]
  · have hw : (old.getLsbD i && decide (i < w)) = old.getLsbD i := by
      by_cases hw : i < w
      · simp [hw]
      · simp [hw, BitVec.getLsbD_of_ge old i (Nat.not_lt.1 hw)]
    simp only [hi, decide_false, Bool.not_false, Bool.and_true, Bool.and_false, Bool.or_false, if_false, hw]

/-- A number with a field replaced is its part above the field, the other number's low bits, and its part below. -/
theorem insert_parts (o u p n : Nat) : o - o / 2 ^ p % 2 ^ n * 2 ^ p + u % 2 ^ n * 2 ^ p =
    2 ^ p * (2 ^ n * (o / 2 ^ p / 2 ^ n) + u % 2 ^ n) + o % 2 ^ p := by
  have ho : o = 2 ^ p * (2 ^ n * (o / 2 ^ p / 2 ^ n)) + o % 2 ^ p + o / 2 ^ p % 2 ^ n * 2 ^ p := by
    have hmid := Nat.div_add_mod (o / 2 ^ p) (2 ^ n)
    have hlow := Nat.div_add_mod o (2 ^ p)
    rw [← hmid] at hlow
    linarith
  rw [Nat.sub_eq_of_eq_add ho]
  ring

/-- Inserting a field in a word, on its number (R151). -/
theorem toNat_insertField {w : Nat} (old u : BitVec w) {p n : Nat} (h : p + n ≤ w) : (insertField old u p n).toNat =
    old.toNat - old.toNat / 2 ^ p % 2 ^ n * 2 ^ p + u.toNat % 2 ^ n * 2 ^ p := by
  have hlow : old.toNat % 2 ^ p < 2 ^ p := Nat.mod_lt _ (Nat.two_pow_pos p)
  have hfield : u.toNat % 2 ^ n < 2 ^ n := Nat.mod_lt _ (Nat.two_pow_pos n)
  refine Nat.eq_of_testBit_eq fun i => ?_
  rw [insert_parts, BitVec.testBit_toNat, getLsbD_insertField old u h, Nat.testBit_two_pow_mul_add _ hlow,
    Nat.testBit_two_pow_mul_add _ hfield]
  simp only [Nat.testBit_mod_two_pow, Nat.testBit_div_two_pow, BitVec.testBit_toNat]
  by_cases hp : i < p
  · simp only [hp, Nat.not_le.2 hp, false_and, if_false, if_true, decide_true, Bool.true_and]
  · by_cases hn : i - p < n
    · have hi : p ≤ i ∧ i < p + n := by omega
      simp only [hp, hn, hi, and_self, if_true, if_false, decide_true, Bool.true_and]
    · have hi : ¬ (p ≤ i ∧ i < p + n) := by omega
      have hsum : i - p - n + n + p = i := by omega
      simp only [hp, hn, hi, if_false, hsum]

theorem bfx_result (g : Guard) (d a b : Opnd) : Result (.bfx g d a b) g d fun x =>
    let (p, v) := x.field b
    x.uval a / 2 ^ p % 2 ^ v :=
  result_of_int2 _ (fun _ => rfl) rfl rfl fun x => by
    simp only [fieldAt_field, uval_toNat, bitsOf]
    exact toNat_ofNat_lt (((Nat.mod_le _ _).trans (Nat.div_le_self _ _)).trans_lt (uval_lt x a))

theorem bfxS_result (g : Guard) (d a b : Opnd) : Result (.bfxS g d a b) g d fun x =>
    let (p, v) := x.field b
    wrapNat x.w (signed v (x.uval a / 2 ^ p)) :=
  result_of_int2 _ (fun _ => rfl) rfl rfl fun x => by
    simp only [wrapNat, fieldAt_field, uval_toNat, bitsOf, signed_mod_two_pow]

theorem bfi_result (g : Guard) (d a b : Opnd) : Result (.bfi g d a b) g d fun x =>
    let (p, v) := x.field b
    x.uval d - x.uval d / 2 ^ p % 2 ^ v * 2 ^ p + x.uval a % 2 ^ v * 2 ^ p :=
  result_of_viewInt2 (fun x w u v => insertField ((x.get d).setWidth w) u (fieldAt w v).1 (fieldAt w v).2)
    (fun _ => rfl) rfl rfl fun x => by
    have hold : ((x.get d).setWidth x.w).toNat = x.uval d := BitVec.toNat_setWidth _ _
    rw [fieldAt_field, toNat_insertField _ _ (field_end_le x b), hold, uval_toNat]

theorem integerFields : Says.IntegerFields := fun g d a b =>
  ⟨bfx_result g d a b, bfxS_result g d a b, bfi_result g d a b, result_of_int2 _ (fun _ => rfl) rfl rfl fun _ => rfl,
    result_of_int2 _ (fun _ => rfl) rfl rfl fun _ => rfl⟩

/-- Settles O13, instruction by instruction from its word of the agent's width. -/
theorem integerComparesAndFields : Obligations.IntegerComparesAndFields := ⟨integerCompares, integerFields⟩

end Sys2Proof.Machine
end

section
/-! SUPPORT. Words that the spec writes out (R144, R196, R213, R342). -/

namespace Sys2Proof.Machine

open Sys2Proof

/-- Settles O3, by decoding each of the nine words. -/
theorem specWords : Obligations.SpecWords := ⟨rfl, rfl, rfl, rfl, rfl, rfl, rfl, rfl, rfl⟩

end Sys2Proof.Machine
end

section
/-! SUPPORT. Scalar floating point (R153 to R159), and the addend of the fused forms (R144). -/

namespace Sys2Proof.Machine

open Sys2Proof

/-! ## Rounded results -/

/-- A fused form with a register as its destination rounds with the register's old value (R144). -/
theorem ffma_rounded (g : Guard) (f : FFmt) (rm : Rm) {d : Opnd} (a b : Opnd) (hd : d.isReg = true) :
    Rounded (.ffma g f rm d a b) g rm d fun x m r =>
      fmaV (fmtOf f) m r (x.fv f a) (x.fv f b) ((fmtOf f).read (x.nat d)) :=
  rounded_of (fun s => by
    cases d with
    | d n | g n => rfl
    | _ => cases hd) rfl rfl

theorem ffms_rounded (g : Guard) (f : FFmt) (rm : Rm) {d : Opnd} (a b : Opnd) (hd : d.isReg = true) :
    Rounded (.ffms g f rm d a b) g rm d fun x m r =>
      fmaV (fmtOf f) m r (x.fv f a) (x.fv f b) ((fmtOf f).read (x.nat d)).negate :=
  rounded_of (fun s => by
    cases d with
    | d n | g n => rfl
    | _ => cases hd) rfl rfl

theorem floatRounded : Says.FloatRounded := fun g f rm _ _ a b =>
  ⟨rounded_of (fun _ => rfl) rfl rfl, rounded_of (fun _ => rfl) rfl rfl, rounded_of (fun _ => rfl) rfl rfl,
    rounded_of (fun _ => rfl) rfl rfl, rounded_of (fun _ => rfl) rfl rfl, rounded_of (fun _ => rfl) rfl rfl,
    rounded_of (fun _ => rfl) rfl rfl, rounded_of (fun _ => rfl) rfl rfl, rounded_of (fun _ => rfl) rfl rfl,
    rounded_of (fun _ => rfl) rfl rfl, rounded_of (fun _ => rfl) rfl rfl, rounded_of (fun _ => rfl) rfl rfl,
    fun hd => ⟨ffma_rounded g f rm a b hd, ffms_rounded g f rm a b hd⟩⟩

/-! ## Results that round nothing -/

/-- A number says how two values stand to each other: below, equal or above. -/
def IsOrder (k : Int) : Prop := k = -1 ∨ k = 0 ∨ k = 1

theorem IsOrder.ite {p : Prop} [Decidable p] {j k : Int} (hj : IsOrder j) (hk : IsOrder k) : IsOrder (if p then j else k) := by
  split
  · exact hj
  · exact hk

/-- The order of two values is below, equal or above. -/
theorem cmpV_isOrder (a b : Fv) : IsOrder (cmpV a b) :=
  have below : IsOrder (-1) := .inl rfl
  have equal : IsOrder 0 := .inr (.inl rfl)
  have above : IsOrder 1 := .inr (.inr rfl)
  (below.ite above).ite (equal.ite (below.ite (equal.ite above)))

theorem cmpV_eq_neg_one (a b : Fv) : (cmpV a b == -1) = decide (cmpV a b < 0) := by
  rcases cmpV_isOrder a b with h | h | h <;> rw [h] <;> rfl

theorem cmpV_ne_one (a b : Fv) : (cmpV a b != 1) = decide (cmpV a b ≤ 0) := by
  rcases cmpV_isOrder a b with h | h | h <;> rw [h] <;> rfl

/-- A claim about a compare follows from what it tests and when it sets NV (R158). -/
theorem fcmp_tests {i : Instr} {g : Guard} {f : FFmt} {d a b : Opnd} (c : FCond) {v nv : Ex → Bool}
    (hx : ∀ s, exec i s = run i g (fun x => x.fcmp f c d a b) s) (hd : dstOf i = some d) (hl : laneSw i = false)
    (hc : ∀ x : Ex, cmpF c (x.fv f a) (x.fv f b) = (v x, if nv x then flNV else 0)) :
    Does i g (fun x => (x.flags (if nv x then 0x10 else 0)).accepts d (if v x then 1 else 0))
      fun x => (x.flags (if nv x then 0x10 else 0)).put d (if v x then 1 else 0) :=
  does_of _ hx fun _ x h hp =>
    ⟨by rw [Ex.fcmp, hc]; rfl, stored_putT false ((flags_ok x _).trans (begins_ok h)) hp hd hl⟩

theorem floatPlain : Says.FloatPlain := fun g f num d a b =>
  ⟨result_of _ (fun _ => rfl) rfl rfl fun _ _ _ => rfl, result_of _ (fun _ => rfl) rfl rfl fun _ _ _ => rfl,
    result_of _ (fun _ => rfl) rfl rfl fun _ _ _ => rfl, flagged_of (fun _ => rfl) rfl rfl, flagged_of (fun _ => rfl) rfl rfl,
    fcmp_tests .eq (fun _ => rfl) rfl rfl fun _ => rfl,
    fcmp_tests .lt (fun _ => rfl) rfl rfl fun _ => by rw [cmpF, cmpV_eq_neg_one],
    fcmp_tests .le (fun _ => rfl) rfl rfl fun _ => by rw [cmpF, cmpV_ne_one],
    fcmp_tests .un (fun _ => rfl) rfl rfl fun _ => rfl⟩

/-! ## The head of IB as the addend -/

/-- What flags and a drawn random value leave of a view that a destination asks about: the guard with its arm, and the
seams. -/
theorem flags_served (x : Ex) (fl : BitVec 8) : (x.flags fl).served = x.served := by
  unfold Ex.flags
  split <;> rfl

theorem flags_seamed (x : Ex) (fl : BitVec 8) : (x.flags fl).cx.seamed = x.cx.seamed := by
  unfold Ex.flags
  split <;> rfl

theorem drawN_served (x : Ex) : x.drawN.1.served = x.served := by
  unfold Ex.drawN
  split <;> rfl

theorem drawN_seamed (x : Ex) : x.drawN.1.cx.seamed = x.cx.seamed := by
  unfold Ex.drawN
  split <;> rfl

theorem rounded_served (x : Ex) (rm : Nat) (f : Nat → Nat → Res) : (x.rounded rm f).1.served = x.served := by
  have draw (b : Bool) : (if b = true then x.drawN.1 else x).served = x.served := by cases b <;> simp [drawN_served]
  unfold Ex.rounded
  split <;> simp only [flags_served, draw]

theorem rounded_seamed (x : Ex) (rm : Nat) (f : Nat → Nat → Res) : (x.rounded rm f).1.cx.seamed = x.cx.seamed := by
  have draw (b : Bool) : (if b = true then x.drawN.1 else x).cx.seamed = x.cx.seamed := by cases b <;> simp [drawN_seamed]
  unfold Ex.rounded
  split <;> simp only [flags_seamed, draw]

/-- A destination other than `sw` takes any result where its queue carries no seam (R69). -/
theorem accepts_of_seamed {x y : Ex} {d : Opnd} (hd : d ≠ .sw) (v w : W64) (hs : y.cx.seamed = x.cx.seamed)
    (h : x.accepts d v) : y.accepts d w := by
  cases d with
  | o n =>
    rw [Ex.accepts, hs]
    exact h
  | sw => exact absurd rfl hd
  | _ => trivial

/-- The firing dequeues the head of its guard's IB as its addend, once with the operands that dequeue it (R144). -/
def Ex.dropHead (y : Ex) (g : BGuard) (a b : Opnd) : Ex :=
  if a = .iDeq g.ib ∨ b = .iDeq g.ib then y else { y with cx := y.cx.deq y.br g.ib false }

theorem dropAddend_eq {y : Ex} {d a b : Opnd} (hd : d.isReg = false) (hy : y.ok = true) :
    y.dropAddend d [a, b] = y.dropHead y.g a b := by
  have hc : (!y.ok || [a, b].contains (.iDeq y.g.ib)) = true ↔ a = .iDeq y.g.ib ∨ b = .iDeq y.g.ib := by
    simp only [hy, Bool.not_true, Bool.false_or, List.contains_iff_mem, List.mem_cons, List.not_mem_nil, or_false,
      @eq_comm _ (Opnd.iDeq y.g.ib)]
  rw [Ex.dropHead, ← if_congr hc rfl rfl]
  cases d with
  | d n | g n => cases hd
  | _ => rfl

theorem addend_head {x : Ex} {d : Opnd} (hd : d.isReg = false) : x.addend d = x.get (.i x.g.ib) := by
  cases d with
  | d n | g n => cases hd
  | _ => rfl

/-- A claim about a firing that takes its addend from the head of IB follows from the result `r'` that its body writes
before the head is dequeued. -/
theorem does_dropping {i : Instr} {g : BGuard} {d a b : Opnd} (hd : d.isReg = false) (hsw : d ≠ .sw) (r r' : Ex → Ex × W64)
    (hx : ∀ s, exec i s = run i (.b g) (fun x => ((r x).1.put d (r x).2).dropAddend d [a, b]) s)
    (hdst : dstOf i = some d) (hl : laneSw i = false) (hr : ∀ x : Ex, x.g = g → x.w = 32 → r x = r' x)
    (hok : ∀ x, (r' x).1.ok = x.ok) (hserved : ∀ x, (r' x).1.served = x.served)
    (hseam : ∀ x, (r' x).1.cx.seamed = x.cx.seamed) :
    Does i (.b g) (fun x => x.accepts d 0) fun x => ((r' x).1.put d (r' x).2).dropHead g a b := by
  refine does_of _ hx fun _ x h hp => ?_
  obtain ⟨_, _, _, _, _, hb, _, _, _, _, _, hg, -⟩ := begins_brick h
  have hacc : (r' x).1.accepts d (r' x).2 := accepts_of_seamed hsw _ _ (hseam x) hp
  have hy : ((r' x).1.put d (r' x).2).ok = true := putT_ok false ((hok x).trans (begins_ok h)) (.inr hacc)
  have hyg : ((r' x).1.put d (r' x).2).g = g := by
    have hput : ((r' x).1.put d (r' x).2).served = (r' x).1.served := putT_served _ _ _ _
    exact (congrArg Prod.fst (hput.trans (hserved x))).trans hg
  have hw : writesSw i = false := by simp [writesSw, hl, hdst, hsw]
  refine ⟨by rw [hr x hg (if_pos hb), dropAddend_eq hd hy, hyg], ?_⟩
  rw [stored_same hw, Ex.dropHead]
  split <;> exact hy

/-- A fused multiplication with the code of its addend: the view after its one rounding, and the result (R154). -/
def Ex.fused (x : Ex) (f : FFmt) (rm : Rm) (neg : Bool) (a b : Opnd) (c : Nat) : Ex × W64 :=
  let v := (fmtOf f).read c
  let y := x.rounded (x.mode rm) fun m r => fmaV (fmtOf f) m r (x.fv f a) (x.fv f b) (if neg then v.negate else v)
  (y.1, BitVec.ofNat 64 y.2)

/-- A fused multiplication in a brick with the head of IB as its addend (R144, R154). -/
theorem fused_drops {i : Instr} {g : BGuard} {f : FFmt} {rm : Rm} {neg : Bool} {d a b : Opnd} (hd : d.isReg = false)
    (hsw : d ≠ .sw) (hx : ∀ s, exec i s = run i (.b g) (fun x => x.fp3 f rm d a b neg) s) (hdst : dstOf i = some d)
    (hl : laneSw i = false) : Does i (.b g) (fun x => x.accepts d 0) fun x =>
      let y := x.fused f rm neg a b (x.nat (.i g.ib))
      (y.1.put d y.2).dropHead g a b :=
  does_dropping hd hsw (fun x => x.fused f rm neg a b (x.addend d).toNat) (fun x => x.fused f rm neg a b (x.nat (.i g.ib)))
    hx hdst hl (fun x hg _ => by rw [addend_head hd, hg, Ex.nat]) (fun x => rounded_ok x _ _)
    (fun x => rounded_served x _ _) fun x => rounded_seamed x _ _

/-- An integer result in a brick with the head of IB as its addend (R144). -/
theorem int2_drops {i : Instr} {g : BGuard} {d a b : Opnd} {v : Ex → Nat} (hd : d.isReg = false) (hsw : d ≠ .sw)
    (f : W64 → (w : Nat) → BitVec w → BitVec w → BitVec w)
    (hx : ∀ s, exec i s = run i (.b g) (fun x => (x.int2 d a b (f (x.addend d))).dropAddend d [a, b]) s)
    (hdst : dstOf i = some d) (hl : laneSw i = false)
    (hv : ∀ x : Ex, x.w = 32 →
      (f (x.get (.i g.ib)) x.w (BitVec.ofNat x.w (x.nat a)) (BitVec.ofNat x.w (x.nat b))).toNat = v x) :
    Does i (.b g) (fun x => x.accepts d 0) fun x => (x.put d (BitVec.ofNat 64 (v x))).dropHead g a b :=
  does_dropping hd hsw
    (fun x => (x, BitVec.ofNat 64 (f (x.addend d) x.w (BitVec.ofNat x.w (x.nat a)) (BitVec.ofNat x.w (x.nat b))).toNat))
    (fun x => (x, BitVec.ofNat 64 (v x))) (fun s => by simp only [hx, int2_eq]) hdst hl
    (fun x hg hw => by rw [addend_head hd, hg, hv x hw]) (fun _ => rfl) (fun _ => rfl) fun _ => rfl

/-! ## Sums and packs with an addend -/

/-- What `madd` adds to its addend (R147). -/
def maddWord (c : W64) (w : Nat) (u v : BitVec w) : BitVec w := c.setWidth w + BitVec.ofInt w (u.toInt * v.toInt)

/-- What a narrow `pack` of fields of `z` bits puts below its addend (R178). -/
def packWord (z : Nat) (c : W64) (w : Nat) (u v : BitVec w) : BitVec w :=
  (c.setWidth w <<< (2 * z)) ||| BitVec.ofNat w (bitsOf v.toNat 0 z * 2 ^ z + bitsOf u.toNat 0 z)

theorem toNat_maddWord (c : W64) {w : Nat} (u v : BitVec w) :
    (maddWord c w u v).toNat = wrapNat w ((c.toNat % 2 ^ w : Nat) + u.toInt * v.toInt) := by
  rw [maddWord, wrapNat, BitVec.ofInt_add, BitVec.ofInt_natCast, ← BitVec.toNat_setWidth, BitVec.ofNat_toNat,
    BitVec.setWidth_eq]

theorem toNat_packWord {z : Nat} (c : W64) {w : Nat} (hz : 2 * z ≤ w) (u v : BitVec w) : (packWord z c w u v).toNat =
    c.toNat % 2 ^ w * 2 ^ (2 * z) % 2 ^ w + v.toNat % 2 ^ z * 2 ^ z + u.toNat % 2 ^ z := by
  have hlow : v.toNat % 2 ^ z * 2 ^ z + u.toNat % 2 ^ z < 2 ^ (2 * z) := by
    have hv : v.toNat % 2 ^ z < 2 ^ z := Nat.mod_lt _ (Nat.two_pow_pos z)
    have hu : u.toNat % 2 ^ z < 2 ^ z := Nat.mod_lt _ (Nat.two_pow_pos z)
    rw [Nat.two_mul, Nat.pow_add]
    exact (Nat.add_lt_add_left hu _).trans_le ((Nat.succ_mul _ _).symm.trans_le (Nat.mul_le_mul_right _ hv))
  have hfit := toNat_ofNat_lt (hlow.trans_le (Nat.pow_le_pow_right Nat.two_pos hz))
  rw [packWord, bitsOf, bitsOf, Nat.pow_zero, Nat.div_one, Nat.div_one, toNat_shiftLeft_or _ _ hz (hfit.trans_lt hlow), hfit,
    BitVec.toNat_setWidth, Nat.add_assoc]

/-- A claim about a result with the old value of its register as the addend (R144). -/
theorem result_of_addend {i : Instr} {g : Guard} {d a b : Opnd} {v : Ex → Nat} (hd : d.isReg = true)
    (f : W64 → (w : Nat) → BitVec w → BitVec w → BitVec w)
    (hx : ∀ s, exec i s = run i g (fun x => (x.int2 d a b (f (x.addend d))).dropAddend d [a, b]) s) (hdst : dstOf i = some d)
    (hl : laneSw i = false)
    (hv : ∀ x : Ex, (f (x.get d) x.w (BitVec.ofNat x.w (x.nat a)) (BitVec.ofNat x.w (x.nat b))).toNat = v x) :
    Result i g d v := by
  refine result_of_viewInt2 (fun x => f (x.get d)) (fun s => ?_) hdst hl hv
  rw [hx]
  cases d with
  | d n | g n => rfl
  | _ => cases hd

theorem two_z_le_w (x : Ex) {z : Nat} (hz : z ≤ 16) : 2 * z ≤ x.w := by rcases x.w_cases with hw | hw <;> omega

/-- With the head of IB as the addend, in the 32 bits of a brick (R144). -/
theorem addend_of_head (g : BGuard) {d : Opnd} (a b : Opnd) (hd : d.isReg = false) (hsw : d ≠ .sw) :
    (Does (.madd (.b g) d a b) (.b g) (fun x => x.accepts d 0) fun x =>
      (x.put d (BitVec.ofNat 64 (wrapNat 32 ((x.uval (.i g.ib) : Int) + x.sval a * x.sval b)))).dropHead g a b) ∧
    (Does (.packB (.b g) d a b) (.b g) (fun x => x.accepts d 0) fun x => (x.put d (BitVec.ofNat 64
      (x.uval (.i g.ib) % 2 ^ 16 * 2 ^ 16 + x.uval b % 2 ^ 8 * 2 ^ 8 + x.uval a % 2 ^ 8))).dropHead g a b) ∧
    Does (.packN (.b g) d a b) (.b g) (fun x => x.accepts d 0) fun x => (x.put d (BitVec.ofNat 64
      (x.uval (.i g.ib) % 2 ^ 24 * 2 ^ 8 + x.uval b % 2 ^ 4 * 2 ^ 4 + x.uval a % 2 ^ 4))).dropHead g a b := by
  refine ⟨int2_drops hd hsw maddWord (fun _ => rfl) rfl rfl fun x hw => ?madd,
    int2_drops hd hsw (packWord 8) (fun _ => rfl) rfl rfl fun x hw => ?packB,
    int2_drops hd hsw (packWord 4) (fun _ => rfl) rfl rfl fun x hw => ?packN⟩
  case madd =>
    rw [toNat_maddWord, sval_toInt, sval_toInt, Ex.uval, hw]
    rfl
  case packB =>
    rw [toNat_packWord _ (two_z_le_w x (by omega)), uval_toNat, uval_toNat, ← Ex.nat, ← Ex.uval, hw]
    omega
  case packN =>
    rw [toNat_packWord _ (two_z_le_w x (by omega)), uval_toNat, uval_toNat, ← Ex.nat, ← Ex.uval, hw]
    omega

/-- With a register's old value as the addend (R144). -/
theorem addend_of_register (g : Guard) {d : Opnd} (a b : Opnd) (hd : d.isReg = true) :
    Result (.madd g d a b) g d (fun x => wrapNat x.w ((x.uval d : Int) + x.sval a * x.sval b)) ∧
    Result (.packB g d a b) g d (fun x =>
      x.uval d * 2 ^ 16 % 2 ^ x.w + x.uval b % 2 ^ 8 * 2 ^ 8 + x.uval a % 2 ^ 8) ∧
    Result (.packN g d a b) g d (fun x =>
      x.uval d * 2 ^ 8 % 2 ^ x.w + x.uval b % 2 ^ 4 * 2 ^ 4 + x.uval a % 2 ^ 4) := by
  refine ⟨result_of_addend hd maddWord (fun _ => rfl) rfl rfl fun x => ?madd,
    result_of_addend hd (packWord 8) (fun _ => rfl) rfl rfl fun x => ?packB,
    result_of_addend hd (packWord 4) (fun _ => rfl) rfl rfl fun x => ?packN⟩
  case madd => exact toNat_maddWord _ _ _
  case packB | packN =>
    rw [toNat_packWord _ (two_z_le_w x (by omega)), uval_toNat, uval_toNat]
    rfl

theorem addends : Says.Addends := by
  refine ⟨fun g f rm neg i d a b hd hsw => ⟨fun hi => ?_, addend_of_head g a b hd hsw⟩, addend_of_register⟩
  cases neg with
  | false =>
    subst hi
    exact fused_drops hd hsw (fun _ => rfl) rfl rfl
  | true =>
    subst hi
    exact fused_drops hd hsw (fun _ => rfl) rfl rfl

/-- Settles O17, instruction by instruction from its body. -/
theorem floatResults : Obligations.FloatResults := ⟨floatRounded, floatPlain, addends⟩

end Sys2Proof.Machine
end

section
/-! SUPPORT. Lane-wise stream instructions (R165, R168, R169): one beat of results, and the fault of a port of another format. -/

namespace Sys2Proof.Machine

open Sys2Proof

/-! ## Beats -/

/-- The ports of a list carry a lane format (R168). -/
def Ex.Carries (x : Ex) (v : VFmt) (l : List Nat) : Prop := ∀ p ∈ l, x.cx0.portFmt p = some (vCode v)

/-- The ports of a beat: those that its operands read, and `sw` where it writes lanes (R165). -/
def beatPorts (i : Instr) : List Nat := vecPorts i ++ if laneSw i then [2] else []

theorem otherFormat_iff (x : Ex) (v : VFmt) (l : List Nat) :
    (l.any fun p => x.cx0.portFmt p != some (vCode v)) = true ↔ ¬ x.Carries v l := by
  simp [Ex.Carries]

/-- A beat whose ports carry its format computes its results, advances the ports that it reads, and gives the results
out (R165). -/
theorem beat_eq {x : Ex} {i : Instr} {v : VFmt} (h : x.Carries v (beatPorts i)) (f : Ex → Nat → Ex × List Nat)
    (out : Ex → List Nat → Ex) : x.beat i v f out =
      let n := beatLen i x.cx0 (vLanes v)
      out ((f x n).1.advanceAll n (vecPorts i)) (f x n).2 :=
  if_neg (mt (otherFormat_iff x v _).1 (not_not.2 h))

/-- A beat with a port of another format faults (R168). -/
theorem beat_mismatch {x : Ex} {i : Instr} {v : VFmt} (h : ¬ x.Carries v (beatPorts i)) (f : Ex → Nat → Ex × List Nat)
    (out : Ex → List Nat → Ex) : x.beat i v f out = x.fmtFault :=
  if_pos ((otherFormat_iff x v _).2 h)

/-- A claim about a beat of lanes follows from the results that its body computes where the ports carry its format. -/
theorem laneResult_of {i : Instr} {g : BGuard} {v : VFmt} {r : Ex → Nat → Ex × List Nat} (f : Ex → Nat → Ex × List Nat)
    (hx : ∀ s, exec i s = run i (.b g) (fun x => x.beat i v f Ex.putSw) s) (hl : laneSw i = true)
    (hr : ∀ x n, x.Carries v (vecPorts i) → f x n = r x n) : LaneResult i g v r := by
  have hports : beatPorts i = vecPorts i ++ [2] := by rw [beatPorts, hl, if_pos rfl]
  refine ⟨does_of _ hx fun _ x _ hp => ⟨?_, hp.2⟩, faults_of_raise _ hx fun x hp => ?_⟩
  · have hfits : x.Carries v (beatPorts i) := hports ▸ hp.1
    simp only [beat_eq hfits, hr x _ fun p hm => hp.1 p (List.mem_append_left _ hm)]
  · exact beat_mismatch (hports ▸ hp) _ _

/-! ## Lanes -/

/-- The first lane of a beat is computed before the rest (R121). -/
theorem each_cons {α : Type} (x : Ex) (f : Ex → α → Ex × Nat) (a : α) (r : List α) :
    x.each f (a :: r) = (((f x a).1.each f r).1, (f x a).2 :: ((f x a).1.each f r).2) := rfl

/-- Lanes that neither round nor set flags are computed one by one. -/
theorem each_map {α : Type} (x : Ex) (h : α → Nat) (l : List α) : x.each (fun x a => (x, h a)) l = (x, l.map h) := by
  induction l with
  | nil => rfl
  | cons a r ih => rw [each_cons, ih, List.map_cons]

theorem laneSum_float (rm : Rm) (f : FFmt) (sub : Bool) :
    laneSum rm (vOf f) sub = lane2 rm (fmtOf f) (if sub then subV else addV) := by cases f <;> rfl

theorem laneMinMax_float (f : FFmt) (big num : Bool) :
    laneMinMax (vOf f) big num = fun x p => lanePlain x (minmaxV (fmtOf f) big num p.1 p.2) := by cases f <;> rfl

theorem laneSign_float (f : FFmt) (neg : Bool) : laneSign (vOf f) neg = fun x a => (x, signOp (fmtOf f) neg a) := by
  cases f <;> rfl

/-- A port that carries a format gives as many elements as a beat asks (R162). -/
theorem elems_length {k : Ctx} {br : Brick} {p c : Nat} (h : k.portFmt p = some c) (n : Nat) :
    (k.elems br p n).length = n := by
  unfold Ctx.portFmt at h
  unfold Ctx.elems
  split
  · rw [List.length_map, upTo, List.length_range]
  next hd =>
    rw [hd] at h
    cases hq : k.patOf p with
    | none => simp [hq] at h
    | some q => simp [upTo]

/-- A vector operand's port is one that the instruction reads. -/
theorem mem_vecPorts {i : Instr} {o : Opnd} {p : Nat} (ho : o ∈ srcsOf i) (hp : vPort o = some p) : p ∈ vecPorts i := by
  have hc : (o = .sa ∧ p = 0) ∨ (o = .sb ∧ p = 1) := by
    cases o with
    | sa => exact .inl ⟨rfl, (Option.some.inj hp).symm⟩
    | sb => exact .inr ⟨rfl, (Option.some.inj hp).symm⟩
    | _ => cases hp
  rcases hc with ⟨rfl, rfl⟩ | ⟨rfl, rfl⟩
  · unfold vecPorts
    split <;> simp [ho]
  · unfold vecPorts
    split <;> simp [ho]

/-- A source has one lane for each of a beat (R165, R167). -/
theorem lane_length {x : Ex} {i : Instr} {v : VFmt} {o : Opnd} (h : x.Carries v (vecPorts i)) (ho : o ∈ srcsOf i) (n : Nat) :
    (x.lane n o).length = n := by
  unfold Ex.lane
  cases hp : vPort o with
  | none => exact List.length_replicate
  | some p => exact elems_length (h p (mem_vecPorts ho hp)) n

/-- `vsel` takes each lane from A or B as the mask says (R169). -/
theorem select_lanes (m : W64) {n : Nat} {l r : List Nat} (hl : l.length = n) (hr : r.length = n) :
    ((l.zip r).zip (upTo n)).map (fun pl => if m.getLsbD pl.2 then pl.1.1 else pl.1.2) =
      (upTo n).map fun j => if m.getLsbD j then nth l j 0 else nth r j 0 := by
  refine List.ext_getElem (by simp [upTo, hl, hr]) fun j hj _ => ?_
  have hj : j < n := by simpa [upTo, hl, hr] using hj
  simp [upTo, nth, hl, hr, hj]

/-! ## The instructions -/

/-- Settles O21, instruction by instruction from the lanes of its beat. -/
theorem streamLanes : Obligations.StreamLanes := by
  intro g v f rm num a b
  refine ⟨laneResult_of _ (fun _ => rfl) rfl fun x n _ => ?vadd, laneResult_of _ (fun _ => rfl) rfl fun x n _ => ?vsub,
    laneResult_of _ (fun _ => rfl) rfl fun _ _ _ => rfl, laneResult_of _ (fun _ => rfl) rfl fun _ _ _ => rfl,
    laneResult_of _ (fun _ => rfl) rfl fun _ _ _ => rfl, laneResult_of _ (fun _ => rfl) rfl fun x n _ => ?vmin,
    laneResult_of _ (fun _ => rfl) rfl fun x n _ => ?vmax, laneResult_of _ (fun _ => rfl) rfl fun x n _ => ?vabs,
    laneResult_of _ (fun _ => rfl) rfl fun x n _ => ?vneg, laneResult_of _ (fun _ => rfl) rfl fun _ _ _ => rfl,
    laneResult_of _ (fun _ => rfl) rfl fun _ _ _ => rfl, laneResult_of _ (fun _ => rfl) rfl fun x n h => ?vsel,
    laneResult_of _ (fun _ => rfl) rfl fun x _ _ => each_map x _ _,
    laneResult_of _ (fun _ => rfl) rfl fun x _ _ => each_map x _ _,
    laneResult_of _ (fun _ => rfl) rfl fun x _ _ => each_map x _ _,
    laneResult_of _ (fun _ => rfl) rfl fun x _ _ => each_map x _ _,
    laneResult_of _ (fun _ => rfl) rfl fun x _ _ => each_map x _ _,
    laneResult_of _ (fun _ => rfl) rfl fun x _ _ => each_map x _ _⟩
  case vadd | vsub =>
    rw [laneSum_float]
    rfl
  case vmin | vmax =>
    rw [laneMinMax_float]
    rfl
  case vabs | vneg =>
    rw [laneSign_float]
    exact each_map x _ _
  case vsel =>
    have ha : a ∈ [a, b] := List.mem_cons_self
    have hb : b ∈ [a, b] := List.mem_cons_of_mem a List.mem_cons_self
    rw [select_lanes x.mask (lane_length h ha n) (lane_length h hb n)]

end Sys2Proof.Machine
end

section
/-! SUPPORT. The fixed tree of a beat (R171): what its levels leave at each place, and the tree of a beat from the trees of its
parts. -/

namespace Sys2Proof.Machine

open Sys2Proof

section
variable (op : Nat → Nat → Nat)

/-- One level of the tree at distance `t` on values alone, at the places of a list in turn. -/
def pairLevel (t : Nat) : List Nat → List Nat → List Nat
  | [], v => v
  | l :: r, v =>
    if l % (2 * t) = 0 ∧ l + t < v.length then pairLevel t r (v.set l (op (nth v l 0) (nth v (l + t) 0)))
    else pairLevel t r v

/-- An operation that draws nothing leaves the view alone in a level. -/
theorem level_pure (x : Ex) (t : Nat) (ls : List Nat) : ∀ v,
    x.level (fun x p q => (x, op p q)) t ls v = (x, pairLevel op t ls v) := by
  induction ls with
  | nil => exact fun _ => rfl
  | cons l r ih =>
    intro v
    unfold Ex.level pairLevel
    split
    · exact ih _
    · exact ih _

theorem pairLevel_length (t : Nat) (ls : List Nat) : ∀ v, (pairLevel op t ls v).length = v.length := by
  induction ls with
  | nil => exact fun _ => rfl
  | cons l r ih =>
    intro v
    unfold pairLevel
    split
    · rw [ih, List.length_set]
    · exact ih v

theorem nth_set {l : List Nat} {i j v : Nat} (hi : i < l.length) : nth (l.set i v) j 0 = if j = i then v else nth l j 0 := by
  unfold nth
  by_cases h : j = i
  · subst h
    simp [hi]
  · simp [List.getD_eq_getElem?_getD, List.getElem?_set_ne (Ne.symm h), h]

/-- A level joins each multiple of twice its distance that it names with the place at its distance, and no other: the places
that it reads beside them are no such multiples. -/
theorem nth_pairLevel {t : Nat} (ht : 0 < t) (b : Nat) (ls : List Nat) : ∀ v, ls.Nodup → nth (pairLevel op t ls v) b 0 =
    if b ∈ ls ∧ b % (2 * t) = 0 ∧ b + t < v.length then op (nth v b 0) (nth v (b + t) 0) else nth v b 0 := by
  induction ls with
  | nil => exact fun _ _ => by simp [pairLevel]
  | cons l r ih =>
    intro v hn
    obtain ⟨hl, hr⟩ := List.nodup_cons.1 hn
    unfold pairLevel
    split
    next h =>
      obtain ⟨hmul, hlt⟩ := h
      rw [ih _ hr, List.length_set, nth_set (by omega), nth_set (by omega)]
      by_cases hb : b = l
      · subst hb
        simp [hl, hmul, hlt]
      · have hother : b % (2 * t) = 0 → b + t ≠ l := by
          intro hb0 he
          rw [← he, Nat.add_mod, hb0, Nat.zero_add, Nat.mod_mod, Nat.mod_eq_of_lt (by omega)] at hmul
          omega
        by_cases hc : b ∈ r ∧ b % (2 * t) = 0 ∧ b + t < v.length
        · simp [hc, hb, hother hc.2.1]
        · simp [hc, hb]
    next h =>
      rw [ih _ hr]
      by_cases hb : b = l
      · subst hb
        simp [hl, h]
      · simp [hb]

/-- The value at place `b` after the first `k` levels of the tree of a beat (R171). -/
def joins (v : List Nat) : Nat → Nat → Nat
  | 0, b => nth v b 0
  | k + 1, b => if b + 2 ^ k < v.length then op (joins v k b) (joins v k (b + 2 ^ k)) else joins v k b

/-- The first `k` levels of the tree, as it performs them. -/
def firstLevels (x : Ex) (v : List Nat) (k : Nat) : Ex × List Nat :=
  ((List.range k).map (2 ^ ·)).foldl (fun (a : Ex × List Nat) t =>
    if t < v.length then a.1.level (fun x p q => (x, op p q)) t (upTo v.length) a.2 else a) (x, v)

theorem firstLevels_succ (x : Ex) (v : List Nat) (k : Nat) : firstLevels op x v (k + 1) =
    if 2 ^ k < v.length then
      (firstLevels op x v k).1.level (fun x p q => (x, op p q)) (2 ^ k) (upTo v.length) (firstLevels op x v k).2
    else firstLevels op x v k := by
  simp only [firstLevels, List.range_succ, List.map_append, List.foldl_append, List.map_cons, List.map_nil, List.foldl_cons,
    List.foldl_nil]

/-- The first `k` levels leave the view alone, and the joined values at the multiples of `2^k`. -/
theorem firstLevels_joins (x : Ex) (v : List Nat) (k : Nat) : (firstLevels op x v k).1 = x ∧
    (firstLevels op x v k).2.length = v.length ∧ ∀ b, 2 ^ k ∣ b → nth (firstLevels op x v k).2 b 0 = joins op v k b := by
  induction k with
  | zero => exact ⟨rfl, rfl, fun _ _ => rfl⟩
  | succ k ih =>
    obtain ⟨hx, hlen, hval⟩ := ih
    rw [firstLevels_succ]
    split
    · rw [level_pure, pairLevel_length]
      refine ⟨hx, hlen, fun b hb => ?_⟩
      have hdvd : 2 ^ k ∣ b := (pow_dvd_pow 2 k.le_succ).trans hb
      have hmod : b % (2 * 2 ^ k) = 0 := Nat.mod_eq_zero_of_dvd (by rwa [← Nat.pow_succ'])
      change nth (pairLevel op (2 ^ k) (upTo v.length) _) b 0 = _
      rw [nth_pairLevel op (Nat.two_pow_pos k) b (upTo v.length) _ List.nodup_range, hlen, hval b hdvd,
        hval (b + 2 ^ k) (hdvd.add (dvd_refl _)), joins]
      refine if_congr ⟨fun h => h.2.2, fun h => ⟨List.mem_range.2 (by omega), hmod, h⟩⟩ rfl rfl
    next h =>
      refine ⟨hx, hlen, fun b hb => ?_⟩
      rw [hval b ((pow_dvd_pow 2 k.le_succ).trans hb), joins, if_neg (by omega)]

/-- The tree of a beat is what its seven levels join at the first place (R171). -/
theorem tree_eq_joins (x : Ex) (v : List Nat) : x.tree (fun x p q => (x, op p q)) v = (x, joins op v 7 0) := by
  obtain ⟨hx, -, hval⟩ := firstLevels_joins op x v 7
  exact Prod.ext hx (hval 0 (dvd_zero _))

/-! ## The parts of a beat -/

/-- Levels past the end of a beat join nothing. -/
theorem joins_past (v : List Nat) {j k : Nat} (hv : v.length ≤ 2 ^ j) (hk : j ≤ k) : joins op v k 0 = joins op v j 0 := by
  induction k, hk using Nat.le_induction with
  | base => rfl
  | succ k hk ih =>
    have hp : 2 ^ j ≤ 2 ^ k := Nat.pow_le_pow_right Nat.two_pos hk
    rw [joins, if_neg (by omega), ih]

/-- What is joined past a place is joined in the beat without what stands before it. -/
theorem joins_drop (v : List Nat) (c k : Nat) : ∀ b, joins op (v.drop c) k b = joins op v k (c + b) := by
  induction k with
  | zero => exact fun b => by simp [joins, nth, List.getD_eq_getElem?_getD]
  | succ k ih =>
    intro b
    have hp := Nat.two_pow_pos k
    rw [joins, joins, ih, ih, List.length_drop, ← Nat.add_assoc]
    exact if_congr (by omega) rfl rfl

/-- What is joined before a place is joined in the beat without what stands from it on. -/
theorem joins_take (v : List Nat) (m k : Nat) : ∀ b, b + 2 ^ k ≤ m → joins op (v.take m) k b = joins op v k b := by
  induction k with
  | zero => exact fun b hb => by simp [joins, nth, List.getD_eq_getElem?_getD, show b < m by omega]
  | succ k ih =>
    intro b hb
    have hp := Nat.two_pow_pos k
    rw [Nat.pow_succ] at hb
    rw [joins, joins, ih b (by omega), ih (b + 2 ^ k) (by omega), List.length_take]
    exact if_congr (by omega) rfl rfl

/-- The tree of a beat joins the tree of its first `2^j` lanes with that of the rest (R171). -/
theorem tree_split (x : Ex) {l : List Nat} {j : Nat} (hlo : 2 ^ j < l.length) (hhi : l.length ≤ 2 ^ (j + 1))
    (hmax : l.length ≤ 128) : x.tree (fun x p q => (x, op p q)) l =
      (x, op (x.tree (fun x p q => (x, op p q)) (l.take (2 ^ j))).2 (x.tree (fun x p q => (x, op p q)) (l.drop (2 ^ j))).2) := by
  have hj : j < 7 := (Nat.pow_lt_pow_iff_right (a := 2) (by decide)).1 (hlo.trans_le hmax)
  have htake : (l.take (2 ^ j)).length ≤ 2 ^ j := List.length_take_le _ _
  have hdrop : (l.drop (2 ^ j)).length ≤ 2 ^ j := by
    rw [List.length_drop, Nat.pow_succ] at *
    omega
  simp only [tree_eq_joins]
  rw [joins_past op l hhi hj, joins_past op _ htake hj.le, joins_past op _ hdrop hj.le, joins_take op l _ j 0 (by omega),
    joins_drop, joins, if_pos (by omega), Nat.zero_add, Nat.add_zero]

end

/-- Four lanes are joined in two pairs, and the pairs then (R171). -/
theorem tree_four (x : Ex) (draw : Ex → Nat → Nat → Ex × Nat) (a b c d : Nat) : x.tree draw [a, b, c, d] =
    (let p := draw x a b
     let q := draw p.1 c d
     draw q.1 p.2 q.2) := by
  simp [Ex.tree, Ex.level, upTo, nth, List.range_succ]

theorem streamTree : Says.StreamTree := fun x op draw a b c d _ _ => ⟨rfl, tree_split op x, tree_four x draw a b c d⟩

end Sys2Proof.Machine
end

section
/-! SUPPORT. Masks, reductions, scans and the conversions between ports (R170 to R173). -/

namespace Sys2Proof.Machine

open Sys2Proof

/-! ## What lanes keep -/

/-- What each lane of a beat keeps of a view, the beat keeps. -/
theorem each_keeps {α β : Type} (q : Ex → β) {f : Ex → α → Ex × Nat} (hf : ∀ x a, q (f x a).1 = q x) (l : List α) :
    ∀ x : Ex, q (x.each f l).1 = q x := by
  induction l with
  | nil => exact fun _ => rfl
  | cons a r ih => exact fun x => (ih _).trans (hf x a)

/-- What an operation keeps of a view, a level of the tree keeps. -/
theorem level_keeps {β : Type} (q : Ex → β) {op : Ex → Nat → Nat → Ex × Nat} (hop : ∀ x a b, q (op x a b).1 = q x)
    (t : Nat) (ls : List Nat) : ∀ (x : Ex) (v : List Nat), q (x.level op t ls v).1 = q x := by
  induction ls with
  | nil => exact fun _ _ => rfl
  | cons l r ih =>
    intro x v
    unfold Ex.level
    split
    · exact (ih _ _).trans (hop x _ _)
    · exact ih x v

/-- What an operation keeps of a view, the tree keeps. -/
theorem tree_keeps {β : Type} (q : Ex → β) {op : Ex → Nat → Nat → Ex × Nat} (hop : ∀ x a b, q (op x a b).1 = q x)
    (x : Ex) (v : List Nat) : q (x.tree op v).1 = q x := by
  have levels (ts : List Nat) : ∀ a : Ex × List Nat, q (ts.foldl (fun (a : Ex × List Nat) t =>
      if t < v.length then a.1.level op t (upTo v.length) a.2 else a) a).1 = q a.1 := by
    induction ts with
    | nil => exact fun _ => rfl
    | cons t r ih =>
      intro a
      rw [List.foldl_cons, ih]
      split
      · exact level_keeps q hop t _ _ _
      · rfl
  exact levels [1, 2, 4, 8, 16, 32, 64] (x, v)

theorem lanePlain_ok (x : Ex) (r : Res) : (lanePlain x r).1.ok = x.ok := flags_ok x r.fl

theorem liftLane_ok (v : VFmt) (x : Ex) (a : Nat) : (liftLane v x a).1.ok = x.ok := by
  cases v with
  | bf16 | f16 => exact lanePlain_ok x _
  | f32 | i8 => rfl

theorem lane2_ok (rm : Rm) (f : FpFmt) (op : FpFmt → Nat → Nat → Fv → Fv → Res) (x : Ex) (p : Nat × Nat) :
    (lane2 rm f op x p).1.ok = x.ok := rounded_ok x _ _

theorem redSum_ok (rm : Rm) (v : VFmt) (x : Ex) (a b : Nat) : (redSum rm v x a b).1.ok = x.ok := by
  cases v with
  | i8 => rfl
  | _ => exact lane2_ok rm fp32 addV x (a, b)

theorem redMax_ok (v : VFmt) (num : Bool) (x : Ex) (a b : Nat) : (redMax v num x a b).1.ok = x.ok := by
  cases v with
  | i8 => rfl
  | _ => exact lanePlain_ok x _

theorem redAmax_ok (x : Ex) (a b : Nat) : (redAmax x a b).1.ok = x.ok := (lanePlain_ok _ _).trans (flags_ok x _)

theorem flags_bank (x : Ex) (fl : BitVec 8) : (x.flags fl).bank = x.bank := by
  unfold Ex.flags
  split <;> rfl

/-- A test of a lane leaves the view alone, or sets flags (R170). -/
theorem laneCmp_view (v : VFmt) (c : FCond) (x : Ex) (p : Nat × Nat) :
    (laneCmp v c x p).1 = x ∨ ∃ fl, (laneCmp v c x p).1 = x.flags fl := by
  cases v with
  | i8 => exact .inl rfl
  | _ => exact .inr ⟨_, rfl⟩

/-- What flags keep of a view, a test of a lane keeps. -/
theorem laneCmp_keeps {β : Type} (q : Ex → β) (hq : ∀ x fl, q (Ex.flags x fl) = q x) (v : VFmt) (c : FCond) (x : Ex)
    (p : Nat × Nat) : q (laneCmp v c x p).1 = q x := by
  rcases laneCmp_view v c x p with h | ⟨fl, h⟩
  · rw [h]
  · rw [h, hq]

theorem advance_seamed (k : Ctx) (p n : Nat) : (k.advance p n).seamed = k.seamed := by
  unfold Ctx.advance
  split <;> rfl

theorem advanceAll_seamed (x : Ex) (n : Nat) (l : List Nat) : (x.advanceAll n l).cx.seamed = x.cx.seamed :=
  List.foldlRecOn (motive := fun k : Ctx => k.seamed = x.cx.seamed) _ _ rfl fun k hk p _ => (advance_seamed k p n).trans hk

theorem advanceAll_ok (x : Ex) (n : Nat) (l : List Nat) : (x.advanceAll n l).ok = x.ok := rfl

/-! ## Reductions (R171) -/

/-- A beat combined by the tree, before its register is: the view and the tree's value (R171). -/
def Ex.treeOfBeat (x : Ex) (i : Instr) (v : VFmt) (a : Opnd) (op : Ex → Nat → Nat → Ex × Nat) : Ex × Nat :=
  let n := beatLen i x.cx0 (vLanes v)
  let y := x.each (liftLane v) (x.lane n a)
  (y.1.advanceAll n (vecPorts i)).tree op y.2

/-- A claim about a reduction follows from its body: the beat is combined by the tree, and its value into the register. -/
theorem reduction_of {i : Instr} {g : BGuard} {v : VFmt} {n : BitVec 4} {a : Opnd} {op : Ex → Nat → Nat → Ex × Nat}
    (hx : ∀ s, exec i s = run i (.b g) (fun x => x.reduce i v (.d n) a (liftLane v) op) s) (hd : dstOf i = some (.d n))
    (hl : laneSw i = false) (hop : ∀ x p q, (op x p q).1.ok = x.ok) :
    Does i (.b g) (fun x => ∀ p ∈ vecPorts i, x.cx0.portFmt p = some (vCode v)) fun x =>
      let z := x.treeOfBeat i v a op
      let r := op z.1 (x.nat (.d n)) z.2
      r.1.put (.d n) (BitVec.ofNat 64 r.2) := by
  have hports : beatPorts i = vecPorts i := by rw [beatPorts, hl, if_neg Bool.false_ne_true, List.append_nil]
  refine does_of _ hx fun _ x h hp => ⟨?_, stored_putT false ?_ trivial hd hl⟩
  · rw [Ex.reduce, beat_eq (hports ▸ hp)]
    rfl
  · calc (op (x.treeOfBeat i v a op).1 (x.nat (.d n)) (x.treeOfBeat i v a op).2).1.ok
      _ = (x.treeOfBeat i v a op).1.ok := hop _ _ _
      _ = (x.each (liftLane v) (x.lane (beatLen i x.cx0 (vLanes v)) a)).1.ok := tree_keeps Ex.ok hop _ _
      _ = x.ok := each_keeps Ex.ok (liftLane_ok v) _ x
      _ = true := begins_ok h

/-! ## Masks and scans (R170, R172) -/

/-- The lane mask of a bank, as the tests of a beat set it (R170). -/
def Ex.setMask (x : Ex) (bank : BitVec 2) (l : List Nat) : Ex :=
  { x with cx := { x.cx with lm := x.cx.lm.set bank.toNat (BitVec.ofNat 64 (maskOf l)) } }

theorem setMask_ok (x : Ex) (bank : BitVec 2) (l : List Nat) : (x.setMask bank l).ok = x.ok := rfl

theorem setMask_seamed (x : Ex) (bank : BitVec 2) (l : List Nat) : (x.setMask bank l).cx.seamed = x.cx.seamed := rfl

theorem vcmp_masks (g : BGuard) (v : VFmt) (c : FCond) (a b : Opnd) {e : Opnd} (he : e ≠ .sw) :
    let i : Instr := .vcmp g v c e a b
    Does i (.b g) (fun x => (∀ p ∈ vecPorts i, x.cx0.portFmt p = some (vCode v)) ∧ x.accepts e 0) fun x =>
      let n := beatLen i x.cx0 (vLanes v)
      let y := x.each (laneCmp v c) ((x.lane n a).zip (x.lane n b))
      ((y.1.advanceAll n (vecPorts i)).setMask x.bank y.2).put e (BitVec.ofNat 64 y.2.sum) := by
  intro i
  have hports : beatPorts i = vecPorts i := List.append_nil _
  have hw : writesSw i = false := beq_eq_false_iff_ne.2 fun h : some e = some .sw => he (Option.some.inj h)
  refine does_of (fun x => x.beat i v (fun x n => x.each (laneCmp v c) ((x.lane n a).zip (x.lane n b)))
    fun x l => (x.setMask x.bank l).put e (BitVec.ofNat 64 (l.foldl (· + ·) 0))) (fun _ => rfl) fun _ x h hp => ?_
  have keeps {β : Type} (q : Ex → β) (hq : ∀ x fl, q (Ex.flags x fl) = q x) (l : List (Nat × Nat)) :
      q (x.each (laneCmp v c) l).1 = q x := each_keeps q (laneCmp_keeps q hq v c) l x
  have hbank (l : List (Nat × Nat)) (n : Nat) (ps : List Nat) :
      ((x.each (laneCmp v c) l).1.advanceAll n ps).bank = x.bank := keeps Ex.bank flags_bank l
  refine ⟨by simp only [beat_eq (hports ▸ hp.1), hbank, List.sum_eq_foldl], ?_⟩
  rw [stored_same hw]
  refine putT_ok false ?_ (.inr (accepts_of_seamed he 0 _ ?_ hp.2))
  · rw [setMask_ok, advanceAll_ok, keeps Ex.ok flags_ok, begins_ok h]
  · rw [setMask_seamed, advanceAll_seamed, keeps (fun x => x.cx.seamed) flags_seamed]

theorem vscan_prefixes (g : BGuard) (f : FFmt) (rm : Rm) (n : BitVec 4) (a : Opnd) :
    LaneScan (.vscan g f rm a (.d n)) g (vOf f) (.d n) fun x m => x.scan (fmtOf f) rm (x.nat (.d n)) (x.lane m a) :=
  does_of _ (fun _ => rfl) fun _ _ _ hp => ⟨beat_eq hp.1 _ _, hp.2⟩

theorem streamReductionsHeld : Says.StreamReductions := fun g v f rm num c n a =>
  ⟨fun b _ he => vcmp_masks g v c a b he, reduction_of (fun _ => rfl) rfl rfl (redSum_ok rm v),
    reduction_of (fun _ => rfl) rfl rfl (redMax_ok v num), reduction_of (fun _ => rfl) rfl rfl redAmax_ok,
    vscan_prefixes g f rm n a⟩

/-! ## Conversions between ports (R173) -/

/-- A claim about a conversion between ports follows from the operation that its body takes for their formats. -/
theorem conversion_of {i : Instr} {g : BGuard} {a : Opnd} (ha : a = .sa ∨ a = .sb)
    (f : Ex → Nat → Nat → Option (Ex → Nat → Ex × Nat))
    (hx : ∀ s, exec i s = run i (.b g) (fun x => x.convert i a (f x)) s) :
    let p : Nat := if a = .sb then 1 else 0
    let op (x : Ex) := f x ((x.cx0.portFmt p).getD 0) ((x.cx0.portFmt 2).getD 0)
    let effect (x : Ex) (op : Ex → Nat → Ex × Nat) : Ex :=
      let n := beatLen i x.cx0 (cvtLanes ((x.cx0.portFmt p).getD 0))
      let y := x.each op (x.lane n a)
      (y.1.advanceAll n [p]).putSw y.2
    (∀ h, Does i (.b g) (fun x => op x = some h ∧ (stored i (effect x h)).ok = true) (fun x => effect x h)) ∧
      Faults i (.b g) (fun x => op x = none) (fun x => ⟨4, x.slot.setWidth 64, [], none⟩) := by
  intro p op effect
  have hp : (vPort a).getD 0 = p := by rcases ha with rfl | rfl <;> rfl
  refine ⟨fun h => does_of _ hx fun _ x _ hh => ⟨?_, hh.2⟩, faults_of_raise _ hx fun x hh => ?_⟩
  · simp only [Ex.convert, hp]
    rw [show f x _ _ = some h from hh.1]
  · simp only [Ex.convert, hp]
    rw [show f x _ _ = none from hh]
    rfl

/-- What `vcvt` does to a lane, for the formats of its ports (R173). -/
def cvtLane (rm : Rm) (u w : Nat) : Option (Ex → Nat → Ex × Nat) :=
  match portCvt u, portCvt w with
  | some cf, some ct => some fun x v => x.rounded (x.mode rm) fun m r => cvtV cf ct 32 v m r
  | _, _ => none

/-- What `vqnt` does to a lane with the scale code `sc`, for the formats of its ports (R173). -/
def qntLane (sc u w : Nat) : Option (Ex → Nat → Ex × Nat) :=
  match portFp u, portK w with
  | some f, some k => some fun x v => (x.flags (qntV k (f.read v) sc).2, kCode k (qntV k (f.read v) sc).1)
  | _, _ => none

/-- What `vdqnt` does to a lane with the scale code `sc`, for the formats of its ports (R173). -/
def dqntLane (rm : Rm) (sc u w : Nat) : Option (Ex → Nat → Ex × Nat) :=
  match portK u, portFp w with
  | some k, some f => some fun x v => x.rounded (x.mode rm) fun m r => dqntV f m r k v sc
  | _, _ => none

theorem streamConversions : Says.StreamConversions := fun _ rm _ b ha =>
  ⟨conversion_of ha (fun _ => cvtLane rm) fun _ => rfl, conversion_of ha (fun x => qntLane (x.nat b)) fun _ => rfl,
    conversion_of ha (fun x => dqntLane rm (x.nat b)) fun _ => rfl⟩

/-- Settles O22: masks, reductions and scans from their beats, the tree from its levels, and conversions from the formats
of their ports. -/
theorem streamReductions : Obligations.StreamReductions := ⟨streamReductionsHeld, streamTree, streamConversions⟩

end Sys2Proof.Machine
end

section
/-! SUPPORT. The array: what a pass asks and does, and the elements of an accumulator that gains products (R185, R191,
R192). -/

namespace Sys2Proof.Machine

open Sys2Proof

/-! ## What a pass asks -/

/-- The firing context owns the slots and the accumulators that it names (R182). -/
theorem owning_owned {x : Ex} {sl ac : List Nat} (f : Ex → Ex) (hs : ∀ m ∈ sl, x.br.ownsSlot x.cx0.idx m = true)
    (ha : ∀ m ∈ ac, x.br.ownsAcc x.cx0.idx m = true) : x.owning sl ac f = f x := by
  have hnone : sl.find? (fun n => !x.br.ownsSlot x.cx0.idx n) = none := List.find?_eq_none.2 fun m hm => by simp [hs m hm]
  rw [← owning_of f ha]
  simp only [Ex.owning, hnone, List.find?_nil]

/-- The list without repeats has the elements of the list. -/
theorem mem_dedup {a : Nat} : ∀ {l : List Nat}, a ∈ dedup l ↔ a ∈ l
  | [] => Iff.rfl
  | x :: r => by
    simp only [dedup, List.mem_cons, List.mem_filter, mem_dedup (l := r), Bool.not_eq_true', beq_eq_false_iff_ne]
    tauto

/-- The slots that the targets of a pass name (R192). -/
def passSlots (l : List MTarget) : List Nat := dedup (l.flatMap fun t => t.pairs.flatMap fun p => [p.1, p.2])

/-- Both slots of a pair of a target stand among the slots of the pass. -/
theorem mem_passSlots {l : List MTarget} {t : MTarget} {p : Nat × Nat} (ht : t ∈ l) (hp : p ∈ t.pairs) :
    p.1 ∈ passSlots l ∧ p.2 ∈ passSlots l := by
  simp only [passSlots, mem_dedup, List.mem_flatMap]
  exact ⟨⟨t, ht, p, hp, by simp⟩, ⟨t, ht, p, hp, by simp⟩⟩

/-- The first pair of a target is one of its pairs. -/
theorem headD_mem {α : Type} {l : List α} {a : α} (h : a ∈ l) : l.headD a ∈ l := by
  cases l with
  | nil => cases h
  | cons b r => exact List.mem_cons_self

/-- A pass may run on the slots `sl` and the targets `l`: the slots are owned, filled and of the format that is asked; the
targets are owned, and their pairs have the scales of the accumulator and of each other (R182, R192). -/
def Ex.Passable (x : Ex) (f : Nat → SFmt) (l : List MTarget) (sl : List Nat) : Prop :=
  (∀ m ∈ sl, x.br.ownsSlot x.cx0.idx m = true ∧ (x.br.slot m).st ≠ .empty ∧ (x.br.slot m).fmt = some (f m)) ∧
    ∀ t ∈ l, x.br.ownsAcc x.cx0.idx t.acc = true ∧ ∀ p ∈ t.pairs, offPair x.br t p = false ∧
      ∀ q ∈ t.pairs, (x.br.slot p.1).scales = (x.br.slot q.1).scales ∧ (x.br.slot p.2).scales = (x.br.slot q.2).scales

/-- A pair of the formats that are asked, with the scales of its target's first pair, fits (R192). -/
theorem unfit_none {b : Brick} {f : Nat → SFmt} {t : MTarget} {p : Nat × Nat} (h1 : (b.slot p.1).fmt = some (f p.1))
    (h2 : (b.slot p.2).fmt = some (f p.2)) (hs1 : (b.slot p.1).scales = (b.slot (t.pairs.headD p).1).scales)
    (hs2 : (b.slot p.2).scales = (b.slot (t.pairs.headD p).2).scales) : unfit b f t p = none := by
  unfold unfit
  rw [h1, h2, hs1, hs2]
  simp only [bne_self_eq_false, Bool.false_eq_true, if_false]

/-- A pass that may run has no fault among its targets and their pairs (R192). -/
theorem mmacFault_none {x : Ex} {f : Nat → SFmt} {l : List MTarget} (h : x.Passable f l (passSlots l)) :
    mmacFault x.br f l = none := by
  obtain ⟨hslot, htarget⟩ := h
  simp only [mmacFault, List.findSome?_eq_none_iff]
  intro t ht p hp
  obtain ⟨hoff, hscale⟩ := (htarget t ht).2 p hp
  obtain ⟨hm1, hm2⟩ := mem_passSlots ht hp
  obtain ⟨hs1, hs2⟩ := hscale _ (headD_mem hp)
  rw [unfit_none (hslot _ hm1).2.2 (hslot _ hm2).2.2 hs1 hs2, hoff]
  rfl

/-! ## What a pass does -/

/-- The effect of a pass at its firing: the targets gain their sums, the slots drain, and `.last` counts the tile (R185,
R192). -/
def Ex.passed (x : Ex) (l : List MTarget) (sl : List Nat) (last : Bool) : Ex :=
  { x with
    br := { sl.foldl (fun b m => b.modSlot m fun t => { t with st := .draining }) (l.foldl Brick.gain x.br) with
      passSlots := sl, passAccs := l.map (·.acc) }
    cx := if last then { x.cx with tcount := x.cx.tcount - 1 } else x.cx }

theorem mmac_passable {x : Ex} {f : Nat → SFmt} {l : List MTarget} (last : Bool) (h : x.Passable f l (passSlots l)) :
    x.mmac f l last = x.passed l (passSlots l) last := by
  have hfilled : (passSlots l).find? (fun n => (x.br.slot n).st == .empty) = none :=
    List.find?_eq_none.2 fun m hm => by simp [(h.1 m hm).2.1]
  have haccs : ∀ m ∈ l.map (·.acc), x.br.ownsAcc x.cx0.idx m = true := by
    simp only [List.mem_map]
    rintro _ ⟨t, ht, rfl⟩
    exact (h.2 t ht).1
  rw [Ex.mmac, ← passSlots, owning_owned _ (fun m hm => (h.1 m hm).1) haccs]
  simp only [hfilled, mmacFault_none h]
  rfl

/-- A claim about an array pass follows from the targets of its body. -/
theorem mmac_does {i : Instr} {g : BGuard} {f : Nat → SFmt} {l : List MTarget} {sl : List Nat} {last : Bool}
    (hx : ∀ s, exec i s = run i (.b g) (fun x => x.mmac f l last) s) (hw : writesSw i = false) (hsl : passSlots l = sl) :
    Does i (.b g) (fun x => x.Passable f l sl) fun x => x.passed l sl last := by
  subst hsl
  exact does_of_noSw _ hx hw (fun _ => rfl) fun _ _ _ hp => mmac_passable last hp

/-- The slots of the targets of `mmac.k16`, in the order they first stand in (R192). -/
theorem passSlots_k16 (p q : BitVec 2) :
    let a := p.toNat
    let b := q.toNat
    passSlots [⟨0, [(a, b)]⟩, ⟨1, [(a, b + 1), (a + 1, b)]⟩, ⟨2, [(a + 1, b + 1)]⟩] = dedup [a, b, b + 1, a + 1] := by
  revert p q
  decide

theorem matrixPasses : Says.MatrixPasses := fun _ _ _ p q =>
  ⟨mmac_does (fun _ => rfl) rfl rfl, mmac_does (fun _ => rfl) rfl rfl,
    fun _ _ => mmac_does (fun _ => rfl) rfl (passSlots_k16 p q)⟩

/-! ## What an accumulator gains -/

/-- The sum of products of two lines, written out. -/
theorem dot_eq_sum : ∀ l r : List Int, dot l r = ((l.zip r).map fun k => k.1 * k.2).sum
  | [], _ | _ :: _, [] => rfl
  | a :: l, b :: r => by rw [dot, dot_eq_sum l r, List.zip_cons_cons, List.map_cons, List.sum_cons]

theorem nth_zip_map {α β γ : Type} (f : α × β → γ) {l : List α} {r : List β} {k : Nat} (hl : k < l.length)
    (hr : k < r.length) (a : α) (b : β) (c : γ) : nth ((l.zip r).map f) k c = f (nth l k a, nth r k b) := by
  simp [nth, hl, hr]

/-- An element of a table that lists its rows one after another. -/
theorem nth_rows {α β γ : Type} (f : α → β → γ) (r : List β) (a : α) (b : β) (c : γ) {j : Nat} (hj : j < r.length) :
    ∀ (l : List α) (i : Nat), i < l.length →
      nth (l.flatMap fun x => r.map (f x)) (r.length * i + j) c = f (nth l i a) (nth r j b)
  | x :: l, 0, _ => by simp [nth, hj, List.getElem?_append_left]
  | x :: l, i + 1, hi => by
    have ih := nth_rows f r a b c hj l i (by simpa using hi)
    have hat : r.length * (i + 1) + j = (r.map (f x)).length + (r.length * i + j) := by
      rw [List.length_map]
      ring
    rw [nth, List.flatMap_cons, hat, List.getD_append_right _ _ _ _ (Nat.le_add_right _ _), Nat.add_sub_cancel_left]
    exact ih

theorem length_gains_pair {b : Brick} {n p q : Nat} (hp : (b.slot p).lines.length = 32) (hq : (b.slot q).lines.length = 32) :
    (gains b ⟨n, [(p, q)]⟩).length = 1024 := by
  simp [gains, List.length_flatMap, hp, hq]

/-- Element (i, j) of what one pair gives is the sum of products of line i of its left slot and line j of its right one
(R191). -/
theorem nth_gains_pair {b : Brick} {p q i j : Nat} (n : Nat) (hi : i < 32) (hj : j < 32)
    (hp : (b.slot p).lines.length = 32) (hq : (b.slot q).lines.length = 32) :
    nth (gains b ⟨n, [(p, q)]⟩) (32 * i + j) 0 = dot (nth (b.slot p).lines i []) (nth (b.slot q).lines j []) := by
  have h := nth_rows dot (b.slot q).lines [] [] 0 (hq ▸ hj) (b.slot p).lines i (hp ▸ hi)
  rwa [hq] at h

/-- An accumulator that holds words has no other (R181). -/
theorem tri_of_words {a : Acc} (h : 0 < a.words.length) : a.tri = a.words :=
  if_neg (by simp [List.ne_nil_of_length_pos h])

theorem length_ints {a : Acc} (h : 0 < a.words.length) : a.ints.length = a.words.length := by
  rw [Acc.ints, List.length_map, tri_of_words h]

/-- An accumulator reads each word that it holds as its number (R138). -/
theorem nth_ints {a : Acc} {k : Nat} (hk : k < a.words.length) : nth a.ints k 0 = crt3 (triRead (nth a.words k 0).toNat).1 := by
  have h := Nat.zero_lt_of_lt hk
  rw [nth, nth, List.getD_eq_getElem _ _ (length_ints h ▸ hk), List.getD_eq_getElem _ _ hk]
  simp only [Acc.ints, tri_of_words h, List.getElem_map]

/-- The words of an accumulator that gains the products of a target (R192). -/
theorem gain_words {b : Brick} {t : MTarget} (h : b.acc t.acc ≠ Acc.blank) :
    ((b.gain t).acc t.acc).words = ((b.acc t.acc).ints.zip (gains b t)).map fun x => BitVec.ofNat 32 (trienc (x.1 + x.2)) := by
  unfold Brick.gain Brick.modAcc Brick.acc at *
  rw [nth_upd_same _ h]

theorem matrixProduct : Says.MatrixProduct := by
  intro b n p q i j _ _ hi hj hwords hp hq
  have hne : b.acc n ≠ Acc.blank := fun h => by simp [h, Acc.blank] at hwords
  have hk : 32 * i + j < (b.acc n).words.length := by omega
  have hints : 32 * i + j < (b.acc n).ints.length := length_ints (Nat.zero_lt_of_lt hk) ▸ hk
  have hgains : 32 * i + j < (gains b ⟨n, [(p, q)]⟩).length := length_gains_pair hp hq ▸ hwords ▸ hk
  rw [gain_words hne, nth_zip_map _ hints hgains 0 0, nth_ints hk, nth_gains_pair n hi hj hp hq, dot_eq_sum]

/-- Settles O24: a pass that may run meets no fault, and an element of its accumulator stands where the table of the sums of
products has it. -/
theorem matrixProducts : Obligations.MatrixProducts := ⟨matrixPasses, matrixProduct⟩

end Sys2Proof.Machine
end

section
/-! SUPPORT. The instructions of the tile table (R182, R183, R199 to R201), and the names of entries that they fault with. -/

namespace Sys2Proof.Machine

open Sys2Proof

section
variable {g : BGuard} {n : BitVec 2} {a b : Opnd}

/-! ## What the instructions do -/

theorem owning_slot {x : Ex} {m : Nat} (f : Ex → Ex) (h : x.br.ownsSlot x.cx0.idx m = true) : x.owning [m] [] f = f x :=
  owning_owned f (by simp [h]) (by simp)

theorem owning_acc {x : Ex} {m : Nat} (f : Ex → Ex) (h : x.br.ownsAcc x.cx0.idx m = true) : x.owning [] [m] f = f x :=
  owning_of f (by simp [h])

/-- The flags of a fill with those of its scales (R131, R187). -/
theorem fillFlags_eq (fl : BitVec 8) (c : Bool) : (if c then fl ||| flFMT else fl) = fl ||| (if c then 0x20 else 0) := by
  cases c
  · exact (BitVec.or_zero ..).symm
  · rfl

theorem ofillBank_copies (f : SFmt) : Does (.ofillBank g f n a b) (.b g)
    (fun x => x.br.ownsSlot x.cx0.idx n.toNat = true ∧ x.nat a % 64 = 0 ∧ x.nat a + 32 * lineBytes f ≤ 65536 ∧
      x.nat b % 4 = 0 ∧ x.nat b + 32 ≤ 65536)
    (fun x =>
      { (x.flags ((slotLines x.br.bank f (x.nat a)).2 |||
          (if (readBytes x.br.bank (x.nat b) 32).contains 0xFF then 0x20 else 0))) with br := x.br.modSlot n.toNat fun t =>
        { t with st := .filling, bus := false, send := false, fmt := some f,
                 lines := (slotLines x.br.bank f (x.nat a)).1, scales := readBytes x.br.bank (x.nat b) 32 } }) := by
  refine does_of_noSw _ (fun _ => rfl) rfl (fun x => flags_ok x _) fun _ x _ hp => ?_
  obtain ⟨hown, hlines, hlinesEnd, hscales, hscalesEnd⟩ := hp
  rw [owning_slot _ hown, bankRange_of _ hlines hlinesEnd, bankRange_of _ hscales hscalesEnd]
  simp only [fillFlags_eq, Ex.modSlot, flags_br]

theorem ofillBus_waits (f : SFmt) : Does (.ofillBus g f n) (.b g) (fun x => x.br.ownsSlot x.cx0.idx n.toNat = true)
    fun x => x.modSlot n.toNat fun t => { t with st := .filling, bus := true, send := false, fmt := some f } :=
  does_of_noSw _ (fun _ => rfl) rfl (fun _ => rfl) fun _ _ _ hp => owning_slot _ hp

/-- A binding word that R190 admits as the binding of slot `n`. -/
def Ex.Binds (x : Ex) (n : Nat) (v : W64) : Prop :=
  v.extractLsb' 16 16 = 0 ∧ (v.getLsbD 14 = false → v.extractLsb' 8 5 = 0) ∧
    (v.getLsbD 15 = true → v.getLsbD 14 = true → x.senderTaken n (v.setWidth 32) = false)

theorem mbind_binds : Does (.mbind g n a) (.b g)
    (fun x => x.br.ownsSlot x.cx0.idx n.toNat = true ∧ x.Binds n.toNat (x.get a))
    fun x => x.modSlot n.toNat fun t => { t with bind := (x.get a).setWidth 32, bindNode := x.node } := by
  refine does_of_noSw _ (fun _ => rfl) rfl (fun _ => rfl) fun _ x _ hp => ?_
  obtain ⟨hown, hspare, hcount, hsender⟩ := hp
  rw [owning_slot _ hown]
  refine if_neg ?_
  rw [BitVec.extractLsb'_setWidth_of_le (by decide), BitVec.extractLsb'_setWidth_of_le (by decide), hspare]
  simp only [BitVec.getLsbD_setWidth]
  cases h14 : (x.get a).getLsbD 14 with
  | false => simp [hcount h14]
  | true =>
    cases h15 : (x.get a).getLsbD 15 with
    | false => simp
    | true => simp [hsender h15 h14]

theorem mzero_clears : Does (.mzero g n) (.b g) (fun x => x.br.ownsAcc x.cx0.idx n.toNat = true)
    fun x => x.modAcc n.toNat fun t => { t with st := .empty, words := [], latch := none } :=
  does_of_noSw _ (fun _ => rfl) rfl (fun _ => rfl) fun _ _ _ hp => owning_acc _ hp

theorem tileTable : Says.TileTable := fun _ _ _ f _ e _ _ _ =>
  ⟨does_of_noSw _ (fun _ => rfl) rfl (fun _ => rfl) fun _ _ _ _ => rfl,
    does_of_noSw _ (fun _ => rfl) rfl (fun _ => rfl) fun _ _ _ hp => owning_owned _ hp.1 hp.2,
    ofillBank_copies f, ofillBus_waits f, mbind_binds, mzero_clears,
    result_of (fun x => BitVec.ofNat 64 (x.ostat e)) (fun _ => rfl) rfl rfl fun _ _ _ => rfl⟩

/-! ## Entries that the context does not own -/

/-- Of the slots that it names, an instruction faults with the first where the context does not own it (R182). -/
theorem owning_unowned_slot {x : Ex} {m : Nat} {sl : List Nat} (ac : List Nat) (f : Ex → Ex)
    (h : x.br.ownsSlot x.cx0.idx m = false) :
    x.owning (m :: sl) ac f = x.raise (overrun 8 (BitVec.ofNat 64 m)) := by
  have hfind : (m :: sl).find? (fun n => !x.br.ownsSlot x.cx0.idx n) = some m := List.find?_cons_of_pos (by simp [h])
  simp only [Ex.owning, hfind]
  rfl

/-- An instruction that names accumulators alone faults with the first where the context does not own it, counted from 4
(R182). -/
theorem owning_unowned_acc {x : Ex} {m : Nat} {ac : List Nat} (f : Ex → Ex) (h : x.br.ownsAcc x.cx0.idx m = false) :
    x.owning [] (m :: ac) f = x.raise (overrun 8 (BitVec.ofNat 64 (4 + m))) := by
  have hfind : (m :: ac).find? (fun n => !x.br.ownsAcc x.cx0.idx n) = some m := List.find?_cons_of_pos (by simp [h])
  simp only [Ex.owning, List.find?_nil, hfind]
  rfl

/-- An instruction faults with a slot that the context does not own where its body asks for that slot first. -/
theorem faults_of_slot {i : Instr} (m : Nat) (sl ac : Ex → List Nat) (f : Ex → Ex → Ex)
    (hx : ∀ s, exec i s = run i (.b g) (fun x => x.owning (m :: sl x) (ac x) (f x)) s) :
    Faults i (.b g) (fun x => x.br.ownsSlot x.cx0.idx m = false) fun _ => overrun 8 (BitVec.ofNat 64 m) :=
  faults_of_raise _ hx fun _ hp => owning_unowned_slot _ _ hp

/-- An instruction faults with an accumulator that the context does not own where its body asks for it alone. -/
theorem faults_of_acc {i : Instr} (m : Nat) (f : Ex → Ex → Ex)
    (hx : ∀ s, exec i s = run i (.b g) (fun x => x.owning [] [m] (f x)) s) :
    Faults i (.b g) (fun x => x.br.ownsAcc x.cx0.idx m = false) fun _ => overrun 8 (BitVec.ofNat 64 (4 + m)) :=
  faults_of_raise _ hx fun _ hp => owning_unowned_acc _ hp

/-- A mask of one slot names that slot. -/
theorem maskBits_single (n : BitVec 2) : maskBits 4 (1#4 <<< n.toNat).toNat = [n.toNat] := by
  revert n
  decide

theorem orelease_unowned : Faults (.orelease g (1 <<< n.toNat) 0) (.b g) (fun x => x.br.ownsSlot x.cx0.idx n.toNat = false)
    fun _ => overrun 8 (BitVec.ofNat 64 n.toNat) :=
  faults_of_raise _ (fun _ => rfl) fun x hp => by
    change x.owning (maskBits 4 (1#4 <<< n.toNat).toNat) _ _ = _
    rw [maskBits_single, owning_unowned_slot _ _ hp]

end

theorem tileOwnership : Says.TileOwnership := by
  intro g i n m q f last a b
  refine ⟨fun hi => ?_, fun hi => ?_⟩
  · simp only [List.mem_cons, List.not_mem_nil, or_false] at hi
    rcases hi with rfl | rfl | rfl | rfl | rfl | rfl | rfl
    case inr.inr.inr.inl => exact orelease_unowned
    all_goals exact faults_of_slot n.toNat _ _ _ fun _ => rfl
  · simp only [List.mem_cons, List.not_mem_nil, or_false] at hi
    rcases hi with rfl | rfl | rfl | rfl | rfl | rfl
    all_goals exact faults_of_acc n.toNat _ fun _ => rfl

end Sys2Proof.Machine
end

section
/-! SUPPORT. The completions of the tile table inside a brick (R183, R184), and the transfers of a bus (R189). -/

namespace Sys2Proof.Machine

open Sys2Proof

/-! ## Inside a brick -/

/-- A change of a brick of an active spur, where both are there. -/
theorem modBrick_active {s : State} {b : BrickAt} {sp : Spur} {k : Brick} (f : Brick → Brick) (hs : s.spur? b.h = some sp)
    (ha : s.active sp = true) (hk : sp.live.brick? b.row b.col = some k) :
    (.next (s.modBrick b f) : Out) = .next (s.setSpur (sp.modLive fun l => l.setBrick (f k))) := by
  simp only [State.modBrick, hs, hk, ha, if_true]

/-! ## Buses -/

/-- What a slot that a test admits on a bus is (R189). -/
theorem of_mem_busSlots {b : Body} {col : Bool} {n did : BitVec 8} {p : Slot → Bool} {k : Brick} {m : Nat} {t : Slot}
    (h : (k, m, t) ∈ b.busSlots col n did p) : k ∈ b.bricks ∧ (if col then k.col else k.row) = n ∧ m < 4 ∧ k.slot m = t ∧
      t.colBus = col ∧ t.did = did ∧ p t = true := by
  simp only [Body.busSlots, List.mem_flatMap, List.mem_filter, List.mem_map, upTo, List.mem_range, Bool.and_eq_true,
    beq_iff_eq] at h
  obtain ⟨k, ⟨hk, hbus⟩, ⟨m, hm, heq⟩, ⟨hcol, hdid⟩, hp⟩ := h
  cases heq
  refine ⟨hk, ?_, hm, rfl, hcol, hdid, hp⟩
  cases col <;> exact eq_of_beq hbus

/-- A slot that is offered on its bus (R189). -/
def Slot.offered (t : Slot) : Bool := t.sends && t.send && t.st == .draining

/-- A slot that waits for a transfer (R189). -/
def Slot.awaiting (t : Slot) : Bool := t.receives && t.bus && t.st == .filling

/-- A receiver that takes what the sender `t` holds (R189). -/
def Slot.take (t r : Slot) : Slot := { r with st := .ready, bus := false, lines := t.lines, scales := t.scales, fmt := t.fmt }

/-- A body after the transfer from a sender to its receivers (R189). -/
def Body.delivered (b : Body) (x : Brick × Nat × Slot) (dest : List (Brick × Nat × Slot)) : Body :=
  (dest.foldl (fun b y => b.modSlotAt y.1 y.2.1 x.2.2.take) b).modSlotAt x.1 x.2.1 fun r => { r with st := .ready, send := false }

/-- The receivers that a sender waits for: N + 1 (R188). -/
def Slot.wanted (t : Slot) : Nat := (t.bind.extractLsb' 8 5).toNat + 1

/-- A receiver of another format is a mismatch (R189). -/
theorem mem_misfits {x y : Brick × Nat × Slot} {dest : List (Brick × Nat × Slot)} (hy : y ∈ dest)
    (hf : y.2.2.fmt ≠ x.2.2.fmt) : busMismatch y ∈ misfits x dest :=
  List.mem_map_of_mem (List.mem_filter.2 ⟨hy, bne_iff_ne.2 hf⟩)

/-- Where every receiver has the sender's format, nothing mismatches. -/
theorem misfits_eq_nil {x : Brick × Nat × Slot} {dest : List (Brick × Nat × Slot)} (h : ∀ y ∈ dest, y.2.2.fmt = x.2.2.fmt) :
    misfits x dest = [] := by
  rw [misfits, List.map_eq_nil_iff, List.filter_eq_nil_iff]
  exact fun y hy => by simp [h y hy]

section
variable {b : Body} {col : Bool} {n did : BitVec 8} {k : Brick} {m : Nat} {t : Slot}
  (hoff : b.busSlots col n did Slot.offered = [(k, m, t)])

include hoff

/-- The transfer of a bus with one offered slot turns on the count of its receivers (R189). -/
theorem transfer_eq : b.transfer col n did = if (b.busSlots col n did Slot.awaiting).length = t.wanted then
    some ((k, m, t), b.busSlots col n did Slot.awaiting) else none := by
  unfold Body.transfer
  simp only [show b.busSlots col n did (fun t => t.sends && t.send && t.st == .draining) = _ from hoff]
  rfl

theorem transfer_counted (hc : (b.busSlots col n did Slot.awaiting).length = t.wanted) :
    b.transfer col n did = some ((k, m, t), b.busSlots col n did Slot.awaiting) :=
  (transfer_eq hoff).trans (if_pos hc)

theorem transfer_uncounted (hc : (b.busSlots col n did Slot.awaiting).length ≠ t.wanted) : b.transfer col n did = none :=
  (transfer_eq hoff).trans (if_neg hc)

/-- A receiver of another format is among the mismatches of the round in which the count is reached (R189). -/
theorem busMismatch_mem_busFaults (hc : (b.busSlots col n did Slot.awaiting).length = t.wanted) {y : Brick × Nat × Slot}
    (hy : y ∈ b.busSlots col n did Slot.awaiting) (hf : y.2.2.fmt ≠ t.fmt) : busMismatch y ∈ b.busFaults := by
  have htransfer := transfer_counted hoff hc
  have hmisfit : busMismatch y ∈ misfits (k, m, t) (b.busSlots col n did Slot.awaiting) := mem_misfits hy hf
  obtain ⟨hk, rfl, hm, rfl, rfl, rfl, hoffered⟩ := of_mem_busSlots (hoff ▸ List.mem_singleton_self (k, m, t))
  refine List.mem_flatMap.2 ⟨k, hk, List.mem_flatMap.2 ⟨m, List.mem_range.2 hm, ?_⟩⟩
  simp only [Slot.offered] at hoffered
  simpa only [hoffered, if_true, htransfer] using hmisfit

end

section
variable {s : State} {h : Handle} {col : Bool} {n did : BitVec 8} {sp : Spur} {x : Brick × Nat × Slot}
  {dest : List (Brick × Nat × Slot)} (hs : s.spur? h = some sp)

include hs

/-- A bus with no transfer is left as it stands. -/
theorem busTransfer_none (ht : sp.live.transfer col n did = none) : exec (.busTransfer h col n did) s = .next s := by
  change execBusTransfer h col n did s = _
  simp only [execBusTransfer, hs, ht]

/-- Where a receiver has another format, no receiver takes the contents, and the mismatches are causes of the round (R189). -/
theorem busTransfer_misfits (ht : sp.live.transfer col n did = some (x, dest)) (ha : s.active sp = true)
    (hm : misfits x dest ≠ []) :
    exec (.busTransfer h col n did) s = .next (s.setSpur ((misfits x dest).foldl Spur.addCause sp)) := by
  change execBusTransfer h col n did s = _
  obtain ⟨c, l, hl⟩ := List.exists_cons_of_ne_nil hm
  simp only [execBusTransfer, hs, ht, ha, hl, Bool.not_true, Bool.false_eq_true, if_false]

/-- Where no receiver has another format, all of them take the contents, and the sender is ready (R189). -/
theorem busTransfer_taken (ht : sp.live.transfer col n did = some (x, dest)) (ha : s.active sp = true)
    (hm : misfits x dest = []) :
    exec (.busTransfer h col n did) s = .next (s.setSpur ({ sp with live := sp.live.delivered x dest }.busy s.now)) := by
  change execBusTransfer h col n did s = _
  simp only [execBusTransfer, hs, ht, ha, hm, Bool.not_true, Bool.false_eq_true, if_false]
  rfl

end

theorem tilesComplete : Says.TilesComplete := by
  refine ⟨fun s b sp k m hs ha hk => ?_, fun s h col n did sp k m t y hs ha hoffered => ?_⟩
  · exact ⟨modBrick_active _ hs ha hk, modBrick_active _ hs ha hk, modBrick_active _ hs ha hk⟩
  · intro dest take count
    have hoff : sp.live.busSlots col n did Slot.offered = [(k, m, t)] := hoffered
    have hcounted (hc : count) : sp.live.transfer col n did = some ((k, m, t), dest) := transfer_counted hoff hc
    refine ⟨fun hc => busTransfer_none hs (transfer_uncounted hoff hc), fun hc hy hf => ?_, fun hc hf => ?_⟩
    · exact ⟨busMismatch_mem_busFaults hoff hc hy hf,
        busTransfer_misfits hs (hcounted hc) ha (List.ne_nil_of_mem (mem_misfits hy hf))⟩
    · rw [busTransfer_taken hs (hcounted hc) ha (misfits_eq_nil hf), Body.delivered]
      rfl

/-- Settles O23: the instructions of the table by their bodies, and a transfer by whether its count is reached and its formats
agree. -/
theorem tileTableRules : Obligations.TileTableRules := ⟨tileTable, tileOwnership, tilesComplete⟩

end Sys2Proof.Machine
end

section
/-! SUPPORT. What the operands of the sparse instructions do (R206 to R217): a token written, a queue dequeued, a cursor put,
two stops that leave, and the lowest position of a word. -/

namespace Sys2Proof.Machine

open Sys2Proof

/-! ## Tokens, dequeues and cursors -/

section
variable {x : Ex}

@[simp] theorem sends_ok (x : Ex) (n : BitVec 3) (stop : Bool) (v : Nat) : (x.sends n stop v).ok = x.ok := rfl

@[simp] theorem drops_ok (x : Ex) (n : BitVec 3) : (x.drops n).ok = x.ok := rfl

/-- A dequeue that a condition decides stops nothing. -/
@[simp] theorem ite_drops_ok (x : Ex) (n : BitVec 3) (c : Prop) [Decidable c] : (if c then x.drops n else x).ok = x.ok := by
  split <;> rfl

@[simp] theorem take_ok (x : Ex) (o : Opnd) (c : Bool) : (x.take o c).ok = x.ok := by
  cases o with
  | i n | iDeq n => exact (apply_ite Ex.ok ..).trans (ite_self _)
  | _ => rfl

@[simp] theorem setKreg_ok (x : Ex) (k : BitVec 4) (v : Nat) : (x.setKreg k v).ok = x.ok :=
  (apply_ite Ex.ok ..).trans (ite_self _)

@[simp] theorem setTree_ok (x : Ex) (k : BitVec 4) (c : Nat) (ra rb : W32) : (x.setTree k c ra rb).ok = x.ok := by
  simp only [Ex.setTree, setKreg_ok]

/-- A token is written to an output queue that carries no seam (R69). -/
theorem emit_unseamed {n : BitVec 3} (h : x.accepts (.o n) 0) (stop : Bool) (v : Nat) :
    x.emit (.o n) stop v .a0 = x.sends n stop v :=
  pushOut_unseamed h _ _

/-- A view that goes on dequeues the queue it names, where the condition holds (R209). -/
theorem take_queue (hx : x.ok = true) (p : BitVec 3) (c : Bool) : x.take (.i p) c = if c then x.drops p else x := by
  simp only [Ex.take, hx, Bool.and_true]
  rfl

/-- A register of the firing's bank put for a scan or a drain (R212, R220). -/
def Ex.cursor (x : Ex) (k : BitVec 4) (w : Nat) : Ex := { x with cx := x.cx.setReg x.bank k (BitVec.ofNat 32 w) }

@[simp] theorem cursor_ok (x : Ex) (k : BitVec 4) (w : Nat) : (x.cursor k w).ok = x.ok := rfl

/-- A view that goes on puts the register (R212). -/
theorem setKreg_eq (hx : x.ok = true) (k : BitVec 4) (v : Nat) : x.setKreg k v = x.cursor k v := if_pos hx

/-- What a register held is the word that it is read as. -/
theorem ofNat_kreg (x : Ex) (k : BitVec 4) : BitVec.ofNat 32 (x.kreg k) = x.cx0.reg x.bank k := by
  rw [Ex.kreg, BitVec.ofNat_toNat, BitVec.setWidth_eq]

/-- The operand of the second fibre: its queue, or `z` where there is none (R213). -/
def secondFibre (q : BitVec 3) (hb : Option Tok) : Opnd := if hb.isSome then .i q else .z

/-- A second fibre is dequeued where it is there and the condition holds. -/
theorem take_second (hx : x.ok = true) (q : BitVec 3) (hb : Option Tok) (c : Bool) :
    x.take (secondFibre q hb) c = if c && hb.isSome then x.drops q else x := by
  cases hb with
  | none => rw [Option.isSome_none, Bool.and_false]; rfl
  | some t => rw [Option.isSome_some, Bool.and_true]; exact take_queue hx q c

/-- Dequeue the fibres whose conditions hold, the second one where it is there. -/
def Ex.dropsBoth (x : Ex) (p q : BitVec 3) (hb : Option Tok) (a b : Bool) : Ex :=
  let y := if a then x.drops p else x
  if b && hb.isSome then y.drops q else y

@[simp] theorem dropsBoth_ok (x : Ex) (p q : BitVec 3) (hb : Option Tok) (a b : Bool) : (x.dropsBoth p q hb a b).ok = x.ok :=
  (ite_drops_ok _ _ _).trans (ite_drops_ok _ _ _)

/-- A condition on the second head holds only where there is one. -/
theorem dropsBoth_any (x : Ex) (p q : BitVec 3) (hb : Option Tok) (a : Bool) (f : Tok → Bool) :
    x.dropsBoth p q hb a (hb.any f) =
      let y := if a then x.drops p else x
      if hb.any f then y.drops q else y := by
  have h : (hb.any f && hb.isSome) = hb.any f := by cases hb <;> simp
  rw [Ex.dropsBoth, h]

/-- Both fibres of a view that goes on are dequeued where their conditions hold. -/
theorem take_both (hx : x.ok = true) (p q : BitVec 3) (hb : Option Tok) (a b : Bool) :
    (x.take (.i p) a).take (secondFibre q hb) b = x.dropsBoth p q hb a b := by
  rw [take_second ((take_ok _ _ _).trans hx), take_queue hx]
  rfl

/-- The second fibre is not at its stop where it has a head that is none. -/
theorem not_atStop (hb : Option Tok) : (!atStop hb) = hb.any (fun h => !h.stop) := by
  cases hb <;> rfl

/-- The level that leaves of the stops of one fibre or two (R213, R215). -/
def lowerLevel (ha : Tok) (hb : Option Tok) : Nat := (hb.map fun h => min ha.level h.level).getD ha.level

/-- The lower level leaves, and every stop of that level is dequeued (R213, R215). -/
theorem stops_eq (hx : x.ok = true) {n : BitVec 3} (h : x.accepts (.o n) 0) (p q : BitVec 3) (ha : Tok) (hb : Option Tok) :
    x.stops (.o n) (.i p) (secondFibre q hb) ha hb =
      (x.sends n true (lowerLevel ha hb)).dropsBoth p q hb (ha.level == lowerLevel ha hb)
        (hb.any fun h => h.level == lowerLevel ha hb) := by
  have hs : x.stops (.o n) (.i p) (secondFibre q hb) ha hb =
      ((x.emit (.o n) true (lowerLevel ha hb) .a0).take (.i p) (ha.level == lowerLevel ha hb)).take (secondFibre q hb)
        (hb.any fun h => h.level == lowerLevel ha hb) := by cases hb <;> rfl
  rw [hs, emit_unseamed h]
  exact take_both (by exact hx) ..

end

/-! ## The lowest position -/

/-- The trailing zeros of a word are its lowest position (R149, R213). -/
theorem trailingZeros_lowest {m : W32} {j : Nat} (hj : j < 32) (hm : m.getLsbD j = true)
    (hlow : ∀ i, i < j → m.getLsbD i = false) : trailingZeros m 32 0 = j := by
  have hfind : (upTo 32).find? (fun k => m.toNat.testBit (k + 0)) = some j :=
    List.find?_range_eq_some.2 ⟨hm, List.mem_range.2 hj, fun i hi => by
      rw [Nat.add_zero, BitVec.testBit_toNat, hlow i hi]; rfl⟩
  rw [trailingZeros_eq, hfind, Option.getD_some]

theorem getLsbD_scanOp (op : Bool) (u v : W32) (i : Nat) :
    (scanOp op u v).getLsbD i = if op then u.getLsbD i || v.getLsbD i else u.getLsbD i && v.getLsbD i := by
  cases op
  · exact BitVec.getLsbD_and
  · exact BitVec.getLsbD_or

/-- The bits from a position up are those of the word, and zeros below (R213). -/
theorem getLsbD_fromBit (m : W32) {p i : Nat} (hp : p ≤ 32) (hi : i < 32) :
    (fromBit m p).getLsbD i = (m.getLsbD i && decide (p ≤ i)) := by
  have hlt : 2 ^ p - 1 < 2 ^ 32 := by have := Nat.pow_le_pow_right (n := 2) (by omega) hp; omega
  simp only [fromBit, BitVec.getLsbD_and, BitVec.getLsbD_not, hi, decide_true, Bool.true_and, BitVec.getLsbD_ofNat,
    Nat.testBit_two_pow_sub_one]
  congr 1
  rw [← decide_not, decide_eq_decide, Nat.not_lt]

/-- No bit is left from a position up where the word has none there (R213). -/
theorem fromBit_eq_zero {m : W32} {p : Nat} (hp : p ≤ 32) (h : ∀ i, p ≤ i → i < 32 → m.getLsbD i = false) :
    fromBit m p = 0 := by
  refine BitVec.eq_of_getLsbD_eq fun i hi => ?_
  rw [getLsbD_fromBit m hp hi]
  by_cases hpi : p ≤ i
  · simp [h i hpi hi]
  · simp [hpi]

/-- The lowest bit from a position up is the lowest of the word that is left (R213). -/
theorem trailingZeros_fromBit {m : W32} {p j : Nat} (hj : j < 32) (hpj : p ≤ j) (hm : m.getLsbD j = true)
    (hlow : ∀ i, p ≤ i → i < j → m.getLsbD i = false) : fromBit m p ≠ 0 ∧ trailingZeros (fromBit m p) 32 0 = j := by
  have hp : p ≤ 32 := by omega
  have hhit : (fromBit m p).getLsbD j = true := by simp [getLsbD_fromBit m hp hj, hm, hpj]
  refine ⟨fun h0 => by simp [h0] at hhit, trailingZeros_lowest hj hhit fun i hi => ?_⟩
  rw [getLsbD_fromBit m hp (hi.trans hj)]
  by_cases hpi : p ≤ i
  · simp [hlow i hpi hi]
  · simp [hpi]

end Sys2Proof.Machine
end

section
/-! SUPPORT. Merges of two fibres (R215), stop levels (R217), and the parting of a fibre (R221). -/

namespace Sys2Proof.Machine

open Sys2Proof

/-! ## Merges -/

/-- A head leaves before another fibre's where it is an element and the other is a stop or of a higher coordinate (R215). -/
def Tok.Precedes (t u : Tok) : Prop := t.stop = false ∧ (u.stop = true ∨ t.coord < u.coord)

section
variable {x : Ex} {n p q : BitVec 3} {ha hb : Tok} (all : Bool) (mode : MMode) (hx : x.ok = true)
  (ea : x.fibre (.i p) = some ha) (eb : x.fibre (.i q) = some hb) (ho : x.accepts (.o n) 0)

/-- A merge takes a coordinate of one fibre alone, and writes it where it writes all. -/
def Ex.takesAlone (x : Ex) (all : Bool) (n r : BitVec 3) (v : Nat) : Ex := (if all then x.sends n false v else x).drops r

@[simp] theorem takesAlone_ok (x : Ex) (all : Bool) (n r : BitVec 3) (v : Nat) : (x.takesAlone all n r v).ok = x.ok :=
  (apply_ite Ex.ok ..).trans (ite_self _)

include hx in
theorem take_alone (all : Bool) (n r : BitVec 3) (v : Nat) :
    (if all then x.sends n false v else x).take (.i r) true = x.takesAlone all n r v :=
  (take_queue (by cases all <;> exact hx) r true).trans (if_pos rfl)

include hx ea eb ho

/-- The head of the first fibre leaves, where it precedes the other one's (R215). -/
theorem merge2_first (h : ha.Precedes hb) :
    x.merge2 all mode (.o n) (.i p) (.i q) = x.takesAlone all n p (emitv mode ha.coord ha.val 0) := by
  obtain ⟨h1, h2 | h2⟩ := h
  · simp [Ex.merge2, ea, eb, h1, h2, emit_unseamed ho, take_alone hx]
  · cases hs : hb.stop <;> simp [Ex.merge2, ea, eb, h1, h2, hs, emit_unseamed ho, take_alone hx]

/-- The head of the second fibre leaves, where it precedes the other one's (R215). -/
theorem merge2_second (h : hb.Precedes ha) :
    x.merge2 all mode (.o n) (.i p) (.i q) = x.takesAlone all n q (emitv mode hb.coord 0 hb.val) := by
  obtain ⟨h1, h2 | h2⟩ := h
  · simp [Ex.merge2, ea, eb, h1, h2, emit_unseamed ho, take_alone hx]
  · cases hs : ha.stop <;>
      simp [Ex.merge2, ea, eb, h1, h2, Nat.not_lt_of_lt h2, hs, emit_unseamed ho, take_alone hx]

/-- Elements of one coordinate leave together as one token (R215). -/
theorem merge2_equal (h1 : ha.stop = false) (h2 : hb.stop = false) (h : ha.coord = hb.coord) :
    x.merge2 all mode (.o n) (.i p) (.i q) =
      ((x.sends n false (emitv mode ha.coord ha.val hb.val)).drops p).drops q := by
  simp [Ex.merge2, ea, eb, h1, h2, h, hx, emit_unseamed ho, take_queue]

/-- Of two stops the lower level leaves (R215). -/
theorem merge2_stops (h1 : ha.stop = true) (h2 : hb.stop = true) :
    x.merge2 all mode (.o n) (.i p) (.i q) =
      let y := x.sends n true (min ha.level hb.level)
      let y := if ha.level = min ha.level hb.level then y.drops p else y
      if hb.level = min ha.level hb.level then y.drops q else y := by
  have hs := stops_eq hx ho p q ha (some hb)
  simp only [Ex.dropsBoth, Option.any_some, Option.isSome_some, Bool.and_true, beq_iff_eq] at hs
  simp only [Ex.merge2, ea, eb, h1, h2, Bool.not_true, Bool.and_self, Bool.false_eq_true, if_false]
  exact hs

end

/-- `union` or `isect`, by whether a coordinate of one operand alone is written (R215). -/
def mergeInstr (all : Bool) (g : BGuard) (mode : MMode) (d a b : Opnd) : Instr :=
  if all then .union g mode d a b else .isect g mode d a b

/-- A merge completes as `Ex.merge2` does on the two heads, where its effect stops nothing (R215). -/
theorem merge2_does (all : Bool) {g : BGuard} {mode : MMode} {n p q : BitVec 3} {ha hb : Tok} {f : Ex → Ex}
    (hk : ∀ x, (f x).ok = x.ok)
    (hf : ∀ x : Ex, x.ok = true → x.fibre (.i p) = some ha → x.fibre (.i q) = some hb → x.accepts (.o n) 0 →
      x.merge2 all mode (.o n) (.i p) (.i q) = f x) :
    Does (mergeInstr all g mode (.o n) (.i p) (.i q)) (.b g)
      (fun x => x.fibre (.i p) = some ha ∧ x.fibre (.i q) = some hb ∧ x.accepts (.o n) 0) f := by
  cases all <;>
    exact does_of_noSw _ (fun _ => rfl) rfl hk fun _ x h ⟨ea, eb, ho⟩ => hf x (begins_ok h) ea eb ho

theorem fibreMerges : Says.FibreMerges := by
  intro g mode n p q ha hb a b rule both low
  have first (all : Bool) (h : ha.Precedes hb) :
      Does (mergeInstr all g mode (.o n) a b) (.b g)
        (fun x => x.fibre a = some ha ∧ x.fibre b = some hb ∧ x.accepts (.o n) 0)
        fun x => x.takesAlone all n p (emitv mode ha.coord ha.val 0) :=
    merge2_does all (fun x => takesAlone_ok x ..) fun _ hx ea eb ho => merge2_first all mode hx ea eb ho h
  have second (all : Bool) (h : hb.Precedes ha) :
      Does (mergeInstr all g mode (.o n) a b) (.b g)
        (fun x => x.fibre a = some ha ∧ x.fibre b = some hb ∧ x.accepts (.o n) 0)
        fun x => x.takesAlone all n q (emitv mode hb.coord 0 hb.val) :=
    merge2_does all (fun x => takesAlone_ok x ..) fun _ hx ea eb ho => merge2_second all mode hx ea eb ho h
  exact ⟨fun ⟨⟨h1, _⟩, hc⟩ => first false ⟨h1, .inr hc⟩, fun ⟨⟨h1, _⟩, hc⟩ => first true ⟨h1, .inr hc⟩,
    fun ⟨⟨_, h2⟩, hc⟩ => second false ⟨h2, .inr hc⟩, fun ⟨⟨_, h2⟩, hc⟩ => second true ⟨h2, .inr hc⟩,
    fun all ⟨⟨h1, h2⟩, hc⟩ => merge2_does all (fun _ => rfl) fun _ hx ea eb ho =>
      merge2_equal all mode hx ea eb ho h1 h2 hc,
    fun ⟨h1, h2⟩ => second false ⟨h2, .inl h1⟩, fun ⟨h1, h2⟩ => second true ⟨h2, .inl h1⟩,
    fun ⟨h1, h2⟩ => first false ⟨h1, .inl h2⟩, fun ⟨h1, h2⟩ => first true ⟨h1, .inl h2⟩,
    fun all ⟨h1, h2⟩ => merge2_does all (fun x => by simp) fun _ hx ea eb ho =>
      merge2_stops all mode hx ea eb ho h1 h2⟩

/-! ## Stop levels and parts -/

/-- An operand that names a fibre reads as the head's payload, with its stop flag (R34, R76). -/
theorem fibre_reads {x : Ex} {a : Opnd} {h : Tok} (ha : x.fibre a = some h) :
    x.get a = h.pay.zeroExtend 64 ∧ x.stopOf a = h.stop := by
  cases a with
  | i n | iDeq n =>
    obtain ⟨⟨t, hd, c⟩, he, rfl⟩ := Option.map_eq_some_iff.1 ha
    simp only [Ex.get, Ex.stopOf, he, and_self]
  | _ => cases ha

section
variable {g : BGuard} {n : BitVec 3} {a : Opnd} {h : Tok}

/-- An instruction that passes its head, or moves the level of a stop, does so on the head's own level (R217). -/
theorem relevel_does {i : Instr} {f : Nat → Option Nat} {y : Ex → Ex}
    (hi : ∀ s, exec i s = run i (.b g) (fun x => x.relevel (.o n) a f) s) (hw : writesSw i = false)
    (hk : ∀ x, (y x).ok = x.ok)
    (hy : ∀ x : Ex, y x = if h.stop then (match f h.level with | some l => x.sends n true l | none => x)
      else x.sends n false h.pay.toNat) :
    Does i (.b g) (fun x => x.accepts (.o n) 0 ∧ x.fibre a = some h) y := by
  refine does_of_noSw _ hi hw hk fun _ x _ ⟨ho, hh⟩ => ?_
  rw [hy]
  simp only [Ex.relevel, hh, emit_unseamed ho]
  cases h.stop <;> rfl

/-- The head of a fibre that is parted goes on under its stop flag, to the arm that the rule chooses (R221). -/
theorem part_does (b : BitVec 5) {stop : Bool} (hs : h.stop = stop) :
    Does (.part g b (.o n) a) (.b g) (fun x => x.accepts (.o n) 0 ∧ x.fibre a = some h) fun x =>
    { x with cx := { x.cx with oq := upd x.cx.oq n.toNat fun l => l ++ [⟨.tok ⟨stop, x.outTag n, h.pay⟩,
      if stop then .both else if h.pay.getLsbD b.toNat then .a1 else .a0⟩] } } := by
  refine does_of_noSw _ (fun _ => rfl) rfl (fun _ => rfl) fun _ x _ ⟨ho, hh⟩ => ?_
  obtain ⟨hget, hstop⟩ := fibre_reads hh
  have hpay : BitVec.ofNat 32 ((h.pay.zeroExtend 64).toNat % 2 ^ 32) = h.pay := by
    rw [BitVec.toNat_setWidth, Nat.mod_mod_of_dvd _ (by decide), Nat.mod_eq_of_lt h.pay.isLt, BitVec.ofNat_toNat,
      BitVec.setWidth_eq]
  have hbit : (h.pay.zeroExtend 64).getLsbD b.toNat = h.pay.getLsbD b.toNat := by
    rw [BitVec.getLsbD_setWidth, decide_eq_true (b.isLt.trans (by decide)), Bool.true_and]
  simp only [hget, hstop, hbit, hs]
  exact (pushOut_unseamed ho _ _).trans (by rw [hpay])

end

theorem stopLevels : Says.StopLevels := fun g l b n a h =>
  ⟨does_of_noSw _ (fun _ => rfl) rfl (fun _ => rfl) fun _ _ _ ho => emit_unseamed ho _ _,
    does_of_noSw _ (fun _ => rfl) rfl (fun _ => rfl) fun _ _ _ ho => emit_unseamed ho _ _,
    fun hs => relevel_does (fun _ => rfl) rfl (fun _ => rfl) fun x => by simp [hs],
    fun hs hl => relevel_does (fun _ => rfl) rfl (fun _ => rfl) fun x => by simp [hs, hl],
    fun hs hl => relevel_does (fun _ => rfl) rfl (fun _ => rfl) fun x => by simp [hs, hl.ne'],
    fun hs => relevel_does (fun _ => rfl) rfl (fun _ => rfl) fun x => by simp [hs],
    fun hs => relevel_does (fun _ => rfl) rfl (fun _ => rfl) fun x => by rw [if_pos hs],
    fun hs => part_does b hs, fun hs => part_does b hs⟩

/-- Settles O26: a merge by which head leaves first, a stop by the level that is put for its own. -/
theorem sparseMerges : Obligations.SparseMerges := ⟨fibreMerges, stopLevels⟩

end Sys2Proof.Machine
end

section
/-! SUPPORT. Scans of mask words and of two-level trees (R212 to R214). -/

namespace Sys2Proof.Machine

open Sys2Proof

/-! ## What a scan reads -/

/-- The bits of a head's mask word, none at a stop (R213). -/
def Tok.mask (h : Tok) : W32 := if h.stop then 0 else h.pay

theorem maskWord_eq (hb : Option Tok) : maskWord hb = (hb.map Tok.mask).getD 0 := by
  cases hb <;> rfl

/-- One of two fibres has a head that is no stop (R213). -/
def someElement (ha : Tok) (hb : Option Tok) : Prop := ha.stop = false ∨ hb.any (fun h => !h.stop) = true

/-- Both fibres are at their stops where neither has another head. -/
theorem atStops_iff (ha : Tok) (hb : Option Tok) : (ha.stop && atStop hb) = true ↔ ¬ someElement ha hb := by
  rw [someElement, ← not_atStop]
  cases ha.stop <;> cases atStop hb <;> decide

theorem not_atStops {ha : Tok} {hb : Option Tok} (hs : someElement ha hb) : (ha.stop && atStop hb) = false :=
  Bool.eq_false_iff.2 fun h => (atStops_iff ha hb).1 h hs

/-! ## Mask words -/

section
variable {g : BGuard} {op : Bool} {k : BitVec 4} {n p q : BitVec 3} {ha : Tok} {hb : Option Tok}

/-- The heads of a scan, and an output that takes a token. -/
def Ex.Scans (x : Ex) (n p q : BitVec 3) (ha : Tok) (hb : Option Tok) : Prop :=
  x.fibre (.i p) = some ha ∧ x.fibre (secondFibre q hb) = hb ∧ x.accepts (.o n) 0

/-- The position of a cursor of `scanb` (R212). -/
def Ex.scanPos (x : Ex) (k : BitVec 4) : Nat := min (x.kreg k % 64) 32

/-- The operation of two mask words holds at a position. -/
def scanHit (op : Bool) (u v : W32) (m : Nat) : Bool :=
  if op then u.getLsbD m || v.getLsbD m else u.getLsbD m && v.getLsbD m

theorem Ex.scanPos_eq (x : Ex) (k : BitVec 4) : Nat.min (x.kreg k % 64) 32 = x.scanPos k := rfl

theorem Ex.scanPos_le (x : Ex) (k : BitVec 4) : x.scanPos k ≤ 32 := Nat.min_le_right _ _

/-- Two stops leave as one and clear the cursor (R213). -/
theorem scanb_stops (hs : ¬ someElement ha hb) :
    Does (.scanb g op k (.o n) (.i p) (secondFibre q hb)) (.b g) (fun x => x.Scans n p q ha hb) fun x =>
      let y := x.sends n true (lowerLevel ha hb)
      let y := if ha.level = lowerLevel ha hb then y.drops p else y
      (if hb.any (fun h => h.level == lowerLevel ha hb) then y.drops q else y).cursor k 0 := by
  refine does_of_noSw _ (fun _ => rfl) rfl (fun x => ?_) fun _ x h ⟨ea, eb, ho⟩ => ?_
  · exact (ite_drops_ok _ _ _).trans ((ite_drops_ok _ _ _).trans rfl)
  · simp only [ea, eb, (atStops_iff ha hb).2 hs, if_true, stops_eq (begins_ok h) ho]
    rw [setKreg_eq (by simpa using begins_ok h), dropsBoth_any]
    simp only [beq_iff_eq]

variable {u v : W32} (hu : maskWord (some ha) = u) (hv : maskWord hb = v) (hs : someElement ha hb)
include hu hv hs

/-- The lowest position from the cursor's on, that the operation holds, is written with both presence bits (R213). -/
theorem scanb_hit {j : Nat} (hj : j < 32) (hit : scanHit op u v j = true) :
    Does (.scanb g op k (.o n) (.i p) (secondFibre q hb)) (.b g)
      (fun x => x.Scans n p q ha hb ∧ x.scanPos k ≤ j ∧ ∀ m, x.scanPos k ≤ m → m < j → scanHit op u v m = false)
      fun x => (x.sends n false (emitc (32 * (x.kreg k / 64) + j) (u.getLsbD j) (v.getLsbD j))).cursor k
        (x.kreg k / 64 * 64 + (j + 1)) := by
  refine does_of_noSw _ (fun _ => rfl) rfl (fun _ => rfl) fun _ x h ⟨⟨ea, eb, ho⟩, hpos, hlow⟩ => ?_
  obtain ⟨hm, hlowest⟩ : fromBit (scanOp op u v) (x.scanPos k) ≠ 0 ∧
      trailingZeros (fromBit (scanOp op u v) (x.scanPos k)) 32 0 = j :=
    trailingZeros_fromBit hj hpos ((getLsbD_scanOp ..).trans hit) fun i h1 h2 => (getLsbD_scanOp ..).trans (hlow i h1 h2)
  simp only [ea, eb, hu, hv, not_atStops hs, x.scanPos_eq, Bool.false_eq_true, if_false]
  refine (if_pos (bne_iff_ne.2 hm)).trans ?_
  rw [hlowest, emit_unseamed ho, setKreg_eq (by simpa using begins_ok h)]

/-- Where no position is left, the words that are no stops leave, and the cursor goes to the next word (R213). -/
theorem scanb_left :
    Does (.scanb g op k (.o n) (.i p) (secondFibre q hb)) (.b g)
      (fun x => x.Scans n p q ha hb ∧ ∀ m, x.scanPos k ≤ m → m < 32 → scanHit op u v m = false) fun x =>
      let y := if ha.stop then x else x.drops p
      (if hb.any (fun h => !h.stop) then y.drops q else y).cursor k ((x.kreg k / 64 + 1) * 64) := by
  refine does_of_noSw _ (fun _ => rfl) rfl (fun x => ?_) fun _ x h ⟨⟨ea, eb, _⟩, hnone⟩ => ?_
  · exact (ite_drops_ok _ _ _).trans (by split <;> rfl)
  · have hm : fromBit (scanOp op u v) (x.scanPos k) = 0 :=
      fromBit_eq_zero (x.scanPos_le k) fun i h1 h2 => (getLsbD_scanOp ..).trans (hnone i h1 h2)
    simp only [ea, eb, hu, hv, not_atStops hs, x.scanPos_eq, Bool.false_eq_true, if_false]
    refine (if_neg (not_not_intro hm ∘ bne_iff_ne.1)).trans ?_
    rw [take_both (begins_ok h), not_atStop, setKreg_eq (by simpa using begins_ok h), dropsBoth_any]
    cases ha.stop <;> rfl

end

theorem maskScans : Says.MaskScans := fun _ _ _ _ _ _ _ hb _ =>
  ⟨scanb_stops, fun hs hj hit => scanb_hit rfl (maskWord_eq hb) hs hj hit, fun hs => scanb_left rfl (maskWord_eq hb) hs⟩

/-! ## Trees -/

section
variable {g : BGuard} {op : Bool} {k : BitVec 4} {n p q : BitVec 3} {ha : Tok} {hb : Option Tok} {c : TreeCur} {ra rb : W32}

/-- The heads of a tree scan, an output that takes a token, and the cursor and top words in its registers (R214). -/
def Ex.ScansTree (x : Ex) (k : BitVec 4) (n p q : BitVec 3) (ha : Tok) (hb : Option Tok) (c : TreeCur) (ra rb : W32) : Prop :=
  x.fibre (.i p) = some ha ∧ x.fibre (secondFibre q hb) = hb ∧ x.accepts (.o n) 0 ∧
    c = TreeCur.read (x.kreg k) ∧ x.cx0.reg x.bank (k + 1) = ra ∧ x.cx0.reg x.bank (k + 2) = rb

/-- Two stops leave as one and clear the cursor and both top words (R214). -/
theorem scant_stops (ht : c.top = false) (hs : ¬ someElement ha hb) :
    Does (.scant g op k (.o n) (.i p) (secondFibre q hb)) (.b g) (fun x => x.ScansTree k n p q ha hb c ra rb) fun x =>
      ((x.sends n true (lowerLevel ha hb)).dropsBoth p q hb (ha.level == lowerLevel ha hb)
        (hb.any fun h => h.level == lowerLevel ha hb)).setTree k 0 0 0 := by
  refine does_of_noSw _ (fun _ => rfl) rfl (fun x => by simp) fun _ x h ⟨ea, eb, ho, hc, _, _⟩ => ?_
  simp only [ea, eb, ← hc, ht, (atStops_iff ha hb).2 hs, stops_eq (begins_ok h) ho, Bool.not_false, if_true]

/-- The top words are loaded and leave (R214). -/
theorem scant_loads (ht : c.top = false) (hs : someElement ha hb) :
    Does (.scant g op k (.o n) (.i p) (secondFibre q hb)) (.b g) (fun x => x.ScansTree k n p q ha hb c ra rb) fun x =>
      (x.dropsBoth p q hb (!ha.stop) (hb.any fun h => !h.stop)).setTree k { c with top := true }.word
        ha.mask ((hb.map Tok.mask).getD 0) := by
  refine does_of_noSw _ (fun _ => rfl) rfl (fun x => by simp) fun _ x h ⟨ea, eb, _, hc, _, _⟩ => ?_
  simp only [ea, eb, ← hc, ht, not_atStops hs, take_both (begins_ok h), not_atStop, maskWord_eq, Bool.not_false, if_true,
    Bool.false_eq_true, if_false]
  rfl

/-- An exhausted group moves on (R214). -/
theorem scant_group (ht : c.top = true) (hl : c.leafOpen = false) (h0 : ra ||| rb = 0) :
    Does (.scant g op k (.o n) (.i p) (secondFibre q hb)) (.b g) (fun x => x.ScansTree k n p q ha hb c ra rb) fun x =>
      x.setTree k { c with top := false, g := c.g + 1 }.word ra rb := by
  refine does_of_noSw _ (fun _ => rfl) rfl (fun x => by simp) fun _ x h ⟨ea, eb, _, hc, hra, hrb⟩ => ?_
  simp only [ea, eb, ← hc, ht, hl, ofNat_kreg, hra, hrb, h0, Bool.not_false, Bool.not_true, Bool.false_eq_true,
    if_true, if_false]

/-- A wanted leaf is opened (R214). -/
theorem scant_opens (ht : c.top = true) (hl : c.leafOpen = false) (h0 : ra ||| rb ≠ 0)
    (hw : scanHit op ra rb (trailingZeros (ra ||| rb) 32 0) = true) :
    Does (.scant g op k (.o n) (.i p) (secondFibre q hb)) (.b g) (fun x => x.ScansTree k n p q ha hb c ra rb) fun x =>
      x.setTree k { c with t := trailingZeros (ra ||| rb) 32 0, leafOpen := true, p := 0 }.word ra rb := by
  refine does_of_noSw _ (fun _ => rfl) rfl (fun x => by simp) fun _ x h ⟨ea, eb, _, hc, hra, hrb⟩ => ?_
  simp only [ea, eb, ← hc, ht, hl, ofNat_kreg, hra, hrb, h0, Bool.not_false, Bool.not_true, Bool.false_eq_true,
    if_true, if_false]
  exact if_pos hw

/-- A leaf that the operation does not want leaves unscanned (R214). -/
theorem scant_passes (ht : c.top = true) (hl : c.leafOpen = false) (h0 : ra ||| rb ≠ 0)
    (hw : scanHit op ra rb (trailingZeros (ra ||| rb) 32 0) = false) :
    Does (.scant g op k (.o n) (.i p) (secondFibre q hb)) (.b g) (fun x => x.ScansTree k n p q ha hb c ra rb) fun x =>
      let t := trailingZeros (ra ||| rb) 32 0
      (x.dropsBoth p q hb (ra.getLsbD t) (rb.getLsbD t)).setTree k { c with t := t }.word (clearBit ra t) (clearBit rb t) := by
  refine does_of_noSw _ (fun _ => rfl) rfl (fun x => by simp) fun _ x h ⟨ea, eb, _, hc, hra, hrb⟩ => ?_
  simp only [ea, eb, ← hc, ht, hl, ofNat_kreg, hra, hrb, h0, take_both (begins_ok h), Bool.not_false, Bool.not_true,
    Bool.false_eq_true, if_true, if_false]
  exact if_neg (Bool.eq_false_iff.1 hw)

/-- The word of an open leaf: the head's payload where the tree holds the leaf, else no bits (R214). -/
def leafWord (r : W32) (t : Nat) (pay : W32) : W32 := if r.getLsbD t then pay else 0

/-- What is left to scan of the two open leaves (R214). -/
def openBits (op : Bool) (ha : Tok) (hb : Option Tok) (c : TreeCur) (ra rb : W32) : W32 :=
  fromBit (scanOp op (leafWord ra c.t ha.pay) (leafWord rb c.t ((hb.map (·.pay)).getD 0))) c.p

/-- The lowest position of an open leaf is written (R214). -/
theorem scant_hit (ht : c.top = true) (hl : c.leafOpen = true) (hm : openBits op ha hb c ra rb ≠ 0) :
    Does (.scant g op k (.o n) (.i p) (secondFibre q hb)) (.b g) (fun x => x.ScansTree k n p q ha hb c ra rb) fun x =>
      let j := trailingZeros (openBits op ha hb c ra rb) 32 0
      (x.sends n false (emitc (1024 * c.g + 32 * c.t + j) ((leafWord ra c.t ha.pay).getLsbD j)
        ((leafWord rb c.t ((hb.map (·.pay)).getD 0)).getLsbD j))).setTree k { c with p := j + 1 }.word ra rb := by
  refine does_of_noSw _ (fun _ => rfl) rfl (fun x => by simp) fun _ x h ⟨ea, eb, ho, hc, hra, hrb⟩ => ?_
  simp only [ea, eb, ← hc, ht, hl, ofNat_kreg, hra, hrb, emit_unseamed ho, Bool.not_true, Bool.false_eq_true,
    if_false]
  cases hb <;> exact if_pos (bne_iff_ne.2 hm)

/-- An exhausted leaf leaves (R214). -/
theorem scant_closes (ht : c.top = true) (hl : c.leafOpen = true) (hm : openBits op ha hb c ra rb = 0) :
    Does (.scant g op k (.o n) (.i p) (secondFibre q hb)) (.b g) (fun x => x.ScansTree k n p q ha hb c ra rb) fun x =>
      (x.dropsBoth p q hb (ra.getLsbD c.t) (rb.getLsbD c.t)).setTree k { c with leafOpen := false }.word
        (clearBit ra c.t) (clearBit rb c.t) := by
  refine does_of_noSw _ (fun _ => rfl) rfl (fun x => by simp) fun _ x h ⟨ea, eb, _, hc, hra, hrb⟩ => ?_
  simp only [ea, eb, ← hc, ht, hl, ofNat_kreg, hra, hrb, take_both (begins_ok h), Bool.not_true,
    Bool.false_eq_true, if_false]
  cases hb <;> exact if_neg (not_not_intro hm ∘ bne_iff_ne.1)

end

theorem treeScans : Says.TreeScans := fun _ _ _ _ _ _ _ _ _ _ _ =>
  ⟨scant_stops, scant_loads, scant_group, scant_opens, scant_passes, scant_hit, scant_closes⟩

/-- Settles O27: each firing of a scan by whether its heads are stops, and by what is left of the words that it scans. -/
theorem sparseScans : Obligations.SparseScans := ⟨maskScans, treeScans⟩

end Sys2Proof.Machine
end

section
/-! SUPPORT. The sparse accumulator (R218 to R220): its region, the marks of its bitmap, and what each of its
instructions does. -/

namespace Sys2Proof.Machine

open Sys2Proof

/-! ## Words of a bitmap -/

theorem ofBytes_lt (l : List Byte) : ofBytes l < 256 ^ l.length := by
  induction l with
  | nil => exact Nat.one_pos
  | cons b r ih =>
    rw [ofBytes, List.length_cons, Nat.pow_succ]
    have := b.isLt
    omega

theorem readNat_lt (m : List Host.Cell) (a n : Nat) : readNat m a n < 256 ^ n := by
  simpa only [readNat, length_readBytes] using ofBytes_lt (readBytes m a n)

/-- A word of 32 bits without a one is zero. -/
theorem eq_zero_of_bits {w : Nat} (hw : w < 2 ^ 32) (h : ∀ i, i < 32 → w.testBit i = false) : w = 0 := by
  refine Nat.zero_of_testBit_eq_false fun i => ?_
  by_cases hi : i < 32
  · exact h i hi
  · exact Nat.testBit_lt_two_pow (hw.trans_le (Nat.pow_le_pow_right (by decide) (Nat.not_lt.1 hi)))

/-- Words without a mark have no lowest one (R220). -/
theorem lowestSet_none {l : List Nat} (h : ∀ w ∈ l, w = 0) : ∀ i, lowestSet i l = none := by
  induction l with
  | nil => exact fun _ => rfl
  | cons w r ih =>
    intro i
    rw [lowestSet, if_pos (h w List.mem_cons_self)]
    exact ih (fun w hw => h w (List.mem_cons_of_mem _ hw)) _

/-- The lowest mark of the words is the one with no mark below it (R220). -/
theorem lowestSet_some {l : List Nat} (hl : ∀ w ∈ l, w < 2 ^ 32) : ∀ {i c : Nat}, c / 32 < l.length →
    (nth l (c / 32) 0).testBit (c % 32) = true → (∀ m, m < c → (nth l (m / 32) 0).testBit (m % 32) = false) →
    lowestSet i l = some (32 * i + c) := by
  induction l with
  | nil => exact fun h => absurd h (Nat.not_lt_zero _)
  | cons w r ih =>
    intro i c hc hbit hlow
    have hw : w < 2 ^ 32 := hl w List.mem_cons_self
    have first (m : Nat) (hm : m < 32) : nth (w :: r) (m / 32) 0 = w ∧ m % 32 = m :=
      ⟨by rw [Nat.div_eq_of_lt hm]; rfl, Nat.mod_eq_of_lt hm⟩
    have later (m : Nat) : nth (w :: r) ((m + 32) / 32) 0 = nth r (m / 32) 0 ∧ (m + 32) % 32 = m % 32 :=
      ⟨by rw [Nat.add_div_right m (by decide)]; rfl, Nat.add_mod_right m 32⟩
    have bit (m : Nat) (hm : m < 32) : (BitVec.ofNat 32 w).getLsbD m = w.testBit m := by
      rw [BitVec.getLsbD_ofNat, decide_eq_true hm, Bool.true_and]
    by_cases h32 : c < 32
    · rw [(first c h32).1, (first c h32).2] at hbit
      have hne : w ≠ 0 := fun h0 => by simp [h0] at hbit
      have hmin (m : Nat) (hm : m < c) : w.testBit m = false := by
        have := hlow m hm
        rwa [(first m (hm.trans h32)).1, (first m (hm.trans h32)).2] at this
      rw [lowestSet, if_neg hne, trailingZeros_lowest h32 ((bit c h32).trans hbit) fun m hm =>
        (bit m (hm.trans h32)).trans (hmin m hm)]
    · have h0 : w = 0 := eq_zero_of_bits hw fun m hm => by
        have := hlow m (hm.trans_le (Nat.not_lt.1 h32))
        rwa [(first m hm).1, (first m hm).2] at this
      obtain ⟨d, rfl⟩ := Nat.exists_eq_add_of_le' (Nat.not_lt.1 h32)
      rw [(later d).1, (later d).2] at hbit
      rw [Nat.add_div_right d (by decide), List.length_cons] at hc
      rw [lowestSet, if_pos h0, ih (fun v hv => hl v (List.mem_cons_of_mem _ hv)) (Nat.lt_of_succ_lt_succ hc) hbit]
      · congr 1; omega
      · intro m hm
        have := hlow (m + 32) (Nat.add_lt_add_right hm 32)
        rwa [(later m).1, (later m).2] at this

/-! ## The region (R218) -/

/-- Where the values of a region begin in the bank. -/
def Ex.accBase (x : Ex) (k : BitVec 4) : Nat := x.kreg k / 4 % 2 ^ 14 * 4

/-- How many coordinates a region has. -/
def Ex.accCap (x : Ex) (k : BitVec 4) : Nat := 32 * (x.kreg k / 2 ^ 16 % 2 ^ 14)

/-- A region has coordinates, and its values and its bitmap lie in the bank. -/
def Ex.AccFits (x : Ex) (k : BitVec 4) : Prop :=
  0 < x.accCap k ∧ x.accBase k + 4 * x.accCap k + x.accCap k / 8 ≤ 65536

/-- Where the bitmap word of a coordinate lies. -/
def Ex.markAt (x : Ex) (k : BitVec 4) (c : Nat) : Nat := x.accBase k + 4 * x.accCap k + 4 * (c / 32)

/-- The bitmap word of a coordinate. -/
def Ex.markWord (x : Ex) (k : BitVec 4) (c : Nat) : Nat := readNat x.br.bank (x.markAt k c) 4

/-- A coordinate is marked. -/
def Ex.marked (x : Ex) (k : BitVec 4) (c : Nat) : Bool := (x.markWord k c).testBit (c % 32)

theorem mark_field (x : Ex) (k : BitVec 4) (c : Nat) : bitsOf (x.markWord k c) (c % 32) 1 = (x.marked k c).toNat :=
  bitsOf_one _ _

/-- The value of a coordinate. -/
def Ex.accVal (x : Ex) (k : BitVec 4) (c : Nat) : Nat := readNat x.br.bank (x.accBase k + 4 * c) 4

/-- Whether the region fits decides whether its instruction goes on. -/
theorem region_eq (x : Ex) (k : BitVec 4) (f : Nat → Nat → Nat → Ex) : x.region k f =
    if x.kreg k / 2 ^ 16 % 2 ^ 14 = 0 ∨ 65536 < x.accBase k + 4 * x.accCap k + 4 * (x.kreg k / 2 ^ 16 % 2 ^ 14) then
      x.raise (overrun 1 (BitVec.ofNat 64 (x.kreg k)))
    else f (x.accBase k) (x.kreg k / 2 ^ 16 % 2 ^ 14) (x.accCap k) := rfl

theorem accFits_iff (x : Ex) (k : BitVec 4) : x.AccFits k ↔
    ¬(x.kreg k / 2 ^ 16 % 2 ^ 14 = 0 ∨ 65536 < x.accBase k + 4 * x.accCap k + 4 * (x.kreg k / 2 ^ 16 % 2 ^ 14)) := by
  unfold Ex.AccFits Ex.accCap
  omega

theorem region_fits {x : Ex} {k : BitVec 4} (h : x.AccFits k) (f : Nat → Nat → Nat → Ex) :
    x.region k f = f (x.accBase k) (x.kreg k / 2 ^ 16 % 2 ^ 14) (x.accCap k) :=
  (region_eq x k f).trans (if_neg ((accFits_iff x k).1 h))

theorem region_misfit {x : Ex} {k : BitVec 4} (h : ¬ x.AccFits k) (f : Nat → Nat → Nat → Ex) :
    x.region k f = x.raise (overrun 1 (BitVec.ofNat 64 (x.kreg k))) :=
  (region_eq x k f).trans (if_pos (not_not.1 (mt (accFits_iff x k).2 h)))

/-! ## Values that come (R219) -/

/-- No flag leaves a view as it stands. -/
theorem flags_none (x : Ex) : x.flags 0 = x := by
  unfold Ex.flags
  split <;> simp

@[simp] theorem bankWord_ok (x : Ex) (off v : Nat) : (x.bankWord off v).ok = x.ok := bankStore_ok ..

section
variable {i : Instr} {g : BGuard} {k : BitVec 4} {a b : Opnd} {fp : Bool} {op : Ex → Nat → Nat → Ex × Nat} {c : Nat}

/-- An element comes for a coordinate of a region that fits. -/
def Ex.Gathers (x : Ex) (k : BitVec 4) (a : Opnd) (c : Nat) : Prop :=
  x.stopOf a = false ∧ x.AccFits k ∧ (x.get a).toNat / 2 ^ 16 % 2 ^ 16 = c ∧ c < x.accCap k

/-- A first value marks its coordinate; a float is a quiet NaN where it is a NaN (R219). -/
theorem spacc_first {x : Ex} (h : x.Gathers k a c) (hm : x.marked k c = false) : x.spacc k a b fp op =
    let v := (x.get b).toNat % 2 ^ 32
    let z := fp32.read v
    ((x.flags (if fp && z.sig then flNV else 0)).bankWord (x.accBase k + 4 * c)
      (if fp && z.isNan then fp32.nan else v)).bankWord (x.markAt k c) (x.markWord k c + 2 ^ (c % 32)) := by
  have hbit : bitsOf (x.markWord k c) (c % 32) 1 = 0 := by rw [mark_field, hm, Bool.toNat_false]
  obtain ⟨hs, hf, rfl, hc⟩ := h
  simp only [Ex.spacc, hs, region_fits hf, Ex.nat, Nat.not_le.2 hc, Bool.false_eq_true, if_false]
  exact if_pos hbit

/-- A later value is added to the one there (R219). -/
theorem spacc_later {x : Ex} (h : x.Gathers k a c) (hm : x.marked k c = true) : x.spacc k a b fp op =
    let r := op x (x.accVal k c) ((x.get b).toNat % 2 ^ 32)
    r.1.bankWord (x.accBase k + 4 * c) r.2 := by
  have hbit : bitsOf (x.markWord k c) (c % 32) 1 ≠ 0 := by rw [mark_field, hm, Bool.toNat_true]; exact Nat.one_ne_zero
  obtain ⟨hs, hf, rfl, hc⟩ := h
  simp only [Ex.spacc, hs, region_fits hf, Ex.nat, Nat.not_le.2 hc, Bool.false_eq_true, if_false]
  exact if_neg hbit

/-- A first float that is a NaN stands as the quiet one, and a signalling one sets NV (R219). -/
theorem spacc_firstFloat (hx : ∀ s, exec i s = run i (.b g) (fun x => x.spacc k a b true op) s) (hw : writesSw i = false) :
    Does i (.b g) (fun x => x.Gathers k a c ∧ x.marked k c = false) fun x =>
      let v := (x.get b).toNat % 2 ^ 32
      ((x.flags (if (fp32.read v).sig then 0x10 else 0)).bankWord (x.accBase k + 4 * c)
        (if (fp32.read v).isNan then 0x7FC00000 else v)).bankWord (x.markAt k c) (x.markWord k c + 2 ^ (c % 32)) :=
  does_of_noSw _ hx hw (fun x => by simp) fun _ _ _ hp => by
    rw [spacc_first hp.1 hp.2]
    simp only [Bool.true_and, flNV, show fp32.nan = 0x7FC00000 from rfl]

/-- A first integer stands as it comes (R219). -/
theorem spacc_firstInteger (hx : ∀ s, exec i s = run i (.b g) (fun x => x.spacc k a b false op) s) (hw : writesSw i = false) :
    Does i (.b g) (fun x => x.Gathers k a c ∧ x.marked k c = false) fun x =>
      (x.bankWord (x.accBase k + 4 * c) ((x.get b).toNat % 2 ^ 32)).bankWord (x.markAt k c) (x.markWord k c + 2 ^ (c % 32)) :=
  does_of_noSw _ hx hw (fun x => by simp) fun _ _ _ hp => by
    rw [spacc_first hp.1 hp.2]
    simp only [Bool.false_and, Bool.false_eq_true, if_false, flags_none]

theorem spacc_later_does (hx : ∀ s, exec i s = run i (.b g) (fun x => x.spacc k a b fp op) s) (hw : writesSw i = false)
    (hop : ∀ x u v, (op x u v).1.ok = x.ok) : Does i (.b g) (fun x => x.Gathers k a c ∧ x.marked k c = true) fun x =>
      let r := op x (x.accVal k c) ((x.get b).toNat % 2 ^ 32)
      r.1.bankWord (x.accBase k + 4 * c) r.2 :=
  does_of_noSw _ hx hw (fun _ => (bankWord_ok ..).trans (hop ..)) fun _ _ _ hp => spacc_later hp.1 hp.2

/-- A stop has no effect; a region that does not fit, and a coordinate beyond it, are overruns (R218, R219). -/
theorem spacc_limits (hx : ∀ s, exec i s = run i (.b g) (fun x => x.spacc k a b fp op) s) (hw : writesSw i = false) :
    Does i (.b g) (fun x => x.stopOf a = true) (fun x => x) ∧
    Faults i (.b g) (fun x => x.stopOf a = false ∧ ¬ x.AccFits k) (fun x => overrun 1 (BitVec.ofNat 64 (x.kreg k))) ∧
    Faults i (.b g) (fun x => x.stopOf a = false ∧ x.AccFits k ∧ (x.get a).toNat / 2 ^ 16 % 2 ^ 16 = c ∧ x.accCap k ≤ c)
      (fun _ => overrun 1 (BitVec.ofNat 64 c)) := by
  refine ⟨does_nothing _ hx hw fun _ hs => if_pos hs, faults_of_raise _ hx fun x ⟨hs, hf⟩ => ?_,
    faults_of_raise _ hx fun x ⟨hs, hf, hc, hcap⟩ => ?_⟩
  · simp only [Ex.spacc, hs, region_misfit hf, Bool.false_eq_true, if_false]
  · simp only [Ex.spacc, hs, region_fits hf, Ex.nat, hc, hcap, Bool.false_eq_true, if_false, if_true]

end

/-! ## The three ways to add (R219) -/

section
variable (g : BGuard) (rm : Rm) (k : BitVec 4) (a b : Opnd) (s : State)

theorem spaccFadd_runs : exec (.spaccFadd g rm k a b) s = run (.spaccFadd g rm k a b) (.b g) (fun x =>
    x.spacc k a b true fun x u v => x.rounded (x.mode rm) fun m r => addV fp32 m r (fp32.read u) (fp32.read v)) s := rfl

theorem spaccAdd_runs : exec (.spaccAdd g k a b) s =
    run (.spaccAdd g k a b) (.b g) (fun x => x.spacc k a b false fun x u v => (x, (u + v) % 2 ^ 32)) s := rfl

theorem spaccFmax_runs : exec (.spaccFmax g k a b) s = run (.spaccFmax g k a b) (.b g) (fun x =>
    x.spacc k a b true fun x u v =>
      (x.flags (minmaxV fp32 true false u v).fl, (minmaxV fp32 true false u v).code)) s := rfl

end

/-! ## Drains (R220) -/

section
variable {i : Instr} {g : BGuard} {k : BitVec 4} {n : BitVec 3} {vals : Bool} {c : Nat}

/-- The words of a region's bitmap. -/
def Ex.markWords (x : Ex) (k : BitVec 4) : List Nat :=
  (upTo (x.kreg k / 2 ^ 16 % 2 ^ 14)).map fun i => readNat x.br.bank (x.accBase k + 4 * x.accCap k + 4 * i) 4

theorem length_markWords (x : Ex) (k : BitVec 4) : (x.markWords k).length = x.kreg k / 2 ^ 16 % 2 ^ 14 := by
  simp only [Ex.markWords, upTo, List.length_map, List.length_range]

theorem markWords_lt {x : Ex} {w : Nat} (h : w ∈ x.markWords k) : w < 2 ^ 32 := by
  obtain ⟨i, -, rfl⟩ := List.mem_map.1 h
  exact readNat_lt _ _ 4

/-- The word of a coordinate of the region stands at its place among the words of the bitmap. -/
theorem nth_markWords {x : Ex} (h : c < x.accCap k) : nth (x.markWords k) (c / 32) 0 = x.markWord k c := by
  have hlt : c / 32 < x.kreg k / 2 ^ 16 % 2 ^ 14 := Nat.div_lt_of_lt_mul h
  simp only [nth, Ex.markWords, upTo, List.getD_eq_getElem?_getD, List.getElem?_map, List.getElem?_range hlt, Option.map_some,
    Option.getD_some]
  rfl

/-- A region without marks has no lowest one. -/
theorem lowest_unmarked {x : Ex} (h : ∀ m, m < x.accCap k → x.marked k m = false) : lowestSet 0 (x.markWords k) = none := by
  refine lowestSet_none (fun w hw => eq_zero_of_bits (markWords_lt hw) fun b hb => ?_) 0
  obtain ⟨i, hi, rfl⟩ := List.mem_map.1 hw
  have hi := List.mem_range.1 hi
  have := h (32 * i + b) (by unfold Ex.accCap; omega)
  rwa [Ex.marked, Ex.markWord, Ex.markAt, Nat.mul_add_mod, Nat.mod_eq_of_lt hb, Nat.mul_add_div (by decide),
    Nat.div_eq_of_lt hb, Nat.add_zero] at this

/-- The lowest marked coordinate of a region is the one that the words of its bitmap give. -/
theorem lowest_marked {x : Ex} (hc : c < x.accCap k) (hm : x.marked k c = true) (hlow : ∀ m, m < c → x.marked k m = false) :
    lowestSet 0 (x.markWords k) = some c := by
  have hlt : c / 32 < (x.markWords k).length := by rw [length_markWords]; exact Nat.div_lt_of_lt_mul hc
  refine (lowestSet_some (fun w => markWords_lt) hlt ?_ fun m hmc => ?_).trans (by rw [Nat.mul_zero, Nat.zero_add])
  · rw [nth_markWords hc]; exact hm
  · rw [nth_markWords (hmc.trans hc)]; exact hlow m hmc

/-- A drain of a region without marks writes a stop (R220). -/
theorem spdrain_unmarked {x : Ex} (hf : x.AccFits k) (hm : lowestSet 0 (x.markWords k) = none) (d : Opnd) (vals : Bool) :
    x.spdrain k d vals = (x.emit d true 0 .a0).setKreg k (x.kreg k % 2 ^ 31) := by
  unfold Ex.markWords at hm
  simp only [Ex.spdrain, region_fits hf, hm]

/-- A drain writes the lowest marked coordinate, or its value, which clears both (R220). -/
theorem spdrain_marked {x : Ex} (hf : x.AccFits k) (hm : lowestSet 0 (x.markWords k) = some c) (d : Opnd) (vals : Bool) :
    x.spdrain k d vals =
      if vals || 2 ^ 31 ≤ x.kreg k then
        (((x.emit d false (x.accVal k c) .a0).setKreg k (x.kreg k % 2 ^ 31)).bankWord (x.accBase k + 4 * c) 0).bankWord
          (x.markAt k c) (x.markWord k c - 2 ^ (c % 32))
      else (x.emit d false c .a0).setKreg k (x.kreg k % 2 ^ 31 + 2 ^ 31) := by
  unfold Ex.markWords at hm
  simp only [Ex.spdrain, region_fits hf, hm]
  rfl

/-- A drain finds a coordinate as the lowest marked one of a region that fits, and its output takes a token. -/
def Ex.Drains (x : Ex) (k : BitVec 4) (n : BitVec 3) (c : Nat) : Prop :=
  x.AccFits k ∧ c < x.accCap k ∧ x.marked k c = true ∧ (∀ m, m < c → x.marked k m = false) ∧ x.accepts (.o n) 0

/-- What a drain leaves once it has written the value of a coordinate: its half is the first again, and value and mark are
cleared. -/
def Ex.drained (x : Ex) (k : BitVec 4) (n : BitVec 3) (c : Nat) : Ex :=
  (((x.sends n false (x.accVal k c)).cursor k (x.kreg k % 2 ^ 31)).bankWord (x.accBase k + 4 * c) 0).bankWord
    (x.markAt k c) (x.markWord k c - 2 ^ (c % 32))

theorem drained_ok (x : Ex) (k : BitVec 4) (n : BitVec 3) (c : Nat) : (x.drained k n c).ok = x.ok := by
  simp [Ex.drained]

theorem spdrain_misfit (hx : ∀ s, exec i s = run i (.b g) (fun x => x.spdrain k (.o n) vals) s) :
    Faults i (.b g) (fun x => ¬ x.AccFits k) fun x => overrun 1 (BitVec.ofNat 64 (x.kreg k)) :=
  faults_of_raise _ hx fun _ hf => region_misfit hf _

/-- A region without marks gives a stop. -/
theorem spdrain_empty (hx : ∀ s, exec i s = run i (.b g) (fun x => x.spdrain k (.o n) vals) s) (hw : writesSw i = false) :
    Does i (.b g) (fun x => x.AccFits k ∧ (∀ m, m < x.accCap k → x.marked k m = false) ∧ x.accepts (.o n) 0)
      fun x => (x.sends n true 0).cursor k (x.kreg k % 2 ^ 31) :=
  does_of_noSw _ hx hw (fun _ => rfl) fun _ x h ⟨hf, hm, ho⟩ => by
    rw [spdrain_unmarked hf (lowest_unmarked hm), emit_unseamed ho]
    exact setKreg_eq (by simpa using begins_ok h) k _

/-- The value of the lowest marked coordinate is written, where the drain writes values or its coordinate has gone before. -/
theorem spdrain_value {p : Ex → Prop} (hx : ∀ s, exec i s = run i (.b g) (fun x => x.spdrain k (.o n) vals) s)
    (hw : writesSw i = false)
    (hp : ∀ x, p x → x.Drains k n c ∧ (vals || decide (2 ^ 31 ≤ x.kreg k)) = true) :
    Does i (.b g) p fun x => x.drained k n c :=
  does_of_noSw _ hx hw (fun x => drained_ok x k n c) fun _ x h hpx => by
    obtain ⟨⟨hf, hc, hm, hlow, ho⟩, hv⟩ := hp x hpx
    rw [spdrain_marked hf (lowest_marked hc hm hlow), if_pos hv, emit_unseamed ho, setKreg_eq (by simpa using begins_ok h)]
    rfl

/-- The lowest marked coordinate is written before its value. -/
theorem spdrain_coord : Does (.spdrain g k (.o n)) (.b g) (fun x => x.Drains k n c ∧ x.kreg k < 2 ^ 31) fun x =>
    (x.sends n false c).cursor k (x.kreg k + 2 ^ 31) := by
  refine does_of_noSw (fun x => x.spdrain k (.o n) false) (fun _ => rfl) rfl (fun _ => rfl)
    fun _ x h ⟨⟨hf, hc, hm, hlow, ho⟩, hv⟩ => ?_
  rw [spdrain_marked hf (lowest_marked hc hm hlow), Nat.mod_eq_of_lt hv, if_neg (by simpa using hv), emit_unseamed ho,
    setKreg_eq (by simpa using begins_ok h)]

end

/-- Settles O28: an element by whether its coordinate is marked, and a drain by the lowest mark that the words of the bitmap
hold. -/
theorem sparseAccumulator : Obligations.SparseAccumulator := by
  intro g rm k n a b c base cap good val wa bits put elem new old v float fadd iadd fmax marked lowest half value empty
  refine ⟨spacc_firstFloat (spaccFadd_runs g rm k a b) rfl, spacc_firstFloat (spaccFmax_runs g k a b) rfl,
    spacc_firstInteger (spaccAdd_runs g k a b) rfl,
    (spacc_later_does (c := c) (spaccFadd_runs g rm k a b) rfl fun x _ _ => rounded_ok x _ _ :),
    (spacc_later_does (c := c) (spaccAdd_runs g k a b) rfl fun _ _ _ => rfl :),
    (spacc_later_does (c := c) (spaccFmax_runs g k a b) rfl fun x _ _ => flags_ok x _ :), ?limits, ?misfit,
    spdrain_empty (vals := false) (fun _ => rfl) rfl, spdrain_empty (vals := true) (fun _ => rfl) rfl,
    spdrain_value (vals := true) (fun _ => rfl) rfl fun _ hp => ⟨hp, rfl⟩,
    spdrain_value (vals := false) (fun _ => rfl) rfl fun _ hp => ⟨hp.1, decide_eq_true hp.2⟩, spdrain_coord⟩
  case limits =>
    simp only [List.forall_mem_cons, List.not_mem_nil, false_imp_iff, implies_true, and_true]
    exact ⟨spacc_limits (spaccFadd_runs g rm k a b) rfl, spacc_limits (spaccAdd_runs g k a b) rfl,
      spacc_limits (spaccFmax_runs g k a b) rfl⟩
  case misfit =>
    simp only [List.forall_mem_cons, List.not_mem_nil, false_imp_iff, implies_true, and_true]
    exact ⟨spdrain_misfit (vals := false) fun _ => rfl, spdrain_misfit (vals := true) fun _ => rfl⟩

end Sys2Proof.Machine
end

section
/-! SUPPORT. What an agent sees of the writes that its spur holds (R234, R440). -/

namespace Sys2Proof.Machine

open Sys2Proof

/-! ## Lengths -/

@[simp] theorem physRead_length (s : State) (n : Nat) : ∀ pa, (s.physRead pa n).length = n := by
  induction n with
  | zero => exact fun _ => rfl
  | succ n ih => exact fun pa => congrArg (· + 1) (ih (pa + 1))

@[simp] theorem layOver_length (pa : Nat) (l : List Byte) (h : Held) : (layOver pa l h).length = l.length := by
  unfold layOver
  split
  · simp [upTo]
  · rfl

theorem foldl_layOver_length (pa : Nat) (l : List Byte) (held : List Held) :
    (held.foldl (layOver pa) l).length = l.length := foldl_keeps List.length (layOver_length pa) held l

/-- An agent sees as many bytes as it asks for. -/
theorem physBytes_length (x : Ex) (pa n : Nat) : (x.physBytes pa n).length = n := by
  unfold Ex.physBytes
  split
  · exact physRead_length ..
  · rw [foldl_layOver_length, physRead_length]

/-! ## One held write -/

/-- A held write off a range shows nothing in it. -/
theorem layOver_apart {pa : Nat} {l : List Byte} {h : Held} (ho : overlap pa l.length h.pa h.bytes.length = false) :
    layOver pa l h = l := by
  simp [layOver, ho]

/-- A held write of memory shows whole in the range that it covers. -/
theorem layOver_whole {l : List Byte} {h : Held} (hb : h.bank = none) (hl : l.length = h.bytes.length) :
    layOver h.pa l h = h.bytes := by
  apply List.ext_getElem (by rw [layOver_length, hl])
  intro j hj hj'
  have ho : overlap h.pa l.length h.pa h.bytes.length = true := by simp [overlap]; omega
  simp [layOver, hb, ho, upTo, hj', nth]

/-! ## The latest held write -/

/-- A view whose spur holds one write more. -/
def Ex.holding (x : Ex) (h : Held) : Ex := { x with sp := x.sp.modLive fun b => { b with held := b.held ++ [h] } }

section
variable (x : Ex) (h : Held)

/-- The latest held write of memory is laid over what the agent saw before it. -/
theorem physBytes_holding {pa : Nat} (n : Nat) (hp : isCtlSpace pa = false) :
    (x.holding h).physBytes pa n = layOver pa (x.physBytes pa n) h := by
  simp [Ex.physBytes, hp, Ex.holding, Spur.modLive]

/-- The latest held write of control space does what it does to the registers. -/
theorem ctlView_holding (hb : h.bank = none) (hc : isCtlSpace h.pa = true) :
    (x.holding h).ctlView = x.ctlView.physWrite (writerOf h.who h.sys) h.pa h.bytes := by
  simp [Ex.ctlView, Ex.holding, Spur.modLive, hb, hc]

/-- A held write of memory changes no register. -/
theorem ctlView_holding_memory (hc : isCtlSpace h.pa = false) : (x.holding h).ctlView = x.ctlView := by
  simp [Ex.ctlView, Ex.holding, Spur.modLive, hc]

/-- Registers are read as the held writes leave them. -/
theorem physBytes_ctl {pa : Nat} (n : Nat) (hp : isCtlSpace pa = true) : x.physBytes pa n = x.ctlView.physRead pa n :=
  if_pos hp

/-- The latest held write changes nothing off its bytes. -/
theorem physBytes_holding_apart {pa n : Nat} (ho : overlap pa n h.pa h.bytes.length = false)
    (hs : isCtlSpace pa = false ∨ isCtlSpace h.pa = false) : (x.holding h).physBytes pa n = x.physBytes pa n := by
  cases hp : isCtlSpace pa with
  | false => rw [physBytes_holding x h n hp, layOver_apart (by rwa [physBytes_length])]
  | true =>
    have hc : isCtlSpace h.pa = false := hs.resolve_left (by simp [hp])
    rw [physBytes_ctl _ n hp, physBytes_ctl _ n hp, ctlView_holding_memory x h hc]

end

/-- Settles O32: the latest held write is laid over what stood there, or does its register write. -/
theorem heldWritesVisible : Obligations.HeldWritesVisible := by
  intro x h hb
  refine ⟨fun hp => ?_, fun pa n => physBytes_holding_apart x h, ctlView_holding x h hb,
    fun pa n => physBytes_ctl (x.holding h) n, physBytes_length (x.holding h)⟩
  exact (physBytes_holding x h _ hp).trans (layOver_whole hb (physBytes_length ..))

end Sys2Proof.Machine
end

section
/-! SUPPORT. Bytes off a write, in cells of any order: what a write that begins with a listed byte leaves alone. -/

namespace Sys2Proof.Machine

open Sys2Proof

/-- A read above the byte written gives what stood there. -/
theorem readByte_writeByte_above {m : List Host.Cell} {k j : Nat} (v : Byte) (hj : k < j) :
    readByte (writeByte m k v) j = readByte m j := by
  induction m with
  | nil =>
    unfold writeByte
    split_ifs
    · rfl
    · simp [readByte, hj.ne]
  | cons c r ih =>
    obtain ⟨a, b⟩ := c
    have hk : ¬ j < k ∧ k ≠ j := by omega
    unfold writeByte
    split_ifs with h1 h2 h3 h4
    · rfl
    · simp only [readByte, hk, if_false]
    · have ha : ¬ j < a ∧ a ≠ j := by omega
      simp only [readByte, ha, if_false]
    · have ha : ¬ j < a ∧ a ≠ j := by omega
      simp only [readByte, hk, ha, if_false]
    · simp only [readByte, ih]

/-- The cells up to an address rise to it and end in it, so that a read below it never passes it. -/
def stopsAt : List Host.Cell → Nat → Bool
  | [], _ => false
  | (a, _) :: r, k => decide (a = k) || decide (a < k) && stopsAt r k

/-- A byte written that is not the unlisted one stops the reads below it. -/
theorem stopsAt_writeByte_same (m : List Host.Cell) (k : Nat) {v : Byte} (hv : v ≠ unlisted) :
    stopsAt (writeByte m k v) k = true := by
  induction m with
  | nil => simp [writeByte, hv, stopsAt]
  | cons c r ih =>
    obtain ⟨a, b⟩ := c
    simp only [writeByte, hv, if_false]
    split_ifs with h1 h2
    · simp [stopsAt]
    · simp [stopsAt]
    · simp [stopsAt, ih]
      omega

/-- A byte written above leaves a stop where it is, and what is read below it. -/
theorem writeByte_above_stop {m : List Host.Cell} {k n : Nat} (v : Byte) (hn : k < n) (hm : stopsAt m k = true) :
    stopsAt (writeByte m n v) k = true ∧ ∀ j, j < k → readByte (writeByte m n v) j = readByte m j := by
  induction m with
  | nil => cases hm
  | cons c r ih =>
    obtain ⟨a, b⟩ := c
    simp only [stopsAt, Bool.or_eq_true, Bool.and_eq_true, decide_eq_true_eq] at hm
    have ha : ¬ n < a ∧ a ≠ n := by omega
    simp only [writeByte, ha, if_false, stopsAt]
    rcases hm with hm | ⟨hlt, hr⟩
    · exact ⟨by simp [hm], fun j hj => by simp [readByte, hm, hj]⟩
    · obtain ⟨hs, hb⟩ := ih hr
      exact ⟨by simp [hlt, hs], fun j hj => by simp only [readByte, hb j hj]⟩

/-- Bytes written above a stop leave what is read below it. -/
theorem readByte_writeBytes_stop (l : List Byte) {k j : Nat} (hj : j < k) : ∀ {m : List Host.Cell} {n : Nat}, k < n →
    stopsAt m k = true → readByte (writeBytes m n l) j = readByte m j := by
  induction l with
  | nil => exact fun _ _ => rfl
  | cons v r ih =>
    intro m n hn hm
    obtain ⟨hs, hb⟩ := writeByte_above_stop v hn hm
    exact (ih (Nat.lt_succ_of_lt hn) hs).trans (hb j hj)

/-- A read above the bytes written gives what stood there. -/
theorem readByte_writeBytes_above (l : List Byte) {j : Nat} : ∀ {m : List Host.Cell} {n : Nat}, n + l.length ≤ j →
    readByte (writeBytes m n l) j = readByte m j := by
  induction l with
  | nil => exact fun _ => rfl
  | cons v r ih =>
    intro m n hn
    rw [List.length_cons] at hn
    exact (ih (by omega)).trans (readByte_writeByte_above v (by omega))

/-- A listed byte that is written leaves what is read below it. -/
theorem readByte_writeByte_below {m : List Host.Cell} {k j : Nat} {v : Byte} (hv : v ≠ unlisted) (hj : j < k) :
    readByte (writeByte m k v) j = readByte m j := by
  induction m with
  | nil => simp [writeByte, hv, readByte, hj]
  | cons c r ih =>
    obtain ⟨a, b⟩ := c
    simp only [writeByte, hv, if_false]
    split_ifs with h1 h2
    · have : j < a := by omega
      simp [readByte, hj, this]
    · simp [readByte, h2, hj]
    · simp only [readByte, ih]

/-- Bytes that begin with a listed one, written to cells of any order, leave every other byte as it was. -/
theorem readByte_writeBytes_apart {m : List Host.Cell} {n j : Nat} {v : Byte} {l : List Byte} (hv : v ≠ unlisted)
    (hj : j < n ∨ n + (v :: l).length ≤ j) : readByte (writeBytes m n (v :: l)) j = readByte m j := by
  rcases hj with hj | hj
  · exact (readByte_writeBytes_stop l hj (Nat.lt_succ_self n) (stopsAt_writeByte_same m n hv)).trans
      (readByte_writeByte_below hv hj)
  · exact readByte_writeBytes_above _ hj

end Sys2Proof.Machine
end

section
/-! SUPPORT. What a translation touches (R268, R269, R271, R273): caches, and the accessed and dirty bits of the one leaf entry
that its unit's cache then holds. -/

namespace Sys2Proof.Machine

open Sys2Proof

/-- A machine but for its caches. -/
def State.uncached (s : State) : State := { s with caches := [] }

/-! ## The accessed and dirty bits -/

/-- The bits that an access sets in its leaf (R273). -/
def AccK.marks : AccK → W64
  | .write | .rw => 0xC0
  | .read | .fetch => 0x40

/-- A leaf with its bits set is the leaf of the same pages. -/
theorem entTag_marks (level : Nat) (e : W64) (acc : AccK) (va : Nat) :
    entTag level (e ||| acc.marks) va = entTag level e va := by
  have hm : ∀ n ∈ [0, 1, 10], entBit (e ||| acc.marks) n = entBit e n := by
    intro n hn
    have : acc.marks.getLsbD n = false := by cases acc <;> revert n <;> decide
    simp [entBit, this]
  simp [entTag, hm]

/-- Setting the bits of a leaf changes nothing where they are set; else it writes the leaf, and the cache holds it. -/
theorem setAD_cases (s : State) (c : CacheEnt) (va : Nat) (acc : AccK) : setAD s c va acc = s ∨
    setAD s c va acc = (s.putNat c.addr 8 (BitVec.ofNat 64 (s.physNat c.addr 8) ||| acc.marks).toNat).fill
      { c with ent := c.ent ||| acc.marks } va := by
  unfold setAD
  cases acc
  all_goals
    simp only [AccK.marks]
    split_ifs
    · exact .inl rfl
    · exact .inr rfl

/-- The first byte of a leaf with its bits set is listed in memory. -/
theorem toBytes_marks (e : W64) (acc : AccK) : ∃ v l, toBytes 8 (e ||| acc.marks).toNat = v :: l ∧ v ≠ unlisted := by
  refine ⟨_, _, rfl, fun h => ?_⟩
  have hbit : (BitVec.ofNat 8 (e ||| acc.marks).toNat).getLsbD 6 = true := by
    have hm : acc.marks.getLsbD 6 = true := by cases acc <;> rfl
    rw [BitVec.getLsbD_ofNat, BitVec.testBit_toNat, BitVec.getLsbD_or, hm]
    simp
  rw [h] at hbit
  cases hbit

/-- A machine but for its memory, the words of it found bad, and its caches. -/
def State.unwritten (s : State) : State := { s with mem := [], badWords := [], caches := [] }

theorem setAD_unwritten {s : State} {c : CacheEnt} (hc : isCtlSpace c.addr = false) (va : Nat) (acc : AccK) :
    (setAD s c va acc).unwritten = s.unwritten := by
  rcases setAD_cases s c va acc with h | h <;> rw [h]
  simp [State.putNat, hc]
  rfl

/-- Setting the bits of a leaf in memory writes no byte off the leaf. -/
theorem setAD_readByte {s : State} {c : CacheEnt} (hc : isCtlSpace c.addr = false) (va : Nat) (acc : AccK) {a : Nat}
    (ha : a < c.addr ∨ c.addr + 8 ≤ a) : readByte (setAD s c va acc).mem a = readByte s.mem a := by
  rcases setAD_cases s c va acc with h | h <;> rw [h]
  obtain ⟨v, l, he, hv⟩ := toBytes_marks (BitVec.ofNat 64 (s.physNat c.addr 8)) acc
  have hl : (v :: l).length = 8 := by rw [← he, toBytes_length]
  have hm : ∀ z : State, (z.putNat c.addr 8 (BitVec.ofNat 64 (s.physNat c.addr 8) ||| acc.marks).toNat).mem =
      writeBytes z.mem c.addr (v :: l) := by
    intro z
    rw [← he, State.putNat, if_neg (by simp [hc])]
    rfl
  rw [State.fill_mem, hm, readByte_writeBytes_apart hv (by rwa [hl])]

/-- Where setting the bits of a leaf changes a machine, a cache then holds an entry of the leaf's address that answers for
the page. -/
theorem setAD_cached {s : State} {c : CacheEnt} {u : CacheUnit} {asid va : Nat} (hc : c.covers u asid c.level va = true)
    (acc : AccK) : setAD s c va acc = s ∨
      ∃ e ∈ (setAD s c va acc).caches, e.covers u asid e.level va = true ∧ e.addr = c.addr := by
  rcases setAD_cases s c va acc with h | h
  · exact .inl h
  · refine .inr ⟨{ c with ent := c.ent ||| acc.marks }, ?_, ?_, rfl⟩
    · rw [h]
      exact List.mem_cons_self
    · simpa [CacheEnt.covers, entTag_marks] using hc

/-! ## How a walk ends -/

/-- How a translation of `s` may end: without an address, with nothing but caches changed; or with one, where it then sets
the bits of a leaf that answers for the page. -/
def EndsWalk (s : State) (u : CacheUnit) (asid va : Nat) (acc : AccK) (w : State × Except TFault (Nat × W64)) : Prop :=
  ((∃ f, w.2 = .error f) ∧ w.1.uncached = s.uncached) ∨
    ∃ r c z, w.2 = .ok r ∧ z.uncached = s.uncached ∧ c.covers u asid c.level va = true ∧ w.1 = setAD z c va acc

section
variable (s : State) (u : CacheUnit) (asid va : Nat) (n : Need)

theorem EndsWalk.error (f : TFault) : EndsWalk s u asid va n.acc (s, .error f) := .inl ⟨⟨f, rfl⟩, rfl⟩

theorem walkLeaf_ends (level : Nat) (path : List CacheEnt) (f : Found) :
    EndsWalk s u asid va n.acc (walkLeaf s u asid va level n path f) := by
  unfold walkLeaf
  simp only
  split
  · exact .error ..
  · split
    · exact .error ..
    · refine .inr ⟨_, _, _, rfl, ?_, ?_, rfl⟩
      · exact foldl_keeps State.uncached (f := fun s c => s.fill c va) (fun _ _ => rfl) _ s
      · simp [CacheEnt.covers]

theorem walkFrom_ends (level : Nat) : ∀ (table : Nat) (path : List CacheEnt),
    EndsWalk s u asid va n.acc (walkFrom u asid va n level table path s) := by
  induction level with
  | zero =>
    intro table path
    unfold walkFrom
    simp only
    split_ifs
    · exact .error ..
    · exact .error ..
    · exact .error ..
    · exact .error ..
    · exact .error ..
    · exact walkLeaf_ends ..
    · exact .error ..
  | succ k ih =>
    intro table path
    unfold walkFrom
    simp only
    split_ifs
    · exact .error ..
    · exact .error ..
    · exact .error ..
    · exact .error ..
    · exact .error ..
    · exact walkLeaf_ends ..
    all_goals exact ih ..

theorem translateWalk_ends : EndsWalk s u asid va n.acc (translate.translateWalk s u asid va n) := by
  unfold translate.translateWalk
  simp only
  split_ifs
  · exact .error ..
  · exact .error ..
  all_goals exact walkFrom_ends ..

/-- A translation ends by a cached leaf, or as its walk does (R268, R271). -/
theorem translate_ends : EndsWalk s u asid va n.acc (translate s u asid va n) := by
  unfold translate
  simp only
  split
  · exact .error ..
  · split
    · split
      · exact translateWalk_ends { s with caches := _ } u asid va n
      · exact walkLeaf_ends ..
    · exact translateWalk_ends ..

end

/-- What nothing but caches parts reads alike. -/
theorem same_of_uncached {s t : State} (h : t.uncached = s.uncached) :
    t.mem = s.mem ∧ t.full = s.full ∧ t.spurs = s.spurs ∧ t.ctl = s.ctl :=
  ⟨(congrArg State.mem h :), (congrArg State.full h :), (congrArg State.spurs h :), (congrArg State.ctl h :)⟩

/-- A translation changes memory in its leaf alone, and nothing where it faults. -/
theorem translationFrame : Says.TranslationFrame := by
  intro s t u asid va n r ht
  have he := translate_ends s u asid va n
  rw [ht] at he
  rcases he with ⟨-, hs⟩ | ⟨v, c, z, hr, hz, hc, htz⟩
  · obtain ⟨hm, hrest⟩ := same_of_uncached hs
    exact ⟨fun _ => ⟨fun a _ => congrArg (readByte · a) hm, hrest⟩, fun _ _ => ⟨hm, hrest⟩⟩
  · obtain ⟨hm, hf, hsp, hct⟩ := same_of_uncached hz
    refine ⟨fun hmem => ?_, fun f hf => by rw [show r = .ok v from hr] at hf; cases hf⟩
    obtain rfl : t = setAD z c va n.acc := htz
    rcases setAD_cached hc n.acc with h | ⟨e, hin, hcov, haddr⟩
    · rw [h]
      exact ⟨fun a _ => congrArg (readByte · a) hm, hf, hsp, hct⟩
    · have hctl : isCtlSpace c.addr = false := haddr ▸ hmem e hin hcov
      have hw := setAD_unwritten (s := z) hctl va n.acc
      refine ⟨fun a ha => ?_, (congrArg State.full hw :).trans hf, (congrArg State.spurs hw :).trans hsp,
        (congrArg State.ctl hw :).trans hct⟩
      rw [setAD_readByte hctl va n.acc (haddr ▸ ha e hin hcov), hm]

end Sys2Proof.Machine
end

section
/-! SUPPORT. Where an access leads (R230 to R232, R262, R280, R409), one lemma per target and way it ends, and what an
instruction that makes one access does with it (R254). -/

namespace Sys2Proof.Machine

open Sys2Proof

/-! ## Places -/

section
variable {x : Ex} {al n t va : Nat} {acc : AccK} {pres : Option Bool}

theorem place_unset (hx : x.ok = true) (w : BitVec 2) :
    (x.place (.unset w) al n acc pres).1 = { x with fault := some (overrun 2 (w.setWidth 64)) } := raise_ok hx _

theorem place_vault_misaligned (hx : x.ok = true) (h : t % al ≠ 0) :
    (x.place (.vault t) al n acc pres).1 = { x with fault := some (flt 8 (BitVec.ofNat 64 t)) } := by
  simp only [Ex.place, bne_iff_ne, h, ne_eq, not_false_eq_true, if_true, raise_ok hx]

theorem place_vault_aligned (h : t % al = 0) : x.place (.vault t) al n acc pres = x.vaultAt t n := by
  simp [Ex.place, h]

/-- A vault address within the vault bytes of a brick of the spur leads there (R232). -/
theorem vaultAt_brick {rc : BitVec 8 × BitVec 8} (ht : t < 2 ^ 24) (hb : x.vaultBrick (t / 65536) = some rc)
    (hv : t % 65536 + n ≤ x.sp.img.hd.vlt) : x.vaultAt t n = (x, .bank rc.1 rc.2 (t % 65536) t) := by
  unfold Ex.vaultAt
  simp only [hb, hv, if_true, if_neg (Nat.not_le.2 ht)]

/-- Any other vault address is an overrun (R232). -/
theorem vaultAt_overrun (hx : x.ok = true)
    (h : 2 ^ 24 ≤ t ∨ x.vaultBrick (t / 65536) = none ∨ x.sp.img.hd.vlt < t % 65536 + n) :
    (x.vaultAt t n).1 = { x with fault := some (overrun 1 (BitVec.ofNat 64 t)) } := by
  have hr := raise_ok hx (overrun 1 (BitVec.ofNat 64 t))
  unfold Ex.vaultAt
  simp only
  split
  · exact hr
  · next ht =>
    split
    · exact hr
    · next hb =>
      rw [if_neg]
      · exact hr
      · have := (h.resolve_left ht).resolve_left (by simp [hb])
        omega

theorem place_virt_misaligned (hx : x.ok = true) (h : va % al ≠ 0) :
    (x.place (.virt va) al n acc pres).1 = { x with fault := some (flt 8 (BitVec.ofNat 64 va)) } := by
  simp only [Ex.place, bne_iff_ne, h, ne_eq, not_false_eq_true, if_true, raise_ok hx]

/-- An aligned virtual address is translated, and what is read there must be good (R231, R409). -/
theorem place_virt (h : va % al = 0) : x.place (.virt va) al n acc pres =
    let y := x.translate va acc pres
    (if acc == .write then y.1 else y.1.readGood va y.2 n, .phys va y.2) := by
  simp [Ex.place, h]

/-- A translation that ends without going on leaves the access where it ended (R269, R280). -/
theorem place_virt_stopped {y : Ex} {pa : Nat} (h : va % al = 0) (ht : x.translate va acc pres = (y, pa))
    (hy : y.ok = false) : (x.place (.virt va) al n acc pres).1 = y := by
  simp only [place_virt h, ht, readGood_stopped hy, ite_self]

section
variable {s : State}

/-- An access that no migration holds goes to its translation (R229, R270). -/
theorem translate_to {pa : Nat} {l : W64} (hm : x.s.migrHolds x.sp.asid va = false)
    (ht : Machine.translate x.s (bedrock x.sp.massif) x.sp.asid va ⟨acc, x.user, pres⟩ = (s, .ok (pa, l))) :
    x.translate va acc pres = ({ x with s := s }, pa) := by
  simp only [Ex.translate, hm, Bool.false_eq_true, if_false, ht]

/-- A walk that ends without a translation ends the access's (R269). -/
theorem translate_fails {f : TFault} (hm : x.s.migrHolds x.sp.asid va = false)
    (ht : Machine.translate x.s (bedrock x.sp.massif) x.sp.asid va ⟨acc, x.user, pres⟩ = (s, .error f)) :
    x.translate va acc pres = (Ex.walkEnds { x with s := s } va acc f, 0) := by
  simp only [Ex.translate, hm, Bool.false_eq_true, if_false, ht]

theorem place_virt_held (h : va % al = 0) (hm : x.s.migrHolds x.sp.asid va = true) :
    (x.place (.virt va) al n acc pres).1 = { x with wait := true } :=
  place_virt_stopped h (if_pos hm) (stall_not_ok x)

/-- A translated address whose bytes may be read, or that is written, is the place (R229, R409). -/
theorem place_virt_good {pa : Nat} {l : W64} (h : va % al = 0) (hm : x.s.migrHolds x.sp.asid va = false)
    (ht : Machine.translate x.s (bedrock x.sp.massif) x.sp.asid va ⟨acc, x.user, pres⟩ = (s, .ok (pa, l)))
    (hg : acc = .write ∨ Ex.badAt { x with s := s } pa n = false) :
    x.place (.virt va) al n acc pres = ({ x with s := s }, .phys va pa) := by
  simp only [place_virt h, translate_to hm ht]
  rcases hg with hg | hg
  · simp [hg]
  · simp [Ex.readGood, hg]

/-- A read of a word that stays bad goes no further (R409). -/
theorem place_virt_bad {pa : Nat} {l : W64} (hx : x.ok = true) (h : va % al = 0)
    (hm : x.s.migrHolds x.sp.asid va = false)
    (ht : Machine.translate x.s (bedrock x.sp.massif) x.sp.asid va ⟨acc, x.user, pres⟩ = (s, .ok (pa, l)))
    (ha : acc ≠ .write) (hb : Ex.badAt { x with s := s } pa n = true) :
    (x.place (.virt va) al n acc pres).1.ok = false := by
  have hy : Ex.ok { x with s := s } = true := hx
  simp only [place_virt h, translate_to hm ht, beq_iff_eq, ha, if_false, Ex.readGood, hy, hb, Bool.not_true,
    Bool.or_self, Bool.false_eq_true, lose_not_ok]

/-- A walk that ends without a translation ends the access (R269, R409). -/
theorem place_virt_walkEnds {f : TFault} (h : va % al = 0) (hm : x.s.migrHolds x.sp.asid va = false)
    (ht : Machine.translate x.s (bedrock x.sp.massif) x.sp.asid va ⟨acc, x.user, pres⟩ = (s, .error f)) :
    (x.place (.virt va) al n acc pres).1 = Ex.walkEnds { x with s := s } va acc f :=
  place_virt_stopped h (translate_fails hm ht) (walkEnds_not_ok _ _ _ _)

end
end

/-- Each target by its alignment, and a virtual one by how its translation ends. -/
theorem accessPlaces_each : Says.AccessPlaces := by
  intro x al n t va acc pres hx _
  refine ⟨place_unset hx, place_vault_misaligned hx, place_virt_misaligned hx, fun h ht rc hb hv => ?_, fun h hb => ?_,
    place_virt_held, fun h hm s pa l ht => ⟨place_virt_good h hm ht, place_virt_bad hx h hm ht⟩, fun h hm s f ht => ?_⟩
  · rw [place_vault_aligned h, vaultAt_brick ht hb hv]
  · rw [place_vault_aligned h, vaultAt_overrun hx hb]
  · rw [place_virt_walkEnds h hm ht]
    rcases walkEnds_cases { x with s := s } va acc f with ⟨hk, he⟩ | ⟨hk, he⟩ <;> rw [he]
    · exact ⟨fun _ => ⟨rfl, lose_not_ok ..⟩, fun hn => absurd hk hn⟩
    · refine ⟨fun hl => absurd hl hk, fun _ => (raise_ok (x := { x with s := s }) hx _).trans ?_⟩
      simp only [transFlt, beq_iff_eq]

/-! ## One access of an instruction -/

/-- An access with its footprint check (R254), as the instructions that make one do it. -/
def Ex.access (x : Ex) (tg : Target1) (al n : Nat) (acc : AccK) (pres : Option Bool) (kind : Nat) : Ex × Place1 :=
  let y := x.place tg al n acc pres
  (if y.1.ok then y.1.footCheck kind n y.2 else y.1, y.2)

section
variable {x y : Ex} {tg : Target1} {al n kind : Nat} {acc : AccK} {pres : Option Bool} {p : Place1}

/-- An access that its place and its footprint allow goes on there. -/
theorem access_lands (h : x.place tg al n acc pres = (y, p)) (hy : y.ok = true) (hf : y.footCheck kind n p = y) :
    x.access tg al n acc pres kind = (y, p) := by
  simp only [Ex.access, h, hy, if_true, hf]

/-- An access that cannot be placed goes no further (R262). -/
theorem access_stops (h : (x.place tg al n acc pres).1.ok = false) :
    (x.access tg al n acc pres kind).1 = (x.place tg al n acc pres).1 := by
  simp only [Ex.access, h, Bool.false_eq_true, if_false]

/-- The view of an access that was placed is the instruction's view, but for the machine after its translation. -/
theorem place_view (h : x.place tg al n acc pres = (y, p)) (hy : y.ok = true) : y = { x with s := y.s } := by
  rcases place_ok h hy with ⟨_, _, _, hyx, _⟩ | ⟨_, _, _, _, _, hyx, _⟩ <;> rw [hyx]

end

/-! ## Loads and stores -/

section
variable {x y : Ex} {tg : Target1} {n : Nat} {p : Place1}

theorem loadAt_access (x : Ex) (tg : Target1) (n : Nat) (d : Opnd) : x.loadAt tg n d =
    let y := x.access tg n n .read none 0
    y.1.deliver d (BitVec.ofNat 64 (ofBytes (y.1.bytesAt y.2 n))) (y.2.range n) := rfl

theorem storeAt_access (x : Ex) (tg : Target1) (n v : Nat) : x.storeAt tg n v =
    let y := x.access tg n n .write (some false) 1
    y.1.hold .store y.2 (toBytes n v) := rfl

/-- A view that does not go on delivers nothing. -/
theorem deliver_stopped (h : x.ok = false) (d : Opnd) (v : W64) (r : Option Reach) : x.deliver d v r = x := by
  simp [Ex.deliver, h]

/-- A view that does not go on holds nothing. -/
theorem hold_stopped (h : x.ok = false) (kind : WKind) (p : Place1) (l : List Byte) : x.hold kind p l = x := by
  simp [Ex.hold, h]

theorem loadAt_stops (h : (x.place tg n n .read none).1.ok = false) (d : Opnd) :
    x.loadAt tg n d = (x.place tg n n .read none).1 := by
  have ha := access_stops (kind := 0) h
  rw [loadAt_access, deliver_stopped (by rw [ha, h]), ha]

theorem storeAt_stops (h : (x.place tg n n .write (some false)).1.ok = false) (v : Nat) :
    x.storeAt tg n v = (x.place tg n n .write (some false)).1 := by
  have ha := access_stops (kind := 1) h
  rw [storeAt_access, hold_stopped (by rw [ha, h]), ha]

end

/-! ## Presence reads and fills -/

/-- The meaning of `ldp` (R246). -/
def Ex.presRead (x : Ex) (tg : Target1) (d : Opnd) : Ex :=
  let y := x.access tg 4 4 .read (some true) 2
  if !y.1.ok then y.1
  else if y.1.fullAt y.2 then y.1.put d (BitVec.ofNat 64 (ofBytes (y.1.bytesAt y.2 4)))
  else y.1.defers d y.2

/-- The rest of `stp`, once its write is held (R246, R247). -/
def Ex.fills (x : Ex) (p : Place1) (v : Nat) : Ex :=
  if !x.ok then x
  else
    let y := x.fillOwn p (BitVec.ofNat 64 (v % 2 ^ 32))
    match p with
    | .bank r c off _ => y.modFull r c fun l => setFull l off
    | .phys .. => y

/-- The meaning of `stp` (R247). -/
def Ex.presFill (x : Ex) (tg : Target1) (v : Nat) : Ex :=
  let y := x.access tg 4 4 .write (some true) 2
  if !y.1.ok then y.1
  else if y.1.fullAt y.2 then y.1.raise (flt 6 (BitVec.ofNat 64 y.2.addr))
  else if y.1.filling y.2 then y.1.stall
  else (y.1.hold .stp y.2 (toBytes 4 v)).fills y.2 v

section
variable (g : Guard) (w : BitVec 2) (d v a b : Opnd) (s : State)

theorem exec_ldp : exec (.ldp g w d a b) s =
    run (.ldp g w d a b) g (fun x => x.presRead (x.window w (x.sum g a b)) d) s := rfl

theorem exec_stp : exec (.stp g w v a b) s =
    run (.stp g w v a b) g (fun x => x.presFill (x.window w (x.sum g a b)) (x.nat v)) s := rfl

end

theorem presRead_stops {x : Ex} {tg : Target1} (h : (x.place tg 4 4 .read (some true)).1.ok = false) (d : Opnd) :
    x.presRead tg d = (x.place tg 4 4 .read (some true)).1 := by
  have ha := access_stops (kind := 2) h
  simp only [Ex.presRead, ha, h, Bool.not_false, if_true]

theorem presFill_stops {x : Ex} {tg : Target1} (h : (x.place tg 4 4 .write (some true)).1.ok = false) (v : Nat) :
    x.presFill tg v = (x.place tg 4 4 .write (some true)).1 := by
  have ha := access_stops (kind := 2) h
  simp only [Ex.presFill, ha, h, Bool.not_false, if_true]

/-- An instruction that begins ends as its body leaves it. -/
theorem next_of_body {i : Instr} {g : Guard} {s : State} {x y : Ex} (body : Ex → Ex) (hx : exec i s = run i g body s)
    (h : begins i g s = some x) (hb : body x = y) : exec i s = .next (ended i s y) := by
  rw [hx, run_begins body h, hb]

/-- An access that cannot be placed ends each instruction that makes it. -/
theorem accessFaults : Says.AccessFaults := fun _ _ _ d _ _ _ _ _ =>
  ⟨fun h hy => next_of_body _ rfl h (loadAt_stops hy d), fun h hy => next_of_body _ rfl h (loadAt_stops hy d),
    fun h hy => next_of_body _ rfl h (storeAt_stops hy _), fun h hy => next_of_body _ rfl h (storeAt_stops hy _),
    fun h hy => next_of_body _ (exec_ldp ..) h (presRead_stops hy d),
    fun h hy => next_of_body _ (exec_stp ..) h (presFill_stops hy _)⟩

/-! ## The own bank -/

section
variable {x : Ex} {t n : Nat}

theorem bankOff_good (h : t % n = 0 ∧ t + n ≤ 65536) : x.bankOff t n = (x, t) := by
  simp only [Ex.bankOff, h.1, bne_self_eq_false, Bool.false_eq_true, if_false, if_neg (Nat.not_lt.2 h.2)]

theorem bankOff_misaligned (hx : x.ok = true) (h : t % n ≠ 0) :
    x.bankOff t n = ({ x with fault := some (flt 8 (BitVec.ofNat 64 t)) }, t) := by
  simp only [Ex.bankOff, bne_iff_ne, h, ne_eq, not_false_eq_true, if_true, raise_ok hx]

theorem bankOff_beyond (hx : x.ok = true) (h : t % n = 0) (hb : 65536 < t + n) :
    x.bankOff t n = ({ x with fault := some (overrun 1 (BitVec.ofNat 64 t)) }, t) := by
  simp only [Ex.bankOff, h, bne_self_eq_false, Bool.false_eq_true, if_false, hb, if_true, raise_ok hx]

end

/-- A value that returns at once is written where it goes. -/
theorem deliver_now {x : Ex} (hx : x.ok = true) (hl : x.s.late = false) (d : Opnd) (v : W64) (r : Option Reach) :
    x.deliver d v r = x.put d v := by
  simp [Ex.deliver, hx, hl]

/-- A value that returns later is kept by its agent (R234). -/
theorem deliver_later {x : Ex} (hx : x.ok = true) (hl : x.s.late = true) (d : Opnd) (v : W64) (r : Option Reach) :
    x.deliver d v r = if x.isB then { x with cx := { x.cx with load := some ⟨x.slot, x.bank, v, d, r⟩ } }
      else { x with th := { x.th with load := some ⟨0, 0, v, d, r⟩ } } := by
  simp [Ex.deliver, hx, hl]

/-- The meaning of `ldb` (R256). -/
def Ex.bankLoad (x : Ex) (t n : Nat) (d : Opnd) : Ex :=
  let y := x.bankOff t n
  y.1.deliver d (BitVec.ofNat 64 (readNat y.1.br.bank y.2 n)) none

/-- The meaning of `stb` (R256). -/
def Ex.bankSave (x : Ex) (t n v : Nat) : Ex :=
  let y := x.bankOff t n
  if y.1.ok then y.1.bankStore y.1.br.row y.1.br.col y.2 (toBytes n v) else y.1

section
variable {x y : Ex} {t t' n : Nat}

theorem bankLoad_good (h : t % n = 0 ∧ t + n ≤ 65536) (d : Opnd) :
    x.bankLoad t n d = x.deliver d (BitVec.ofNat 64 (readNat x.br.bank t n)) none := by
  simp only [Ex.bankLoad, bankOff_good h]

theorem bankSave_good (hx : x.ok = true) (h : t % n = 0 ∧ t + n ≤ 65536) (v : Nat) :
    x.bankSave t n v = x.bankStore x.br.row x.br.col t (toBytes n v) := by
  simp only [Ex.bankSave, bankOff_good h, hx, if_true]

theorem bankLoad_stopped (h : x.bankOff t n = (y, t')) (hy : y.ok = false) (d : Opnd) : x.bankLoad t n d = y := by
  simp only [Ex.bankLoad, h, deliver_stopped hy]

theorem bankSave_stopped (h : x.bankOff t n = (y, t')) (hy : y.ok = false) (v : Nat) : x.bankSave t n v = y := by
  simp only [Ex.bankSave, h, hy, Bool.false_eq_true, if_false]

end

section
variable (g : BGuard) (z : Size) (d v a b : Opnd) (s : State)

theorem exec_ldb : exec (.ldb g z d a b) s =
    run (.ldb g z d a b) (.b g) (fun x => x.bankLoad (x.sum (.b g) a b) (sizeOf z) d) s := rfl

theorem exec_stb : exec (.stb g z v a b) s =
    run (.stb g z v a b) (.b g) (fun x => x.bankSave (x.sum (.b g) a b) (sizeOf z) (x.nat v)) s := rfl

end

/-- An access of the own bank by its offset: off its size, beyond the bank, or good. -/
theorem bankAccess : Says.BankAccess := by
  intro g z d v a b
  refine ⟨?now, ?later, ?store, ?faults⟩
  case now =>
    exact does_of _ (exec_ldb g z d a b) fun s x h ⟨hg, hl, ha⟩ =>
      ⟨(bankLoad_good hg d).trans (deliver_now (begins_ok h) hl ..), stored_putT false (begins_ok h) ha rfl rfl⟩
  case later =>
    refine does_of _ (exec_ldb g z d a b) fun s x h ⟨hg, hl, hs⟩ => ⟨(bankLoad_good hg d).trans ?_, hs⟩
    exact (deliver_later (begins_ok h) hl ..).trans (if_pos (begins_isB h))
  case store =>
    exact does_of _ (exec_stb g z v a b) fun s x h hg =>
      ⟨bankSave_good (begins_ok h) hg _, by rw [stored_same rfl, bankStore_ok, begins_ok h]⟩
  case faults =>
    simp only [List.forall_mem_cons, List.not_mem_nil, false_imp_iff, implies_true, and_true]
    refine ⟨⟨?_, ?_⟩, ?_, ?_⟩
    · exact faults_of _ (exec_ldb g z d a b) fun s x h hm => bankLoad_stopped (bankOff_misaligned (begins_ok h) hm) rfl d
    · exact faults_of _ (exec_ldb g z d a b) fun s x h hm => bankLoad_stopped (bankOff_beyond (begins_ok h) hm.1 hm.2) rfl d
    · exact faults_of _ (exec_stb g z v a b) fun s x h hm => bankSave_stopped (bankOff_misaligned (begins_ok h) hm) rfl _
    · exact faults_of _ (exec_stb g z v a b) fun s x h hm => bankSave_stopped (bankOff_beyond (begins_ok h) hm.1 hm.2) rfl _

/-- Settles O29: a place by its target, its faults by the instruction that meets them, and the own bank by its offset. -/
theorem accessPlaces : Obligations.AccessPlaces := ⟨bankAccess, accessPlaces_each, accessFaults⟩

end Sys2Proof.Machine
end

section
/-! SUPPORT. What loads and stores leave of memory (R234): past the translation of their one address they change nothing of the
machine but its spurs, and a thread's raises no fault. -/

namespace Sys2Proof.Machine

open Sys2Proof

/-! ## The end of an instruction -/

theorem finish_s (x : Ex) (l : List Opnd) : (x.finish l).s = x.s := by
  unfold Ex.finish
  split
  · rfl
  · simp only
    split <;> rfl

/-- An instruction that writes no `sw`, and whose thread raises no fault, puts its view back and changes nothing else. -/
theorem ended_still {i : Instr} {g : Guard} {s : State} {x y : Ex} (h : begins i g s = some x) (hw : writesSw i = false)
    (hf : x.isB = false → y.fault = none) : (ended i s y).still = y.s.still := by
  cases g with
  | b g =>
    obtain ⟨c, n, ha, -⟩ := begins_brick h
    simp only [ended, ha, leaveB, hw, Bool.and_false, Bool.false_eq_true, if_false]
    split
    · rfl
    · split
      · rfl
      · split
        · rfl
        · exact (congrArg State.still (finish_s y (plainSrcs i y.cx0)) :)
  | s g =>
    obtain ⟨c, ha, -⟩ := begins_thread h
    simp only [ended, ha, leaveS, hf (begins_isB h)]
    split <;> rfl

/-! ## What a view shows -/

/-- What the end of an agent's instruction shows of a view of it: the machine but for its spurs, and the fault of a thread's
word, which marks its round at once (R96). A brick's fault shows nothing before the mark (R398). -/
def Ex.shown (x : Ex) (brick : Bool) : State × Option Flt := (x.s.still, if brick then none else x.fault)

/-- An instruction that shows no more than an earlier view of it, whose thread raised no fault, leaves memory and presence bits
as that view has them. -/
theorem memory_of_shown {i : Instr} {g : Guard} {s t : State} {x y v : Ex} (h : begins i g s = some x)
    (hw : writesSw i = false) (hx : exec i s = .next (ended i s y)) (ht : exec i s = .next t)
    (hf : x.isB = false → v.fault = none) (hs : y.shown x.isB = v.shown x.isB) : t.mem = v.s.mem ∧ t.full = v.s.full := by
  rw [hx] at ht
  injection ht with ht
  obtain ⟨hst, hfl⟩ := Prod.mk.inj hs
  have hy : x.isB = false → y.fault = none := fun hb => by
    simpa only [hb, Bool.false_eq_true, if_false, hf hb] using hfl
  have hall : t.still = v.s.still := (congrArg State.still ht.symm).trans ((ended_still h hw hy).trans hst)
  exact ⟨mem_of_still hall, full_of_still hall⟩

/-! ## The operations of an access -/

section
variable {x : Ex} {brick : Bool}

theorem raise_shown (x : Ex) (f : Flt) : (x.raise f).shown true = x.shown true := by
  rcases raise_cases x f with ⟨_, h⟩ | ⟨_, h⟩ <;> rw [h]
  rfl

/-- The check of a footprint shows nothing where no thread faults at it. -/
theorem footCheck_shown {kind n : Nat} {p : Place1} (hx : x.ok = true)
    (hf : brick = false → (x.footCheck kind n p).fault = none) : (x.footCheck kind n p).shown brick = x.shown brick := by
  rcases footCheck_cases x kind n p with h | ⟨a, h⟩
  · rw [h]
  · cases brick with
    | true => rw [h, raise_shown]
    | false =>
      have hn := hf rfl
      rw [h, raise_ok hx] at hn
      cases hn

theorem markStored_shown (x : Ex) : x.markStored.shown brick = x.shown brick := by
  unfold Ex.markStored
  split <;> rfl

theorem bankStore_shown (x : Ex) (r c : BitVec 8) (off : Nat) (l : List Byte) :
    (x.bankStore r c off l).shown brick = x.shown brick := by
  unfold Ex.bankStore
  simp only
  split <;> exact markStored_shown x

/-- A write that is held shows nothing before its round commits (R234). -/
theorem hold_shown (x : Ex) (kind : WKind) (p : Place1) (l : List Byte) :
    (x.hold kind p l).shown brick = x.shown brick := by
  cases hx : x.ok with
  | false => rw [hold_stopped hx]
  | true =>
    rcases hold_cases x kind p l hx with h | ⟨r, c, off, t, -, h⟩ | ⟨va, pa, -, h⟩ <;> rw [h]
    · rfl
    · exact bankStore_shown ..
    · exact markStored_shown x

theorem putPred_shown (x : Ex) (n : BitVec 3) (b : Bool) : (x.putPred n b).shown brick = x.shown brick := by
  unfold Ex.putPred
  split <;> rfl

/-- A flit on an output queue shows nothing where it raises no fault of a thread (R69). -/
theorem pushOut_shown {n : BitVec 3} (hb : brick = false → x.cx.seamed.getLsbD n.toNat = false) (f : Flit) (a : Arm) :
    (x.pushOut n f a).shown brick = x.shown brick := by
  unfold Ex.pushOut
  split
  · next hs =>
    cases brick with
    | true => exact raise_shown ..
    | false => exact absurd hs (by simp [hb rfl])
  · rfl

section
variable {d : Opnd} (hd : d ≠ .sw) (hb : brick = false → x.cx = Ctx.blank 0 0 0)
include hd hb

/-- A result that goes elsewhere than `sw` shows nothing where it raises no fault of a thread. -/
theorem put_shown (v : W64) : (x.put d v).shown brick = x.shown brick := by
  unfold Ex.put Ex.putT
  split
  · rfl
  · cases d with
    | sw => exact absurd rfl hd
    | q n => exact putPred_shown ..
    | f n => exact putPred_shown ..
    | o n => exact pushOut_shown (fun h => seamed_blank (hb h) _) _ _
    | _ => rfl

/-- A loaded value shows nothing, now or later. -/
theorem deliver_shown (v : W64) (r : Option Reach) : (x.deliver d v r).shown brick = x.shown brick := by
  cases hx : x.ok with
  | false => rw [deliver_stopped hx]
  | true =>
    rcases deliver_cases x d v r hx with ⟨-, h⟩ | ⟨-, -, h⟩ | ⟨-, -, h⟩ <;> rw [h]
    · exact put_shown hd hb v
    · rfl
    · rfl

end

/-- A deferred read changes its spur alone. -/
theorem defers_shown (x : Ex) (d : Opnd) (p : Place1) : (x.defers d p).shown brick = x.shown brick := by
  unfold Ex.defers
  cases p
  all_goals
    simp only
    split <;> rfl

theorem modFull_shown (x : Ex) (r c : BitVec 8) (f : List Nat → List Nat) :
    (x.modFull r c f).shown brick = x.shown brick := by
  unfold Ex.modFull
  simp only
  split <;> rfl

theorem fills_shown (x : Ex) (p : Place1) (v : Nat) : (x.fills p v).shown brick = x.shown brick := by
  unfold Ex.fills
  split
  · rfl
  · cases p with
    | phys va pa => rfl
    | bank r c off t => exact modFull_shown ..

end

/-! ## The instructions -/

section
variable {x : Ex} {tg : Target1} {al n kind : Nat} {acc : AccK} {pres : Option Bool}

/-- The footprint is checked of an access that was placed. -/
theorem access_placed (h : (x.place tg al n acc pres).1.ok = true) : x.access tg al n acc pres kind =
    ((x.place tg al n acc pres).1.footCheck kind n (x.place tg al n acc pres).2, (x.place tg al n acc pres).2) := by
  simp only [Ex.access, h, if_true]

/-- A placed access shows nothing past its translation where no thread faults at its footprint. -/
theorem access_shown
    (hf : x.isB = false → ((x.place tg al n acc pres).1.footCheck kind n (x.place tg al n acc pres).2).fault = none) :
    (x.access tg al n acc pres kind).1.shown x.isB = (x.place tg al n acc pres).1.shown x.isB := by
  cases h : (x.place tg al n acc pres).1.ok with
  | false => rw [access_stops h]
  | true => rw [access_placed h, footCheck_shown h hf]

/-- An access that goes on stands as its place left it. -/
theorem access_ok (h : (x.access tg al n acc pres kind).1.ok = true) :
    x.access tg al n acc pres kind = x.place tg al n acc pres := by
  cases hp : (x.place tg al n acc pres).1.ok with
  | false =>
    rw [access_stops hp, hp] at h
    cases h
  | true =>
    rw [access_placed hp] at h ⊢
    rcases footCheck_cases (x.place tg al n acc pres).1 kind n (x.place tg al n acc pres).2 with hf | ⟨a, hf⟩
    · rw [hf]
    · rw [hf, raise_not_ok] at h
      cases h

/-- The context of an access that goes on is its instruction's. -/
theorem access_cx (h : (x.access tg al n acc pres kind).1.ok = true) : (x.access tg al n acc pres kind).1.cx = x.cx := by
  have he := access_ok h
  rw [he] at h ⊢
  exact (congrArg Ex.cx (place_view rfl h) :)

end

section
variable {i : Instr} {g : Guard} {s : State} {x : Ex} (h : begins i g s = some x)
include h

/-- A thread that begins has a blank context. -/
theorem begins_blank_of_thread (hb : x.isB = false) : x.cx = Ctx.blank 0 0 0 := by
  cases g with
  | b g => rw [begins_isB h] at hb; cases hb
  | s g => exact begins_blank h

theorem loadAt_shown {tg : Target1} {n : Nat} {d : Opnd} (hd : d ≠ .sw) :
    (x.loadAt tg n d).shown x.isB = (x.access tg n n .read none 0).1.shown x.isB := by
  rw [loadAt_access]
  cases hy : (x.access tg n n .read none 0).1.ok with
  | false => simp only [deliver_stopped hy]
  | true => exact deliver_shown hd (fun hb => (access_cx hy).trans (begins_blank_of_thread h hb)) _ _

theorem presRead_shown {tg : Target1} {d : Opnd} (hd : d ≠ .sw) :
    (x.presRead tg d).shown x.isB = (x.access tg 4 4 .read (some true) 2).1.shown x.isB := by
  unfold Ex.presRead
  simp only
  split
  · rfl
  · next hy =>
    split
    · refine put_shown hd (fun hb => (access_cx ?_).trans (begins_blank_of_thread h hb)) _
      simpa using hy
    · exact defers_shown ..

end

/-- A fill shows nothing where its word is not full for a thread (R247). -/
theorem presFill_shown {x : Ex} {tg : Target1}
    (hn : x.isB = false → (x.place tg 4 4 .write (some true)).1.fullAt (x.place tg 4 4 .write (some true)).2 = false)
    (v : Nat) : (x.presFill tg v).shown x.isB = (x.access tg 4 4 .write (some true) 2).1.shown x.isB := by
  unfold Ex.presFill
  simp only
  split
  · rfl
  · next hy =>
    split
    · next hfull =>
      cases hb : x.isB with
      | true => exact raise_shown ..
      | false =>
        rw [access_ok (by simpa using hy), hn hb] at hfull
        cases hfull
    · split
      · rfl
      · exact (fills_shown ..).trans (hold_shown ..)

section
variable {i : Instr} {g : Guard} {s t : State} {x : Ex} {tg : Target1} {al n kind : Nat} {acc : AccK} {pres : Option Bool}

/-- Where a thread's instruction meets conditions, its view meets them. -/
theorem conditions_of_thread {p q r : Prop} (h : begins i g s = some x) (hf : ∀ gs, g = .s gs → p ∧ q ∧ r)
    (hb : x.isB = false) : p ∧ q ∧ r := by
  cases g with
  | b g => rw [begins_isB h] at hb; cases hb
  | s g => exact hf g rfl

/-- An instruction that shows no more than the one access that it makes leaves memory as the translation left it, where its
thread does not fault at the access. -/
theorem memory_of_access {r : Prop} (body : Ex → Ex) (hx : ∀ s, exec i s = run i g body s) (hw : writesSw i = false)
    (h : begins i g s = some x)
    (hf : ∀ gs, g = .s gs → (x.place tg al n acc pres).1.fault = none ∧
      ((x.place tg al n acc pres).1.footCheck kind n (x.place tg al n acc pres).2).fault = none ∧ r)
    (hs : (body x).shown x.isB = (x.access tg al n acc pres kind).1.shown x.isB) (ht : exec i s = .next t) :
    t.mem = (x.place tg al n acc pres).1.s.mem ∧ t.full = (x.place tg al n acc pres).1.s.full := by
  have hth := conditions_of_thread h hf
  exact memory_of_shown h hw (next_of_body body (hx s) h rfl) ht (fun hb => (hth hb).1)
    (hs.trans (access_shown fun hb => (hth hb).2.1))

/-- An instruction whose destination is not `sw` stores nothing there. -/
theorem writesSw_of_dst {d : Opnd} (hl : laneSw i = false) (hi : dstOf i = some d) (hd : d ≠ .sw) : writesSw i = false := by
  simp [writesSw, hl, hi, hd]

end

/-- Each load and store shows no more than its one access, but for a thread's fault at a full word. -/
theorem accessFrame : Says.AccessFrame := by
  intro g z w d v a b s t x hd
  refine ⟨fun h hf => ?ldg, fun h hf => ?ldv, fun h hf => ?stg, fun h hf => ?stv, fun h hf => ?ldp, fun h hf => ?stp⟩
  case ldg => exact memory_of_access _ (fun _ => rfl) (writesSw_of_dst rfl rfl hd) h hf (loadAt_shown h hd)
  case ldv => exact memory_of_access _ (fun _ => rfl) (writesSw_of_dst rfl rfl hd) h hf (loadAt_shown h hd)
  case stg => exact memory_of_access _ (fun _ => rfl) rfl h hf (hold_shown ..)
  case stv => exact memory_of_access _ (fun _ => rfl) rfl h hf (hold_shown ..)
  case ldp => exact memory_of_access _ (exec_ldp g w d a b) (writesSw_of_dst rfl rfl hd) h hf (presRead_shown h hd)
  case stp =>
    have hn := conditions_of_thread h hf
    exact memory_of_access _ (exec_stp g w v a b) rfl h hf (presFill_shown (fun hb => (hn hb).2.2 rfl) _)

/-- Settles O31: what loads and stores show is what their translation wrote, and that lies in the leaf. -/
theorem memoryFrames : Obligations.MemoryFrames := ⟨accessFrame, translationFrame⟩

end Sys2Proof.Machine
end

section
/-! SUPPORT. What a load reads and a store holds where its access lands (R234, R256, R306, R397), and values that return later. -/

namespace Sys2Proof.Machine

open Sys2Proof

/-! ## Writes that are held -/

/-- A write of the agent finds room among those that the KZ7 holds, or its agent is no brick (R397). -/
def Ex.room (x : Ex) : Prop := x.isB = false ∨ x.heldCount < Config.heldWrites

/-- A view past its translation, with a write of memory held for the agent as it began (R234, R306). -/
def Ex.withHeld (y x : Ex) (kind : WKind) (va pa : Nat) (bytes : List Byte) (n : Nat) : Ex :=
  let z := y.markStored
  let held : Held := ⟨x.who, kind, x.sp.asid, va, none, pa, bytes, x.sys⟩
  let sp := z.sp.modLive fun b => { b with held := b.held ++ [held] }
  { z with sp := { sp with stale := sp.stale || y.s.staleAt (bedrock x.sp.massif) x.sp.asid va n } }

section
variable {x y : Ex} {kind : WKind} {va pa n : Nat} {l : List Byte}

theorem markStored_s (x : Ex) : x.markStored.s = x.s := by
  unfold Ex.markStored
  split <;> rfl

theorem markStored_sp (x : Ex) : x.markStored.sp = x.sp := by
  unfold Ex.markStored
  split <;> rfl

theorem markStored_ok (x : Ex) : x.markStored.ok = x.ok := by
  unfold Ex.markStored
  split <;> rfl

theorem withHeld_ok (y x : Ex) (kind : WKind) (va pa : Nat) (l : List Byte) (n : Nat) :
    (y.withHeld x kind va pa l n).ok = y.ok := markStored_ok y

/-- A write of memory that finds room is held (R234). -/
theorem hold_phys (hv : y = { x with s := y.s }) (hy : y.ok = true) (hr : y.room) (hl : l.length = n) :
    y.hold kind (.phys va pa) l = y.withHeld x kind va pa l n := by
  have hw : y.who = x.who := (congrArg Ex.who hv :)
  have hsp : y.sp = x.sp := (congrArg Ex.sp hv :)
  have hsys : y.sys = x.sys := (congrArg Ex.sys hv :)
  have hn : (y.isB && decide (Config.heldWrites ≤ y.heldCount)) = false := by
    rcases hr with hb | hc
    · rw [hb, Bool.false_and]
    · rw [decide_eq_false (Nat.not_le.2 hc), Bool.and_false]
  simp only [Ex.hold, hy, Bool.not_true, Bool.false_eq_true, if_false, Bool.not_false, Bool.and_true, hn, Ex.joinHeld,
    Ex.withHeld, markStored_s, markStored_sp, hw, hsp, hsys, hl]
  rfl

/-- A write that finds no room waits (R397). -/
theorem hold_waits (hy : y.ok = true) (hr : ¬ y.room) : y.hold kind (.phys va pa) l = { y with wait := true } := by
  have hb : y.isB = true := by simpa using fun h => hr (.inl h)
  have hc : Config.heldWrites ≤ y.heldCount := Nat.not_lt.1 fun h => hr (.inr h)
  simp only [Ex.hold, hy, hb, hc, Bool.not_true, Bool.false_eq_true, if_false, Bool.not_false, Bool.and_true,
    decide_true, if_true]
  rfl

/-- A write of a bank that finds room, or of the own bank, is made there at once (R397). -/
theorem hold_bank {r c : BitVec 8} {off t : Nat} (hy : y.ok = true) (hr : y.room ∨ (r = y.br.row ∧ c = y.br.col)) :
    y.hold kind (.bank r c off t) l = y.bankStore r c off l := by
  have hn : (y.isB && !(y.isB && r == y.br.row && c == y.br.col) && decide (Config.heldWrites ≤ y.heldCount)) = false := by
    rcases hr with (hb | hc) | ⟨hrow, hcol⟩
    · simp only [hb, Bool.false_and]
    · rw [decide_eq_false (Nat.not_le.2 hc), Bool.and_false]
    · simp only [hrow, hcol, beq_self_eq_true, Bool.and_true, Bool.and_not_self, Bool.false_and]
  simp only [Ex.hold, hy, Bool.not_true, Bool.false_eq_true, if_false, hn]

end

/-! ## Accesses that land -/

/-- An access goes on at a place that its footprint allows. -/
def Ex.lands (x : Ex) (tg : Target1) (al n : Nat) (acc : AccK) (pres : Option Bool) (kind : Nat) (y : Ex) (p : Place1) :
    Prop := x.place tg al n acc pres = (y, p) ∧ y.ok = true ∧ y.footCheck kind n p = y

section
variable {x y : Ex} {p : Place1} {tg : Target1} {n : Nat}

theorem lands_access {al kind : Nat} {acc : AccK} {pres : Option Bool} (h : x.lands tg al n acc pres kind y p) :
    x.access tg al n acc pres kind = (y, p) := access_lands h.1 h.2.1 h.2.2

theorem lands_ok {al kind : Nat} {acc : AccK} {pres : Option Bool} (h : x.lands tg al n acc pres kind y p) :
    y.ok = true := h.2.1

theorem lands_view {al kind : Nat} {acc : AccK} {pres : Option Bool} (h : x.lands tg al n acc pres kind y p) :
    y = { x with s := y.s } := place_view h.1 h.2.1

theorem loadAt_lands (h : x.lands tg n n .read none 0 y p) (d : Opnd) :
    x.loadAt tg n d = y.deliver d (BitVec.ofNat 64 (ofBytes (y.bytesAt p n))) (p.range n) := by
  simp only [loadAt_access, lands_access h]

theorem storeAt_lands (h : x.lands tg n n .write (some false) 1 y p) (v : Nat) :
    x.storeAt tg n v = y.hold .store p (toBytes n v) := by
  simp only [storeAt_access, lands_access h]

end

/-! ## Loads -/

/-- A load delivers the bytes of its place. -/
theorem loads : Says.Loads := by
  intro g z w d a b y p n load
  have each {i : Instr} {tg : Ex → Target1} (hx : ∀ s, exec i s = run i g (fun x => x.loadAt (tg x) n d) s)
      (hd : dstOf i = some d) (hl : laneSw i = false) : load i tg := by
    refine ⟨does_of _ hx fun s x h ⟨hp, hlate, ha⟩ => ?_, does_of _ hx fun s x h ⟨hp, hlate, hs⟩ => ⟨?_, hs⟩⟩
    · exact ⟨(loadAt_lands hp d).trans (deliver_now (lands_ok hp) hlate ..), stored_putT false (lands_ok hp) ha hd hl⟩
    · exact (loadAt_lands hp d).trans (deliver_later (lands_ok hp) hlate ..)
  exact ⟨each (fun _ => rfl) rfl rfl, each (fun _ => rfl) rfl rfl⟩

/-! ## Stores -/

/-- A store holds its bytes at its place, or waits for room. -/
theorem stores : Says.Stores := by
  intro g z w v a b y p n store
  have each {i : Instr} {tg : Ex → Target1} (hx : ∀ s, exec i s = run i g (fun x => x.storeAt (tg x) n (x.nat v)) s)
      (hw : writesSw i = false) : store i tg := by
    refine ⟨fun va pa hpl => ?_, fun r c off t hpl => ?_, fun va pa hpl s x h hp hr => ?_⟩
    · subst hpl
      refine does_of _ hx fun s x h ⟨hp, hr⟩ => ⟨?_, ?_⟩
      · exact (storeAt_lands hp _).trans (hold_phys (lands_view hp) (lands_ok hp) hr (toBytes_length ..))
      · rw [stored_same hw]
        exact (withHeld_ok ..).trans (lands_ok hp)
    · subst hpl
      refine does_of _ hx fun s x h ⟨hp, hr⟩ => ⟨(storeAt_lands hp _).trans (hold_bank (lands_ok hp) hr), ?_⟩
      rw [stored_same hw, bankStore_ok, lands_ok hp]
    · subst hpl
      exact next_of_body _ (hx s) h ((storeAt_lands hp _).trans (hold_waits (lands_ok hp) hr))
  exact ⟨each (fun _ => rfl) rfl, each (fun _ => rfl) rfl⟩

/-! ## Values that return later -/

theorem landS_returns {s : State} {h : Handle} {x : Ex} {l : PendLoad} (hx : enterS s h = some x)
    (hl : x.th.load = some l) : landS s h =
      (({ x with th := { x.th with load := none, pc := x.th.pc + 8 }, sp := x.sp.busy s.now } : Ex).put l.dst l.val).back := by
  simp only [landS, hx, hl]

/-- The view of a firing whose load has returned, with the words that it gives `sw` stored (R234). -/
def Ex.returned (x : Ex) (i : Instr) (l : PendLoad) : Ex :=
  let v := { x with cx := { x.cx with load := none } }.put l.dst l.val
  if writesSw i then v.flushSw else v

theorem landB_returns {s : State} {c : CtxAt} {k : Ctx} {i : Instr} {g : BGuard} {x : Ex} {l : PendLoad}
    (hk : s.ctx? c = some k) (hl : k.load = some l) (hi : k.instr? l.slot.toNat = some i)
    (hg : guardOf i = some (.b g)) (hx : enterB s c l.slot i g = some x) (hy : (x.returned i l).ok = true) :
    landB s c = (({ x.returned i l with sp := (x.returned i l).sp.busy s.now } : Ex).finish (srcsOf i)).back := by
  obtain ⟨hf, hw⟩ := by simpa [Ex.ok] using hy
  unfold Ex.returned at *
  simp only [landB, hk, hl, hi, hg, hx, hf, hw, Bool.false_eq_true, if_false]

/-- A value that returns goes where its load named, for a thread at once, for a firing where its words are stored. -/
theorem loadReturns : Says.LoadReturns := fun _ _ _ =>
  ⟨fun _ hx hl => congrArg _ (landS_returns hx hl),
    fun _ _ _ _ hk hl hi hg hx hy => congrArg _ (landB_returns hk hl hi hg hx hy)⟩

/-- Settles O30: where its access lands a load delivers and a store holds, and a load that returns later delivers then. -/
theorem loadsAndStores : Obligations.LoadsAndStores := ⟨loads, stores, loadReturns⟩

end Sys2Proof.Machine
end

section
/-! SUPPORT. Waits that end (R235, R246): the instruction that an agent waits at is tried again as it first fired. -/

namespace Sys2Proof.Machine

open Sys2Proof

section
variable {f : Instr → Option (State → Out)} {m : State → Out} {s t : State} {i : Instr}

theorem retry_thread {h : Handle} (hf : fetch s h = (t, .word i)) (hm : f i = some m) :
    retry (.thread h) f s = m { t with agent := .thread h, late := false } := by
  simp only [retry, hf, hm]

theorem retry_ctx {c : CtxAt} {n : BitVec 4} (hw : ((s.ctx? c).bind (·.wait)).isSome = true)
    (ht : trigger s c.brick 0 = (t, some (c, n, i))) (hm : f i = some m) :
    retry (.ctx c) f s = m { t with agent := .firing c n, late := false } := by
  have hn : ((s.ctx? c).bind (·.wait)).isNone = false := by rw [← Option.not_isSome, hw, Bool.not_true]
  simp only [retry, hn, Bool.false_eq_true, if_false, ht, hm, if_true]

end

/-- What an instruction does where it fires, it does where the event of its wait tries it again. -/
theorem retries_of {ev : AgentId → Instr} {i : Instr} {g : Guard} {p : Ex → Prop} {f : Ex → Ex}
    {mean : Instr → Option (State → Out)} (hm : mean i = some (exec i))
    (ht : ∀ {s t h j}, fetch s h = (t, .word j) → exec (ev (.thread h)) s = retry (.thread h) mean s)
    (hc : ∀ {s t c j}, trigger s c.brick 0 = (t, some (c, j)) → exec (ev (.ctx c)) s = retry (.ctx c) mean s)
    (hd : Does i g p f) : Retries ev i g p f :=
  ⟨fun s t h x hf hx hp => by rw [ht hf, retry_thread hf hm, (hd _ x hx hp).2],
    fun s t c n x hw hg hx hp => by rw [hc hg, retry_ctx hw hg hm, (hd _ x hx hp).2]⟩

/-! ## Loads that are still outstanding (R234) -/

/-- A thread that fetches a word has no load outstanding. -/
theorem loadOf_of_fetch {s t : State} {h : Handle} {i : Instr} (hf : fetch s h = (t, .word i)) :
    s.loadOf (.thread h) = none := by
  unfold fetch at hf
  cases hx : enterS s h with
  | none => simp [hx] at hf
  | some x =>
    simp only [hx] at hf
    split at hf
    · simp at hf
    · next hb =>
      simp only [Bool.or_eq_true, not_or, Bool.not_eq_true, Option.isSome_eq_false_iff,
        Option.isNone_iff_eq_none] at hb
      unfold enterS at hx
      cases hs : s.spur? h with
      | none => simp [hs] at hx
      | some sp =>
        simp only [hs, Option.some.injEq] at hx
        subst hx
        simp only [State.loadOf, State.thread?, hs, Option.map_some, Option.bind_some]
        obtain ⟨⟨-, hl⟩, -⟩ := hb
        exact hl

/-- The trigger stage names a slot of the active context of its brick, which has no load outstanding (R63). -/
theorem trigger_names {s t : State} {b : BrickAt} {q : Nat} {c : CtxAt} {j : BitVec 4 × Instr}
    (ht : trigger s b q = (t, some (c, j))) : ∃ (sp : Spur) (br : Brick) (k : Ctx), s.spur? b.h = some sp ∧
      c = ⟨b.h, b.row, b.col, br.active⟩ ∧ sp.live.ctx? b.row b.col br.active = some k ∧ k.load = none := by
  unfold trigger at ht
  cases hs : s.spur? b.h with
  | none => simp [hs] at ht
  | some sp =>
    simp only [hs] at ht
    cases hb : sp.live.brick? b.row b.col with
    | none => simp [hb] at ht
    | some br =>
      simp only [hb] at ht
      cases hk : sp.live.ctx? b.row b.col br.active with
      | none => simp [hk] at ht
      | some k =>
        simp only [hk] at ht
        split at ht
        · simp at ht
        · next hn =>
          simp only [Bool.or_eq_true, not_or, Bool.not_eq_true, Option.isSome_eq_false_iff,
            Option.isNone_iff_eq_none] at hn
          obtain ⟨⟨-, hl⟩, -⟩ := hn
          refine ⟨sp, br, k, rfl, ?_, hk, hl⟩
          split at ht
          · obtain ⟨i, -, he⟩ := Option.map_eq_some_iff.1 (Prod.mk.inj ht).2
            exact (Prod.mk.inj he).1.symm
          · obtain ⟨n, -, he⟩ := Option.bind_eq_some_iff.1 (Prod.mk.inj ht).2
            obtain ⟨i, -, he⟩ := Option.map_eq_some_iff.1 he
            exact (Prod.mk.inj he).1.symm

/-- A context whose slot the trigger stage names has no load outstanding. -/
theorem loadOf_of_trigger {s t : State} {c : CtxAt} {j : BitVec 4 × Instr}
    (ht : trigger s c.brick 0 = (t, some (c, j))) : s.loadOf (.ctx c) = none := by
  obtain ⟨sp, br, k, hs, hc, hk, hl⟩ := trigger_names ht
  have hctx : s.ctx? c = some k := by
    rw [hc]
    simp only [State.ctx?, hs, Option.bind_some]
    exact hk
  simp only [State.loadOf, hctx, Option.bind_some, hl]

end Sys2Proof.Machine
end

section
/-! SUPPORT. Presence reads, fills and clears (R246 to R248, R257), where their access lands. -/

namespace Sys2Proof.Machine

open Sys2Proof

section
variable {x y : Ex} {p : Place1} {tg : Target1} {d : Opnd}

/-! ## Reads (R246) -/

theorem presRead_full (h : x.lands tg 4 4 .read (some true) 2 y p) (hf : y.fullAt p = true) (d : Opnd) :
    x.presRead tg d = y.put d (BitVec.ofNat 64 (ofBytes (y.bytesAt p 4))) := by
  simp only [Ex.presRead, lands_access h, lands_ok h, Bool.not_true, Bool.false_eq_true, if_false, hf, if_true]

theorem presRead_empty (h : x.lands tg 4 4 .read (some true) 2 y p) (hf : y.fullAt p = false) (d : Opnd) :
    x.presRead tg d = y.defers d p := by
  simp only [Ex.presRead, lands_access h, lands_ok h, Bool.not_true, Bool.false_eq_true, if_false, hf]

/-- A read that is deferred on a word completes with the value that fills the word (R246). -/
theorem fill_deferred {c : Ctx} {e : Deferred} (h : c.defer = some e) (v : W64) : c.fill e.bank e.pa v =
    { c with wait := none, defer := none, load := some { e.load with val := v }, bfc := c.bfc + 1 } := by
  simp only [Ctx.fill, h, beq_self_eq_true, Bool.and_self, if_true]

/-! ## Fills (R247) -/

theorem presFill_full (h : x.lands tg 4 4 .write (some true) 2 y p) (hf : y.fullAt p = true) (v : Nat) :
    x.presFill tg v = { y with fault := some (flt 6 (BitVec.ofNat 64 p.addr)) } := by
  simp only [Ex.presFill, lands_access h, lands_ok h, Bool.not_true, Bool.false_eq_true, if_false, hf, if_true,
    raise_ok (lands_ok h)]

theorem presFill_waits (h : x.lands tg 4 4 .write (some true) 2 y p) (hf : y.fullAt p = false) (ho : y.filling p = true)
    (v : Nat) : x.presFill tg v = { y with wait := true } := by
  simp only [Ex.presFill, lands_access h, lands_ok h, Bool.not_true, Bool.false_eq_true, if_false, hf, ho, if_true]
  rfl

theorem presFill_empty (h : x.lands tg 4 4 .write (some true) 2 y p) (hf : y.fullAt p = false)
    (ho : y.filling p = false) (v : Nat) : x.presFill tg v = (y.hold .stp p (toBytes 4 v)).fills p v := by
  simp only [Ex.presFill, lands_access h, lands_ok h, Bool.not_true, Bool.false_eq_true, if_false, hf, ho]

theorem fills_phys {va pa : Nat} (hx : x.ok = true) (v : Nat) :
    x.fills (.phys va pa) v = x.fillOwn (.phys va pa) (BitVec.ofNat 64 (v % 2 ^ 32)) := by
  simp only [Ex.fills, hx, Bool.not_true, Bool.false_eq_true, if_false]

theorem fills_bank {r c : BitVec 8} {off t : Nat} (hx : x.ok = true) (v : Nat) : x.fills (.bank r c off t) v =
    (x.fillOwn (.bank r c off t) (BitVec.ofNat 64 (v % 2 ^ 32))).modFull r c fun l => setFull l off := by
  simp only [Ex.fills, hx, Bool.not_true, Bool.false_eq_true, if_false]

theorem modFull_ok (x : Ex) (r c : BitVec 8) (f : List Nat → List Nat) : (x.modFull r c f).ok = x.ok := by
  unfold Ex.modFull
  simp only
  split <;> rfl

end

/-! ## Clears (R248, R257) -/

/-- The address of a target, which `clrp` checks before its place is formed. -/
def Target1.ea (tg : Target1) (t : Nat) : Nat :=
  match tg with
  | .virt va => va
  | .vault t => t
  | .unset _ => t

/-- The presence bits of `k` words from an offset on are gone (R248). -/
def emptied (off k : Nat) (l : List Nat) : List Nat := l.filter fun o => !(decide (off ≤ o) && decide (o < off + 4 * k))

/-- A clear of `k` words where its access stands: zeros are held, and a bank's words are empty at once (R248). -/
def Ex.clearsAt (x : Ex) (p : Place1) (k : Nat) : Ex :=
  let y := x.hold .clrp p (zeros (4 * k))
  match p with
  | .bank r c off _ => if y.ok then y.modFull r c (emptied off k) else y
  | .phys .. => y

/-- The meaning of `clrp`, for a count of words and a sum of its operands (R248, R257). -/
def Ex.clears (x : Ex) (w : BitVec 2) (tg : Target1) (k t : Nat) : Ex :=
  if tg == .unset w || tg.ea t % 4 != 0 then (x.place tg 4 4 .write (some true)).1
  else if k < 1 ∨ 1024 < k then x.raise (overrun 11 (BitVec.ofNat 64 k))
  else if tg.ea t / 4096 ≠ (tg.ea t + 4 * k - 1) / 4096 then x.raise (overrun 11 (BitVec.ofNat 64 (tg.ea t)))
  else
    let y := x.access tg 4 (4 * k) .write (some true) 2
    y.1.clearsAt y.2 k

theorem exec_clrp (g : Guard) (w : BitVec 2) (v a b : Opnd) (s : State) : exec (.clrp g w v a b) s =
    run (.clrp g w v a b) g
      (fun x => x.clears w (x.window w (x.sum g a b)) (x.nat v % 2 ^ 32) (x.sum g a b)) s := rfl

section
variable {x y : Ex} {w : BitVec 2} {tg : Target1} {k t a : Nat} {p : Place1}

/-- A clear at a word of memory or of the vault turns on its count and its page. -/
theorem clears_aligned (ht : tg = .virt a ∨ tg = .vault a) (ha : a % 4 = 0) : x.clears w tg k t =
    if k < 1 ∨ 1024 < k then x.raise (overrun 11 (BitVec.ofNat 64 k))
    else if a / 4096 ≠ (a + 4 * k - 1) / 4096 then x.raise (overrun 11 (BitVec.ofNat 64 a))
    else
      let y := x.access tg 4 (4 * k) .write (some true) 2
      y.1.clearsAt y.2 k := by
  rcases ht with rfl | rfl
  all_goals
    refine if_neg ?_
    simp [Target1.ea, ha]

/-- A clear of a count out of range is an overrun that names the count. -/
theorem clears_count (ht : tg = .virt a ∨ tg = .vault a) (ha : a % 4 = 0) (hk : k < 1 ∨ 1024 < k) :
    x.clears w tg k t = x.raise (overrun 11 (BitVec.ofNat 64 k)) := by
  rw [clears_aligned ht ha, if_pos hk]

/-- A clear across pages is an overrun that names the address. -/
theorem clears_pages (ht : tg = .virt a ∨ tg = .vault a) (ha : a % 4 = 0) (hk : 1 ≤ k ∧ k ≤ 1024)
    (hp : a / 4096 ≠ (a + 4 * k - 1) / 4096) : x.clears w tg k t = x.raise (overrun 11 (BitVec.ofNat 64 a)) := by
  rw [clears_aligned ht ha, if_neg (by omega), if_pos hp]

/-- A clear of words within a page goes on where its access lands. -/
theorem clears_lands (ht : tg = .virt a ∨ tg = .vault a) (ha : a % 4 = 0) (hk : 1 ≤ k ∧ k ≤ 1024)
    (hp : a / 4096 = (a + 4 * k - 1) / 4096) (h : x.lands tg 4 (4 * k) .write (some true) 2 y p) :
    x.clears w tg k t = y.clearsAt p k := by
  rw [clears_aligned ht ha, if_neg (by omega), if_neg (not_not_intro hp), lands_access h]

end

section
variable {x : Ex} {r c : BitVec 8} {off t k : Nat}

theorem clearsAt_bank (hx : x.ok = true) (hr : x.room ∨ (r = x.br.row ∧ c = x.br.col)) :
    x.clearsAt (.bank r c off t) k = (x.bankStore r c off (zeros (4 * k))).modFull r c (emptied off k) := by
  simp only [Ex.clearsAt, hold_bank hx hr, bankStore_ok, hx, if_true]

end

/-! ## Where a fill lands -/

section
variable {x y : Ex} {tg : Target1} {va pa off t : Nat} {r c : BitVec 8}

/-- A fill of a word of memory is held, and ends the reads that its spur deferred on it (R246, R247). -/
theorem presFill_phys (h : x.lands tg 4 4 .write (some true) 2 y (.phys va pa)) (hf : y.fullAt (.phys va pa) = false)
    (ho : y.filling (.phys va pa) = false) (hr : y.room) (v : Nat) : x.presFill tg v =
      (y.withHeld x .stp va pa (toBytes 4 v) (toBytes 4 v).length).fillOwn (.phys va pa) (BitVec.ofNat 64 (v % 2 ^ 32)) := by
  have hy := lands_ok h
  rw [presFill_empty h hf ho, hold_phys (lands_view h) hy hr rfl, fills_phys ((withHeld_ok ..).trans hy)]

/-- A fill of a word of a bank is made there at once, and ends the reads that its spur deferred on it (R246, R247). -/
theorem presFill_bank (h : x.lands tg 4 4 .write (some true) 2 y (.bank r c off t))
    (hf : y.fullAt (.bank r c off t) = false) (hr : y.room ∨ (r = y.br.row ∧ c = y.br.col)) (v : Nat) :
    x.presFill tg v = ((y.bankStore r c off (toBytes 4 v)).fillOwn (.bank r c off t)
      (BitVec.ofNat 64 (v % 2 ^ 32))).modFull r c fun l => setFull l off := by
  have hy := lands_ok h
  rw [presFill_empty h hf rfl, hold_bank hy hr, fills_bank ((bankStore_ok ..).trans hy)]

end

/-! ## The instructions -/

/-- Settles O33: each instruction by its word's state and its place, and a deferred read by the fill that ends it. -/
theorem presenceAccess : Obligations.PresenceAccess := by
  intro g w d v a b y p k tg read write value room hold words waits full load word put deferred filled
  have read_does : Does (.ldp g w d a b) g full fun _ => y.put d value := does_of _ (exec_ldp g w d a b)
    fun s x h ⟨hp, hf, ha⟩ => ⟨presRead_full hp hf d, stored_putT false (lands_ok hp) ha rfl rfl⟩
  refine ⟨read_does, ?retries, ?defers, fun c e v h => fill_deferred h v, ?returns, ?fillsFull, ?fillsHeld,
    fun va pa hpl => ⟨?fillPhys, ?clearPhys⟩, fun r c off t hpl => ⟨?fillBank, ?clearBank⟩, ?count, fun va => ?pages⟩
  case retries =>
    refine retries_of (mean := ldpMeaning) rfl (fun hf => if_neg ?_) (fun ht => if_neg ?_) read_does
    · simp [loadOf_of_fetch hf]
    · simp [loadOf_of_trigger ht]
  case defers =>
    intro s x h hp hf
    refine next_of_body _ (exec_ldp g w d a b s) h ((presRead_empty hp hf d).trans ?_)
    cases p <;> rfl
  case returns => exact fun s u hu => if_pos hu
  case fillsFull => exact fun s x h hp hf => next_of_body _ (exec_stp g w v a b s) h (presFill_full hp hf _)
  case fillsHeld =>
    exact fun s x h ⟨hp, hf, ho⟩ => next_of_body _ (exec_stp g w v a b s) h (presFill_waits hp hf ho _)
  case fillPhys =>
    subst hpl
    refine does_of _ (exec_stp g w v a b) fun s x h ⟨hp, hf, ho, hr⟩ => ⟨presFill_phys hp hf ho hr _, ?_⟩
    rw [stored_same rfl]
    exact (withHeld_ok y x .stp va pa (toBytes 4 (x.nat v)) 4).trans (lands_ok hp)
  case clearPhys =>
    subst hpl
    refine does_of _ (exec_clrp g w v a b) fun s x h ⟨ht, ⟨hn, h1, h2, ha, hpage⟩, hp, hr⟩ => ⟨?_, ?_⟩
    · rw [hn]
      exact (clears_lands (.inl ht) ha ⟨h1, h2⟩ hpage hp).trans (hold_phys (lands_view hp) (lands_ok hp) hr rfl)
    · rw [stored_same rfl]
      exact (withHeld_ok ..).trans (lands_ok hp)
  case fillBank =>
    subst hpl
    refine does_of _ (exec_stp g w v a b) fun s x h ⟨hp, hf, hr⟩ => ⟨presFill_bank hp hf hr _, ?_⟩
    rw [stored_same rfl, modFull_ok]
    exact (bankStore_ok ..).trans (lands_ok hp)
  case clearBank =>
    subst hpl
    refine does_of _ (exec_clrp g w v a b) fun s x h ⟨ht, ⟨hn, h1, h2, ha, hpage⟩, hp, hr⟩ => ⟨?_, ?_⟩
    · rw [hn]
      exact (clears_lands (.inr ht) ha ⟨h1, h2⟩ hpage hp).trans (clearsAt_bank (lands_ok hp) hr)
    · rw [stored_same rfl, modFull_ok]
      exact (bankStore_ok ..).trans (lands_ok hp)
  case count =>
    exact faults_of _ (exec_clrp g w v a b) fun s x h ⟨va, ht, ha, hn, hk⟩ => by
      rw [hn, clears_count ht ha hk, raise_ok (begins_ok h)]
  case pages =>
    exact faults_of _ (exec_clrp g w v a b) fun s x h ⟨ht, ha, hn, h1, h2, hp⟩ => by
      rw [hn, clears_pages ht ha ⟨h1, h2⟩ hp, raise_ok (begins_ok h)]

end Sys2Proof.Machine
end

section
/-! SUPPORT. Atomics where their access lands (R235, R244, R259, R260): performed once, repeated from the device's record, or
waiting for a held write. -/

namespace Sys2Proof.Machine

open Sys2Proof

/-! ## The meaning of an atomic -/

/-- A new value is written at a place at once, where there is one (R235, R244). -/
def Ex.updates (y : Ex) (p : Place1) (n : Nat) (v : Option Nat) : Ex :=
  match v with
  | some v => y.perform p (toBytes n v)
  | none => y

/-- An atomic ends: its flags are set, D takes the old value, and the device keeps it (R235, R260). -/
def Ex.answers (y : Ex) (d : Opnd) (fl : BitVec 8) (old : Nat) : Ex :=
  ((y.flags fl).put d (BitVec.ofNat 64 old)).record (BitVec.ofNat 64 old) none

section
variable {x y : Ex} {p : Place1} {g : Guard} {w : BitVec 2} {n old : Nat} {d a : BitVec 4} {f : Nat → Option Nat}
  {fl : Nat → BitVec 8}

/-- The atomic's access lands where no held write covers its bytes (R235). -/
def Ex.atomicLands (x : Ex) (w : BitVec 2) (n : Nat) (a : BitVec 4) (g : Guard) (y : Ex) (p : Place1) : Prop :=
  x.lands (x.window w (x.sum g (x.amoReg a) .z)) n n .rw (some false) 2 y p

theorem atomic_again {r : AtomRec} (h : x.recorded = some r) :
    x.atomic w n d a g f fl = ((x.flags (fl r.val.toNat)).put (x.amoReg d) r.val).nextAtom := by
  simp only [Ex.atomic, h]

theorem atomic_waits (hr : x.recorded = none) (h : x.atomicLands w n a g y p) (hh : y.heldThere p n = true) :
    x.atomic w n d a g f fl = { y with wait := true } := by
  obtain ⟨hp, hy, hf⟩ := h
  simp only [Ex.atomic, hr, hp, hy, if_true, hf, Bool.not_true, Bool.false_eq_true, if_false, hh]
  rfl

theorem updates_who (y : Ex) (p : Place1) (n : Nat) (v : Option Nat) : (y.updates p n v).who = y.who := by
  cases v <;> cases p <;> rfl

theorem updates_ok (y : Ex) (p : Place1) (n : Nat) (v : Option Nat) : (y.updates p n v).ok = y.ok := by
  cases v <;> cases p <;> rfl

/-- The registers that an atomic names are those of its agent's form. -/
theorem amoReg_of_who (h : y.who = x.who) (d : BitVec 4) : y.amoReg d = x.amoReg d := by
  have hb : y.isB = x.isB := congrArg (fun w : AgentId => Ex.isB { x with who := w }) h
  simp only [Ex.amoReg, hb]

theorem atomic_performs (hr : x.recorded = none) (h : x.atomicLands w n a g y p) (hh : y.heldThere p n = false)
    (ho : ofBytes (y.bytesAt p n) = old) :
    x.atomic w n d a g f fl = (y.updates p n (f old)).answers (x.amoReg d) (fl old) old := by
  have hw : (y.updates p n (f old)).who = x.who := (updates_who ..).trans (congrArg Ex.who (lands_view h) :)
  obtain ⟨hp, hy, hf⟩ := h
  rw [← amoReg_of_who hw]
  simp only [Ex.atomic, hr, hp, hy, if_true, hf, Bool.not_true, Bool.false_eq_true, if_false, hh, ho]
  rfl

/-- A register takes any value. -/
theorem accepts_amoReg (x y : Ex) (d : BitVec 4) (v : W64) : y.accepts (x.amoReg d) v := by
  unfold Ex.amoReg
  split <;> trivial

theorem record_ok (x : Ex) (v : W64) (r : Option Request) : (x.record v r).ok = x.ok := by
  unfold Ex.record Ex.nextAtom
  simp only
  split <;> rfl

theorem nextAtom_ok (x : Ex) : x.nextAtom.ok = x.ok := by
  unfold Ex.nextAtom
  simp only
  split <;> rfl

theorem answers_ok (hy : y.ok = true) (x : Ex) (d : BitVec 4) (fl : BitVec 8) (old : Nat) :
    (y.answers (x.amoReg d) fl old).ok = true :=
  (record_ok ..).trans (putT_ok false ((flags_ok ..).trans hy) (.inr (accepts_amoReg ..)))

/-- An atomic without flags sets none. -/
theorem flags_zero (x : Ex) : x.flags 0 = x := by
  unfold Ex.flags
  split <;> simp

end

/-! ## The instructions -/

/-- An atomic of `n` bytes performs where its access lands on the value `old`, as it fires and as it waits: `new` is written
and `flags` are set (R235, R260). -/
def Performs (i : Instr) (g : Guard) (w : BitVec 2) (n : Nat) (d a : BitVec 4) (y : Ex) (p : Place1) (old : Nat)
    (new : Ex → Option Nat) (flags : Ex → BitVec 8) : Prop :=
  let at_ (x : Ex) : Prop := x.recorded = none ∧
    x.place (x.window w (x.sum g (x.amoReg a) .z)) n n .rw (some false) = (y, p) ∧
      y.ok = true ∧ y.footCheck 2 n p = y ∧ y.heldThere p n = false ∧ ofBytes (y.bytesAt p n) = old
  let effect (x : Ex) : Ex := (y.updates p n (new x)).answers (x.amoReg d) (flags x) old
  Does i g at_ effect ∧ Retries .atomicPerform i g at_ effect

/-- What an atomic does where its access lands follows from its meaning. -/
theorem performs_of {i : Instr} {g : Guard} {w : BitVec 2} {n old : Nat} {d a : BitVec 4} {y : Ex} {p : Place1}
    {f : Ex → Nat → Option Nat} {fl : Ex → Nat → BitVec 8} {new : Ex → Option Nat}
    (hx : ∀ s, exec i s = run i g (fun x => x.atomic w n d a g (f x) (fl x)) s) (hm : atomicMeaning i = some (exec i))
    (hw : writesSw i = false) (hnew : ∀ x, f x old = new x) : Performs i g w n d a y p old new fun x => fl x old := by
  unfold Performs
  intro at_ effect
  have does : Does i g at_ effect := does_of _ hx fun s x h ⟨hr, hp, hy, hf, hh, ho⟩ =>
    ⟨by rw [atomic_performs hr ⟨hp, hy, hf⟩ hh ho, hnew],
      by rw [stored_same hw]; exact answers_ok ((updates_ok ..).trans hy) ..⟩
  exact ⟨does, retries_of hm (fun _ => rfl) (fun _ => rfl) does⟩

/-! ## New values at the width of an `amo` (R259) -/

section
variable {n old : Nat}

theorem toNat_ofNat_bytes (n v : Nat) : (BitVec.ofNat (8 * n) v).toNat = v % 256 ^ n := by
  rw [BitVec.toNat_ofNat, Nat.pow_mul]

/-- A pattern is what its low bytes are. -/
theorem ofNat_mod_bytes (n v : Nat) : BitVec.ofNat (8 * n) (v % 256 ^ n) = BitVec.ofNat (8 * n) v := by
  apply BitVec.eq_of_toNat_eq
  rw [toNat_ofNat_bytes, toNat_ofNat_bytes, Nat.mod_mod]

section
variable (h : old < 256 ^ n) (v : Nat)
include h

theorem toNat_old : (BitVec.ofNat (8 * n) old).toNat = old := by rw [toNat_ofNat_bytes, Nat.mod_eq_of_lt h]

theorem amo_add : (BitVec.ofNat (8 * n) old + BitVec.ofNat (8 * n) v).toNat = (old + v % 256 ^ n) % 256 ^ n := by
  rw [BitVec.toNat_add, toNat_old h, toNat_ofNat_bytes, Nat.pow_mul]

theorem amo_min : (if (BitVec.ofNat (8 * n) v).slt (BitVec.ofNat (8 * n) old) then BitVec.ofNat (8 * n) v
    else BitVec.ofNat (8 * n) old).toNat =
      if signed (8 * n) (v % 256 ^ n) < signed (8 * n) old then v % 256 ^ n else old := by
  rw [apply_ite BitVec.toNat, toNat_old h, toNat_ofNat_bytes, signed, signed, ofNat_mod_bytes]
  simp only [BitVec.slt, decide_eq_true_eq]

theorem amo_max : (if (BitVec.ofNat (8 * n) old).slt (BitVec.ofNat (8 * n) v) then BitVec.ofNat (8 * n) v
    else BitVec.ofNat (8 * n) old).toNat =
      if signed (8 * n) old < signed (8 * n) (v % 256 ^ n) then v % 256 ^ n else old := by
  rw [apply_ite BitVec.toNat, toNat_old h, toNat_ofNat_bytes, signed, signed, ofNat_mod_bytes]
  simp only [BitVec.slt, decide_eq_true_eq]

theorem amo_minu : (if (BitVec.ofNat (8 * n) v).ult (BitVec.ofNat (8 * n) old) then BitVec.ofNat (8 * n) v
    else BitVec.ofNat (8 * n) old).toNat = min old (v % 256 ^ n) := by
  rw [apply_ite BitVec.toNat, BitVec.ult, toNat_old h, toNat_ofNat_bytes]
  simp only [decide_eq_true_eq]
  split <;> omega

theorem amo_maxu : (if (BitVec.ofNat (8 * n) old).ult (BitVec.ofNat (8 * n) v) then BitVec.ofNat (8 * n) v
    else BitVec.ofNat (8 * n) old).toNat = max old (v % 256 ^ n) := by
  rw [apply_ite BitVec.toNat, BitVec.ult, toNat_old h, toNat_ofNat_bytes]
  simp only [decide_eq_true_eq]
  split <;> omega

theorem amo_and : (BitVec.ofNat (8 * n) old &&& BitVec.ofNat (8 * n) v).toNat = old &&& v % 256 ^ n := by
  rw [BitVec.toNat_and, toNat_old h, toNat_ofNat_bytes]

theorem amo_or : (BitVec.ofNat (8 * n) old ||| BitVec.ofNat (8 * n) v).toNat = old ||| v % 256 ^ n := by
  rw [BitVec.toNat_or, toNat_old h, toNat_ofNat_bytes]

theorem amo_xor : (BitVec.ofNat (8 * n) old ^^^ BitVec.ofNat (8 * n) v).toNat = old ^^^ v % 256 ^ n := by
  rw [BitVec.toNat_xor, toNat_old h, toNat_ofNat_bytes]

end
end

/-! ## Each atomic -/

section
variable {g : Guard} {w : BitVec 2} {d a b : BitVec 4} {i : Instr} {op : (m : Nat) → BitVec m → BitVec m → BitVec m}

/-- The value that an `amo` writes over an old one (R259). -/
def Ex.amoNew (x : Ex) (g : Guard) (b : BitVec 4) (op : (m : Nat) → BitVec m → BitVec m → BitVec m) (old : Nat) : Nat :=
  (op (8 * amoW g) (BitVec.ofNat _ old) (BitVec.ofNat _ (x.nat (x.amoReg b)))).toNat

/-- An `amo` is an atomic of its form's width that sets no flags. -/
theorem exec_amo (hx : ∀ s, exec i s = run i g (fun x => x.amo g w d a b op) s) (s : State) :
    exec i s = run i g (fun x => x.atomic w (amoW g) d a g (fun old => some (x.amoNew g b op old)) fun _ => 0) s := hx s

theorem amo_performs {y : Ex} {p : Place1} {old : Nat} {new : Ex → Nat}
    (hx : ∀ s, exec i s = run i g (fun x => x.amo g w d a b op) s) (hm : atomicMeaning i = some (exec i))
    (hw : writesSw i = false) (hop : ∀ x : Ex, x.amoNew g b op old = new x) :
    Performs i g w (amoW g) d a y p old (fun x => some (new x)) fun _ => 0 :=
  performs_of (f := fun x old => some (x.amoNew g b op old)) (fl := fun _ _ => 0) (exec_amo hx) hm hw
    fun x => congrArg some (hop x)

end

/-- The sum that `amofadd` forms of an old value (R259). -/
def Ex.amoSum (x : Ex) (b : BitVec 4) (old : Nat) : Res :=
  addV fp32 0 0 (fp32.read old) (fp32.read (x.get (x.amoReg b)).toNat)

/-- The value that `cas` writes over an old one, where it finds D's (R260). -/
def Ex.casTo (x : Ex) (g : Guard) (d b : BitVec 4) (old : Nat) : Option Nat :=
  if old = (x.get (x.amoReg d)).toNat % 256 ^ amoW g then some ((x.get (x.amoReg b)).toNat % 256 ^ amoW g) else none

section
variable (g : Guard) (o : AOrd) (sc : Scope) (w : BitVec 2) (d a b : BitVec 4)

theorem exec_amofadd (s : State) : exec (.amofadd g o sc w d a b) s = run (.amofadd g o sc w d a b) g
    (fun x => x.atomic w 4 d a g (fun old => some (x.amoSum b old).code) fun old => (x.amoSum b old).fl) s := rfl

theorem exec_cas (s : State) : exec (.cas g o sc w d a b) s =
    run (.cas g o sc w d a b) g (fun x => x.atomic w (amoW g) d a g (x.casTo g d b) fun _ => 0) s := rfl

section
variable (y : Ex) (p : Place1) (old : Nat)

theorem amofadd_performs : Performs (.amofadd g o sc w d a b) g w 4 d a y p old (fun x => some (x.amoSum b old).code)
    fun x => (x.amoSum b old).fl :=
  performs_of (f := fun x old => some (x.amoSum b old).code) (fl := fun x old => (x.amoSum b old).fl)
    (exec_amofadd g o sc w d a b) rfl rfl fun _ => rfl

theorem cas_performs : Performs (.cas g o sc w d a b) g w (amoW g) d a y p old (fun x => x.casTo g d b old) fun _ => 0 :=
  performs_of (f := fun x => x.casTo g d b) (fl := fun _ _ => 0) (exec_cas g o sc w d a b) rfl rfl fun _ => rfl

end
end

/-- Each atomic by its new value. -/
theorem atomics : Says.Atomics := by
  intro g o sc w d a b y p old rmw n v sv so none_ f hold
  exact ⟨amo_performs (fun _ => rfl) rfl rfl fun x => amo_add (n := amoW g) hold (x.nat (x.amoReg b)),
    amo_performs (fun _ => rfl) rfl rfl fun x => amo_and (n := amoW g) hold (x.nat (x.amoReg b)),
    amo_performs (fun _ => rfl) rfl rfl fun x => amo_or (n := amoW g) hold (x.nat (x.amoReg b)),
    amo_performs (fun _ => rfl) rfl rfl fun x => amo_xor (n := amoW g) hold (x.nat (x.amoReg b)),
    amo_performs (fun _ => rfl) rfl rfl fun x => amo_min (n := amoW g) hold (x.nat (x.amoReg b)),
    amo_performs (fun _ => rfl) rfl rfl fun x => amo_max (n := amoW g) hold (x.nat (x.amoReg b)),
    amo_performs (fun _ => rfl) rfl rfl fun x => amo_minu (n := amoW g) hold (x.nat (x.amoReg b)),
    amo_performs (fun _ => rfl) rfl rfl fun x => amo_maxu (n := amoW g) hold (x.nat (x.amoReg b)),
    amo_performs (fun _ => rfl) rfl rfl fun x => toNat_ofNat_bytes (amoW g) (x.nat (x.amoReg b)),
    amofadd_performs g o sc w d a b y p old, cas_performs g o sc w d a b y p old⟩

/-! ## Atomics whose answer is kept, or that wait (R235) -/

section
variable {i : Instr} {g : Guard} {w : BitVec 2} {n : Nat} {d a : BitVec 4} {f : Ex → Nat → Option Nat}
  {fl : Ex → Nat → BitVec 8} (hx : ∀ s, exec i s = run i g (fun x => x.atomic w n d a g (f x) (fl x)) s)
include hx

/-- An atomic whose result the device has kept answers with it and performs nothing. -/
theorem repeats_of (hw : writesSw i = false) (r : AtomRec) : Does i g (fun x => x.recorded = some r) fun x =>
    ((x.flags (fl x r.val.toNat)).put (x.amoReg d) r.val).nextAtom := by
  refine does_of _ hx fun s x h hr => ⟨atomic_again hr, ?_⟩
  rw [stored_same hw, nextAtom_ok]
  exact putT_ok false ((flags_ok ..).trans (begins_ok h)) (.inr (accepts_amoReg ..))

/-- An atomic whose bytes a held write covers waits. -/
theorem waits_of {s : State} {x y : Ex} {p : Place1} (h : begins i g s = some x) (hr : x.recorded = none)
    (hp : x.place (x.window w (x.sum g (x.amoReg a) .z)) n n .rw (some false) = (y, p)) (hy : y.ok = true)
    (hf : y.footCheck 2 n p = y) (hh : y.heldThere p n = true) :
    exec i s = .next (ended i s { y with wait := true }) :=
  next_of_body _ (hx s) h (atomic_waits hr ⟨hp, hy, hf⟩ hh)

end

/-- The atomics but `amofadd` are of their form's width and set no flags. -/
theorem amofadd_or_plain {g : Guard} {o : AOrd} {sc : Scope} {w : BitVec 2} {d a b : BitVec 4} :
    ∀ i ∈ [Instr.amoadd g o sc w d a b, .amoand g o sc w d a b, .amoor g o sc w d a b, .amoxor g o sc w d a b,
      .amomin g o sc w d a b, .amomax g o sc w d a b, .amominu g o sc w d a b, .amomaxu g o sc w d a b,
      .amoswap g o sc w d a b, .cas g o sc w d a b, .amofadd g o sc w d a b],
    i = .amofadd g o sc w d a b ∨ (i ≠ .amofadd g o sc w d a b ∧ writesSw i = false ∧
      ∃ f : Ex → Nat → Option Nat, ∀ s,
        exec i s = run i g (fun x => x.atomic w (amoW g) d a g (f x) fun _ => 0) s) := by
  simp only [List.forall_mem_cons, List.not_mem_nil, false_imp_iff, implies_true, and_true]
  refine ⟨?_, ?_, ?_, ?_, ?_, ?_, ?_, ?_, ?_, ?cas, .inl trivial⟩
  case cas => exact .inr ⟨by simp, rfl, _, exec_cas g o sc w d a b⟩
  all_goals exact .inr ⟨by simp, rfl, _, exec_amo fun _ => rfl⟩

/-- An atomic that was performed answers again, and one under a held write waits. -/
theorem atomicsAgain : Says.AtomicsAgain := by
  intro g o sc w d a b y p n i hi m
  rcases amofadd_or_plain i hi with rfl | ⟨hne, hw, f, hx⟩
  · have hm : m = 4 := if_pos rfl
    have hx := exec_amofadd g o sc w d a b
    rw [hm]
    refine ⟨fun _ hn => absurd rfl hn, fun r _ => ?_, fun s x => waits_of hx⟩
    exact repeats_of (fl := fun x old => (x.amoSum b old).fl) hx rfl r
  · have hm : m = amoW g := if_neg hne
    rw [hm]
    refine ⟨fun r _ => ?_, fun _ he => absurd he hne, fun s x => waits_of hx⟩
    have hr := repeats_of hx hw r
    simp only [flags_zero] at hr
    exact hr

/-- Settles O34: an atomic by what the device has recorded for it, and by the held writes at its place. -/
theorem atomicAccess : Obligations.AtomicAccess := ⟨atomics, atomicsAgain⟩

end Sys2Proof.Machine
end

section
/-! SUPPORT. The machine after reset (R264, R376, R391, R419, R421, R424, R426). -/

namespace Sys2Proof.Machine

open Sys2Proof

/-- No notify register is listed after reset, so each reads its reset value (R376, R392). -/
theorem notify?_reset (q : Nat) : Ctl.reset.notify? q = ⟨q, 0, false⟩ := rfl

/-- Memory that lists no byte reads as unwritten (log 1). -/
theorem readByte_nil (a : Nat) : readByte [] a = unlisted := rfl

/-- Each ridge's ageing margin is at its greatest after reset (R426). -/
theorem nth_agm_reset {r : Nat} (hr : r < 192) : nth Ctl.reset.agm r 0 = 0xFFFFFFFF00000000 :=
  List.getD_replicate _ hr

/-- Settles O5: each register by its reset value, and memory as nothing has written it. -/
theorem resetState : Obligations.ResetState :=
  ⟨rfl, rfl, rfl, rfl, rfl, rfl, rfl, rfl, rfl, rfl, rfl, rfl, rfl, rfl, rfl, rfl, rfl, rfl, rfl,
    fun q _ => ⟨congrArg NotifyReg.tail (notify?_reset q), congrArg NotifyReg.wake (notify?_reset q)⟩,
    fun _ => nth_agm_reset, readByte_nil⟩

end Sys2Proof.Machine
end

section
/-! SUPPORT. Which registers of device control space a write reaches and changes (R275, R385, R395, R412, R419, R424, R440). -/

namespace Sys2Proof.Machine

open Sys2Proof

/-! ## Offsets -/

theorem ctlReg_notify {q : Nat} (hq : q < 4096) : ctlReg (8 * q) = .notify q := by
  rw [ctlReg, if_pos (by omega), Nat.mul_div_cancel_left q (by decide)]

/-- The registers of the free rings (R275, R440). -/
theorem ctlReg_ring : ∀ i < 8, ∀ k < 4, ctlReg (0x20000 + 0x100 * (i / 2) + 0x20 * (i % 2) + 8 * k) = .ring i k := by
  decide

/-- Above the free rings stand the trace rings, the power registers and the ageing margins (R440). -/
theorem ctlReg_above {o : Nat} (ho : 0x30000 ≤ o) : ctlReg o =
    if o < 0x31800 then .trace ((o - 0x30000) / 0x20) (o % 0x20 / 8)
    else if o = 0x40000 then .pwl
    else if o = 0x40008 then .pws
    else if 0x41000 ≤ o ∧ o < 0x41600 then .agm ((o - 0x41000) / 8)
    else .absent := by
  unfold ctlReg
  rw [if_neg (by omega), if_neg (by omega), if_neg (by omega), if_neg (by omega), if_neg (by omega), if_neg (by omega),
    if_neg (by omega), if_neg (by omega), if_neg (by omega), if_neg (by omega), if_neg (by omega), if_neg (by omega)]
  exact if_congr (and_iff_right ho) rfl rfl

/-- The registers of the trace rings (R412, R440). -/
theorem ctlReg_trace {r k : Nat} (hr : r < 192) (hk : k < 4) : ctlReg (0x30000 + 0x20 * r + 8 * k) = .trace r k := by
  rw [ctlReg_above (by omega), if_pos (by omega)]
  congr 1 <;> omega

theorem ctlReg_agm {r : Nat} (hr : r < 192) : ctlReg (0x41000 + 8 * r) = .agm r := by
  rw [ctlReg_above (by omega), if_neg (by omega), if_neg (by omega), if_neg (by omega), if_pos (by omega)]
  congr 1
  omega

/-! ## Writes -/

section
variable {s : State} {w : Writer} {o : Nat} {v : W64}

/-- The offsets of device control space (R15). -/
theorem isCtlSpace_offset (ho : o < 2 ^ 40) : isCtlSpace (ctlBase + o) = true := by
  unfold isCtlSpace ctlBase
  rw [Bool.and_eq_true, decide_eq_true_iff, decide_eq_true_iff]
  omega

/-- A write of a whole register is one of device control space (R440). -/
theorem registerWrite_offset (ho : o < 2 ^ 40) (h8 : o % 8 = 0) :
    exec (.registerWrite w (ctlBase + o) v) s = .next (ctlWrite s (unheld w) o v) := by
  change execRegisterWrite w (ctlBase + o) v s = _
  have h : (ctlBase + o) % 8 = 0 := by
    unfold ctlBase
    omega
  rw [execRegisterWrite, Nat.add_sub_cancel_left, isCtlSpace_offset ho, h]
  rfl

/-- A write that changes no register changes nothing, wherever it lands. -/
theorem registerWrite_keeps (h : ctlWrite s (unheld w) o v = s) : exec (.registerWrite w (ctlBase + o) v) s = .next s := by
  change execRegisterWrite w (ctlBase + o) v s = _
  rw [execRegisterWrite, Nat.add_sub_cancel_left, h, ite_self]

/-- A port reaches no other registers than its own (R395). -/
theorem ctlWrite_unreached (h : ctlReaches w o = false) : ctlWrite s w o v = s := by
  rw [ctlWrite, h]
  exact if_pos rfl

/-- The registers that are only read (R419, R424, R426), and the offsets that name none (R440). -/
def CtlReg.isFixed : CtlReg → Bool
  | .fds | .pws | .agm _ | .absent => true
  | _ => false

theorem ctlWrite_fixed (h : (ctlReg o).isFixed = true) : ctlWrite s w o v = s := by
  unfold ctlWrite
  split
  · rfl
  · cases hr : ctlReg o <;> simp only [hr, CtlReg.isFixed, Bool.false_eq_true] at h <;> rfl

/-- A value of the power limit that is in its range (R424). -/
def State.withLimit (s : State) (n : Nat) : State :=
  if 400 ≤ n ∧ n ≤ 2600 then { s with ctl := { s.ctl with pwl := BitVec.ofNat 64 n } } else s

/-- The keystone core, the summit and the management port write the power limit (R424). -/
theorem ctlWrite_pwl (hw : w = .keystone ∨ w = .summit ∨ w = .management) :
    ctlWrite s w 0x40000 v = s.withLimit (v.toNat % 4096) := by
  have hn : bitsOf v.toNat 0 12 = v.toNat % 4096 := by simp [bitsOf]
  rcases hw with rfl | rfl | rfl <;> simp [ctlWrite, ctlReaches, ctlReg, isPriv, hn, State.withLimit]

/-- What a write puts into register `k` of a free ring (R275). -/
def FreeRing.take (r : FreeRing) (v : W64) (k : Nat) : FreeRing :=
  if k = 0 then { r with frb := keepBits v 12 51 } else if k = 1 then { r with frn := keepBits v 0 15 }
  else if k = 2 then { r with frh := ringWrap r v } else { r with frt := ringWrap r v }

/-- What a write puts into register `k` of a trace ring, whose tail is only read (R412). -/
def TraceRing.take (r : TraceRing) (v : W64) (k : Nat) : TraceRing :=
  if k = 0 then { r with trb := keepBits v 12 51 } else if k = 1 then { r with trn := keepBits v 0 4 }
  else if k = 2 then { r with trh := keepBits v 0 31 } else r

variable (hw : w = .keystone ∨ w = .summit)
include hw

/-- The keystone core and the summit reach every register and may write it (R264, R376). -/
theorem privileged_writer : ctlReaches w o = true ∧ isPriv w = true ∧ unheld w = w := by
  rcases hw with rfl | rfl <;> exact ⟨rfl, rfl, rfl⟩

theorem ctlWrite_ring {i k : Nat} (h : ctlReg o = .ring i k) :
    ctlWrite s w o v = { s with ctl := s.ctl.modRing i fun r => r.take v k } := by
  obtain ⟨hr, -, -⟩ := privileged_writer (o := o) hw
  simp only [ctlWrite, hr, h, Bool.not_true, Bool.false_eq_true, if_false]
  rfl

theorem ctlWrite_trace {i k : Nat} (h : ctlReg o = .trace i k) :
    ctlWrite s w o v = { s with ctl := s.ctl.modTrace i fun r => r.take v k } := by
  obtain ⟨hr, hp, -⟩ := privileged_writer (o := o) hw
  simp only [ctlWrite, hr, hp, h, Bool.not_true, Bool.false_eq_true, if_false]
  rfl

/-- The registers of the dump keep their fields (R419). -/
theorem ctlWrite_dump : ctlWrite s w 0x10030 v = { s with ctl := { s.ctl with fdb := keepBits v 20 51 } } ∧
    ctlWrite s w 0x10038 v = { s with ctl := { s.ctl with fdl := keepBits v 20 39 } } := by
  rcases hw with rfl | rfl <;> exact ⟨rfl, rfl⟩

/-- A privileged write of a whole register does what that register's rule says. -/
theorem registerWrite_privileged {t : State} (ho : o < 2 ^ 40) (h8 : o % 8 = 0) (h : ctlWrite s w o v = t) :
    exec (.registerWrite w (ctlBase + o) v) s = .next t := by
  obtain ⟨-, -, hu⟩ := privileged_writer (o := o) hw
  rw [registerWrite_offset ho h8, hu, h]

theorem registerWrite_ring {i k : Nat} (hi : i < 8) (hk : k < 4) :
    exec (.registerWrite w (ctlBase + (0x20000 + 0x100 * (i / 2) + 0x20 * (i % 2) + 8 * k)) v) s =
      .next { s with ctl := s.ctl.modRing i fun r => r.take v k } :=
  registerWrite_privileged hw (by omega) (by omega) (ctlWrite_ring hw (ctlReg_ring i hi k hk))

theorem registerWrite_trace {r k : Nat} (hr : r < 192) (hk : k < 4) :
    exec (.registerWrite w (ctlBase + (0x30000 + 0x20 * r + 8 * k)) v) s =
      .next { s with ctl := s.ctl.modTrace r fun x => x.take v k } :=
  registerWrite_privileged hw (by omega) (by omega) (ctlWrite_trace hw (ctlReg_trace hr hk))

end

/-- A fixed register keeps what it holds, whoever writes it. -/
theorem registerWrite_fixed {s : State} {w : Writer} {o : Nat} {v : W64} (h : (ctlReg o).isFixed = true) :
    exec (.registerWrite w (ctlBase + o) v) s = .next s := registerWrite_keeps (ctlWrite_fixed h)

/-- DF of a notify register is its descriptor's (R385). -/
theorem ctlRead_notify (s : State) {q : Nat} (hq : q < 4096) : ctlRead s (8 * q) =
    BitVec.ofNat 64 ((s.ctl.notify? q).tail.toNat + if (s.qDesc q).df = true then 2 ^ 63 else 0) := by
  simp only [ctlRead, ctlReg_notify hq]

/-- Settles O58, register by register, and by the registers that a port reaches. -/
theorem controlSpace : Obligations.ControlSpace := by
  intro s w v i r q o put ring trace at_ n
  refine ⟨fun hw => ?privileged, fun hw => ?limit, fun o ho => registerWrite_fixed ?fixed,
    fun hr => registerWrite_fixed ?margin, fun hw _ ho => ?management, fun fn hf _ ho => ?virtual,
    ctlRead_notify s, rfl⟩
  case privileged =>
    obtain ⟨hb, hl⟩ := ctlWrite_dump (s := s) (v := v) hw
    refine ⟨registerWrite_privileged hw (by decide) (by decide) hb,
      registerWrite_privileged hw (by decide) (by decide) hl, fun hi => ?_, fun hr => ?_⟩
    · exact ⟨registerWrite_ring (k := 0) hw hi (by decide), registerWrite_ring (k := 1) hw hi (by decide),
        registerWrite_ring (k := 2) hw hi (by decide), registerWrite_ring (k := 3) hw hi (by decide)⟩
    · exact ⟨registerWrite_trace (k := 0) hw hr (by decide), registerWrite_trace (k := 1) hw hr (by decide),
        registerWrite_trace (k := 2) hw hr (by decide)⟩
  case limit =>
    have hu : unheld w = w := by rcases hw with rfl | rfl | rfl <;> rfl
    exact (registerWrite_offset (by decide) (by decide)).trans (congrArg _ (hu.symm ▸ ctlWrite_pwl hw))
  case fixed =>
    revert o
    decide
  case margin => rw [ctlReg_agm hr]; rfl
  case management =>
    subst hw
    exact registerWrite_keeps (ctlWrite_unreached (beq_eq_false_iff_ne.2 ho))
  case virtual =>
    refine registerWrite_keeps (ctlWrite_unreached ((if_neg hf).trans ?_))
    rw [decide_eq_false (Nat.not_lt.2 ho), Bool.false_and]

end Sys2Proof.Machine
end

section
/-! SUPPORT. A migration whose frame lies in no tier (R280): what the walk has set in the leaf when its fault is raised. -/

namespace Sys2Proof.Machine

open Sys2Proof

/-- A `migr` of the page that the ASID in `g7` maps at the address in `g8`, to the frame in `g9`. -/
def migrOffTiers : Instr := .migr ⟨false, false, 0, 0⟩ (.g 7) (.g 8) (.g 9)

/-- A machine whose thread issues it for ASID 1 and address 0: the page's leaf has A clear, and the frame lies above both tiers
(R15, R273). -/
def migrOffTiersIssue : State :=
  let s := State.reset.withFetchWord 64 ((encode migrOffTiers).getD 0).toNat
  { s with
    agent := .thread placedHandle
    mem := writeNat s.mem 0x101000 8 0xBF
    spurs := s.spurs.map fun sp => sp.modLive fun b =>
      { b with th := { b.th with g := (b.th.g.set 7 1).set 9 0x200000000000 } } }

/-- The view with which it begins. -/
def migrOffTiersView : Ex := (begins migrOffTiers (.s ⟨false, false, 0, 0⟩) migrOffTiersIssue).get (by decide +kernel)

theorem migrOffTiersView_begins : begins migrOffTiers (.s ⟨false, false, 0, 0⟩) migrOffTiersIssue = some migrOffTiersView :=
  (Option.some_get _).symm

/-- The leaf that its walk finds. -/
def migrOffTiersLeaf : Leaf := ⟨3, 0xBF, 0x101000⟩

/-- The machine once its walk has set A of the leaf. -/
def migrOffTiersWalked : State := (migrOffTiersView.migrWalk 1 0).1

theorem migrOffTiersView_walks : migrOffTiersView.migrWalk 1 0 = (migrOffTiersWalked, .ok migrOffTiersLeaf) :=
  Prod.ext rfl (by decide +kernel)

/-- The leaf's word in the machine that an outcome leaves. -/
def leafLeft : Out → Nat
  | .next t => readNat t.mem 0x101000 8
  | _ => 0

/-- The table fault is raised in the machine as it stood before the walk, whose A is lost. -/
theorem exec_migrOffTiers_leaf : leafLeft (exec migrOffTiers migrOffTiersIssue) = 0xBF := by decide +kernel

/-- Refutes O39: a `migr` to a frame outside tier 1 and tier 2 raises its table fault in the machine as it stood before the walk,
so that a clear A of the leaf stays clear, where the statement has the fault end in the machine in which the walk has set A. -/
theorem not_translationAndPager : ¬ Obligations.TranslationAndPager := by
  rintro ⟨hcommands, -, -⟩
  obtain ⟨-, -, -, -, -, -, -, -, -, -, -, -, htier, -⟩ :=
    hcommands ⟨false, false, 0, 0⟩ false 0 (.g 7) .z (.g 8) (.g 9) migrOffTiersLeaf migrOffTiersWalked
  obtain ⟨hv, ha⟩ : (migrOffTiersView.get (.g 7)).toNat = 1 ∧ (migrOffTiersView.get (.g 8)).toNat = 0 := by decide +kernel
  have hwalk : migrOffTiersView.migrWalk (migrOffTiersView.get (.g 7)).toNat (migrOffTiersView.get (.g 8)).toNat =
      (migrOffTiersWalked, .ok migrOffTiersLeaf) := by rw [hv, ha, migrOffTiersView_walks]
  have hexec : exec migrOffTiers migrOffTiersIssue = _ := htier migrOffTiersIssue migrOffTiersView migrOffTiersView_begins
    ⟨⟨by decide +kernel, hwalk⟩, by decide +kernel, by decide +kernel, by decide +kernel⟩
  have hleaf := exec_migrOffTiers_leaf
  rw [hexec] at hleaf
  exact absurd hleaf (by decide +kernel)

end Sys2Proof.Machine
end

section
/-! SUPPORT. Engine commands and `jobwait` (R286, R302, R303): the card that a command names, and the command that its round
holds. -/

namespace Sys2Proof.Machine

open Sys2Proof

/-! ## The card (R286) -/

/-- The window that a brick's engine command names (R286). -/
def Ex.cardWindow (x : Ex) (w : BitVec 2) : W64 := nth x.cx0.win w.toNat 0

/-- The card that an engine command names (R286). -/
def Ex.cardOf (x : Ex) (w : BitVec 2) (a : Opnd) : W64 := if x.isB then x.cardWindow w + x.get a else x.get a

/-- The card lies in memory: a brick's window is set and leads to no bank (R286). -/
def Ex.cardInMemory (x : Ex) (w : BitVec 2) : Prop :=
  x.isB = true → x.cardWindow w ≠ 0 ∧ (x.cardWindow w).getLsbD 63 = false

section
variable {x : Ex} {w : BitVec 2} {a : Opnd}

theorem cardAddr_of_inMemory (h : x.cardInMemory w) : x.cardAddr w a = (x, x.cardOf w a) := by
  unfold Ex.cardAddr Ex.cardOf
  cases hb : x.isB
  · rfl
  · obtain ⟨h0, h63⟩ := h hb
    simp only [Ex.cardWindow] at h0 h63 ⊢
    simp only [h0, h63]
    rfl

theorem cardAddr_of_not_inMemory (h : ¬ x.cardInMemory w) :
    x.cardAddr w a = (x.raise (overrun 2 (w.setWidth 64)), 0) := by
  simp only [Ex.cardInMemory, Classical.not_imp, not_and_or, not_not, Bool.not_eq_false] at h
  obtain ⟨hb, hw⟩ := h
  have hw : (decide (x.cardWindow w = 0) || (x.cardWindow w).getLsbD 63) = true := by simpa using hw
  unfold Ex.cardAddr
  rw [hb]
  exact if_pos hw

end

/-! ## The command (R286, R302) -/

/-- The command of a class that an instruction puts on output or engine port `n` (R286, R441). -/
def Ex.cmdOn (x : Ex) (cls : JobCls) (w : BitVec 2) (a : Opnd) (n : BitVec 3) : Cmd :=
  ⟨x.s.tick, n, cls, x.cardOf w a, x.who, x.node, x.sp.dom, x.sp.asid, x.sys, x.sp.massif⟩

section
variable {i : Opnd → Instr} {g : Guard} {cls : JobCls} {w : BitVec 2} {a : Opnd}
  (hx : ∀ d s, exec (i d) s = run (i d) g (fun x => x.command cls w d a) s)
include hx

/-- On an output the command is the last flit of its queue (R302). -/
theorem command_output {n : BitVec 3} (hw : writesSw (i (.o n)) = false) :
    Does (i (.o n)) g (fun x => x.cardInMemory w ∧ x.accepts (.o n) 0) fun x =>
      { x with cx := { x.cx with oq := upd x.cx.oq n.toNat fun l => l ++ [⟨.cmd (x.cmdOn cls w a n), .a0⟩] } } :=
  does_of_noSw _ (hx _) hw (fun _ => rfl) fun _ x h ⟨hm, ho⟩ => by
    simp only [Ex.command, cardAddr_of_inMemory hm, begins_ok h]
    exact pushOut_unseamed ho _ _

/-- At an engine port the round holds the command (R302). -/
theorem command_enginePort {n : BitVec 3} (hw : writesSw (i (.e n)) = false) :
    Does (i (.e n)) g (fun x => x.cardInMemory w) fun x =>
      { x with sp := x.sp.modLive fun b => { b with cmds := b.cmds ++ [(n, x.cmdOn cls w a n)] } } :=
  does_of_noSw _ (hx _) hw (fun _ => rfl) fun _ x h hm => by
    simp only [Ex.command, cardAddr_of_inMemory hm, begins_ok h]
    rfl

/-- A window that leads to no memory is an overrun with its number (log 25). -/
theorem command_overruns (d : Opnd) :
    Faults (i d) g (fun x => ¬ x.cardInMemory w) fun _ => overrun 2 (w.setWidth 64) :=
  faults_of_raise _ (hx d) fun x hm => by
    simp only [Ex.command, cardAddr_of_not_inMemory hm, raise_not_ok]
    rfl

end

/-! ## `jobwait` (R303) -/

section
variable {g : Guard} {w : BitVec 2} {d a : Opnd}

theorem jobwait_answers {y z : Ex} {st v : Nat} : Does (.jobwait g w d a) g
    (fun x => x.cardInMemory w ∧ x.cardOf w a ∉ x.outstanding ∧
      x.loadVirt ((x.cardOf w a).toNat + 48) 8 = (y, st) ∧ y.ok = true ∧
      y.loadVirt st 4 = (z, v) ∧ z.ok = true ∧ z.accepts d (BitVec.ofNat 64 v))
    fun _ => z.put d (BitVec.ofNat 64 v) := by
  refine does_of _ (fun _ => rfl) ?_
  rintro _ x h ⟨hm, hc, hst, hy, hv, hz, ha⟩
  refine ⟨?_, stored_putT false hz ha rfl rfl⟩
  have hc : x.outstanding.contains (x.cardOf w a) = false := by simpa using hc
  simp only [cardAddr_of_inMemory hm, begins_ok h, hc, hst, hy, hv, hz]
  rfl

theorem jobwait_waits {s : State} {x : Ex} (h : begins (.jobwait g w d a) g s = some x) (hm : x.cardInMemory w)
    (hc : x.cardOf w a ∈ x.outstanding) :
    exec (.jobwait g w d a) s = .next (ended (.jobwait g w d a) s { x with wait := true }) := by
  refine next_of_body _ rfl h ?_
  have hc : x.outstanding.contains (x.cardOf w a) = true := by simpa using hc
  simp only [cardAddr_of_inMemory hm, begins_ok h, hc]
  rfl

end

/-- Settles O40: each command by where its card lies and where it goes, `jobwait` by whether its command is outstanding. -/
theorem engineCommands : Obligations.EngineCommands := by
  intro g w d a n y z st v win card memory issues
  have command (i : Opnd → Instr) (c : JobCls) (hx : ∀ d s, exec (i d) s = run (i d) g (fun x => x.command c w d a) s)
      (ho : writesSw (i (.o n)) = false) (he : writesSw (i (.e n)) = false) : issues i c :=
    ⟨command_output hx ho, command_enginePort hx he, command_overruns hx d⟩
  exact ⟨command (fun d => .hod g w d a) .hod (fun _ _ => rfl) rfl rfl,
    command (fun d => .coll g w d a) .coll (fun _ _ => rfl) rfl rfl,
    command (fun d => .isq g w d a) .isq (fun _ _ => rfl) rfl rfl,
    command (fun d => .probe g w d a) .probe (fun _ _ => rfl) rfl rfl,
    command (fun d => .unpin g w d a) .unpin (fun _ _ => rfl) rfl rfl,
    jobwait_answers, fun _ _ => jobwait_waits⟩

end Sys2Proof.Machine
end

section
/-! SUPPORT. Engine jobs from their command to their start (R286, R288 to R290, R380): the command that a port takes next, the
reads of its card and list, and what the checks of both decide. -/

namespace Sys2Proof.Machine

open Sys2Proof

/-! ## The command taken next (R286, R290) -/

/-- A search with a further condition ends where the first match meets it. -/
theorem find?_and_of_find? {α : Type} {p q : α → Bool} {x : α} {l : List α} (h : l.find? p = some x) (hq : q x = true) :
    l.find? (fun y => p y && q y) = some x := by
  obtain ⟨hp, as, bs, rfl, hn⟩ := List.find?_eq_some_iff_append.1 h
  refine List.find?_eq_some_iff_append.2 ⟨by rw [hp, hq]; rfl, as, bs, rfl, fun a ha => ?_⟩
  have hpa : p a = false := by simpa using hn a ha
  rw [hpa]
  rfl

/-- The command that stands first at a port, within the budgets, with no earlier one of its domain waiting (R286, R290). -/
def State.offers (s : State) (e : EnginePort) (c : Cmd) : Prop :=
  s.cmdq.find? (fun k => k.1 == e) = some (e, c) ∧
    (∀ a ∈ s.chain c.dom, ∃ y, s.dom? a = some y ∧ s.jobsUsed a (isIse e) < if isIse e then y.iseb else y.hodb) ∧
    ∀ k ∈ s.cmdq, k.2.dom = c.dom → c.no ≤ k.2.no

section
variable {s t u : State} {e : EnginePort} {c : Cmd} {j : Job} {ws l0 l : List W64}

theorem nextCmd_of_offers (h : s.offers e c) : s.nextCmd e = some c := by
  obtain ⟨hfirst, hroom, horder⟩ := h
  have hfits : s.jobFits e c.dom = true := by
    refine List.all_eq_true.2 fun a ha => ?_
    obtain ⟨y, hy, hlt⟩ := hroom a ha
    simp only [hy]
    exact decide_eq_true hlt
  have holdest : (s.cmdq.all fun k => k.2.dom != c.dom || decide (c.no ≤ k.2.no)) = true := by
    refine List.all_eq_true.2 fun k hk => ?_
    rw [Bool.or_eq_true, bne_iff_ne, decide_eq_true_iff, or_iff_not_imp_left, not_not]
    exact horder k hk
  unfold State.nextCmd
  rw [find?_and_of_find? (find?_and_of_find? hfirst hfits) holdest]
  rfl

theorem exec_jobAccept (h : s.offers e c) : exec (.jobAccept e) s = .next (acceptJob s (Job.new e c)) := by
  change execJobAccept e s = _
  rw [execJobAccept, nextCmd_of_offers h]

/-! ## Card and list (R288) -/

theorem acceptJob_cardRead (hr : j.read s j.cmd.card.toNat 8 = (t, .ok ws)) (hg : j.spoilt t j.cmd.card.toNat 8 = false) :
    acceptJob s j = acceptList t { j with card := ws } := by
  simp only [acceptJob, hr, hg]
  rfl

theorem acceptList_misaligned (h : j.cmd.card.toNat % 64 ≠ 0) : acceptList s j = s.enterJob (j.fail 5 0 j.cmd.card) :=
  if_pos (bne_iff_ne.2 h)

section
variable (h : j.cmd.card.toNat % 64 = 0)
include h

/-- An `unpin` needs no list. -/
theorem acceptList_unlisted (hc : j.cmd.cls = .unpin) (hf : j.w 7 = 0) :
    acceptList s j = s.enterJob (j.checked s (some [])) := by
  simp only [acceptList, h, hc, hf]
  rfl

theorem acceptList_listed {z : State} (hf : j.w 7 ≠ 0) (ha : j.w 7 % 16 = 0) (h0 : j.read t (j.w 7) 1 = (u, .ok l0))
    (hl : j.read u (j.w 7) (2 + 2 * ((nth l0 0 0).toNat % 32 + 1)) = (z, .ok l))
    (hg : j.spoilt z (j.w 7) (2 + 2 * ((nth l0 0 0).toNat % 32 + 1)) = false) :
    acceptList t j = z.enterJob (j.checked z (if j.cmd.cls = .unpin then none else regionsOf l)) := by
  simp only [acceptList, h, hf, ha, h0, hl, hg, bne_self_eq_false, decide_false, Bool.false_and, Bool.or_self,
    Bool.false_eq_true, if_false, beq_iff_eq]

end

/-! ## The checks (R288, R289, R294) -/

/-- The set that a card names is one that a probe kept (R224). -/
def Job.namesKeptSet (j : Job) (s : State) : Prop :=
  j.pinHandle = 0 ∨ ∃ p ∈ s.pins, p.h = j.pinHandle ∧ p.job = none ∧ p.gone = false

theorem namesNoSet_iff :
    (j.pinHandle != 0 && !(s.pins.any fun p => p.h == j.pinHandle && p.job.isNone && !p.gone)) = true ↔
      ¬ j.namesKeptSet s := by
  simp [Job.namesKeptSet, and_assoc]

theorem checked_refused {list : Option (List Region)} (h : j.cardOk s.pkg = false ∨ list = none) :
    j.checked s list = j.fail 5 0 j.cmd.card := by
  unfold Job.checked
  rcases h with h | rfl
  · rw [h]
    rfl
  · exact ite_self _

section
variable (hc : j.cardOk s.pkg = true) (f : List Region)
include hc

theorem checked_noSet (hp : ¬ j.namesKeptSet s) : j.checked s (some f) = { j with foot := f }.fail 6 0 0 := by
  unfold Job.checked
  rw [hc]
  exact if_pos (namesNoSet_iff.2 hp)

/-- Where the set that the card names is kept, the footprint decides (R289). -/
theorem checked_outside (hp : j.namesKeptSet s) {a : Nat} (hv : { j with foot := f }.violation = some a) :
    j.checked s (some f) = { j with foot := f }.fail 7 0 (BitVec.ofNat 64 a) := by
  unfold Job.checked
  rw [hc]
  exact (if_neg (mt namesNoSet_iff.1 (not_not.2 hp))).trans (by rw [hv])

theorem checked_accepted (hp : j.namesKeptSet s) (hv : { j with foot := f }.violation = none) :
    j.checked s (some f) = { j with foot := f } := by
  unfold Job.checked
  rw [hc]
  exact (if_neg (mt namesNoSet_iff.1 (not_not.2 hp))).trans (by rw [hv])

end

/-! ## The start (R290) -/

theorem jobStart_runs {n : Nat} (hj : s.job? n = some j) (hs : j.st = .accepted) (hc : j.code = 0)
    (hh : s.jobHeld j = false) : exec (.jobStart n) s = .next (s.setJob { j with st := .running }) := by
  change execJobStart n s = _
  simp only [execJobStart, hj, hs, hc, hh]
  rfl

theorem jobStart_held {n : Nat} (hj : s.job? n = some j) (hh : s.jobHeld j = true) :
    exec (.jobStart n) s = .next s := by
  change execJobStart n s = _
  simp only [execJobStart, hj, hh, Bool.not_true, Bool.and_false]
  rfl

end

/-- Acceptance reads card and list, and then decides by their checks. -/
theorem jobAcceptance : Says.JobAcceptance := by
  intro s t u z e c ws l0 l rs new j fp put head card sound words list good placed lists
  have reads (h : head) (hr : card) : exec (.jobAccept e) s = .next (acceptList t j) := by
    rw [exec_jobAccept h, acceptJob_cardRead hr.1 hr.2]
  have decides (h : head) (hl : list) :
      exec (.jobAccept e) s = .next (z.enterJob (j.checked z (if c.cls = .unpin then none else regionsOf l))) := by
    obtain ⟨⟨hr, ha⟩, hf, hfa, h0, hl, hg⟩ := hl
    rw [reads h hr, acceptList_listed ha hf hfa h0 hl hg]
    rfl
  have listed (h : head) (hl : lists) :
      j.cardOk z.pkg = true ∧ exec (.jobAccept e) s = .next (z.enterJob (j.checked z (some rs))) := by
    obtain ⟨hl, hc, hok, hrs⟩ := hl
    exact ⟨hok, by rw [decides h hl, if_neg hc, hrs]⟩
  refine ⟨?unlisted, ?misaligned, ?accepted, ?outside, ?noSet, ?refused, ?start⟩
  case unlisted =>
    intro h ⟨hr, ha⟩ hc hf hg hok
    have hv : { j with foot := [] }.violation = none := by simp only [Job.violation, j, new, Job.new, hc]
    rw [reads h hr, acceptList_unlisted ha hc hf, checked_accepted hok [] hg hv]
    rfl
  case misaligned =>
    intro h hr ha
    rw [reads h hr, acceptList_misaligned ha]
    rfl
  case accepted =>
    intro h hl hg hv
    obtain ⟨hok, hx⟩ := listed h hl
    rw [hx, checked_accepted hok rs hg hv]
    rfl
  case outside =>
    intro h hl hg b hv
    obtain ⟨hok, hx⟩ := listed h hl
    rw [hx, checked_outside hok rs hg hv]
    rfl
  case noSet =>
    intro h hl hg
    obtain ⟨hok, hx⟩ := listed h hl
    rw [hx, checked_noSet hok rs hg]
    rfl
  case refused =>
    intro h hl hbad
    have hnone : c.cls = .unpin ∨ regionsOf l = none → (if c.cls = .unpin then none else regionsOf l) = none :=
      fun hb => ite_eq_left_iff.2 hb.resolve_left
    rw [decides h hl, checked_refused (hbad.imp_right hnone)]
    rfl
  case start => exact fun n k hj hs hc => ⟨jobStart_runs hj hs hc, jobStart_held hj⟩

end Sys2Proof.Machine
end

section
/-! SUPPORT. The data ports of jobs (R285): what an engine takes from a port, and what it sends as far as the port has
room. -/

namespace Sys2Proof.Machine

open Sys2Proof

section
variable {s t : State} {j m : Job} {p n : Nat}

/-- Tokens taken at a port are added to those that the job holds, and change nothing else of it. -/
theorem jobTake_toks (h : s.jobTake j p n = (t, m)) : m = { j with toks := m.toks } := by
  unfold State.jobTake at h
  dsimp only at h
  split at h
  all_goals
    obtain ⟨-, rfl⟩ := Prod.mk.inj h
    rfl

section
variable {sp : Spur} {w : Wire} (hs : s.spur? (AgentId.handle j.cmd.who) = some sp)
  (hp : ∃ d ∈ sp.img.ports, d.isIn = true ∧ d.p = BitVec.ofNat 8 p)
  (hw : s.wires.find? (fun x => x.src == .job (AgentId.handle j.cmd.who) (BitVec.ofNat 8 p)) = some w)
include hs hp hw

/-- What a job holds for a declared port leaves as far as the port's 64 tokens leave room (R285). -/
theorem jobFlush_declared :
    let room : Nat := 64 - w.buf.length
    let send (x : Wire) : Wire := { x with buf := x.buf ++ j.out.take room }
    s.jobFlush j p =
      ({ s with wires := updFirst (fun x => x.src == w.src) send s.wires }, { j with out := j.out.drop room }) := by
  intro room send
  have hsrc : w.src = .job (AgentId.handle j.cmd.who) (BitVec.ofNat 8 p) := by simpa using List.find?_some hw
  have hany : (s.wires.any fun x => x.src == .job (AgentId.handle j.cmd.who) (BitVec.ofNat 8 p)) = true :=
    List.any_eq_true.2 ⟨w, List.mem_of_find?_eq_some hw, beq_iff_eq.2 hsrc⟩
  have hdecl : (sp.img.ports.any fun d => d.isIn && d.p == BitVec.ofNat 8 p) = true := by simpa using hp
  simp only [State.jobFlush, hs, hdecl, hany, hw, hsrc, Bool.not_true, Bool.false_eq_true, if_false, if_true]
  rfl

/-- Once all of it has left, the row or element is over. -/
theorem jobSends_declared :
    let room : Nat := 64 - w.buf.length
    let send (x : Wire) : Wire := { x with buf := x.buf ++ j.out.take room }
    s.jobSends j p = State.setJob { s with wires := updFirst (fun x => x.src == w.src) send s.wires }
      (if j.out.length ≤ room then { j with out := [], n := j.n + 1 } else { j with out := j.out.drop room }) := by
  intro room send
  rw [State.jobSends, jobFlush_declared hs hp hw]
  by_cases hroom : j.out.length ≤ room
  · simp only [room, List.drop_eq_nil_of_le hroom, if_pos hroom]
    rfl
  · have hrest : ¬ (j.out.drop room).isEmpty = true := by simpa using hroom
    rw [if_neg hroom]
    exact congrArg (State.setJob _) (if_neg hrest)

end

end

end Sys2Proof.Machine
end

section
/-! SUPPORT. The rows of hods (R294, R295), the probe pass (R224), and the elements of gathers and scatters (R223, R225). -/

namespace Sys2Proof.Machine

open Sys2Proof

/-- A job of a class that runs, has not failed, and is owed nothing by the pager (R274). -/
def State.runsJob (s : State) (n : Nat) (j : Job) (c : JobCls) : Prop :=
  s.job? n = some j ∧ j.st = .running ∧ j.code = 0 ∧ j.cmd.cls = c ∧ s.paged j = false

section
variable {s t u v : State} {n va : Nat} {j m : Job}

/-! ## Hods -/

theorem exec_hodRow (h : s.runsJob n j .hod) (hn : j.n < j.rows) : exec (.hodRow n) s = .next (hodStep s j) := by
  obtain ⟨hj, hs, hc, hk, hp⟩ := h
  change execHodRow n s = _
  simp only [execHodRow, hj, hs, hc, hk, hp, hn]
  rfl

/-- Tokens of a row that are still to be sent go first. -/
theorem hodStep_pending (h : j.out ≠ []) : hodStep s j = s.jobSends j j.dst :=
  if_pos (by simpa using h)

/-- A row's words leave the job with their flags, its tokens used up. -/
def Job.rowLeaves (j : Job) (s : State) (wa : List (Nat × Nat)) (ws : List W32) : State :=
  Job.rowOut { j with flags := j.flags ||| (j.convert ws).2, toks := [] } s wa (j.convert ws).1

/-- To memory: the row is written and over. -/
theorem rowLeaves_memory {wa : List (Nat × Nat)} (hd : j.dp = false) (ws : List W32) : j.rowLeaves s wa ws =
    (writePieces s wa (bytes32 (j.convert ws).1)).setJob
      { j with n := j.n + 1, flags := j.flags ||| (j.convert ws).2, toks := [] } :=
  if_neg (Bool.eq_false_iff.1 hd)

/-- To a port: the row's words are tokens, with a stop token after the last row. -/
theorem rowLeaves_port {wa : List (Nat × Nat)} (hd : j.dp = true) (ws : List W32) : j.rowLeaves s wa ws =
    s.jobSends { j with
      out := (j.convert ws).1.map dataTok ++ if j.n + 1 = j.rows then [stopTok 0] else []
      flags := j.flags ||| (j.convert ws).2
      toks := [] } j.dst := by
  simp only [← beq_iff_eq (a := j.n + 1)]
  exact if_pos hd

section
variable {ra wa : List (Nat × Nat)} (ho : j.out = [])
  (hr : j.places j.needR (piecesOf (j.rowAt j.n).1 j.rowBytes.1) s = (t, .ok ra))
  (hw : j.places (j.need .write) (piecesOf (j.rowAt j.n).2 j.rowBytes.2) t = (u, .ok wa))
include ho hr hw

/-- A row with no port as its source is its pattern, or is read from memory. -/
theorem hodStep_memory (hp : j.sp = false) : hodStep s j =
    j.rowLeaves u wa (if j.fl then List.replicate j.counts.1 (BitVec.ofNat 32 j.src)
      else words32 (rowWords j.sfmt j.counts.1) (u.pieceBytes ra)) := by
  have ho := List.isEmpty_iff.2 ho
  simp only [hodStep, ho, hr, hw, hp, Bool.false_eq_true, if_false, Bool.false_and]
  rfl

/-- A row from a port waits until the words that it needs have come. -/
theorem hodStep_port (hp : j.sp = true) (hf : j.fl = false)
    (ht : u.jobTake j j.src (rowWords j.sfmt j.counts.1) = (v, m)) : hodStep s j =
    if m.toks.length < rowWords j.sfmt j.counts.1 then v.setJob m else m.rowLeaves v wa m.toks := by
  have ho := List.isEmpty_iff.2 ho
  have hm := jobTake_toks ht
  have hp' : m.sp = true := hm ▸ hp
  have hf' : m.fl = false := hm ▸ hf
  simp only [hodStep, ho, hr, hw, hp, ht, hp', hf', if_true, Bool.true_and, decide_eq_true_eq]
  rfl

end

/-! ## The probe pass -/

/-- What a probe pass leaves that ended at element `n`. -/
def Job.passEnds (j : Job) (p : Pass) (n : Nat) : PassRes → State
  | .wait => (p.s.keepPins j p.pages).setJob { j with errN := n }
  | .fail c v => (p.s.dropPins j).setJob
      (j.fail c (if c = 7 then 0 else n) (if c = 2 || c = 7 || c = 9 then BitVec.ofNat 64 v else 0))
  | .ok =>
    let s := p.s.keepPins j p.pages
    if j.cmd.cls == .probe then
      (s.giveSet j).1.setJob { j with passed := true, errN := 0, value := BitVec.ofNat 64 (s.giveSet j).2 }
    else s.setJob { j with passed := true, errN := 0, value := 0 }

theorem passEnds_isq {p : Pass} {k : Nat} (hc : j.cmd.cls = .isq) : j.passEnds p k .ok =
    (p.s.keepPins j p.pages).setJob { j with passed := true, errN := 0, value := 0 } := by
  simp only [Job.passEnds, hc]
  rfl

/-- A `probe` keeps its pins as a set of their own (R224). -/
theorem passEnds_probe {p : Pass} {k : Nat} (hc : j.cmd.cls = .probe) : j.passEnds p k .ok =
    ((p.s.keepPins j p.pages).giveSet j).1.setJob
      { j with passed := true, errN := 0, value := BitVec.ofNat 64 ((p.s.keepPins j p.pages).giveSet j).2 } := by
  simp only [Job.passEnds, hc]
  rfl

/-- A pass over indices in memory ends as it goes over its elements. -/
theorem exec_iseProbePass {c : JobCls} (hc : c = .isq ∨ c = .probe) (h : s.runsJob n j c) (hp : j.passed = false)
    (hi : j.w 1 ≠ 0) {p : Pass} {r : PassRes} {k : Nat}
    (hpass : probeFrom j (j.count - j.errN) j.errN ⟨s, s.ownPins j⟩ = (p, r, k)) :
    exec (.iseProbePass n) s = .next (j.passEnds p k r) := by
  obtain ⟨hj, hs, h0, hk, hg⟩ := h
  have hcls : (j.cmd.cls == .isq || j.cmd.cls == .probe) = true := by simpa [hk] using hc
  have hgo : (!(j.st == .running && j.code == 0 && !j.passed && (j.cmd.cls == .isq || j.cmd.cls == .probe)) || s.paged j) =
      false := by simp [hs, h0, hp, hcls, hg]
  have hread : (decide (j.w 1 = 0) && decide (j.idx.length < j.count)) = false := by simp [hi]
  have htake : s.takeIdx j = (s, j) := if_pos (bne_iff_ne.2 hi)
  change execIseProbePass n s = _
  simp only [execIseProbePass, hj, hgo, htake, hread, hpass, Bool.false_eq_true, if_false]
  cases r <;> rfl

/-! ## Elements -/

/-- A gather or scatter comes to its next element, with nothing left to send. -/
def State.movesElement (s : State) (n : Nat) (j : Job) : Prop :=
  s.runsJob n j .isq ∧ j.passed = true ∧ j.n < j.count ∧ j.out = []

/-- The element moves where its index leads, and an index at or above bound stops the job there (log 93). -/
theorem exec_iseElementMove (h : s.movesElement n j) :
    (j.element j.n s = (t, .at_ va) → exec (.iseElementMove n) s = .next (iseMove t j va)) ∧
    (j.element j.n s = (t, .code 1 va) → exec (.iseElementMove n) s = .next (iseStop t j va)) := by
  obtain ⟨⟨hj, hs, hc, hk, hg⟩, hp, hn, ho⟩ := h
  change (_ → execIseElementMove n s = _) ∧ (_ → execIseElementMove n s = _)
  constructor
  all_goals
    intro he
    simp only [execIseElementMove, hj, hs, hp, hk, ho, hc, Nat.not_le.2 hn, hg, he]
    rfl

theorem iseStop_gather (hk : j.kind = 1) : iseStop s j va =
    s.jobSends { j with code := 4, errN := j.n, value := BitVec.ofNat 64 va, out := [stopTok 15] } j.port := if_pos hk

theorem iseStop_scatter (hk : j.kind ≠ 1) : iseStop s j va =
    s.setJob { j with code := 4, errN := j.n, value := BitVec.ofNat 64 va, out := [] } := if_neg hk

theorem iseMove_unpinned {b : Nat} (h : pinnedPieces s j (piecesOf va j.esz) = .error b) :
    iseMove s j va = iseStop s j b := by
  rw [iseMove, h]

section
variable {ps : List (Nat × Nat)} (h : pinnedPieces s j (piecesOf va j.esz) = .ok ps)
include h

theorem iseMove_gather (hk : j.kind = 1) (hg : s.spoilt ps = false) : iseMove s j va =
    s.jobSends { j with out := (words32 (j.esz / 4) (s.pieceBytes ps)).map dataTok ++
      if j.n + 1 = j.count then [stopTok 0] else [] } j.port := by
  simp only [iseMove, h, hk, hg, beq_iff_eq]
  rfl

theorem iseMove_scatter (hk : j.kind ≠ 1) (ht : s.jobTake j j.port (j.esz / 4) = (v, m))
    (hn : j.esz / 4 ≤ m.toks.length) : iseMove s j va =
    (writePieces v ps (bytes32 m.toks)).setJob { m with n := m.n + 1, toks := [] } := by
  simp only [iseMove, h, hk, ht, Nat.not_lt.2 hn, if_false]

end
end

/-- The data of jobs, by the pieces that a row or element lies on and the port that it goes through. -/
theorem jobMoves : Says.JobMoves := by
  intro s t u n va j ra wa ps running row need fill os k moves stops
  have element (h : moves) : exec (.iseElementMove n) s = .next (iseMove t j va) := by
    obtain ⟨hr, hp, hn, ho, he⟩ := h
    exact (exec_iseElementMove ⟨hr, hp, hn, ho⟩).1 he
  refine ⟨?toMemory, ?toPort, ?fromPort, ?pending, ?probe, ?gather, ?scatter, ?unpinned, ?unpinnedGather, ?outOfBound,
    ?sends⟩
  case toMemory =>
    rintro ⟨h, hn, ho, hr, hw⟩ hs hd
    rw [exec_hodRow h hn, hodStep_memory ho hr hw hs, rowLeaves_memory hd]
  case toPort =>
    rintro ⟨h, hn, ho, hr, hw⟩ hs hd last
    rw [exec_hodRow h hn, hodStep_memory ho hr hw hs, rowLeaves_port hd]
  case fromPort =>
    rintro ⟨h, hn, ho, hr, hw⟩ hs hd hf v m ht
    have hm : m.dp = false := jobTake_toks ht ▸ hd
    rw [exec_hodRow h hn, hodStep_port ho hr hw hs hf ht, rowLeaves_memory hm]
  case pending =>
    intro h hn ho
    rw [exec_hodRow h hn, hodStep_pending ho]
  case probe =>
    intro c p m hc h hp hi pass kept
    have ⟨_, _, _, hk, _⟩ := h
    refine ⟨fun hpass => exec_iseProbePass hc h hp hi hpass, fun hpass hisq => ?_, fun hpass hprobe => ?_⟩
    · rw [exec_iseProbePass hc h hp hi hpass, passEnds_isq (hk.trans hisq)]
    · rw [exec_iseProbePass hc h hp hi hpass, passEnds_probe (hk.trans hprobe)]
  case gather =>
    intro h hps hg hk last
    rw [element h, iseMove_gather hps hk hg]
  case scatter =>
    intro h hps hk v m ht hn
    rw [element h, iseMove_scatter hps hk ht hn]
  case unpinned =>
    intro b h hps hk
    rw [element h, iseMove_unpinned hps, iseStop_scatter hk]
  case unpinnedGather =>
    intro b h hps hk
    rw [element h, iseMove_unpinned hps, iseStop_gather hk]
  case outOfBound =>
    intro h hp hn ho he
    rw [(exec_iseElementMove ⟨h, hp, hn, ho⟩).2 he]
    exact ⟨fun hk => congrArg _ (iseStop_scatter hk), fun hk => congrArg _ (iseStop_gather hk)⟩
  case sends => exact fun p sp w hs hp hw => jobSends_declared hs hp hw

end Sys2Proof.Machine
end

section
/-! SUPPORT. The end of engine jobs: collectives (R297, R298), completion (R292, R293, R442), and bank-ownership tokens
(R300). -/

namespace Sys2Proof.Machine

open Sys2Proof

section
variable {s t u : State} {n : Nat} {j : Job}

/-! ## Collectives -/

/-- A collective that is the first of its tag and mask, with a sound part of every partner (R297). -/
def State.formsWith (s : State) (n : Nat) (j : Job) (others : List CollPart) : Prop :=
  s.runsJob n j .coll ∧ j.formed = false ∧ s.collFirst j = true ∧ partsOk (j.w 4) s.pkg.toNat others = true ∧
    ∀ c ∈ others, c.reachable = true ∧ c.kind.toNat = j.kind ∧ c.op.toNat = bitsOf (j.w 0) 12 4 ∧
      c.fmt.toNat = bitsOf (j.w 0) 8 4 ∧ c.count = j.count ∧ c.data.length = j.count

/-- What a collective writes of its participants' elements in rank order, with its flags (R298). -/
def combinedBy (j : Job) (v : List W32) (r : List (List W32)) : List W32 × BitVec 8 :=
  if j.kind = 9 then reduceAll (bitsOf (j.w 0) 12 4) (bitsOf (j.w 0) 8 4) v r else ((v :: r).flatMap id, 0)

theorem exec_collectiveForm {others : List CollPart} {ra wa : List (Nat × Nat)} {v : List W32} {r : List (List W32)}
    (h : s.formsWith n j others) (hr : j.places j.needR (piecesOf (j.w 1) (4 * j.count)) s = (t, .ok ra))
    (hd : rankData (j.w 4) s.pkg.toNat (words32 j.count (t.pieceBytes ra)) others = v :: r)
    (hw : j.places (j.need .write) (piecesOf (j.w 2) (4 * (combinedBy j v r).1.length)) t = (u, .ok wa)) :
    exec (.collectiveForm n others) s = .next ((writePieces u wa (bytes32 (combinedBy j v r).1)).setJob
      { j with formed := true, flags := (combinedBy j v r).2 }) := by
  obtain ⟨⟨hj, hs, hc, hk, hg⟩, hf, hfirst, hparts, hall⟩ := h
  have hgo : (!(j.st == .running && j.code == 0 && j.cmd.cls == .coll && !j.formed && s.collFirst j &&
      partsOk (j.w 4) s.pkg.toNat others) || s.paged j) = false := by simp [hs, hc, hk, hf, hfirst, hparts, hg]
  have hreach : (others.filter fun c => !c.reachable).isEmpty = true := by
    rw [List.isEmpty_iff, List.filter_eq_nil_iff]
    intro c hc
    obtain ⟨hreach, -⟩ := hall c hc
    simp [hreach]
  have hmatch : (others.any fun c => c.kind.toNat != j.kind || c.op.toNat != bitsOf (j.w 0) 12 4 ||
      c.fmt.toNat != bitsOf (j.w 0) 8 4 || c.count != j.count || c.data.length != j.count) = false := by
    refine List.any_eq_false.2 fun c hc => ?_
    obtain ⟨-, hkind, hop, hfmt, hcount, hdata⟩ := hall c hc
    simp [hkind, hop, hfmt, hcount, hdata]
  change execCollectiveForm n others s = _
  simp only [execCollectiveForm, hj, hgo, hreach, hmatch, hr, hd, Bool.not_true, Bool.false_eq_true, if_false]
  unfold combinedBy at hw ⊢
  by_cases h9 : j.kind = 9
  · simp only [h9, if_true] at hw ⊢
    rw [hw]
  · simp only [h9, if_false] at hw ⊢
    rw [hw]

/-! ## Completion -/

theorem exec_jobComplete {pa : Nat} (hj : s.job? n = some j) (hf : j.finished = true) (hg : s.paged j = false)
    (hd : j.drop = false) (hc : j.card ≠ []) (ha : j.w 6 % 16 = 0) (hst : j.statusAt s = (t, .ok pa)) :
    exec (.jobComplete n) s = .next (endJob (t.physWrite .fabric pa j.status) j) := by
  have hcard : j.card.isEmpty = false := by simpa using hc
  change execJobComplete n s = _
  simp only [execJobComplete, hj, hf, hg, hd, hcard, ha, hst]
  rfl

/-- A job that leaves with code 0 posts no record: its spur stirs, and it and its pins are gone. -/
theorem endJob_ok (h : j.code = 0) : endJob s j = { s.stir (AgentId.handle j.cmd.who) with
    pins := (s.unpinFor j).pins, jobs := s.jobs.filter fun k => k.id != j.id } := by
  rw [endJob, if_pos h]
  rfl

/-- The pins that stay: a job's own are released, and a set that an `unpin` has named stays while jobs use it (R224, R225). -/
theorem mem_unpinFor_pins (h : j.code = 0) (p : PinSet) : p ∈ (s.unpinFor j).pins ↔
    p.job ≠ some j.id ∧ (p.gone = true → s.pinUsed j p = true) ∧
      ∃ q ∈ s.pins, p = if j.cmd.cls = .unpin ∧ q.job = none ∧ q.h = j.pinHandle then { q with gone := true } else q := by
  have hstays : (!(p.job == some j.id) && !(p.gone && !s.pinUsed j p)) = true ↔
      p.job ≠ some j.id ∧ (p.gone = true → s.pinUsed j p = true) := by cases p.gone <;> simp
  have hfrees (q : PinSet) : (j.cmd.cls == .unpin && j.code == 0 && q.job.isNone && q.h == j.pinHandle) = true ↔
      j.cmd.cls = .unpin ∧ q.job = none ∧ q.h = j.pinHandle := by simp [h, and_assoc]
  simp only [State.unpinFor, updIf, List.mem_filter, hstays, List.mem_map, hfrees, eq_comm (b := p)]
  tauto

end

/-! ## Bank-ownership tokens -/

/-- The bank that a token names is added to those that the thread has received (R300). -/
theorem bankTokenReceipt_adds {s : State} {h : Handle} {sp : Spur} {w : Wire} {k : Tok} {l : List Flit}
    (hs : s.spur? h = some sp)
    (hw : s.wires.find? (fun w => ((gateNames s true 16 h).any fun i => w.dst == .gate i) && !w.buf.isEmpty) = some w)
    (hb : w.buf = .tok k :: l) (hk : k.pay.toNat < 2 ^ 16)
    (hn : 256 * (k.pay.toNat / 256) + k.pay.toNat % 256 ∈ sp.brickNos) :
    let g : Nat × Nat := (k.pay.toNat / 256, k.pay.toNat % 256)
    let cut := updFirst (fun x => x.src == w.src && x.dst == w.dst) (fun x => { x with buf := x.buf.drop 1 }) s.wires
    exec (.bankTokenReceipt h) s = .next (State.setSpur { s with wires := cut }
      { sp with gates := if g ∈ sp.gates then sp.gates else sp.gates ++ [g] }) := by
  intro g cut
  have hr : bitsOf k.pay.toNat 8 8 = k.pay.toNat / 256 := by
    unfold bitsOf
    omega
  have hc : bitsOf k.pay.toNat 0 8 = k.pay.toNat % 256 := by simp [bitsOf]
  have hz : bitsOf k.pay.toNat 16 16 = 0 := by
    unfold bitsOf
    omega
  change execBankTokenReceipt h s = _
  simp only [execBankTokenReceipt, hw, hs, hb, List.head?_cons, hr, hc, List.contains_iff_mem, if_pos (And.intro hz hn)]
  rfl

/-- Collectives by what their elements combine to, completed jobs by their pins. -/
theorem jobEnds : Says.JobEnds := by
  intro s t u n pa j others ra wa v r mask op fmt formed ends
  have forms (h : formed)
      (hw : j.places (j.need .write) (piecesOf (j.w 2) (4 * (combinedBy j v r).1.length)) t = (u, .ok wa)) :
      exec (.collectiveForm n others) s = .next ((writePieces u wa (bytes32 (combinedBy j v r).1)).setJob
        { j with formed := true, flags := (combinedBy j v r).2 }) := by
    obtain ⟨hj, hs, hc, hk, hf, hfirst, hparts, hg, hall, hr, hd⟩ := h
    exact exec_collectiveForm ⟨⟨hj, hs, hc, hk, hg⟩, hf, hfirst, hparts, hall⟩ hr hd hw
  refine ⟨?reduces, ?gathers, ?completes, ?leaves, ?tokens⟩
  case reduces =>
    intro h h9 hw
    have hc : combinedBy j v r = reduceAll op fmt v r := if_pos h9
    rw [← hc] at hw ⊢
    exact forms h hw
  case gathers =>
    intro h h9 all hw
    have hc : combinedBy j v r = (all, 0) := if_neg h9
    have hx := forms h (hc ▸ hw)
    rwa [hc] at hx
  case completes =>
    rintro ⟨hj, hf, hg, hd, hc, ha⟩ hst
    exact exec_jobComplete hj hf hg hd hc ha hst
  case leaves =>
    intro h
    rw [endJob_ok h]
    exact ⟨rfl, mem_unpinFor_pins h⟩
  case tokens => exact fun _ _ _ _ _ => bankTokenReceipt_adds

/-- Settles O41, along a job's life: its acceptance, its rows and elements, and its end. -/
theorem engineJobs : Obligations.EngineJobs := ⟨jobAcceptance, jobMoves, jobEnds⟩

end Sys2Proof.Machine
end
